-- ==== Sys2Proof/Word.lean ====
section
/-! DEFINITION. Machine words: the widths the manual uses (R5, R26, R37) and their plainest helpers. -/

namespace Sys2Proof

/-- One byte. -/
abbrev Byte := BitVec 8
/-- A 32-bit register, instruction word or special register. -/
abbrev Word := BitVec 32
/-- A 64-bit register pair, address or program counter. -/
abbrev DWord := BitVec 64

end Sys2Proof
end

