-- ==== Sys2Proof/Config.lean ====
section
/-! DEFINITION. What the part fixes and the manual leaves open: the builds of R1 and the free values.
Every `opaque` constant here has no body, so nothing can be proved about the value it takes. -/

namespace Sys2Proof

/-- The four ordering codes of R1. -/
inductive Build where
  | kg9P | kg9P4 | kg9M | kg9M4
  deriving DecidableEq, Repr

namespace Config

/-- A fresh unspecified 32-bit value; State.free counts the values used (log 6). -/
opaque freeWord : Nat → BitVec 32

/-- A fresh unspecified byte (log 6). -/
opaque freeByte : Nat → BitVec 8

/-- The bits an SFU function returns where R122 gives only a bound: a fixed map from input bits to output
bits for each function number (log 7). -/
opaque sfuBits : Nat → BitVec 32 → BitVec 32

/-- FENCE_TYP, FENCE_WORST and ATOMIC_RT of a scope, as firmware measures them on the part, by the number of the
measurement, the scope and the word (R21, R23; log 8). -/
opaque ridgeFigure : Nat → Nat → Nat → BitVec 32

/-- Store-queue entries a group has beyond those that one instruction can need (R225; log 16). -/
opaque storeDepth : Nat

/-- Which of a code word's versions a group fetches, by the cycle, the team, the group and the address (R28; log 19). -/
opaque codeVersion : Nat → Nat → Nat → Nat → Nat

/-- SHA-384 of a byte string (R421; log 9). -/
opaque sha384 : List (BitVec 8) → BitVec 384

/-- Whether an RSASSA-PSS signature of the image verifies under the key (R420; log 9). -/
opaque rsaVerifies : List (BitVec 8) → List (BitVec 8) → Bool

/-- Whether an SLH-DSA signature of the image verifies under the key (R420; log 9). -/
opaque slhVerifies : List (BitVec 8) → List (BitVec 8) → Bool

end Config
end Sys2Proof
end

