-- ==== Sys2Proof/Syntax.lean ====
section
/-! DEFINITION. The syntax of the machine: Iluqua instructions (R26 to R46), the Xkrov instructions of the
service cores (R374), and the events that agents other than a group perform. One constructor per row of the
opcode table. -/

namespace Sys2Proof

/-! ### Operand alphabets -/

/-- The second source of an LR word: lane register or, with bu = 1, uniform register (R33). -/
inductive Src where
  | lane (r : BitVec 7)
  | uni (r : BitVec 6)
  deriving DecidableEq, Repr

/-- Access widths of the LM field w (R34). -/
inductive MemW where
  | b8 | b16 | b32 | b64 | b128
  deriving DecidableEq, Repr

/-- Order field of a scoped access (R44). -/
inductive Order where
  | rlx | acq | rel | acqrel
  deriving DecidableEq, Repr

/-- Scope numbers of R17. -/
abbrev Scope := BitVec 3

/-- The 24 format codes of R57. -/
inductive Fmt where
  | fp32 | bf16 | fp16 | e4m3 | e5m2 | e3m2 | e2m3 | e2m1
  | mxe4m3 | mxe5m2 | mxe3m2 | mxe2m3 | mxe2m1 | mxint8
  | int8 | uint8 | int4 | qa8 | qa4 | qa2 | int32 | uint32 | int16 | uint16
  deriving DecidableEq, Repr

/-- Rounding modes of R69. -/
inductive Rnd where
  | rne | rz | ru | rd | rs
  deriving DecidableEq, Repr

/-- Operations of REDUCE and SCAN (R157). -/
inductive RedOp where
  | iadd | imin | imax | umin | umax | and | or | xor | iadd64 | fadd | fmin | fmax
  deriving DecidableEq, Repr

/-- Operations of ATT, ATOM and RED (R171, R198). -/
inductive AtomOp where
  | add | and | or | xor | min | max | minu | maxu | xchg | cas | inc | dec | fadd
  deriving DecidableEq, Repr

/-- Conditions of WAITA and of queue WAIT packets (R202, R401). -/
inductive WaitCond where
  | eq | ne | lt | ge | ltu | geu | any | none
  deriving DecidableEq, Repr

/-- Directions of COPY (R256). -/
inductive CopyDir where
  | g2t | t2g | g2g | t2t
  deriving DecidableEq, Repr

/-! ### Operand forms of the lane set (s is the settle bit of R26) -/

/-- LR with destination and two sources. -/
structure LR where
  s : Bool
  d : BitVec 7
  a : BitVec 7
  b : Src
  deriving DecidableEq, Repr

/-- LR with destination and one source; vb and bu zero. -/
structure LU where
  s : Bool
  d : BitVec 7
  a : BitVec 7
  deriving DecidableEq, Repr

/-- LI with the full imm10 (ADDI). -/
structure LImm10 where
  s : Bool
  d : BitVec 7
  a : BitVec 7
  imm : BitVec 10
  deriving DecidableEq, Repr

/-- LI with a shift amount. -/
structure LShift where
  s : Bool
  d : BitVec 7
  a : BitVec 7
  n : BitVec 5
  deriving DecidableEq, Repr

/-- LI with an 8-bit immediate (LOGICI). -/
structure LImm8 where
  s : Bool
  d : BitVec 7
  a : BitVec 7
  imm : BitVec 8
  deriving DecidableEq, Repr

/-- LL (MOVI). -/
structure LImm17 where
  s : Bool
  d : BitVec 7
  imm : BitVec 17
  deriving DecidableEq, Repr

/-- MOVW with its tail word. -/
structure LMovw where
  s : Bool
  d : BitVec 7
  imm : Word
  deriving DecidableEq, Repr

/-- LSRD: destination and special-register number (R38). -/
structure LSrd where
  s : Bool
  d : BitVec 7
  n : BitVec 10
  deriving DecidableEq, Repr

/-- The four registers of a fused exponent-sum sequence and the settle bit of its fourth word (R123). -/
structure Fused where
  s : Bool
  vm : BitVec 7
  vx : BitVec 7
  vt : BitVec 7
  vs : BitVec 7
  deriving DecidableEq, Repr

/-- CVT and PCVT (R44, R126). -/
structure Conv where
  s : Bool
  d : BitVec 7
  a : BitVec 7
  fmtD : Fmt
  fmtS : Fmt
  rnd : Rnd
  sat : Bool
  deriving DecidableEq, Repr

/-- SEED: two sources (R131). -/
structure LSeed where
  s : Bool
  a : BitVec 7
  b : Src
  deriving DecidableEq, Repr

/-- A destination alone (RAND). -/
structure LDst where
  s : Bool
  d : BitVec 7
  deriving DecidableEq, Repr

/-- LB: tested register, uniformity bit and offset (R149). -/
structure LBranch where
  s : Bool
  c : BitVec 7
  u : Bool
  off : BitVec 16
  deriving DecidableEq, Repr

/-- JMPL and RETL: the address pair (R150). -/
structure LJump where
  s : Bool
  a : BitVec 7
  deriving DecidableEq, Repr

/-- REDUCE (R157). -/
structure LReduce where
  s : Bool
  d : BitVec 7
  a : BitVec 7
  op : RedOp
  deriving DecidableEq, Repr

/-- SCAN (R157). -/
structure LScan where
  s : Bool
  d : BitVec 7
  a : BitVec 7
  op : RedOp
  excl : Bool
  deriving DecidableEq, Repr

/-- RDLANE (R103). -/
structure XRead where
  s : Bool
  d : BitVec 6
  a : BitVec 7
  b : Src
  deriving DecidableEq, Repr

/-- FIRSTLANE (R103). -/
structure XFirst where
  s : Bool
  d : BitVec 6
  a : BitVec 7
  deriving DecidableEq, Repr

/-- LM load: LDT and LD (R34). -/
structure LLoad where
  s : Bool
  d : BitVec 7
  a : BitVec 7
  sb : BitVec 6
  w : MemW
  x : Bool
  deriving DecidableEq, Repr

/-- LM store: STT and ST (R34). -/
structure LStore where
  s : Bool
  d : BitVec 7
  a : BitVec 7
  sb : BitVec 6
  w : MemW
  deriving DecidableEq, Repr

/-- ATT (R171). -/
structure TAtomic where
  s : Bool
  ret : Bool
  d : BitVec 7
  a : BitVec 7
  b : BitVec 7
  op : AtomOp
  wide : Bool
  c : BitVec 7
  sb : BitVec 6
  deriving DecidableEq, Repr

/-- CLT load (R176). -/
structure CLoad where
  s : Bool
  d : BitVec 7
  a : BitVec 7
  t : Src
  w : MemW
  x : Bool
  acq : Bool
  sb : BitVec 6
  deriving DecidableEq, Repr

/-- CLT store (R176). -/
structure CStore where
  s : Bool
  d : BitVec 7
  a : BitVec 7
  t : Src
  w : MemW
  rel : Bool
  sb : BitVec 6
  deriving DecidableEq, Repr

/-- LDO, STO and STOG: ordered is acquire for LDO and release for STO and STOG (R195). -/
structure LOrdered where
  s : Bool
  d : BitVec 7
  a : BitVec 7
  scope : Scope
  ordered : Bool
  w : MemW
  sb : BitVec 6
  deriving DecidableEq, Repr

/-- ATOM (R197). -/
structure GAtomic where
  s : Bool
  ret : Bool
  d : BitVec 7
  a : BitVec 7
  b : BitVec 7
  op : AtomOp
  scope : Scope
  order : Order
  wide : Bool
  c : BitVec 7
  sb : BitVec 6
  deriving DecidableEq, Repr

/-- RED (R197, R198). -/
structure GReduce where
  s : Bool
  a : BitVec 7
  b : BitVec 7
  op : AtomOp
  scope : Scope
  rel : Bool
  wide : Bool
  sb : BitVec 6
  deriving DecidableEq, Repr

/-- WAITA (R202). -/
structure WaitA where
  s : Bool
  d : BitVec 7
  a : BitVec 7
  b : BitVec 7
  cond : WaitCond
  scope : Scope
  cls : BitVec 4
  deriving DecidableEq, Repr

/-- WAKEA (R202); the class field is ignored. -/
structure WakeA where
  s : Bool
  a : BitVec 7
  b : BitVec 7
  scope : Scope
  cls : BitVec 4
  deriving DecidableEq, Repr

/-- MMA (R277). -/
structure Mma where
  s : Bool
  z : BitVec 3
  a : BitVec 7
  b : BitVec 7
  acc : Bool
  reuse : Bool
  fmt : Fmt
  k : BitVec 3
  deriving DecidableEq, Repr

/-- ZRD and ZWR (R281). -/
structure ZMove where
  s : Bool
  d : BitVec 7
  z : BitVec 3
  b : Src
  deriving DecidableEq, Repr

/-- POST; b = 0 names no key (R297). -/
structure Post where
  s : Bool
  d : BitVec 7
  a : BitVec 7
  b : BitVec 7
  node : BitVec 6
  label : BitVec 3
  deriving DecidableEq, Repr

/-! ### Operand forms of the uniform set -/

/-- UR with destination and two sources. -/
structure UR where
  s : Bool
  d : BitVec 6
  a : BitVec 6
  b : BitVec 6
  deriving DecidableEq, Repr

/-- UR with destination and one source. -/
structure UU where
  s : Bool
  d : BitVec 6
  a : BitVec 6
  deriving DecidableEq, Repr

/-- UI with a 12-bit immediate. -/
structure UImm12 where
  s : Bool
  d : BitVec 6
  a : BitVec 6
  imm : BitVec 12
  deriving DecidableEq, Repr

/-- UI with a shift amount. -/
structure UShift where
  s : Bool
  d : BitVec 6
  a : BitVec 6
  n : BitVec 5
  deriving DecidableEq, Repr

/-- UL (SMOVI). -/
structure UImm18 where
  s : Bool
  d : BitVec 6
  imm : BitVec 18
  deriving DecidableEq, Repr

/-- SMOVW with its tail word. -/
structure UMovw where
  s : Bool
  d : BitVec 6
  imm : Word
  deriving DecidableEq, Repr

/-- UJ: BRA and CALL (R151). -/
structure UBranch where
  s : Bool
  cond : BitVec 2
  sc : BitVec 6
  off : BitVec 16
  deriving DecidableEq, Repr

/-- A source alone. -/
structure USrc where
  s : Bool
  a : BitVec 6
  deriving DecidableEq, Repr

/-- Two sources. -/
structure USrc2 where
  s : Bool
  a : BitVec 6
  b : BitVec 6
  deriving DecidableEq, Repr

/-- A destination alone. -/
structure UDst where
  s : Bool
  d : BitVec 6
  deriving DecidableEq, Repr

/-- SRD (R159). -/
structure USrd where
  s : Bool
  d : BitVec 6
  n : BitVec 12
  deriving DecidableEq, Repr

/-- SWR (R159). -/
structure USwr where
  s : Bool
  a : BitVec 6
  n : BitVec 12
  deriving DecidableEq, Repr

/-- A 10-bit code: SETTILE and SLEEP (R147, R158). -/
structure UCode10 where
  s : Bool
  n : BitVec 10
  deriving DecidableEq, Repr

/-- A barrier number (R160). -/
structure UBar where
  s : Bool
  n : BitVec 4
  deriving DecidableEq, Repr

/-- FENCE (R221). -/
structure UFence where
  s : Bool
  scope : Scope
  deriving DecidableEq, Repr

/-- COPY (R256). -/
structure CopyOp where
  s : Bool
  d : BitVec 6
  a : BitVec 6
  b : BitVec 6
  dir : CopyDir
  hint : BitVec 3
  c : BitVec 6
  deriving DecidableEq, Repr

/-- WLOAD (R272). -/
structure WLoad where
  s : Bool
  a : BitVec 6
  b : BitVec 6
  depth : BitVec 2
  fmt : Fmt
  g : BitVec 2
  deriving DecidableEq, Repr

/-- ZCLR (R275). -/
structure ZTile where
  s : Bool
  z : BitVec 3
  deriving DecidableEq, Repr

/-- ZSTT and ZLDT (R275). -/
structure ZMem where
  s : Bool
  z : BitVec 3
  a : BitVec 6
  deriving DecidableEq, Repr

/-- KSET (R269). -/
structure KSet where
  s : Bool
  k : BitVec 3
  a : BitVec 6
  deriving DecidableEq, Repr

/-- PUT and GET (R410). -/
structure PutGet where
  s : Bool
  d : BitVec 6
  a : BitVec 6
  b : BitVec 6
  notify : Bool
  deriving DecidableEq, Repr

/-- TRAP (R364). -/
structure UTrap where
  s : Bool
  n : BitVec 8
  deriving DecidableEq, Repr

/-! ### Operand forms of the service cores (R374) -/

/-- Xkrov with rd, rs1 and rs2. -/
structure XR3 where
  rd : BitVec 5
  rs1 : BitVec 5
  rs2 : BitVec 5
  deriving DecidableEq, Repr

/-- Xkrov with rd and rs1. -/
structure XR2 where
  rd : BitVec 5
  rs1 : BitVec 5
  deriving DecidableEq, Repr

/-- A RISC-V FENCE with its predecessor and successor sets (bits I, O, R, W from high to low). -/
structure HartFence where
  pred : BitVec 4
  succ : BitVec 4
  deriving DecidableEq, Repr

/-- LR, SC and the AMO operations of a service core (R373). -/
inductive HartAmoOp where
  | lr | sc | swap | add | xor | and | or | min | max | minu | maxu
  deriving DecidableEq, Repr

/-- An A-extension instruction of a service core. -/
structure HartAmo where
  op : HartAmoOp
  wide : Bool
  aq : Bool
  rl : Bool
  rd : BitVec 5
  rs1 : BitVec 5
  rs2 : BitVec 5
  deriving DecidableEq, Repr

/-- A write to an Xkrov CSR (R376). -/
structure CsrWrite where
  csr : BitVec 12
  v : DWord
  deriving DecidableEq, Repr

/-! ### What an event names -/

/-- A group: its team and its %groupid. -/
structure GRef where
  team : Nat
  grp : Nat
  deriving DecidableEq, Repr

/-- A numbered item of a group: an outstanding result, or a lane. -/
structure GIdx where
  g : GRef
  i : Nat
  deriving DecidableEq, Repr

/-- A copy and the cause that ends it (R242). -/
structure CopyFail where
  id : Nat
  cause : BitVec 8
  deriving DecidableEq, Repr

/-- The end of a PUT or GET: cause 0 is success; data is what a GET read at the target (R412). -/
structure FabricEnd where
  id : Nat
  cause : BitVec 8
  done : Nat
  data : List Byte
  deriving DecidableEq, Repr

/-- What an arriving window request asks (R409). -/
inductive WinKind where
  | put | get | atomic
  deriving DecidableEq, Repr

/-- An arriving window request (R409). -/
structure WindowReq where
  vif : Nat
  exp : Nat
  key : BitVec 16
  kind : WinKind
  off : Nat
  len : Nat
  data : List Byte
  notify : Bool
  op : AtomOp
  src : Nat
  tag : Nat
  deriving DecidableEq, Repr

/-- A holder of copies in the home directory: the RDC of a chiplet or of a peer package (R233). -/
inductive Holder where
  | chiplet (c : Nat)
  | node (n : Nat)
  deriving DecidableEq, Repr

/-- A 128-byte line and the holder concerned. -/
structure LineRef where
  holder : Holder
  line : Nat
  deriving DecidableEq, Repr

/-- A request of a core that has left its store queues and is not yet performed at its home. -/
structure ReqRef where
  core : Nat
  idx : Nat
  deriving DecidableEq, Repr

/-- An invalidation that could not be delivered (R238). -/
structure FanoutFail where
  core : Nat
  idx : Nat
  holder : Holder
  deriving DecidableEq, Repr

/-- Where a fault entry stands: a chiplet queue, a service core's handle, or the host queue. -/
inductive EntryRef where
  | fifo (chiplet : Nat) (remote : Bool) (idx : Nat)
  | served (idx : Nat)
  | host (idx : Nat)
  deriving DecidableEq, Repr

/-- An instance and a numbered item of it. -/
structure InstIdx where
  inst : Nat
  i : Nat
  deriving DecidableEq, Repr

/-- One bin of one launcher (R304). -/
structure BinRef where
  inst : Nat
  launcher : Nat
  node : Nat
  label : Nat
  deriving DecidableEq, Repr

/-- CXL snoops (R417). -/
inductive SnoopKind where
  | inv | data | cur
  deriving DecidableEq, Repr

/-- A host snoop of one line. -/
structure Snoop where
  kind : SnoopKind
  pa : Nat
  deriving DecidableEq, Repr

/-- A transfer credit of a service core (R388). -/
structure CreditRef where
  hart : Nat
  credit : Nat
  deriving DecidableEq, Repr

/-- The end of a transfer or Lode request; data is what the remote returned. -/
structure XferEnd where
  hart : Nat
  credit : Nat
  code : BitVec 8
  data : List Byte
  deriving DecidableEq, Repr

/-- A transfer that reached this package (R390). -/
structure XferServe where
  write : Bool
  space : Word
  remote : DWord
  len : Nat
  data : List Byte
  src : Nat
  tag : Nat
  deriving DecidableEq, Repr

/-- A Lode request at its holder, or the end of one (R392). -/
structure LodeReq where
  hart : Nat
  credit : Nat
  src : Nat
  tag : Nat
  entry : BitVec 256
  expect : Word
  deriving DecidableEq, Repr

/-- A message for an invalidation ring (R393). -/
structure RingMsg where
  vpn : BitVec 40
  space : Word
  req : BitVec 16
  version : Word
  kind : Bool
  tag : Word
  deriving DecidableEq, Repr

/-- A notify-page word write (R398). -/
structure NotifyW where
  vif : Nat
  q : Nat
  v : Word
  deriving DecidableEq, Repr

/-- A write that completes FQH_DONE: a 64-bit write, or a high-word write (R348). -/
inductive FqhWrite where
  | full (v : DWord)
  | high (seq : Word)
  deriving DecidableEq, Repr

/-- A TRN_INVA write through a register map; map 64 is the host function's (R333). -/
structure InvReq where
  map : Nat
  v : DWord
  deriving DecidableEq, Repr

/-- A TRN_TDn write (R340). -/
structure TdWrite where
  map : Nat
  n : Nat
  v : DWord
  deriving DecidableEq, Repr

/-- One teardown register. -/
structure TdRef where
  map : Nat
  n : Nat
  deriving DecidableEq, Repr

/-- A slot-table entry write (R286). -/
structure SltWrite where
  map : Nat
  core : Nat
  n : Nat
  v : Word
  deriving DecidableEq, Repr

/-- A write to one 32-bit word of a window entry (R408). -/
structure WinWrite where
  vif : Nat
  imp : Bool
  n : Nat
  word : Nat
  v : Word
  deriving DecidableEq, Repr

/-- A VIF_CFG write (R418). -/
structure VifWrite where
  map : Nat
  vif : Nat
  v : DWord
  deriving DecidableEq, Repr

/-- An HFR_XACK write (R389). -/
structure XackWrite where
  k : Nat
  v : DWord
  deriving DecidableEq, Repr

/-- An HFR_IRTAIL write (R393). -/
structure IrWrite where
  chiplet : Nat
  v : Word
  deriving DecidableEq, Repr

/-- A write of a device register that has no behaviour of its own (R7). -/
structure RegWrite where
  map : Nat
  off : Nat
  wide : Bool
  v : DWord
  deriving DecidableEq, Repr

/-- A firmware image offered to the boot ROM (R420). -/
structure BootImage where
  image : List Byte
  rsaKey : List Byte
  slhKey : List Byte
  version : Nat
  rstIso : Bool
  segments : List (List Byte)
  failCode : BitVec 8
  deriving DecidableEq, Repr

/-- SPDM measurement requests (R421). -/
inductive SpdmReq where
  | read (i : Nat)
  | extend (i : Nat) (m : List Byte)
  deriving DecidableEq, Repr

/-- Every instruction and event of the opcode table, first the words of groups, then those of service cores, then
the events. -/
inductive Instr where
  | add (x : LR) -- R94
  | sub (x : LR) -- R94
  | min (x : LR) -- R94
  | max (x : LR) -- R94
  | minu (x : LR) -- R94
  | maxu (x : LR) -- R94
  | abs (x : LU) -- R94
  | neg (x : LU) -- R94
  | mul (x : LR) -- R95
  | mulhi (x : LR) -- R95
  | mulhiu (x : LR) -- R95
  | mad (x : LR) -- R95
  | and (x : LR) -- R94
  | or (x : LR) -- R94
  | xor (x : LR) -- R94
  | andn (x : LR) -- R94
  | shl (x : LR) -- R96
  | shr (x : LR) -- R96
  | sar (x : LR) -- R96
  | rol (x : LR) -- R96
  | popc (x : LU) -- R97
  | clz (x : LU) -- R97
  | ctz (x : LU) -- R97
  | brev (x : LU) -- R97
  | bfeu (x : LR) -- R98
  | bfes (x : LR) -- R98
  | bfi (x : LR) -- R98
  | prmt (x : LR) -- R98
  | seq (x : LR) -- R94
  | sne (x : LR) -- R94
  | slt (x : LR) -- R94
  | sltu (x : LR) -- R94
  | sel (x : LR) -- R94
  | mov (x : LU) -- R94
  | add64 (x : LR) -- R99
  | sub64 (x : LR) -- R99
  | shl64 (x : LR) -- R99
  | shr64 (x : LR) -- R99
  | addi (x : LImm10) -- R100
  | shli (x : LShift) -- R100
  | shri (x : LShift) -- R100
  | sari (x : LShift) -- R100
  | roli (x : LShift) -- R100
  | andi (x : LImm8) -- R100
  | ori (x : LImm8) -- R100
  | xori (x : LImm8) -- R100
  | andni (x : LImm8) -- R100
  | movi (x : LImm17) -- R101
  | movw (x : LMovw) -- R101
  | lsrd (x : LSrd) -- R102
  | fadd (x : LR) -- R114
  | fsub (x : LR) -- R114
  | fmul (x : LR) -- R114
  | fmin (x : LR) -- R114
  | fmax (x : LR) -- R114
  | fabs (x : LU) -- R115
  | fneg (x : LU) -- R115
  | fcpsgn (x : LR) -- R114
  | ffma (x : LR) -- R116
  | ffms (x : LR) -- R116
  | fnma (x : LR) -- R116
  | fnms (x : LR) -- R116
  | feq (x : LR) -- R117
  | flt (x : LR) -- R117
  | fle (x : LR) -- R117
  | fUn (x : LR) -- R117
  | fclass (x : LU) -- R118
  | fscale (x : LR) -- R118
  | fgetexp (x : LU) -- R118
  | hadd2 (x : LR) -- R119
  | hmul2 (x : LR) -- R119
  | hfma2 (x : LR) -- R119
  | hmax2 (x : LR) -- R119
  | badd2 (x : LR) -- R119
  | bmul2 (x : LR) -- R119
  | bfma2 (x : LR) -- R119
  | bmax2 (x : LR) -- R119
  | rcp (x : LU) -- R122
  | rsq (x : LU) -- R122
  | sqrt (x : LU) -- R122
  | exp2 (x : LU) -- R122
  | log2 (x : LU) -- R122
  | sin (x : LU) -- R122
  | cos (x : LU) -- R122
  | tanh (x : LU) -- R122
  | fusedExpSum (x : Fused) -- R123
  | cvt (x : Conv) -- R128
  | pcvt (x : Conv) -- R129
  | seed (x : LSeed) -- R131
  | rand (x : LDst) -- R131
  | hdot2 (x : LR) -- R120
  | bdot2 (x : LR) -- R120
  | i8dot4 (x : LR) -- R120
  | u8dot4 (x : LR) -- R120
  | bnz (x : LBranch) -- R149
  | bz (x : LBranch) -- R149
  | jmpl (x : LJump) -- R150
  | calll (x : LU) -- R150
  | retl (x : LJump) -- R150
  | any (x : LU) -- R155
  | all (x : LU) -- R155
  | ballot (x : LU) -- R155
  | uni (x : LU) -- R155
  | shflIdx (x : LR) -- R156
  | shflUp (x : LR) -- R156
  | shflDown (x : LR) -- R156
  | shflXor (x : LR) -- R156
  | reduce (x : LReduce) -- R157
  | scan (x : LScan) -- R157
  | rdlane (x : XRead) -- R103
  | firstlane (x : XFirst) -- R103
  | ldt (x : LLoad) -- R170
  | stt (x : LStore) -- R170
  | att (x : TAtomic) -- R172
  | cltLoad (x : CLoad) -- R177
  | cltStore (x : CStore) -- R177
  | ld (x : LLoad) -- R193
  | st (x : LStore) -- R193
  | ldo (x : LOrdered) -- R196
  | sto (x : LOrdered) -- R196
  | stog (x : LOrdered) -- R196
  | atom (x : GAtomic) -- R199
  | red (x : GReduce) -- R200
  | waita (x : WaitA) -- R203
  | wakea (x : WakeA) -- R204
  | mma (x : Mma) -- R270
  | zrd (x : ZMove) -- R281
  | zwr (x : ZMove) -- R281
  | post (x : Post) -- R298
  | postTry (x : Post) -- R299
  | postWait (x : Post) -- R300
  | saluAdd (x : UR) -- R105
  | saluSub (x : UR) -- R105
  | saluMin (x : UR) -- R105
  | saluMax (x : UR) -- R105
  | saluMinu (x : UR) -- R105
  | saluMaxu (x : UR) -- R105
  | saluAbs (x : UU) -- R105
  | saluNeg (x : UU) -- R105
  | saluMul (x : UR) -- R105
  | saluMulhi (x : UR) -- R105
  | saluMulhiu (x : UR) -- R105
  | saluMad (x : UR) -- R105
  | saluAnd (x : UR) -- R105
  | saluOr (x : UR) -- R105
  | saluXor (x : UR) -- R105
  | saluAndn (x : UR) -- R105
  | saluShl (x : UR) -- R105
  | saluShr (x : UR) -- R105
  | saluSar (x : UR) -- R105
  | saluRol (x : UR) -- R105
  | saluPopc (x : UU) -- R105
  | saluClz (x : UU) -- R105
  | saluCtz (x : UU) -- R105
  | saluBrev (x : UU) -- R105
  | saluBfeu (x : UR) -- R105
  | saluBfes (x : UR) -- R105
  | saluBfi (x : UR) -- R105
  | saluPrmt (x : UR) -- R105
  | saluSeq (x : UR) -- R105
  | saluSne (x : UR) -- R105
  | saluSlt (x : UR) -- R105
  | saluSltu (x : UR) -- R105
  | saluSel (x : UR) -- R105
  | saluMov (x : UU) -- R105
  | salu64Add64 (x : UR) -- R106
  | salu64Sub64 (x : UR) -- R106
  | salu64Shl64 (x : UR) -- R106
  | salu64Shr64 (x : UR) -- R106
  | saddi (x : UImm12) -- R107
  | sandi (x : UImm12) -- R107
  | sori (x : UImm12) -- R107
  | sxori (x : UImm12) -- R107
  | sshli (x : UShift) -- R107
  | sshri (x : UShift) -- R107
  | ssari (x : UShift) -- R107
  | sroli (x : UShift) -- R107
  | sslti (x : UImm12) -- R107
  | smovi (x : UImm18) -- R108
  | smovw (x : UMovw) -- R108
  | bra (x : UBranch) -- R151
  | call (x : UBranch) -- R151
  | jmpr (x : USrc) -- R152
  | ret (x : Bool) -- R152
  | exit (x : Bool) -- R153
  | srd (x : USrd) -- R159
  | swr (x : USwr) -- R159
  | settile (x : UCode10) -- R147
  | sleep (x : UCode10) -- R158
  | yield (x : Bool) -- R158
  | barArrive (x : UBar) -- R160
  | barWait (x : UBar) -- R160
  | barSync (x : UBar) -- R160
  | lduW (x : UImm12) -- R194
  | lduD (x : UImm12) -- R194
  | stuW (x : UImm12) -- R194
  | fence (x : UFence) -- R222
  | discard (x : USrc2) -- R207
  | pref (x : USrc2) -- R209
  | claim (x : USrc2) -- R208
  | shareJoin (x : USrc2) -- R174
  | shareLeave (x : Bool) -- R175
  | shareSub (x : UR) -- R180
  | shareUnsub (x : USrc) -- R182
  | copy (x : CopyOp) -- R256
  | expect (x : USrc2) -- R259
  | arrive (x : USrc2) -- R259
  | waitg (x : UR) -- R259
  | testg (x : UR) -- R259
  | cbInit (x : USrc) -- R261
  | cbAcq (x : UU) -- R261
  | cbCommit (x : USrc2) -- R261
  | cbWait (x : UU) -- R261
  | cbRel (x : USrc) -- R261
  | wload (x : WLoad) -- R274
  | zclr (x : ZTile) -- R275
  | zstt (x : ZMem) -- R276
  | zldt (x : ZMem) -- R276
  | wact (x : Bool) -- R275
  | kset (x : KSet) -- R269
  | nodeq (x : UU) -- R313
  | put (x : PutGet) -- R412
  | get (x : PutGet) -- R412
  | wcwait (x : UR) -- R413
  | wcrd (x : UU) -- R413
  | wcreset (x : USrc) -- R413
  | trap (x : UTrap) -- R364
  | rte (x : Bool) -- R363
  | grprd (x : UR) -- R362
  | grpwr (x : UR) -- R362
  | grpres (x : UU) -- R362
  | grpstop (x : UU) -- R362
  | grplist (x : UDst) -- R362
  | illegalWord (x : Word) -- R45
  | instructionFetchFault (x : Bool) -- R27
  | bfx (x : XR3) -- R379
  | lodeh (x : XR3) -- R380
  | swait (x : XR3) -- R381
  | fqpop (x : XR2) -- R382
  | wakegComplete (x : XR3) -- R383
  | wakegRefuse (x : XR3) -- R383
  | wakegDecline (x : XR3) -- R383
  | wakegRequeue (x : XR3) -- R383
  | glreplay (x : XR2) -- R384
  | pginst (x : XR3) -- R385
  | pgevict (x : XR2) -- R386
  | rfetch (x : XR2) -- R387
  | ueread (x : XR2) -- R387
  | uewrite (x : XR2) -- R387
  | lodeq (x : XR2) -- R392
  | dispatchRun (x : XR3) -- R403
  | dispatchStop (x : XR3) -- R403
  | dispatchPreempt (x : XR3) -- R403
  | qsave (x : XR3) -- R404
  | qload (x : XR3) -- R402
  | fenceConditionsMet (x : GRef) -- R222
  | shareChangeDone (x : GRef) -- R175
  | subscriptionRegister (x : GRef) -- R181
  | subscriptionDelivery (x : Nat) -- R181
  | copyQueueFree (x : Nat) -- R240
  | copyArrival (x : Nat) -- R258
  | copyError (x : CopyFail) -- R242
  | wloadComplete (x : GRef) -- R274
  | matrixQueueFree (x : Nat) -- R266
  | matrixEntryPerform (x : Nat) -- R267
  | mmaRoundExecute (x : Nat) -- R279
  | slotBoundary (x : Nat) -- R285
  | fabricPortFree (x : Nat) -- R412
  | putGetComplete (x : FabricEnd) -- R412
  | windowRequestArrival (x : WindowReq) -- R409
  | deferredResultLand (x : GIdx) -- R143
  | sfuEnter (x : Nat) -- R113
  | registerUnitRelease (x : GRef) -- R86
  | storeQueueLeave (x : GRef) -- R352
  | faultQueueFree (x : Nat) -- R346
  | gutterOverflowRelease (x : Nat) -- R354
  | gutterReplay (x : Nat) -- R356
  | grainRefusal (x : GRef) -- R188
  | homeRead (x : LineRef) -- R233
  | homePartialStore (x : ReqRef) -- R187
  | homeFullGrainWrite (x : ReqRef) -- R233
  | homeAtomic (x : ReqRef) -- R199
  | fCopyEviction (x : LineRef) -- R233
  | mGrainEviction (x : Nat) -- R233
  | grainLostMark (x : Nat) -- R235
  | invalidationDeliveryFailure (x : FanoutFail) -- R238
  | declarationTimeout (x : Nat) -- R239
  | waitaTimeout (x : GIdx) -- R205
  | sleepWake (x : GRef) -- R158
  | hangExpiry (x : Nat) -- R365
  | faultDeadline (x : EntryRef) -- R349
  | recordArrival (x : InstIdx) -- R304
  | binTimerExpiry (x : BinRef) -- R304
  | drainCut (x : Nat) -- R305
  | sheafLaunch (x : Nat) -- R307
  | postWaitServe (x : Nat) -- R300
  | postWaitStall (x : Nat) -- R300
  | instanceStallDrain (x : Nat) -- R308
  | instanceComplete (x : Nat) -- R309
  | preemptSave (x : Nat) -- R369
  | teamResume (x : Nat) -- R370
  | hostsharedToAccelDone (x : Nat) -- R338
  | hostSnoop (x : Snoop) -- R417
  | swaitReturn (x : Nat) -- R381
  | transferDone (x : XferEnd) -- R388
  | transferTimeout (x : CreditRef) -- R388
  | transferServe (x : XferServe) -- R390
  | lodeLookup (x : LodeReq) -- R392
  | lodeCas (x : LodeReq) -- R394
  | lodeAddhold (x : LodeReq) -- R392
  | lodeDrophold (x : LodeReq) -- R392
  | lodeInsert (x : LodeReq) -- R392
  | lodeInval (x : LodeReq) -- R392
  | lodeAck (x : LodeReq) -- R392
  | lodeRdreq (x : LodeReq) -- R392
  | invalRingArrival (x : RingMsg) -- R393
  | qpktNop (x : Nat) -- R400
  | qpktStart (x : Nat) -- R291
  | qpktWait (x : Nat) -- R401
  | qpktSignal (x : Nat) -- R400
  | qpktFence (x : Nat) -- R400
  | qpktBarrier (x : Nat) -- R400
  | qpktTimestamp (x : Nat) -- R400
  | signalReevaluate (x : Nat) -- R401
  | signalPollTimer (x : Nat) -- R401
  | notifyWrite (x : NotifyW) -- R398
  | fqhArmWrite (x : Word) -- R348
  | fqhPopRead -- R348
  | fqhDoneLowWrite (x : Word) -- R348
  | fqhRefuse (x : FqhWrite) -- R350
  | fqhReturn (x : FqhWrite) -- R344
  | trnModeWrite (x : Word) -- R326
  | trnInvPages (x : InvReq) -- R333
  | trnInvPasidPages (x : InvReq) -- R333
  | trnInvPasidAll (x : InvReq) -- R336
  | trnInvAll (x : InvReq) -- R333
  | invalidationComplete (x : Nat) -- R333
  | teardownStart (x : TdWrite) -- R341
  | teardownDrained (x : TdRef) -- R341
  | sltEntryWrite (x : SltWrite) -- R286
  | windowEntryWrite (x : WinWrite) -- R408
  | vifCfgWrite (x : VifWrite) -- R418
  | hfrHoldWrite (x : Word) -- R405
  | hfrXackWrite (x : XackWrite) -- R389
  | hfrIrtailWrite (x : IrWrite) -- R393
  | registerWrite (x : RegWrite) -- R7
  | planeDown (x : Nat) -- R416
  | uePathDown (x : Nat) -- R416
  | nodeSilentTimeout (x : Nat) -- R416
  | declarationConfirm (x : Nat) -- R416
  | hostReset -- R419
  | boot (x : BootImage) -- R420
  | spdmMeasurementRequest (x : SpdmReq) -- R421
  | spdmCounterRead (x : Nat) -- R423
  | serviceCoreFence (x : HartFence) -- R373
  | serviceCoreAmo (x : HartAmo) -- R373
  | xkrovCsrWrite (x : CsrWrite) -- R376
  | nodeRejoin (x : Nat) -- R416
  | hostsharedAccelHoldExpiry (x : Nat) -- R339
  | hostsharedTransferDeadline (x : Nat) -- R339
  | nodeqAnswer (x : GRef) -- R313
  | wcrdAnswer (x : GRef) -- R413
  | discardComplete (x : GRef) -- R207
  | unsubComplete (x : GRef) -- R182
  deriving DecidableEq, Repr

end Sys2Proof
end

