-- ==== Sys2Proof/WellFormed.lean ====
section
/-! DEFINITION. Well-formed instructions: the register and field rules whose breach is ILLEGAL whatever the state
(R34, R37, R38, R39, R41 to R45 and the entries). The counts a team declares are checked when it issues. -/

namespace Sys2Proof

/-- An even register number (R37). -/
def evenReg {n : Nat} (r : BitVec n) : Bool := r.toNat % 2 == 0

/-- A second source that names an even pair (R99). -/
def evenSrc : Src → Bool
  | .lane r => evenReg r
  | .uni r => evenReg r

/-- The data run of an access starts at a multiple of its registers (R34). -/
def runOk (w : MemW) (d : BitVec 7) : Bool :=
  match w with
  | .b64 => evenReg d
  | .b128 => d.toNat % 4 == 0
  | _ => true

/-- Sign extension is legal only at widths 8 and 16 (R34). -/
def extOk (w : MemW) (x : Bool) : Bool :=
  match w with
  | .b8 => true
  | .b16 => true
  | _ => !x

/-- The base pair and offset register of a global address (R34). -/
def baseOk (sb : BitVec 6) (a : BitVec 7) : Bool := evenReg sb && (sb != 0 || evenReg a)

/-- The 5-bit code of a format (R57). -/
def Fmt.code : Fmt → Nat
  | .fp32 => 0x00 | .bf16 => 0x01 | .fp16 => 0x02 | .e4m3 => 0x03 | .e5m2 => 0x04 | .e3m2 => 0x05
  | .e2m3 => 0x06 | .e2m1 => 0x07 | .mxe4m3 => 0x08 | .mxe5m2 => 0x09 | .mxe3m2 => 0x0A | .mxe2m3 => 0x0B
  | .mxe2m1 => 0x0C | .mxint8 => 0x0D | .int8 => 0x0E | .uint8 => 0x0F | .int4 => 0x10 | .qa8 => 0x11
  | .qa4 => 0x12 | .qa2 => 0x13 | .int32 => 0x14 | .uint32 => 0x15 | .int16 => 0x16 | .uint16 => 0x17

/-- MX formats (R57). -/
def Fmt.isMx (f : Fmt) : Bool := 0x08 ≤ f.code && f.code ≤ 0x0D
/-- QA formats (R57). -/
def Fmt.isQa (f : Fmt) : Bool := 0x11 ≤ f.code && f.code ≤ 0x13
/-- Formats CVT accepts (R67). -/
def Fmt.cvtOk (f : Fmt) : Bool := !f.isMx && !f.isQa

/-- Storage width of a format in bits, 6-bit elements unpacked (R61, R127). -/
def Fmt.bits : Fmt → Nat
  | .fp32 => 32 | .int32 => 32 | .uint32 => 32
  | .bf16 => 16 | .fp16 => 16 | .int16 => 16 | .uint16 => 16
  | .e2m1 => 4 | .mxe2m1 => 4 | .int4 => 4 | .qa4 => 4
  | .qa2 => 2
  | _ => 8

/-- Elements of a PCVT (R129). -/
def Conv.count (x : Conv) : Nat := 32 / min x.fmtS.bits x.fmtD.bits
/-- Source run of a PCVT (R129). -/
def Conv.runS (x : Conv) : Nat := x.count * x.fmtS.bits / 32
/-- Destination run of a PCVT (R129). -/
def Conv.runD (x : Conv) : Nat := x.count * x.fmtD.bits / 32

/-- Depth K of a WLOAD depth code (R272). -/
def depthOf (d : BitVec 2) : Nat := 32 * 2 ^ d.toNat
/-- Element bytes of a WLOAD (R272). -/
def WLoad.bytes (x : WLoad) : Nat := depthOf x.depth * 128 * x.fmt.bits / 8

/-- Special registers LSRD reads (R38). -/
def lsrdNumbers : List Nat := [0, 1, 2, 3, 4]
/-- 64-bit special registers SRD reads (R39). -/
def srdWide : List Nat := [0x010, 0x012, 0x016, 0x042]
/-- 32-bit special registers SRD reads (R39). -/
def srdNarrow : List Nat :=
  [0x000, 0x001, 0x002, 0x003, 0x004, 0x005, 0x006, 0x007, 0x008, 0x009, 0x00A, 0x00B, 0x00C, 0x00D, 0x00E,
   0x014, 0x015, 0x01C, 0x040, 0x041, 0x044, 0x045]

/-- The operation, width and compare rules of ATT and ATOM (R171, R198). -/
def atomicOk (op : AtomOp) (wide : Bool) (c : BitVec 7) : Bool :=
  (match op with
   | .inc => !wide
   | .dec => !wide
   | .fadd => !wide
   | _ => true) && (op == .cas || c == 0)

/-- Four distinct registers (R123). -/
def Fused.wf (x : Fused) : Bool :=
  x.vm != x.vx && x.vm != x.vt && x.vm != x.vs && x.vx != x.vt && x.vx != x.vs && x.vt != x.vs

/-- The static ILLEGAL rules (R45). Events are always well formed. -/
def Instr.wf : Instr → Bool
  | .add x => x != ⟨false, 0, 0, .lane 0⟩
  | .sub _ => true
  | .min _ => true
  | .max _ => true
  | .minu _ => true
  | .maxu _ => true
  | .abs _ => true
  | .neg _ => true
  | .mul _ => true
  | .mulhi _ => true
  | .mulhiu _ => true
  | .mad _ => true
  | .and _ => true
  | .or _ => true
  | .xor _ => true
  | .andn _ => true
  | .shl _ => true
  | .shr _ => true
  | .sar _ => true
  | .rol _ => true
  | .popc _ => true
  | .clz _ => true
  | .ctz _ => true
  | .brev _ => true
  | .bfeu _ => true
  | .bfes _ => true
  | .bfi _ => true
  | .prmt _ => true
  | .seq _ => true
  | .sne _ => true
  | .slt _ => true
  | .sltu _ => true
  | .sel _ => true
  | .mov _ => true
  | .add64 x => evenReg x.d && evenReg x.a && evenSrc x.b
  | .sub64 x => evenReg x.d && evenReg x.a && evenSrc x.b
  | .shl64 x => evenReg x.d && evenReg x.a
  | .shr64 x => evenReg x.d && evenReg x.a
  | .addi _ => true
  | .shli _ => true
  | .shri _ => true
  | .sari _ => true
  | .roli _ => true
  | .andi _ => true
  | .ori _ => true
  | .xori _ => true
  | .andni _ => true
  | .movi _ => true
  | .movw _ => true
  | .lsrd x => lsrdNumbers.contains x.n.toNat
  | .fadd _ => true
  | .fsub _ => true
  | .fmul _ => true
  | .fmin _ => true
  | .fmax _ => true
  | .fabs _ => true
  | .fneg _ => true
  | .fcpsgn _ => true
  | .ffma _ => true
  | .ffms _ => true
  | .fnma _ => true
  | .fnms _ => true
  | .feq _ => true
  | .flt _ => true
  | .fle _ => true
  | .fUn _ => true
  | .fclass _ => true
  | .fscale _ => true
  | .fgetexp _ => true
  | .hadd2 _ => true
  | .hmul2 _ => true
  | .hfma2 _ => true
  | .hmax2 _ => true
  | .badd2 _ => true
  | .bmul2 _ => true
  | .bfma2 _ => true
  | .bmax2 _ => true
  | .rcp _ => true
  | .rsq _ => true
  | .sqrt _ => true
  | .exp2 _ => true
  | .log2 _ => true
  | .sin _ => true
  | .cos _ => true
  | .tanh _ => true
  | .fusedExpSum x => x.wf
  | .cvt x => x.fmtD.cvtOk && x.fmtS.cvtOk
  | .pcvt x => x.fmtD.cvtOk && x.fmtS.cvtOk && x.a.toNat % x.runS == 0 && x.d.toNat % x.runD == 0
  | .seed _ => true
  | .rand _ => true
  | .hdot2 _ => true
  | .bdot2 _ => true
  | .i8dot4 _ => true
  | .u8dot4 _ => true
  | .bnz _ => true
  | .bz _ => true
  | .jmpl x => evenReg x.a
  | .calll x => evenReg x.d && evenReg x.a
  | .retl x => evenReg x.a
  | .any _ => true
  | .all _ => true
  | .ballot x => evenReg x.d
  | .uni _ => true
  | .shflIdx _ => true
  | .shflUp _ => true
  | .shflDown _ => true
  | .shflXor _ => true
  | .reduce x => x.op != .iadd64 || (evenReg x.d && evenReg x.a)
  | .scan x => x.op != .iadd64 || (evenReg x.d && evenReg x.a)
  | .rdlane _ => true
  | .firstlane _ => true
  | .ldt x => runOk x.w x.d && extOk x.w x.x
  | .stt x => runOk x.w x.d
  | .att x => atomicOk x.op x.wide x.c && (x.ret || x.d == 0) && (!x.wide || (evenReg x.d && evenReg x.b && evenReg x.c))
  | .cltLoad x => runOk x.w x.d && extOk x.w x.x
  | .cltStore x => runOk x.w x.d
  | .ld x => runOk x.w x.d && extOk x.w x.x && baseOk x.sb x.a
  | .st x => runOk x.w x.d && baseOk x.sb x.a
  | .ldo x => runOk x.w x.d && baseOk x.sb x.a
  | .sto x => runOk x.w x.d && baseOk x.sb x.a
  | .stog x => runOk x.w x.d && baseOk x.sb x.a
  | .atom x => atomicOk x.op x.wide x.c && (x.ret || x.d == 0) && baseOk x.sb x.a
      && (!x.wide || (evenReg x.d && evenReg x.b && evenReg x.c))
  | .red x => atomicOk x.op x.wide 0 && x.op != .xchg && x.op != .cas && baseOk x.sb x.a && (!x.wide || evenReg x.b)
  | .waita x => evenReg x.d && evenReg x.a
  | .wakea x => evenReg x.a
  | .mma x => x.fmt.code ≤ 0x10 && x.a.toNat % 8 == 0 && (x.fmt.isMx == (x.b != 0)) && (x.fmt != .mxe2m1 || evenReg x.b)
  | .zrd x => evenReg x.d
  | .zwr x => evenReg x.d
  | .post x => evenReg x.b
  | .postTry x => evenReg x.b
  | .postWait x => evenReg x.b
  | .saluAdd _ => true
  | .saluSub _ => true
  | .saluMin _ => true
  | .saluMax _ => true
  | .saluMinu _ => true
  | .saluMaxu _ => true
  | .saluAbs _ => true
  | .saluNeg _ => true
  | .saluMul _ => true
  | .saluMulhi _ => true
  | .saluMulhiu _ => true
  | .saluMad _ => true
  | .saluAnd _ => true
  | .saluOr _ => true
  | .saluXor _ => true
  | .saluAndn _ => true
  | .saluShl _ => true
  | .saluShr _ => true
  | .saluSar _ => true
  | .saluRol _ => true
  | .saluPopc _ => true
  | .saluClz _ => true
  | .saluCtz _ => true
  | .saluBrev _ => true
  | .saluBfeu _ => true
  | .saluBfes _ => true
  | .saluBfi _ => true
  | .saluPrmt _ => true
  | .saluSeq _ => true
  | .saluSne _ => true
  | .saluSlt _ => true
  | .saluSltu _ => true
  | .saluSel _ => true
  | .saluMov _ => true
  | .salu64Add64 x => evenReg x.d && evenReg x.a && evenReg x.b
  | .salu64Sub64 x => evenReg x.d && evenReg x.a && evenReg x.b
  | .salu64Shl64 x => evenReg x.d && evenReg x.a
  | .salu64Shr64 x => evenReg x.d && evenReg x.a
  | .saddi _ => true
  | .sandi _ => true
  | .sori _ => true
  | .sxori _ => true
  | .sshli _ => true
  | .sshri _ => true
  | .ssari _ => true
  | .sroli _ => true
  | .sslti _ => true
  | .smovi _ => true
  | .smovw _ => true
  | .bra x => x.cond != 0 || x.sc == 0
  | .call x => x.cond != 0 || x.sc == 0
  | .jmpr x => evenReg x.a
  | .ret _ => true
  | .exit _ => true
  | .srd x => srdNarrow.contains x.n.toNat || (srdWide.contains x.n.toNat && evenReg x.d)
  | .swr x => x.n == 0x01C
  | .settile x => x.n.toNat ≤ 4
  | .sleep _ => true
  | .yield _ => true
  | .barArrive _ => true
  | .barWait _ => true
  | .barSync _ => true
  | .lduW x => evenReg x.a
  | .lduD x => evenReg x.d && evenReg x.a
  | .stuW x => evenReg x.a
  | .fence _ => true
  | .discard x => evenReg x.a
  | .pref x => evenReg x.a
  | .claim x => evenReg x.a
  | .shareJoin _ => true
  | .shareLeave _ => true
  | .shareSub x => evenReg x.a
  | .shareUnsub _ => true
  | .copy x => evenReg x.a && evenReg x.c && x.b.toNat ≤ 58
  | .expect _ => true
  | .arrive _ => true
  | .waitg _ => true
  | .testg _ => true
  | .cbInit _ => true
  | .cbAcq x => evenReg x.d
  | .cbCommit _ => true
  | .cbWait x => evenReg x.d
  | .cbRel _ => true
  | .wload x => x.fmt.code ≤ 0x13 && (x.b == 0) == !(x.fmt.isMx || x.fmt.isQa) && (x.fmt.isQa || x.g == 0) && x.g != 3
      && x.bytes ≤ 32768
  | .zclr _ => true
  | .zstt _ => true
  | .zldt _ => true
  | .wact _ => true
  | .kset _ => true
  | .nodeq _ => true
  | .put x => evenReg x.a && evenReg x.b && x.d != 0
  | .get x => evenReg x.a && evenReg x.b && x.d != 0 && !x.notify
  | .wcwait _ => true
  | .wcrd _ => true
  | .wcreset _ => true
  | .trap _ => true
  | .rte _ => true
  | .grprd x => evenReg x.d
  | .grpwr x => evenReg x.d
  | .grpres _ => true
  | .grpstop _ => true
  | .grplist x => evenReg x.d
  | .illegalWord _ => true
  | .instructionFetchFault _ => true
  | .bfx _ => true
  | .lodeh _ => true
  | .swait _ => true
  | .fqpop _ => true
  | .wakegComplete _ => true
  | .wakegRefuse _ => true
  | .wakegDecline _ => true
  | .wakegRequeue _ => true
  | .glreplay _ => true
  | .pginst _ => true
  | .pgevict _ => true
  | .rfetch _ => true
  | .ueread _ => true
  | .uewrite _ => true
  | .lodeq _ => true
  | .dispatchRun _ => true
  | .dispatchStop _ => true
  | .dispatchPreempt _ => true
  | .qsave _ => true
  | .qload _ => true
  | .fenceConditionsMet _ => true
  | .shareChangeDone _ => true
  | .subscriptionRegister _ => true
  | .subscriptionDelivery _ => true
  | .copyQueueFree _ => true
  | .copyArrival _ => true
  | .copyError _ => true
  | .wloadComplete _ => true
  | .matrixQueueFree _ => true
  | .matrixEntryPerform _ => true
  | .mmaRoundExecute _ => true
  | .slotBoundary _ => true
  | .fabricPortFree _ => true
  | .putGetComplete _ => true
  | .windowRequestArrival _ => true
  | .deferredResultLand _ => true
  | .sfuEnter _ => true
  | .registerUnitRelease _ => true
  | .storeQueueLeave _ => true
  | .faultQueueFree _ => true
  | .gutterOverflowRelease _ => true
  | .gutterReplay _ => true
  | .grainRefusal _ => true
  | .homeRead _ => true
  | .homePartialStore _ => true
  | .homeFullGrainWrite _ => true
  | .homeAtomic _ => true
  | .fCopyEviction _ => true
  | .mGrainEviction _ => true
  | .grainLostMark _ => true
  | .invalidationDeliveryFailure _ => true
  | .declarationTimeout _ => true
  | .waitaTimeout _ => true
  | .sleepWake _ => true
  | .hangExpiry _ => true
  | .faultDeadline _ => true
  | .recordArrival _ => true
  | .binTimerExpiry _ => true
  | .drainCut _ => true
  | .sheafLaunch _ => true
  | .postWaitServe _ => true
  | .postWaitStall _ => true
  | .instanceStallDrain _ => true
  | .instanceComplete _ => true
  | .preemptSave _ => true
  | .teamResume _ => true
  | .hostsharedToAccelDone _ => true
  | .hostSnoop _ => true
  | .swaitReturn _ => true
  | .transferDone _ => true
  | .transferTimeout _ => true
  | .transferServe _ => true
  | .lodeLookup _ => true
  | .lodeCas _ => true
  | .lodeAddhold _ => true
  | .lodeDrophold _ => true
  | .lodeInsert _ => true
  | .lodeInval _ => true
  | .lodeAck _ => true
  | .lodeRdreq _ => true
  | .invalRingArrival _ => true
  | .qpktNop _ => true
  | .qpktStart _ => true
  | .qpktWait _ => true
  | .qpktSignal _ => true
  | .qpktFence _ => true
  | .qpktBarrier _ => true
  | .qpktTimestamp _ => true
  | .signalReevaluate _ => true
  | .signalPollTimer _ => true
  | .notifyWrite _ => true
  | .fqhArmWrite _ => true
  | .fqhPopRead => true
  | .fqhDoneLowWrite _ => true
  | .fqhRefuse _ => true
  | .fqhReturn _ => true
  | .trnModeWrite _ => true
  | .trnInvPages _ => true
  | .trnInvPasidPages _ => true
  | .trnInvPasidAll _ => true
  | .trnInvAll _ => true
  | .invalidationComplete _ => true
  | .teardownStart _ => true
  | .teardownDrained _ => true
  | .sltEntryWrite _ => true
  | .windowEntryWrite _ => true
  | .vifCfgWrite _ => true
  | .hfrHoldWrite _ => true
  | .hfrXackWrite _ => true
  | .hfrIrtailWrite _ => true
  | .registerWrite _ => true
  | .planeDown _ => true
  | .uePathDown _ => true
  | .nodeSilentTimeout _ => true
  | .declarationConfirm _ => true
  | .hostReset => true
  | .boot _ => true
  | .spdmMeasurementRequest _ => true
  | .spdmCounterRead _ => true
  | .serviceCoreFence _ => true
  | .serviceCoreAmo x => x.op != .lr || x.rs2 == 0
  | .xkrovCsrWrite _ => true
  | .nodeRejoin _ => true
  | .hostsharedAccelHoldExpiry _ => true
  | .hostsharedTransferDeadline _ => true
  | .nodeqAnswer _ => true
  | .wcrdAnswer _ => true
  | .discardComplete _ => true
  | .unsubComplete _ => true

end Sys2Proof
end

