-- ==== Sys2Proof/Decode.lean ====
section
/-! DEFINITION. The decoder of Iluqua words (R26 to R46) and of Xkrov words (R374), total on any bits and rejecting by
name, and the encoder written from the same tables. -/

namespace Sys2Proof

/-- Why a word is not an instruction (R45, R47). -/
inductive Reject where
  /-- the all-zero word, an unassigned major, or a selector or reserved field of the first word -/
  | firstWord
  /-- a selector or reserved field of the tail, or a register rule -/
  | tailOrOperand
  deriving DecidableEq, Repr

/-! ### Field codes -/

/-- Bits `lo` to `lo + n − 1` of a word. -/
abbrev fld (w : Word) (lo n : Nat) : BitVec n := w.extractLsb' lo n
/-- One bit as a truth value. -/
def bit (w : Word) (i : Nat) : Bool := w.extractLsb' i 1 == 1#1
/-- A truth value as one bit. -/
def ofB (b : Bool) : BitVec 1 := if b then 1#1 else 0#1

/-- LM w codes (R34). -/
def MemW.ofCode (c : BitVec 3) : Option MemW :=
  if c = 0#3 then some .b8 else if c = 1#3 then some .b16 else if c = 2#3 then some .b32
  else if c = 3#3 then some .b64 else if c = 4#3 then some .b128 else none
/-- LM w codes (R34). -/
def MemW.code : MemW → BitVec 3
  | .b8 => 0 | .b16 => 1 | .b32 => 2 | .b64 => 3 | .b128 => 4
/-- Bytes of an access (R34). -/
def MemW.bytes : MemW → Nat
  | .b8 => 1 | .b16 => 2 | .b32 => 4 | .b64 => 8 | .b128 => 16
/-- Registers of an access (R34). -/
def MemW.regs : MemW → Nat
  | .b64 => 2 | .b128 => 4 | _ => 1

/-- Format codes (R57). -/
def Fmt.ofCode (c : BitVec 5) : Option Fmt :=
  [Fmt.fp32, .bf16, .fp16, .e4m3, .e5m2, .e3m2, .e2m3, .e2m1, .mxe4m3, .mxe5m2, .mxe3m2, .mxe2m3, .mxe2m1,
   .mxint8, .int8, .uint8, .int4, .qa8, .qa4, .qa2, .int32, .uint32, .int16, .uint16][c.toNat]?
/-- Rounding codes (R44). -/
def Rnd.ofCode (c : BitVec 3) : Option Rnd := [Rnd.rne, .rz, .ru, .rd, .rs][c.toNat]?
/-- Rounding codes (R44). -/
def Rnd.code : Rnd → BitVec 3
  | .rne => 0 | .rz => 1 | .ru => 2 | .rd => 3 | .rs => 4
/-- REDUCE and SCAN operation codes (R157). -/
def RedOp.ofCode (c : BitVec 5) : Option RedOp :=
  [RedOp.iadd, .imin, .imax, .umin, .umax, .and, .or, .xor, .iadd64, .fadd, .fmin, .fmax][c.toNat]?
/-- REDUCE and SCAN operation codes (R157). -/
def RedOp.code : RedOp → BitVec 5
  | .iadd => 0 | .imin => 1 | .imax => 2 | .umin => 3 | .umax => 4 | .and => 5 | .or => 6 | .xor => 7
  | .iadd64 => 8 | .fadd => 9 | .fmin => 10 | .fmax => 11
/-- Atomic operation codes (R171). -/
def AtomOp.ofCode (c : BitVec 5) : Option AtomOp :=
  [AtomOp.add, .and, .or, .xor, .min, .max, .minu, .maxu, .xchg, .cas, .inc, .dec, .fadd][c.toNat]?
/-- Atomic operation codes (R171). -/
def AtomOp.code : AtomOp → BitVec 5
  | .add => 0 | .and => 1 | .or => 2 | .xor => 3 | .min => 4 | .max => 5 | .minu => 6 | .maxu => 7 | .xchg => 8
  | .cas => 9 | .inc => 10 | .dec => 11 | .fadd => 12
/-- Wait condition codes (R202). -/
def WaitCond.ofCode (c : BitVec 5) : Option WaitCond :=
  [WaitCond.eq, .ne, .lt, .ge, .ltu, .geu, .any, .none][c.toNat]?
/-- Wait condition codes (R202). -/
def WaitCond.code : WaitCond → BitVec 5
  | .eq => 0 | .ne => 1 | .lt => 2 | .ge => 3 | .ltu => 4 | .geu => 5 | .any => 6 | .none => 7
/-- Order codes (R44). -/
def Order.ofCode (c : BitVec 2) : Order :=
  if c = 0#2 then .rlx else if c = 1#2 then .acq else if c = 2#2 then .rel else .acqrel
/-- Order codes (R44). -/
def Order.code : Order → BitVec 2
  | .rlx => 0 | .acq => 1 | .rel => 2 | .acqrel => 3
/-- COPY directions (R256). -/
def CopyDir.ofCode (c : BitVec 3) : Option CopyDir := [CopyDir.g2t, .t2g, .g2g, .t2t][c.toNat]?
/-- COPY directions (R256). -/
def CopyDir.code : CopyDir → BitVec 3
  | .g2t => 0 | .t2g => 1 | .g2g => 2 | .t2t => 3

/-! ### The operand forms -/

/-- The second source of an LR word; vb<6> must be 0 when bu = 1 (R33). -/
def srcOf (w : Word) : Option Src :=
  if bit w 2 then if bit w 9 then none else some (.uni (fld w 3 6)) else some (.lane (fld w 3 7))
/-- vb and bu of an LR word. -/
def Src.enc : Src → BitVec 8
  | .lane r => r ++ 0#1
  | .uni r => 0#1 ++ r ++ 1#1

/-- An LR word with both sources. -/
def lrOf (f : LR → Instr) (w : Word) : Option Instr :=
  (srcOf w).map fun b => f ⟨bit w 30, fld w 17 7, fld w 10 7, b⟩
/-- An LR word of a unary minor: vb and bu are 0 (R41). -/
def luOf (f : LU → Instr) (w : Word) : Option Instr :=
  if fld w 2 8 = 0#8 then some (f ⟨bit w 30, fld w 17 7, fld w 10 7⟩) else none
/-- A UR word. -/
def urOf (f : UR → Instr) (w : Word) : Option Instr := some (f ⟨bit w 30, fld w 18 6, fld w 12 6, fld w 6 6⟩)
/-- A UR word with sb 0. -/
def uuOf (f : UU → Instr) (w : Word) : Option Instr :=
  if fld w 6 6 = 0#6 then some (f ⟨bit w 30, fld w 18 6, fld w 12 6⟩) else none
/-- A UR word with sd 0. -/
def usrc2Of (f : USrc2 → Instr) (w : Word) : Option Instr :=
  if fld w 18 6 = 0#6 then some (f ⟨bit w 30, fld w 12 6, fld w 6 6⟩) else none
/-- A UR word with sd and sb 0. -/
def usrcOf (f : USrc → Instr) (w : Word) : Option Instr :=
  if fld w 18 6 = 0#6 ∧ fld w 6 6 = 0#6 then some (f ⟨bit w 30, fld w 12 6⟩) else none
/-- A UR word with every register 0. -/
def unoneOf (f : Bool → Instr) (w : Word) : Option Instr :=
  if fld w 6 18 = 0#18 then some (f (bit w 30)) else none
/-- A UI word. -/
def uiOf (f : UImm12 → Instr) (w : Word) : Option Instr := some (f ⟨bit w 30, fld w 18 6, fld w 12 6, fld w 0 12⟩)
/-- An SSHI word: imm12<9:5> is 0 (R42). -/
def ushOf (f : UShift → Instr) (w : Word) : Option Instr :=
  if fld w 5 5 = 0#5 then some (f ⟨bit w 30, fld w 18 6, fld w 12 6, fld w 0 5⟩) else none
/-- A SHIFTI word: imm10<7:5> is 0 (R41). -/
def lshOf (f : LShift → Instr) (w : Word) : Option Instr :=
  if fld w 5 3 = 0#3 then some (f ⟨bit w 30, fld w 17 7, fld w 10 7, fld w 0 5⟩) else none
/-- A LOGICI word. -/
def li8Of (f : LImm8 → Instr) (w : Word) : Option Instr := some (f ⟨bit w 30, fld w 17 7, fld w 10 7, fld w 0 8⟩)
/-- An LM load. -/
def lmLoadOf (f : LLoad → Instr) (w : Word) : Option Instr :=
  (MemW.ofCode (fld w 1 3)).map fun m => f ⟨bit w 30, fld w 17 7, fld w 10 7, fld w 4 6, m, bit w 0⟩
/-- An LM store: x is 0 (R34). -/
def lmStoreOf (f : LStore → Instr) (w : Word) : Option Instr :=
  if bit w 0 then none
  else (MemW.ofCode (fld w 1 3)).map fun m => f ⟨bit w 30, fld w 17 7, fld w 10 7, fld w 4 6, m⟩
/-- A GCTL word that carries a code: sd and sa are 0 (R147). -/
def gctlOf (f : UCode10 → Instr) (w : Word) : Option Instr :=
  if fld w 12 12 = 0#12 then some (f ⟨bit w 30, fld w 0 10⟩) else none
/-- A BAR word (R160). -/
def barOf (f : UBar → Instr) (w : Word) : Option Instr :=
  if fld w 12 12 = 0#12 ∧ fld w 4 6 = 0#6 then some (f ⟨bit w 30, fld w 0 4⟩) else none
/-- A UJ word: bits 20:16 beyond sc do not exist, so every bit of 23:0 is a field (R35). -/
def ujOf (f : UBranch → Instr) (w : Word) : Option Instr :=
  some (f ⟨bit w 30, fld w 22 2, fld w 16 6, fld w 0 16⟩)
/-- A ZCTL word that names a tile or convergence register in sd<2:0>; sd<5:3> and sb are 0 (R275). -/
def zmemOf (f : ZMem → Instr) (w : Word) : Option Instr :=
  if fld w 21 3 = 0#3 ∧ fld w 6 6 = 0#6 then some (f ⟨bit w 30, fld w 18 3, fld w 12 6⟩) else none
/-- A ZRD or ZWR word: the tile stands in va<2:0>, va<6:3> is 0 (R281). -/
def zmoveOf (f : ZMove → Instr) (w : Word) : Option Instr :=
  if fld w 13 4 = 0#4 then (srcOf w).map fun b => f ⟨bit w 30, fld w 17 7, fld w 10 3, b⟩ else none

/-! ### One-word majors of the lane set -/

/-- L-set major 0x00 (R41). -/
def decAddFam (w : Word) : Option Instr :=
  match (fld w 0 2).toNat with
  | 0 => lrOf .add w
  | 1 => lrOf .sub w
  | 2 => lrOf .min w
  | 3 => lrOf .max w
  | _ => none

/-- L-set major 0x01 (R41). -/
def decMinuFam (w : Word) : Option Instr :=
  match (fld w 0 2).toNat with
  | 0 => lrOf .minu w
  | 1 => lrOf .maxu w
  | 2 => luOf .abs w
  | 3 => luOf .neg w
  | _ => none

/-- L-set major 0x02 (R41). -/
def decMulFam (w : Word) : Option Instr :=
  match (fld w 0 2).toNat with
  | 0 => lrOf .mul w
  | 1 => lrOf .mulhi w
  | 2 => lrOf .mulhiu w
  | 3 => lrOf .mad w
  | _ => none

/-- L-set major 0x03 (R41). -/
def decAndFam (w : Word) : Option Instr :=
  match (fld w 0 2).toNat with
  | 0 => lrOf .and w
  | 1 => lrOf .or w
  | 2 => lrOf .xor w
  | 3 => lrOf .andn w
  | _ => none

/-- L-set major 0x04 (R41). -/
def decShlFam (w : Word) : Option Instr :=
  match (fld w 0 2).toNat with
  | 0 => lrOf .shl w
  | 1 => lrOf .shr w
  | 2 => lrOf .sar w
  | 3 => lrOf .rol w
  | _ => none

/-- L-set major 0x05 (R41). -/
def decPopcFam (w : Word) : Option Instr :=
  match (fld w 0 2).toNat with
  | 0 => luOf .popc w
  | 1 => luOf .clz w
  | 2 => luOf .ctz w
  | 3 => luOf .brev w
  | _ => none

/-- L-set major 0x06 (R41). -/
def decBfeuFam (w : Word) : Option Instr :=
  match (fld w 0 2).toNat with
  | 0 => lrOf .bfeu w
  | 1 => lrOf .bfes w
  | 2 => lrOf .bfi w
  | 3 => lrOf .prmt w
  | _ => none

/-- L-set major 0x07 (R41). -/
def decSeqFam (w : Word) : Option Instr :=
  match (fld w 0 2).toNat with
  | 0 => lrOf .seq w
  | 1 => lrOf .sne w
  | 2 => lrOf .slt w
  | 3 => lrOf .sltu w
  | _ => none

/-- L-set major 0x08 (R41). -/
def decSelFam (w : Word) : Option Instr :=
  match (fld w 0 2).toNat with
  | 0 => lrOf .sel w
  | 1 => luOf .mov w
  | _ => none

/-- L-set major 0x09 (R41). -/
def decAdd64Fam (w : Word) : Option Instr :=
  match (fld w 0 2).toNat with
  | 0 => lrOf .add64 w
  | 1 => lrOf .sub64 w
  | 2 => lrOf .shl64 w
  | 3 => lrOf .shr64 w
  | _ => none

/-- L-set major 0x10 (R41). -/
def decFaddFam (w : Word) : Option Instr :=
  match (fld w 0 2).toNat with
  | 0 => lrOf .fadd w
  | 1 => lrOf .fsub w
  | 2 => lrOf .fmul w
  | 3 => lrOf .fmin w
  | _ => none

/-- L-set major 0x11 (R41). -/
def decFmaxFam (w : Word) : Option Instr :=
  match (fld w 0 2).toNat with
  | 0 => lrOf .fmax w
  | 1 => luOf .fabs w
  | 2 => luOf .fneg w
  | 3 => lrOf .fcpsgn w
  | _ => none

/-- L-set major 0x12 (R41). -/
def decFfmaFam (w : Word) : Option Instr :=
  match (fld w 0 2).toNat with
  | 0 => lrOf .ffma w
  | 1 => lrOf .ffms w
  | 2 => lrOf .fnma w
  | 3 => lrOf .fnms w
  | _ => none

/-- L-set major 0x13 (R41). -/
def decFeqFam (w : Word) : Option Instr :=
  match (fld w 0 2).toNat with
  | 0 => lrOf .feq w
  | 1 => lrOf .flt w
  | 2 => lrOf .fle w
  | 3 => lrOf .fUn w
  | _ => none

/-- L-set major 0x14 (R41). -/
def decFclassFam (w : Word) : Option Instr :=
  match (fld w 0 2).toNat with
  | 0 => luOf .fclass w
  | 1 => lrOf .fscale w
  | 2 => luOf .fgetexp w
  | _ => none

/-- L-set major 0x15 (R41). -/
def decHadd2Fam (w : Word) : Option Instr :=
  match (fld w 0 2).toNat with
  | 0 => lrOf .hadd2 w
  | 1 => lrOf .hmul2 w
  | 2 => lrOf .hfma2 w
  | 3 => lrOf .hmax2 w
  | _ => none

/-- L-set major 0x16 (R41). -/
def decBadd2Fam (w : Word) : Option Instr :=
  match (fld w 0 2).toNat with
  | 0 => lrOf .badd2 w
  | 1 => lrOf .bmul2 w
  | 2 => lrOf .bfma2 w
  | 3 => lrOf .bmax2 w
  | _ => none

/-- L-set major 0x1A (R41). -/
def decHdot2Fam (w : Word) : Option Instr :=
  match (fld w 0 2).toNat with
  | 0 => lrOf .hdot2 w
  | 1 => lrOf .bdot2 w
  | 2 => lrOf .i8dot4 w
  | 3 => lrOf .u8dot4 w
  | _ => none

/-- L-set major 0x23 (R41). -/
def decAnyFam (w : Word) : Option Instr :=
  match (fld w 0 2).toNat with
  | 0 => luOf .any w
  | 1 => luOf .all w
  | 2 => luOf .ballot w
  | 3 => luOf .uni w
  | _ => none

/-- L-set major 0x24 (R41). -/
def decShflIdxFam (w : Word) : Option Instr :=
  match (fld w 0 2).toNat with
  | 0 => lrOf .shflIdx w
  | 1 => lrOf .shflUp w
  | 2 => lrOf .shflDown w
  | 3 => lrOf .shflXor w
  | _ => none

/-- L-set major 0x39 (R41). -/
def decZrdFam (w : Word) : Option Instr :=
  match (fld w 0 2).toNat with
  | 0 => zmoveOf .zrd w
  | 1 => zmoveOf .zwr w
  | _ => none

/-- L-set major 0x0B (R41). -/
def decShiftI (w : Word) : Option Instr :=
  match (fld w 8 2).toNat with
  | 0 => lshOf .shli w
  | 1 => lshOf .shri w
  | 2 => lshOf .sari w
  | _ => lshOf .roli w

/-- L-set major 0x0C (R41). -/
def decLogicI (w : Word) : Option Instr :=
  match (fld w 8 2).toNat with
  | 0 => li8Of .andi w
  | 1 => li8Of .ori w
  | 2 => li8Of .xori w
  | _ => li8Of .andni w

/-- L-set major 0x17: the function stands in vb<2:0>; vb<6:3>, bu and fn are 0 (R41). -/
def decSfu (w : Word) : Option Instr :=
  if fld w 6 4 = 0#4 ∧ fld w 0 3 = 0#3 then
    let x : LU := ⟨bit w 30, fld w 17 7, fld w 10 7⟩
    match (fld w 3 3).toNat with
    | 0 => some (.rcp x)
    | 1 => some (.rsq x)
    | 2 => some (.sqrt x)
    | 3 => some (.exp2 x)
    | 4 => some (.log2 x)
    | 5 => some (.sin x)
    | 6 => some (.cos x)
    | _ => some (.tanh x)
  else none

/-- L-set major 0x19 (R131). -/
def decRng (w : Word) : Option Instr :=
  match (fld w 0 2).toNat with
  | 0 => if fld w 17 7 = 0#7 then (srcOf w).map fun b => .seed ⟨bit w 30, fld w 10 7, b⟩ else none
  | 1 => if fld w 2 15 = 0#15 then some (.rand ⟨bit w 30, fld w 17 7⟩) else none
  | _ => none

/-- L-set majors 0x20 and 0x21 (R149). -/
def lbOf (f : LBranch → Instr) (w : Word) : Option Instr :=
  some (f ⟨bit w 30, fld w 17 7, bit w 16, fld w 0 16⟩)

/-- L-set major 0x22 (R150). -/
def decLJmp (w : Word) : Option Instr :=
  match (fld w 0 2).toNat with
  | 0 => if fld w 17 7 = 0#7 ∧ fld w 2 8 = 0#8 then some (.jmpl ⟨bit w 30, fld w 10 7⟩) else none
  | 1 => luOf .calll w
  | 2 => if fld w 17 7 = 0#7 ∧ fld w 2 8 = 0#8 then some (.retl ⟨bit w 30, fld w 10 7⟩) else none
  | _ => none

/-- L-set major 0x27 (R103). -/
def decXlane (w : Word) : Option Instr :=
  if bit w 23 then none
  else match (fld w 0 2).toNat with
  | 0 => (srcOf w).map fun b => .rdlane ⟨bit w 30, fld w 17 6, fld w 10 7, b⟩
  | 1 => if fld w 2 8 = 0#8 then some (.firstlane ⟨bit w 30, fld w 17 6, fld w 10 7⟩) else none
  | _ => none

/-- The one-word majors of the lane set (R41). -/
def decLane (w : Word) : Option Instr :=
  match (fld w 24 6).toNat with
  | 0x00 => decAddFam w
  | 0x01 => decMinuFam w
  | 0x02 => decMulFam w
  | 0x03 => decAndFam w
  | 0x04 => decShlFam w
  | 0x05 => decPopcFam w
  | 0x06 => decBfeuFam w
  | 0x07 => decSeqFam w
  | 0x08 => decSelFam w
  | 0x09 => decAdd64Fam w
  | 0x10 => decFaddFam w
  | 0x11 => decFmaxFam w
  | 0x12 => decFfmaFam w
  | 0x13 => decFeqFam w
  | 0x14 => decFclassFam w
  | 0x15 => decHadd2Fam w
  | 0x16 => decBadd2Fam w
  | 0x1A => decHdot2Fam w
  | 0x23 => decAnyFam w
  | 0x24 => decShflIdxFam w
  | 0x39 => decZrdFam w
  | 0x0A => some (.addi ⟨bit w 30, fld w 17 7, fld w 10 7, fld w 0 10⟩)
  | 0x0B => decShiftI w
  | 0x0C => decLogicI w
  | 0x0D => some (.movi ⟨bit w 30, fld w 17 7, fld w 0 17⟩)
  | 0x0F => if fld w 10 7 = 0#7 then some (.lsrd ⟨bit w 30, fld w 17 7, fld w 0 10⟩) else none
  | 0x17 => decSfu w
  | 0x19 => decRng w
  | 0x20 => lbOf .bnz w
  | 0x21 => lbOf .bz w
  | 0x22 => decLJmp w
  | 0x27 => decXlane w
  | 0x28 => lmLoadOf .ldt w
  | 0x29 => lmStoreOf .stt w
  | 0x2C => lmLoadOf .ld w
  | 0x2D => lmStoreOf .st w
  | _ => none

/-! ### One-word majors of the uniform set -/

/-- SALU, U-set major 0x00 (R43). -/
def decSalu (w : Word) : Option Instr :=
  match (fld w 0 6).toNat with
  | 0x00 => urOf .saluAdd w
  | 0x01 => urOf .saluSub w
  | 0x02 => urOf .saluMin w
  | 0x03 => urOf .saluMax w
  | 0x04 => urOf .saluMinu w
  | 0x05 => urOf .saluMaxu w
  | 0x06 => uuOf .saluAbs w
  | 0x07 => uuOf .saluNeg w
  | 0x08 => urOf .saluMul w
  | 0x09 => urOf .saluMulhi w
  | 0x0A => urOf .saluMulhiu w
  | 0x0B => urOf .saluMad w
  | 0x0C => urOf .saluAnd w
  | 0x0D => urOf .saluOr w
  | 0x0E => urOf .saluXor w
  | 0x0F => urOf .saluAndn w
  | 0x10 => urOf .saluShl w
  | 0x11 => urOf .saluShr w
  | 0x12 => urOf .saluSar w
  | 0x13 => urOf .saluRol w
  | 0x14 => uuOf .saluPopc w
  | 0x15 => uuOf .saluClz w
  | 0x16 => uuOf .saluCtz w
  | 0x17 => uuOf .saluBrev w
  | 0x18 => urOf .saluBfeu w
  | 0x19 => urOf .saluBfes w
  | 0x1A => urOf .saluBfi w
  | 0x1B => urOf .saluPrmt w
  | 0x1C => urOf .saluSeq w
  | 0x1D => urOf .saluSne w
  | 0x1E => urOf .saluSlt w
  | 0x1F => urOf .saluSltu w
  | 0x20 => urOf .saluSel w
  | 0x21 => uuOf .saluMov w
  | _ => none

/-- SALU64, U-set major 0x01 (R42). -/
def decSalu64 (w : Word) : Option Instr :=
  match (fld w 0 6).toNat with
  | 0 => urOf .salu64Add64 w
  | 1 => urOf .salu64Sub64 w
  | 2 => urOf .salu64Shl64 w
  | 3 => urOf .salu64Shr64 w
  | _ => none

/-- SSHI, U-set major 0x06 (R42). -/
def decSshi (w : Word) : Option Instr :=
  match (fld w 10 2).toNat with
  | 0 => ushOf .sshli w
  | 1 => ushOf .sshri w
  | 2 => ushOf .ssari w
  | _ => ushOf .sroli w

/-- JMPR, U-set major 0x12 (R152). -/
def decJmpr (w : Word) : Option Instr :=
  match (fld w 0 6).toNat with
  | 0 => usrcOf .jmpr w
  | 1 => unoneOf .ret w
  | _ => none

/-- GCTL, U-set major 0x16 (R147, R158). -/
def decGctl (w : Word) : Option Instr :=
  match (fld w 10 2).toNat with
  | 0 => gctlOf .settile w
  | 1 => gctlOf .sleep w
  | 2 => if fld w 0 10 = 0#10 ∧ fld w 12 12 = 0#12 then some (.yield (bit w 30)) else none
  | _ => none

/-- BAR, U-set major 0x17 (R160). -/
def decBar (w : Word) : Option Instr :=
  match (fld w 10 2).toNat with
  | 0 => barOf .barArrive w
  | 1 => barOf .barWait w
  | 2 => barOf .barSync w
  | _ => none

/-- PAGEOP, U-set major 0x1A (R206). -/
def decPageop (w : Word) : Option Instr :=
  match (fld w 0 6).toNat with
  | 0 => usrc2Of .discard w
  | 1 => usrc2Of .pref w
  | 2 => usrc2Of .claim w
  | _ => none

/-- SHARE, U-set major 0x1B (R174, R180). -/
def decShare (w : Word) : Option Instr :=
  match (fld w 0 6).toNat with
  | 0 => usrc2Of .shareJoin w
  | 1 => unoneOf .shareLeave w
  | 2 => urOf .shareSub w
  | 3 => usrcOf .shareUnsub w
  | _ => none

/-- ARRIVE, U-set major 0x1D (R259). -/
def decArrive (w : Word) : Option Instr :=
  match (fld w 0 6).toNat with
  | 0 => usrc2Of .expect w
  | 1 => usrc2Of .arrive w
  | 2 => urOf .waitg w
  | 3 => urOf .testg w
  | _ => none

/-- CB, U-set major 0x1E (R261). -/
def decCb (w : Word) : Option Instr :=
  match (fld w 0 6).toNat with
  | 0 => usrcOf .cbInit w
  | 1 => uuOf .cbAcq w
  | 2 => usrc2Of .cbCommit w
  | 3 => uuOf .cbWait w
  | 4 => usrcOf .cbRel w
  | _ => none

/-- ZCTL, U-set major 0x21 (R269, R275). -/
def decZctl (w : Word) : Option Instr :=
  match (fld w 0 6).toNat with
  | 0 => if fld w 21 3 = 0#3 ∧ fld w 6 12 = 0#12 then some (.zclr ⟨bit w 30, fld w 18 3⟩) else none
  | 1 => zmemOf .zstt w
  | 2 => zmemOf .zldt w
  | 3 => unoneOf .wact w
  | 4 => zmemOf (fun x => .kset ⟨x.s, x.z, x.a⟩) w
  | _ => none

/-- WC, U-set major 0x26 (R413). -/
def decWc (w : Word) : Option Instr :=
  match (fld w 0 6).toNat with
  | 0 => urOf .wcwait w
  | 1 => uuOf .wcrd w
  | 2 => usrcOf .wcreset w
  | _ => none

/-- SYSC, U-set major 0x29 (R362). -/
def decSysc (w : Word) : Option Instr :=
  match (fld w 0 6).toNat with
  | 0 => unoneOf .rte w
  | 1 => urOf .grprd w
  | 2 => urOf .grpwr w
  | 3 => uuOf .grpres w
  | 4 => uuOf .grpstop w
  | 5 => if fld w 6 12 = 0#12 then some (.grplist ⟨bit w 30, fld w 18 6⟩) else none
  | _ => none

/-- The one-word majors of the uniform set (R42). -/
def decUni (w : Word) : Option Instr :=
  match (fld w 24 6).toNat with
  | 0x00 => decSalu w
  | 0x01 => decSalu64 w
  | 0x02 => uiOf .saddi w
  | 0x03 => uiOf .sandi w
  | 0x04 => uiOf .sori w
  | 0x05 => uiOf .sxori w
  | 0x06 => decSshi w
  | 0x07 => uiOf .sslti w
  | 0x08 => some (.smovi ⟨bit w 30, fld w 18 6, fld w 0 18⟩)
  | 0x10 => ujOf .bra w
  | 0x11 => ujOf .call w
  | 0x12 => decJmpr w
  | 0x13 => if fld w 0 24 = 0#24 then some (.exit (bit w 30)) else none
  | 0x14 => if fld w 12 6 = 0#6 then some (.srd ⟨bit w 30, fld w 18 6, fld w 0 12⟩) else none
  | 0x15 => if fld w 18 6 = 0#6 then some (.swr ⟨bit w 30, fld w 12 6, fld w 0 12⟩) else none
  | 0x16 => decGctl w
  | 0x17 => decBar w
  | 0x18 => uiOf .lduW w
  | 0x19 => if fld w 3 21 = 0#21 then some (.fence ⟨bit w 30, fld w 0 3⟩) else none
  | 0x1A => decPageop w
  | 0x1B => decShare w
  | 0x1D => decArrive w
  | 0x1E => decCb w
  | 0x1F => uiOf .lduD w
  | 0x21 => decZctl w
  | 0x22 => uiOf .stuW w
  | 0x24 => if fld w 0 6 = 0#6 then uuOf .nodeq w else none
  | 0x26 => decWc w
  | 0x28 => if fld w 8 16 = 0#16 then some (.trap ⟨bit w 30, fld w 0 8⟩) else none
  | 0x29 => decSysc w
  | _ => none

/-! ### Two-word majors -/

/-- The majors of two words (R29); bit 31 of the word is the set. -/
def isTwoWord (w : Word) : Bool :=
  if bit w 31 then [0x09, 0x1C, 0x20, 0x25].contains (fld w 24 6).toNat
  else [0x0E, 0x18, 0x25, 0x26, 0x2A, 0x2B, 0x2E, 0x2F, 0x30, 0x31, 0x38, 0x3C].contains (fld w 24 6).toNat

/-- The reserved fields of the first word of a two-word instruction (R41, R42 and the entries). -/
def headOk (w : Word) : Bool :=
  if bit w 31 then
    match (fld w 24 6).toNat with
    | 0x09 => fld w 0 18 == 0#18
    | 0x1C => !bit w 5
    | 0x20 => fld w 18 6 == 0#6 && fld w 2 4 == 0#4
    | _ => fld w 1 5 == 0#5
  else
    match (fld w 24 6).toNat with
    | 0x0E => fld w 0 17 == 0#17
    | 0x18 => fld w 0 10 == 0#10
    | 0x25 => fld w 0 10 == 0#10
    | 0x26 => fld w 0 10 == 0#10
    | 0x2A => fld w 1 2 == 0#2 && (bit w 0 || fld w 17 7 == 0#7)
    | 0x2B => (!bit w 2 || !bit w 9) && !(bit w 1 && bit w 0)
    | 0x2E => fld w 1 9 == 0#9
    | 0x2F => fld w 1 2 == 0#2 && (bit w 0 || fld w 17 7 == 0#7)
    | 0x30 => fld w 0 3 == 0#3 && fld w 17 7 == 0#7
    | 0x31 => fld w 1 2 == 0#2 && (!bit w 0 || fld w 17 7 == 0#7)
    | 0x38 => !bit w 0 && fld w 20 4 == 0#4
    | _ => fld w 0 3 == 0#3

/-- CVT and PCVT (R44, R126). -/
def decCvt (w t : Word) : Option Instr :=
  if fld t 0 16 = 0#16 then
    match Fmt.ofCode (fld t 27 5), Fmt.ofCode (fld t 22 5), Rnd.ofCode (fld t 19 3) with
    | some fd, some fs, some r =>
      let x : Conv := ⟨bit w 30, fld w 17 7, fld w 10 7, fd, fs, r, bit t 18⟩
      if fld t 16 2 = 0#2 then some (.cvt x) else if fld t 16 2 = 1#2 then some (.pcvt x) else none
    | _, _, _ => none
  else none

/-- REDUCE (R157). -/
def decReduce (w t : Word) : Option Instr :=
  if fld t 0 27 = 0#27 then (RedOp.ofCode (fld t 27 5)).map fun o => .reduce ⟨bit w 30, fld w 17 7, fld w 10 7, o⟩
  else none

/-- SCAN (R157). -/
def decScan (w t : Word) : Option Instr :=
  if fld t 0 26 = 0#26 then
    (RedOp.ofCode (fld t 27 5)).map fun o => .scan ⟨bit w 30, fld w 17 7, fld w 10 7, o, bit t 26⟩
  else none

/-- ATT (R171). -/
def decAtt (w t : Word) : Option Instr :=
  if fld t 0 7 = 0#7 ∧ fld t 22 5 = 0#5 ∧ bit t 21 = false then
    (AtomOp.ofCode (fld t 27 5)).map fun o =>
      .att ⟨bit w 30, bit w 0, fld w 17 7, fld w 10 7, fld w 3 7, o, bit t 20, fld t 13 7, fld t 7 6⟩
  else none

/-- CLT (R176). -/
def decClt (w t : Word) : Option Instr :=
  if fld t 0 21 = 0#21 then
    match MemW.ofCode (fld t 29 3), srcOf w with
    | some m, some b =>
      if bit w 0 then
        if fld t 27 2 = 0#2 then some (.cltStore ⟨bit w 30, fld w 17 7, fld w 10 7, b, m, false, fld t 21 6⟩)
        else if fld t 27 2 = 2#2 then some (.cltStore ⟨bit w 30, fld w 17 7, fld w 10 7, b, m, true, fld t 21 6⟩)
        else none
      else
        if fld t 27 2 = 0#2 then some (.cltLoad ⟨bit w 30, fld w 17 7, fld w 10 7, b, m, bit w 1, false, fld t 21 6⟩)
        else if fld t 27 2 = 1#2 then
          some (.cltLoad ⟨bit w 30, fld w 17 7, fld w 10 7, b, m, bit w 1, true, fld t 21 6⟩)
        else none
    | _, _ => none
  else none

/-- LDO, STO and STOG (R195). -/
def decLdo (w t : Word) : Option Instr :=
  if fld t 0 17 = 0#17 then
    (MemW.ofCode (fld t 24 3)).bind fun m =>
      let x (o : Bool) : LOrdered := ⟨bit w 30, fld w 17 7, fld w 10 7, fld t 29 3, o, m, fld t 17 6⟩
      if bit w 0 then
        if fld t 27 2 = 0#2 then some (if bit t 23 then .stog (x false) else .sto (x false))
        else if fld t 27 2 = 2#2 then some (if bit t 23 then .stog (x true) else .sto (x true))
        else none
      else if bit t 23 then none
      else if fld t 27 2 = 0#2 then some (.ldo (x false))
      else if fld t 27 2 = 1#2 then some (.ldo (x true))
      else none
  else none

/-- ATOM (R197). -/
def decAtom (w t : Word) : Option Instr :=
  if fld t 0 7 = 0#7 ∧ bit t 21 = false then
    (AtomOp.ofCode (fld t 27 5)).map fun o =>
      .atom ⟨bit w 30, bit w 0, fld w 17 7, fld w 10 7, fld w 3 7, o, fld t 24 3, Order.ofCode (fld t 22 2),
        bit t 20, fld t 13 7, fld t 7 6⟩
  else none

/-- RED: relaxed or release, no compare register (R198). -/
def decRed (w t : Word) : Option Instr :=
  if fld t 0 7 = 0#7 ∧ bit t 21 = false ∧ fld t 13 7 = 0#7 ∧ bit t 22 = false then
    (AtomOp.ofCode (fld t 27 5)).map fun o =>
      .red ⟨bit w 30, fld w 10 7, fld w 3 7, o, fld t 24 3, bit t 23, bit t 20, fld t 7 6⟩
  else none

/-- WAITA and WAKEA (R202). -/
def decWait (w t : Word) : Option Instr :=
  if fld t 0 20 = 0#20 then
    if bit w 0 then
      if fld t 27 5 = 0#5 then some (.wakea ⟨bit w 30, fld w 10 7, fld w 3 7, fld t 24 3, fld t 20 4⟩) else none
    else (WaitCond.ofCode (fld t 27 5)).map fun c =>
      .waita ⟨bit w 30, fld w 17 7, fld w 10 7, fld w 3 7, c, fld t 24 3, fld t 20 4⟩
  else none

/-- MMA (R277). -/
def decMma (w t : Word) : Option Instr :=
  if fld t 0 24 = 0#24 then
    (Fmt.ofCode (fld t 27 5)).map fun f =>
      .mma ⟨bit w 30, fld w 17 3, fld w 10 7, fld w 3 7, bit w 2, bit w 1, f, fld t 24 3⟩
  else none

/-- POST (R297). -/
def decPost (w t : Word) : Option Instr :=
  if fld t 0 17 = 0#17 ∧ fld t 19 4 = 0#4 then
    let x : Post := ⟨bit w 30, fld w 17 7, fld w 10 7, fld w 3 7, fld t 26 6, fld t 23 3⟩
    if bit t 18 then if bit t 17 then none else some (.postTry x)
    else if bit t 17 then some (.postWait x) else some (.post x)
  else none

/-- COPY (R256). -/
def decCopy (w t : Word) : Option Instr :=
  if fld t 0 26 = 0#26 then
    (CopyDir.ofCode (fld w 3 3)).map fun d =>
      .copy ⟨bit w 30, fld w 18 6, fld w 12 6, fld w 6 6, d, fld w 0 3, fld t 26 6⟩
  else none

/-- WLOAD (R272). -/
def decWload (w t : Word) : Option Instr :=
  if fld t 0 25 = 0#25 then
    (Fmt.ofCode (fld t 27 5)).map fun f => .wload ⟨bit w 30, fld w 12 6, fld w 6 6, fld w 0 2, f, fld t 25 2⟩
  else none

/-- PUT and GET (R410). -/
def decPut (w t : Word) : Option Instr :=
  if fld t 0 31 = 0#31 then
    let x : PutGet := ⟨bit w 30, fld w 18 6, fld w 12 6, fld w 6 6, bit t 31⟩
    if bit w 0 then some (.get x) else some (.put x)
  else none

/-- A two-word instruction from a first word whose reserved fields are in order. -/
def decTwo (w t : Word) : Option Instr :=
  if bit w 31 then
    match (fld w 24 6).toNat with
    | 0x09 => some (.smovw ⟨bit w 30, fld w 18 6, t⟩)
    | 0x1C => decCopy w t
    | 0x20 => decWload w t
    | 0x25 => decPut w t
    | _ => none
  else
    match (fld w 24 6).toNat with
    | 0x0E => some (.movw ⟨bit w 30, fld w 17 7, t⟩)
    | 0x18 => decCvt w t
    | 0x25 => decReduce w t
    | 0x26 => decScan w t
    | 0x2A => decAtt w t
    | 0x2B => decClt w t
    | 0x2E => decLdo w t
    | 0x2F => decAtom w t
    | 0x30 => decRed w t
    | 0x31 => decWait w t
    | 0x38 => decMma w t
    | 0x3C => decPost w t
    | _ => none

/-! ### The decoder -/

/-- Keep an instruction only when it is well formed. -/
def checked (i : Option Instr) (r : Reject) : Except Reject Instr :=
  match i with
  | some i => if i.wf then .ok i else .error r
  | none => .error r

/-- A one-word instruction (R29, R45). -/
def decodeOne (w : Word) : Except Reject Instr :=
  if bit w 31 then checked (decUni w) .firstWord else checked (decLane w) .firstWord

/-- A two-word instruction: the first word is judged before the tail (R47). -/
def decodeTwo (w t : Word) : Except Reject Instr :=
  if headOk w then checked (decTwo w t) .tailOrOperand else .error .firstWord

/-- The fused exponent-sum sequence, judged on its four words (R123 conditions 1 to 4). -/
def decodeFused (w0 w1 w2 w3 : Word) : Option Instr :=
  match decodeOne w0, decodeOne w1, decodeOne w2, decodeOne w3 with
  | .ok (.fmax m), .ok (.fsub d), .ok (.exp2 e), .ok (.fadd a) =>
    let x : Fused := ⟨a.s, m.d, d.a, d.d, a.d⟩
    if m.a = m.d ∧ m.b = .lane d.a ∧ d.b = .lane m.d ∧ e.d = d.d ∧ e.a = d.d ∧ a.a = a.d ∧ a.b = .lane d.d
        ∧ m.s = false ∧ d.s = false ∧ e.s = true ∧ x.wf = true then
      some (.fusedExpSum x)
    else none
  | _, _, _, _ => none

/-- Decode from the words at the program counter; the answer holds the number of words. -/
def decodeWords : List Word → Except Reject (Instr × Nat)
  | [] => .error .firstWord
  | w :: rest =>
    if isTwoWord w then
      match rest with
      | [] => if headOk w then .error .tailOrOperand else .error .firstWord
      | t :: _ => (decodeTwo w t).map fun i => (i, 2)
    else (decodeOne w).map fun i => (i, 1)

/-! ### Xkrov -/

/-- An Xkrov word of a service core (R374). The word alone does not tell the four WAKEG actions and the three
DISPATCH operations apart: `sel` is the value of x[rs2] (R383, R403). -/
noncomputable def decodeXkrov (w : Word) (sel : DWord) : Option Instr :=
  let x3 : XR3 := ⟨fld w 7 5, fld w 15 5, fld w 20 5⟩
  let x2 : XR2 := ⟨fld w 7 5, fld w 15 5⟩
  let two (i : Instr) : Option Instr := if fld w 20 5 = 0#5 then some i else none
  if fld w 25 7 = 0#7 then
    if fld w 0 7 = 0x0B#7 then
      match (fld w 12 3).toNat with
      | 0 => some (.bfx x3)
      | 1 => some (.lodeh x3)
      | 2 => some (.swait x3)
      | 3 => two (.fqpop x2)
      | 4 =>
        match (sel.extractLsb' 0 2).toNat with
        | 0 => some (.wakegComplete x3)
        | 1 => some (.wakegRefuse x3)
        | 2 => some (.wakegDecline x3)
        | _ => some (.wakegRequeue x3)
      | 5 => two (.glreplay x2)
      | 6 => some (.pginst x3)
      | _ => two (.pgevict x2)
    else if fld w 0 7 = 0x2B#7 then
      match (fld w 12 3).toNat with
      | 0 => two (.rfetch x2)
      | 1 => two (.ueread x2)
      | 2 => two (.uewrite x2)
      | 3 => two (.lodeq x2)
      | 4 =>
        match sel.toNat with
        | 1 => some (.dispatchStop x3)
        | 2 => some (.dispatchPreempt x3)
        | _ => some (.dispatchRun x3)
      | 5 => some (.qsave x3)
      | 6 => some (.qload x3)
      | _ => none
    else none
  else none

/-! ### The encoder -/

/-- The first eight bits of a word: set, settle bit and major (R26). -/
def top (set : Bool) (s : Bool) (major : Nat) : BitVec 8 := ofB set ++ ofB s ++ BitVec.ofNat 6 major

/-- LR (R109). -/
def encLR (major fn : Nat) (x : LR) : Word := top false x.s major ++ x.d ++ x.a ++ x.b.enc ++ BitVec.ofNat 2 fn
/-- LR, unary. -/
def encLU (major fn : Nat) (x : LU) : Word := top false x.s major ++ x.d ++ x.a ++ 0#8 ++ BitVec.ofNat 2 fn
/-- SFU (R121). -/
def encSfu (fn : Nat) (x : LU) : Word := top false x.s 0x17 ++ x.d ++ x.a ++ 0#4 ++ BitVec.ofNat 3 fn ++ 0#3
/-- SHIFTI. -/
def encLSh (fn : Nat) (x : LShift) : Word := top false x.s 0x0B ++ x.d ++ x.a ++ BitVec.ofNat 2 fn ++ 0#3 ++ x.n
/-- LOGICI. -/
def encL8 (fn : Nat) (x : LImm8) : Word := top false x.s 0x0C ++ x.d ++ x.a ++ BitVec.ofNat 2 fn ++ x.imm
/-- LM load (R170, R193). -/
def encLoad (major : Nat) (x : LLoad) : Word := top false x.s major ++ x.d ++ x.a ++ x.sb ++ x.w.code ++ ofB x.x
/-- LM store. -/
def encStore (major : Nat) (x : LStore) : Word := top false x.s major ++ x.d ++ x.a ++ x.sb ++ x.w.code ++ 0#1
/-- LB (R149). -/
def encLB (major : Nat) (x : LBranch) : Word := top false x.s major ++ x.c ++ ofB x.u ++ x.off
/-- UR (R109). -/
def encUR (major fn : Nat) (x : UR) : Word := top true x.s major ++ x.d ++ x.a ++ x.b ++ BitVec.ofNat 6 fn
/-- UR with sb 0. -/
def encUU (major fn : Nat) (x : UU) : Word := top true x.s major ++ x.d ++ x.a ++ 0#6 ++ BitVec.ofNat 6 fn
/-- UR with sd 0. -/
def encU2 (major fn : Nat) (x : USrc2) : Word := top true x.s major ++ 0#6 ++ x.a ++ x.b ++ BitVec.ofNat 6 fn
/-- UR with sd and sb 0. -/
def encU1 (major fn : Nat) (x : USrc) : Word := top true x.s major ++ 0#6 ++ x.a ++ 0#6 ++ BitVec.ofNat 6 fn
/-- UR with every register 0. -/
def encU0 (major fn : Nat) (s : Bool) : Word := top true s major ++ 0#18 ++ BitVec.ofNat 6 fn
/-- UI (R109). -/
def encUI (major : Nat) (x : UImm12) : Word := top true x.s major ++ x.d ++ x.a ++ x.imm
/-- SSHI. -/
def encUSh (fn : Nat) (x : UShift) : Word := top true x.s 0x06 ++ x.d ++ x.a ++ BitVec.ofNat 2 fn ++ 0#5 ++ x.n
/-- UJ (R151). -/
def encUJ (major : Nat) (x : UBranch) : Word := top true x.s major ++ x.cond ++ x.sc ++ x.off
/-- GCTL. -/
def encGctl (fn : Nat) (x : UCode10) : Word := top true x.s 0x16 ++ 0#12 ++ BitVec.ofNat 2 fn ++ x.n
/-- BAR (R160). -/
def encBar (fn : Nat) (x : UBar) : Word := top true x.s 0x17 ++ 0#12 ++ BitVec.ofNat 2 fn ++ 0#6 ++ x.n
/-- ZCTL with a register in sd<2:0> (R275). -/
def encZ (fn : Nat) (s : Bool) (z : BitVec 3) (a : BitVec 6) : Word :=
  top true s 0x21 ++ 0#3 ++ z ++ a ++ 0#6 ++ BitVec.ofNat 6 fn
/-- ZRD and ZWR (R281). -/
def encZM (fn : Nat) (x : ZMove) : Word := top false x.s 0x39 ++ x.d ++ 0#4 ++ x.z ++ x.b.enc ++ BitVec.ofNat 2 fn
/-- LX: vd, va, vb and fx. -/
def encLX (major : Nat) (s : Bool) (d a b : BitVec 7) (fx : BitVec 3) : Word := top false s major ++ d ++ a ++ b ++ fx
/-- The tail of CVT and PCVT (R44). -/
def tailCvt (x : Conv) (pack : Nat) : Word :=
  BitVec.ofNat 5 x.fmtD.code ++ BitVec.ofNat 5 x.fmtS.code ++ x.rnd.code ++ ofB x.sat ++ BitVec.ofNat 2 pack ++ 0#16
/-- vb and fx<2> of a CLT word (R176). -/
def cltSrc : Src → BitVec 8
  | .lane r => r ++ 0#1
  | .uni r => 0#1 ++ r ++ 1#1
/-- The tail of LDO, STO and STOG (R195). -/
def tailLdo (x : LOrdered) (o : BitVec 2) (gf : Bool) : Word :=
  x.scope ++ o ++ x.w.code ++ ofB gf ++ x.sb ++ 0#17
/-- The words of POST (R297). -/
def encPost (x : Post) (try_ wait : Bool) : List Word :=
  [encLX 0x3C x.s x.d x.a x.b 0, x.node ++ x.label ++ 0#4 ++ ofB try_ ++ ofB wait ++ 0#17]
/-- The words of PUT and GET (R410). -/
def encPut (x : PutGet) (get : Bool) : List Word :=
  [top true x.s 0x25 ++ x.d ++ x.a ++ x.b ++ 0#5 ++ ofB get, ofB x.notify ++ 0#31]
/-- An Xkrov word (R374). -/
def encX (op funct3 : Nat) (rd rs1 rs2 : BitVec 5) : Word :=
  0#7 ++ rs2 ++ rs1 ++ BitVec.ofNat 3 funct3 ++ rd ++ BitVec.ofNat 7 op

/-- The words of an instruction, first word first; an event has none. -/
def encode : Instr → List Word
  | .add x => [encLR 0x00 0 x]
  | .sub x => [encLR 0x00 1 x]
  | .min x => [encLR 0x00 2 x]
  | .max x => [encLR 0x00 3 x]
  | .minu x => [encLR 0x01 0 x]
  | .maxu x => [encLR 0x01 1 x]
  | .abs x => [encLU 0x01 2 x]
  | .neg x => [encLU 0x01 3 x]
  | .mul x => [encLR 0x02 0 x]
  | .mulhi x => [encLR 0x02 1 x]
  | .mulhiu x => [encLR 0x02 2 x]
  | .mad x => [encLR 0x02 3 x]
  | .and x => [encLR 0x03 0 x]
  | .or x => [encLR 0x03 1 x]
  | .xor x => [encLR 0x03 2 x]
  | .andn x => [encLR 0x03 3 x]
  | .shl x => [encLR 0x04 0 x]
  | .shr x => [encLR 0x04 1 x]
  | .sar x => [encLR 0x04 2 x]
  | .rol x => [encLR 0x04 3 x]
  | .popc x => [encLU 0x05 0 x]
  | .clz x => [encLU 0x05 1 x]
  | .ctz x => [encLU 0x05 2 x]
  | .brev x => [encLU 0x05 3 x]
  | .bfeu x => [encLR 0x06 0 x]
  | .bfes x => [encLR 0x06 1 x]
  | .bfi x => [encLR 0x06 2 x]
  | .prmt x => [encLR 0x06 3 x]
  | .seq x => [encLR 0x07 0 x]
  | .sne x => [encLR 0x07 1 x]
  | .slt x => [encLR 0x07 2 x]
  | .sltu x => [encLR 0x07 3 x]
  | .sel x => [encLR 0x08 0 x]
  | .mov x => [encLU 0x08 1 x]
  | .add64 x => [encLR 0x09 0 x]
  | .sub64 x => [encLR 0x09 1 x]
  | .shl64 x => [encLR 0x09 2 x]
  | .shr64 x => [encLR 0x09 3 x]
  | .addi x => [top false x.s 0x0A ++ x.d ++ x.a ++ x.imm]
  | .shli x => [encLSh 0 x]
  | .shri x => [encLSh 1 x]
  | .sari x => [encLSh 2 x]
  | .roli x => [encLSh 3 x]
  | .andi x => [encL8 0 x]
  | .ori x => [encL8 1 x]
  | .xori x => [encL8 2 x]
  | .andni x => [encL8 3 x]
  | .movi x => [top false x.s 0x0D ++ x.d ++ x.imm]
  | .movw x => [top false x.s 0x0E ++ x.d ++ 0#17, x.imm]
  | .lsrd x => [top false x.s 0x0F ++ x.d ++ 0#7 ++ x.n]
  | .fadd x => [encLR 0x10 0 x]
  | .fsub x => [encLR 0x10 1 x]
  | .fmul x => [encLR 0x10 2 x]
  | .fmin x => [encLR 0x10 3 x]
  | .fmax x => [encLR 0x11 0 x]
  | .fabs x => [encLU 0x11 1 x]
  | .fneg x => [encLU 0x11 2 x]
  | .fcpsgn x => [encLR 0x11 3 x]
  | .ffma x => [encLR 0x12 0 x]
  | .ffms x => [encLR 0x12 1 x]
  | .fnma x => [encLR 0x12 2 x]
  | .fnms x => [encLR 0x12 3 x]
  | .feq x => [encLR 0x13 0 x]
  | .flt x => [encLR 0x13 1 x]
  | .fle x => [encLR 0x13 2 x]
  | .fUn x => [encLR 0x13 3 x]
  | .fclass x => [encLU 0x14 0 x]
  | .fscale x => [encLR 0x14 1 x]
  | .fgetexp x => [encLU 0x14 2 x]
  | .hadd2 x => [encLR 0x15 0 x]
  | .hmul2 x => [encLR 0x15 1 x]
  | .hfma2 x => [encLR 0x15 2 x]
  | .hmax2 x => [encLR 0x15 3 x]
  | .badd2 x => [encLR 0x16 0 x]
  | .bmul2 x => [encLR 0x16 1 x]
  | .bfma2 x => [encLR 0x16 2 x]
  | .bmax2 x => [encLR 0x16 3 x]
  | .rcp x => [encSfu 0 x]
  | .rsq x => [encSfu 1 x]
  | .sqrt x => [encSfu 2 x]
  | .exp2 x => [encSfu 3 x]
  | .log2 x => [encSfu 4 x]
  | .sin x => [encSfu 5 x]
  | .cos x => [encSfu 6 x]
  | .tanh x => [encSfu 7 x]
  | .fusedExpSum x => [encLR 0x11 0 ⟨false, x.vm, x.vm, .lane x.vx⟩, encLR 0x10 1 ⟨false, x.vt, x.vx, .lane x.vm⟩,
      encSfu 3 ⟨true, x.vt, x.vt⟩, encLR 0x10 0 ⟨x.s, x.vs, x.vs, .lane x.vt⟩]
  | .cvt x => [encLX 0x18 x.s x.d x.a 0 0, tailCvt x 0]
  | .pcvt x => [encLX 0x18 x.s x.d x.a 0 0, tailCvt x 1]
  | .seed x => [top false x.s 0x19 ++ 0#7 ++ x.a ++ x.b.enc ++ 0#2]
  | .rand x => [top false x.s 0x19 ++ x.d ++ 0#15 ++ 1#2]
  | .hdot2 x => [encLR 0x1A 0 x]
  | .bdot2 x => [encLR 0x1A 1 x]
  | .i8dot4 x => [encLR 0x1A 2 x]
  | .u8dot4 x => [encLR 0x1A 3 x]
  | .bnz x => [encLB 0x20 x]
  | .bz x => [encLB 0x21 x]
  | .jmpl x => [encLU 0x22 0 ⟨x.s, 0, x.a⟩]
  | .calll x => [encLU 0x22 1 x]
  | .retl x => [encLU 0x22 2 ⟨x.s, 0, x.a⟩]
  | .any x => [encLU 0x23 0 x]
  | .all x => [encLU 0x23 1 x]
  | .ballot x => [encLU 0x23 2 x]
  | .uni x => [encLU 0x23 3 x]
  | .shflIdx x => [encLR 0x24 0 x]
  | .shflUp x => [encLR 0x24 1 x]
  | .shflDown x => [encLR 0x24 2 x]
  | .shflXor x => [encLR 0x24 3 x]
  | .reduce x => [encLX 0x25 x.s x.d x.a 0 0, x.op.code ++ 0#27]
  | .scan x => [encLX 0x26 x.s x.d x.a 0 0, x.op.code ++ ofB x.excl ++ 0#26]
  | .rdlane x => [top false x.s 0x27 ++ 0#1 ++ x.d ++ x.a ++ x.b.enc ++ 0#2]
  | .firstlane x => [top false x.s 0x27 ++ 0#1 ++ x.d ++ x.a ++ 0#8 ++ 1#2]
  | .ldt x => [encLoad 0x28 x]
  | .stt x => [encStore 0x29 x]
  | .att x => [encLX 0x2A x.s x.d x.a x.b (0#2 ++ ofB x.ret), x.op.code ++ 0#6 ++ ofB x.wide ++ x.c ++ x.sb ++ 0#7]
  | .cltLoad x => [top false x.s 0x2B ++ x.d ++ x.a ++ cltSrc x.t ++ ofB x.x ++ 0#1,
      x.w.code ++ 0#1 ++ ofB x.acq ++ x.sb ++ 0#21]
  | .cltStore x => [top false x.s 0x2B ++ x.d ++ x.a ++ cltSrc x.t ++ 0#1 ++ 1#1,
      x.w.code ++ ofB x.rel ++ 0#1 ++ x.sb ++ 0#21]
  | .ld x => [encLoad 0x2C x]
  | .st x => [encStore 0x2D x]
  | .ldo x => [encLX 0x2E x.s x.d x.a 0 0, tailLdo x (0#1 ++ ofB x.ordered) false]
  | .sto x => [encLX 0x2E x.s x.d x.a 0 1, tailLdo x (ofB x.ordered ++ 0#1) false]
  | .stog x => [encLX 0x2E x.s x.d x.a 0 1, tailLdo x (ofB x.ordered ++ 0#1) true]
  | .atom x => [encLX 0x2F x.s x.d x.a x.b (0#2 ++ ofB x.ret),
      x.op.code ++ x.scope ++ x.order.code ++ 0#1 ++ ofB x.wide ++ x.c ++ x.sb ++ 0#7]
  | .red x => [encLX 0x30 x.s 0 x.a x.b 0,
      x.op.code ++ x.scope ++ ofB x.rel ++ 0#1 ++ 0#1 ++ ofB x.wide ++ 0#7 ++ x.sb ++ 0#7]
  | .waita x => [encLX 0x31 x.s x.d x.a x.b 0, x.cond.code ++ x.scope ++ x.cls ++ 0#20]
  | .wakea x => [encLX 0x31 x.s 0 x.a x.b 1, 0#5 ++ x.scope ++ x.cls ++ 0#20]
  | .mma x => [encLX 0x38 x.s (0#4 ++ x.z) x.a x.b (ofB x.acc ++ ofB x.reuse ++ 0#1),
      BitVec.ofNat 5 x.fmt.code ++ x.k ++ 0#24]
  | .zrd x => [encZM 0 x]
  | .zwr x => [encZM 1 x]
  | .post x => encPost x false false
  | .postTry x => encPost x true false
  | .postWait x => encPost x false true
  | .saluAdd x => [encUR 0x00 0x00 x]
  | .saluSub x => [encUR 0x00 0x01 x]
  | .saluMin x => [encUR 0x00 0x02 x]
  | .saluMax x => [encUR 0x00 0x03 x]
  | .saluMinu x => [encUR 0x00 0x04 x]
  | .saluMaxu x => [encUR 0x00 0x05 x]
  | .saluAbs x => [encUU 0x00 0x06 x]
  | .saluNeg x => [encUU 0x00 0x07 x]
  | .saluMul x => [encUR 0x00 0x08 x]
  | .saluMulhi x => [encUR 0x00 0x09 x]
  | .saluMulhiu x => [encUR 0x00 0x0A x]
  | .saluMad x => [encUR 0x00 0x0B x]
  | .saluAnd x => [encUR 0x00 0x0C x]
  | .saluOr x => [encUR 0x00 0x0D x]
  | .saluXor x => [encUR 0x00 0x0E x]
  | .saluAndn x => [encUR 0x00 0x0F x]
  | .saluShl x => [encUR 0x00 0x10 x]
  | .saluShr x => [encUR 0x00 0x11 x]
  | .saluSar x => [encUR 0x00 0x12 x]
  | .saluRol x => [encUR 0x00 0x13 x]
  | .saluPopc x => [encUU 0x00 0x14 x]
  | .saluClz x => [encUU 0x00 0x15 x]
  | .saluCtz x => [encUU 0x00 0x16 x]
  | .saluBrev x => [encUU 0x00 0x17 x]
  | .saluBfeu x => [encUR 0x00 0x18 x]
  | .saluBfes x => [encUR 0x00 0x19 x]
  | .saluBfi x => [encUR 0x00 0x1A x]
  | .saluPrmt x => [encUR 0x00 0x1B x]
  | .saluSeq x => [encUR 0x00 0x1C x]
  | .saluSne x => [encUR 0x00 0x1D x]
  | .saluSlt x => [encUR 0x00 0x1E x]
  | .saluSltu x => [encUR 0x00 0x1F x]
  | .saluSel x => [encUR 0x00 0x20 x]
  | .saluMov x => [encUU 0x00 0x21 x]
  | .salu64Add64 x => [encUR 0x01 0 x]
  | .salu64Sub64 x => [encUR 0x01 1 x]
  | .salu64Shl64 x => [encUR 0x01 2 x]
  | .salu64Shr64 x => [encUR 0x01 3 x]
  | .saddi x => [encUI 0x02 x]
  | .sandi x => [encUI 0x03 x]
  | .sori x => [encUI 0x04 x]
  | .sxori x => [encUI 0x05 x]
  | .sshli x => [encUSh 0 x]
  | .sshri x => [encUSh 1 x]
  | .ssari x => [encUSh 2 x]
  | .sroli x => [encUSh 3 x]
  | .sslti x => [encUI 0x07 x]
  | .smovi x => [top true x.s 0x08 ++ x.d ++ x.imm]
  | .smovw x => [top true x.s 0x09 ++ x.d ++ 0#18, x.imm]
  | .bra x => [encUJ 0x10 x]
  | .call x => [encUJ 0x11 x]
  | .jmpr x => [encU1 0x12 0 x]
  | .ret x => [encU0 0x12 1 x]
  | .exit x => [encU0 0x13 0 x]
  | .srd x => [top true x.s 0x14 ++ x.d ++ 0#6 ++ x.n]
  | .swr x => [top true x.s 0x15 ++ 0#6 ++ x.a ++ x.n]
  | .settile x => [encGctl 0 x]
  | .sleep x => [encGctl 1 x]
  | .yield x => [encGctl 2 ⟨x, 0⟩]
  | .barArrive x => [encBar 0 x]
  | .barWait x => [encBar 1 x]
  | .barSync x => [encBar 2 x]
  | .lduW x => [encUI 0x18 x]
  | .lduD x => [encUI 0x1F x]
  | .stuW x => [encUI 0x22 x]
  | .fence x => [top true x.s 0x19 ++ 0#21 ++ x.scope]
  | .discard x => [encU2 0x1A 0 x]
  | .pref x => [encU2 0x1A 1 x]
  | .claim x => [encU2 0x1A 2 x]
  | .shareJoin x => [encU2 0x1B 0 x]
  | .shareLeave x => [encU0 0x1B 1 x]
  | .shareSub x => [encUR 0x1B 2 x]
  | .shareUnsub x => [encU1 0x1B 3 x]
  | .copy x => [top true x.s 0x1C ++ x.d ++ x.a ++ x.b ++ x.dir.code ++ x.hint, x.c ++ 0#26]
  | .expect x => [encU2 0x1D 0 x]
  | .arrive x => [encU2 0x1D 1 x]
  | .waitg x => [encUR 0x1D 2 x]
  | .testg x => [encUR 0x1D 3 x]
  | .cbInit x => [encU1 0x1E 0 x]
  | .cbAcq x => [encUU 0x1E 1 x]
  | .cbCommit x => [encU2 0x1E 2 x]
  | .cbWait x => [encUU 0x1E 3 x]
  | .cbRel x => [encU1 0x1E 4 x]
  | .wload x => [top true x.s 0x20 ++ 0#6 ++ x.a ++ x.b ++ 0#4 ++ x.depth, BitVec.ofNat 5 x.fmt.code ++ x.g ++ 0#25]
  | .zclr x => [encZ 0 x.s x.z 0]
  | .zstt x => [encZ 1 x.s x.z x.a]
  | .zldt x => [encZ 2 x.s x.z x.a]
  | .wact x => [encU0 0x21 3 x]
  | .kset x => [encZ 4 x.s x.k x.a]
  | .nodeq x => [encUU 0x24 0 x]
  | .put x => encPut x false
  | .get x => encPut x true
  | .wcwait x => [encUR 0x26 0 x]
  | .wcrd x => [encUU 0x26 1 x]
  | .wcreset x => [encU1 0x26 2 x]
  | .trap x => [top true x.s 0x28 ++ 0#16 ++ x.n]
  | .rte x => [encU0 0x29 0 x]
  | .grprd x => [encUR 0x29 1 x]
  | .grpwr x => [encUR 0x29 2 x]
  | .grpres x => [encUU 0x29 3 x]
  | .grpstop x => [encUU 0x29 4 x]
  | .grplist x => [encUU 0x29 5 ⟨x.s, x.d, 0⟩]
  | .illegalWord x => [x]
  | .instructionFetchFault _ => []
  | .bfx x => [encX 0x0B 0 x.rd x.rs1 x.rs2]
  | .lodeh x => [encX 0x0B 1 x.rd x.rs1 x.rs2]
  | .swait x => [encX 0x0B 2 x.rd x.rs1 x.rs2]
  | .fqpop x => [encX 0x0B 3 x.rd x.rs1 0]
  | .wakegComplete x => [encX 0x0B 4 x.rd x.rs1 x.rs2]
  | .wakegRefuse x => [encX 0x0B 4 x.rd x.rs1 x.rs2]
  | .wakegDecline x => [encX 0x0B 4 x.rd x.rs1 x.rs2]
  | .wakegRequeue x => [encX 0x0B 4 x.rd x.rs1 x.rs2]
  | .glreplay x => [encX 0x0B 5 x.rd x.rs1 0]
  | .pginst x => [encX 0x0B 6 x.rd x.rs1 x.rs2]
  | .pgevict x => [encX 0x0B 7 x.rd x.rs1 0]
  | .rfetch x => [encX 0x2B 0 x.rd x.rs1 0]
  | .ueread x => [encX 0x2B 1 x.rd x.rs1 0]
  | .uewrite x => [encX 0x2B 2 x.rd x.rs1 0]
  | .lodeq x => [encX 0x2B 3 x.rd x.rs1 0]
  | .dispatchRun x => [encX 0x2B 4 x.rd x.rs1 x.rs2]
  | .dispatchStop x => [encX 0x2B 4 x.rd x.rs1 x.rs2]
  | .dispatchPreempt x => [encX 0x2B 4 x.rd x.rs1 x.rs2]
  | .qsave x => [encX 0x2B 5 x.rd x.rs1 x.rs2]
  | .qload x => [encX 0x2B 6 x.rd x.rs1 x.rs2]
  | .fenceConditionsMet _ => []
  | .shareChangeDone _ => []
  | .subscriptionRegister _ => []
  | .subscriptionDelivery _ => []
  | .copyQueueFree _ => []
  | .copyArrival _ => []
  | .copyError _ => []
  | .wloadComplete _ => []
  | .matrixQueueFree _ => []
  | .matrixEntryPerform _ => []
  | .mmaRoundExecute _ => []
  | .slotBoundary _ => []
  | .fabricPortFree _ => []
  | .putGetComplete _ => []
  | .windowRequestArrival _ => []
  | .deferredResultLand _ => []
  | .sfuEnter _ => []
  | .registerUnitRelease _ => []
  | .storeQueueLeave _ => []
  | .faultQueueFree _ => []
  | .gutterOverflowRelease _ => []
  | .gutterReplay _ => []
  | .grainRefusal _ => []
  | .homeRead _ => []
  | .homePartialStore _ => []
  | .homeFullGrainWrite _ => []
  | .homeAtomic _ => []
  | .fCopyEviction _ => []
  | .mGrainEviction _ => []
  | .grainLostMark _ => []
  | .invalidationDeliveryFailure _ => []
  | .declarationTimeout _ => []
  | .waitaTimeout _ => []
  | .sleepWake _ => []
  | .hangExpiry _ => []
  | .faultDeadline _ => []
  | .recordArrival _ => []
  | .binTimerExpiry _ => []
  | .drainCut _ => []
  | .sheafLaunch _ => []
  | .postWaitServe _ => []
  | .postWaitStall _ => []
  | .instanceStallDrain _ => []
  | .instanceComplete _ => []
  | .preemptSave _ => []
  | .teamResume _ => []
  | .hostsharedToAccelDone _ => []
  | .hostSnoop _ => []
  | .swaitReturn _ => []
  | .transferDone _ => []
  | .transferTimeout _ => []
  | .transferServe _ => []
  | .lodeLookup _ => []
  | .lodeCas _ => []
  | .lodeAddhold _ => []
  | .lodeDrophold _ => []
  | .lodeInsert _ => []
  | .lodeInval _ => []
  | .lodeAck _ => []
  | .lodeRdreq _ => []
  | .invalRingArrival _ => []
  | .qpktNop _ => []
  | .qpktStart _ => []
  | .qpktWait _ => []
  | .qpktSignal _ => []
  | .qpktFence _ => []
  | .qpktBarrier _ => []
  | .qpktTimestamp _ => []
  | .signalReevaluate _ => []
  | .signalPollTimer _ => []
  | .notifyWrite _ => []
  | .fqhArmWrite _ => []
  | .fqhPopRead => []
  | .fqhDoneLowWrite _ => []
  | .fqhRefuse _ => []
  | .fqhReturn _ => []
  | .trnModeWrite _ => []
  | .trnInvPages _ => []
  | .trnInvPasidPages _ => []
  | .trnInvPasidAll _ => []
  | .trnInvAll _ => []
  | .invalidationComplete _ => []
  | .teardownStart _ => []
  | .teardownDrained _ => []
  | .sltEntryWrite _ => []
  | .windowEntryWrite _ => []
  | .vifCfgWrite _ => []
  | .hfrHoldWrite _ => []
  | .hfrXackWrite _ => []
  | .hfrIrtailWrite _ => []
  | .registerWrite _ => []
  | .planeDown _ => []
  | .uePathDown _ => []
  | .nodeSilentTimeout _ => []
  | .declarationConfirm _ => []
  | .hostReset => []
  | .boot _ => []
  | .spdmMeasurementRequest _ => []
  | .spdmCounterRead _ => []
  | .serviceCoreFence _ => []
  | .serviceCoreAmo _ => []
  | .xkrovCsrWrite _ => []
  | .nodeRejoin _ => []
  | .hostsharedAccelHoldExpiry _ => []
  | .hostsharedTransferDeadline _ => []
  | .nodeqAnswer _ => []
  | .wcrdAnswer _ => []
  | .discardComplete _ => []
  | .unsubComplete _ => []

/-! ### The table's numbering of bits -/

/-- The 32-bit words of a number, low word first. -/
def wordsOf (nbits w : Nat) : List Word :=
  (List.range (max 4 ((nbits + 31) / 32))).map fun k => BitVec.ofNat 32 (w / 2 ^ (32 * k))

/-- The instruction the decoder reads from bits numbered as the opcode table numbers them. An Xkrov word is told from
an Iluqua word by its opcode and zero funct7; every word the two patterns share is a MAX word (R41, R374; log 11). -/
noncomputable def decodeTableWord (nbits w : Nat) : Option Instr :=
  match wordsOf nbits w with
  | [] => none
  | w0 :: rest =>
    match decodeXkrov w0 0 with
    | some i => some i
    | none =>
      match decodeWords (w0 :: rest) with
      | .ok (i, _) => some i
      | .error _ => none

end Sys2Proof
end

