-- ==== Sys2Proof/Machine/State.lean ====
section
/-! DEFINITION. The state of the package as plain data, the reasons a step can stop, and the state after reset.
A `Sparse` list keeps (key, value) pairs with rising keys and lists no default value. -/

namespace Sys2Proof.Machine

/-- Finite maps: keys strictly rising, no entry equal to the default an unlisted key reads as. -/
abbrev Sparse (α : Type) := List (Nat × α)

/-- Memory in canonical form; an unlisted byte reads as zero (log 3). -/
abbrev Mem := List Host.Cell

/-- Reasons the machine stops. -/
inductive Fault where
  /-- Raised by exec and step when the acting group or service core is not in the state: a state no run
  reaches, since only running groups and existing cores are scheduled (safe). -/
  | noAgent
  deriving DecidableEq, Repr

/-- Reasons an instruction is not given a meaning. -/
inductive Refusal where
  /-- Raised by Dispatch.lean for an instruction without a meaning yet (safe). -/
  | notModelled (mnemonic : String)
  deriving DecidableEq, Repr

/-! ### Groups and lanes -/

/-- Why a single lane is parked (R133): a barrier generation, a barrier its group's held arrival has not reached yet
(R226), a registered wait, or a signed round. -/
inductive LanePark where
  | bar (n : Nat) (gen : Nat)
  | barHeld (n : Nat)
  | waita
  | mma (k : Nat)
  deriving DecidableEq, Repr

/-- One lane: program counter and age (R134), registers (R37) and stochastic state (R70). -/
structure Lane where
  pc : DWord
  age : Nat
  exited : Bool
  park : Option LanePark
  regs : Sparse Word
  rng : Word
  deriving DecidableEq, Repr

/-- A share window (R174). -/
structure Share where
  base : Nat
  len : Nat
  wr : Bool
  deriving DecidableEq, Repr

/-- Why a group is parked as a whole (R133, R446). A park keeps the instruction unperformed, to execute
again (log 12), unless it carries what its event needs to complete it; `mine` tells whether this GRPSTOP made the stop
it waits for. A park on a page names the page and the address a trap reports (R30). -/
inductive Park where
  | settle
  | sleep (wake : Nat) (settle : Bool)
  | fault (pasid vpn va : Nat) (info : Word)
  | queueFull (remote : Bool) (vpn va : Nat) (need : BitVec 6) (chain : Bool) (info : Word)
  | overflow (since : Nat)
  | storeRoom
  | drain
  | fence (scope : Nat) (settle : Bool)
  | copyQueue (since : Nat)
  | matrixQueue
  | portQueue (since : Nat)
  | share (w : Option Share) (since : Nat) (settle : Bool)
  | subRegister (d : Nat) (va : Nat) (block : Nat) (settle : Bool)
  | unsub (h : Nat) (settle : Bool)
  | wload
  | ztransfer
  | waitg (d off : Nat) (v : Word) (settle : Bool)
  | cbAcq (obj since : Nat)
  | cbWait (d obj : Nat) (n : Word) (settle : Bool)
  | wcwait
  | nodeq (d : Nat) (q : Word)
  | wcrd (d : Nat) (sel : Word)
  | discard (va pages : Nat) (settle : Bool)
  | postWait
  | stopping
  | grpstop (mine : Bool)
  | recall
  | hostWait (q since : Nat)
  | winAtom
  deriving DecidableEq, Repr

/-- What a store-queue entry does when it leaves (R211); `bar` is an arrival held behind its group's stores (R226). -/
inductive SqKind where
  | team | clt | att | st | sto | stog | red | claim | bar
  deriving DecidableEq, Repr

/-- One store-queue entry: one lane's single-copy access, or one whole grain (R211, R192); `stamp` is the cycle it
entered the queue in, `issued` the first issue of its instruction and its PC, which the groups of a pack share (R170,
R172). -/
structure SqEntry where
  kind : SqKind
  va : Nat
  data : List Byte
  cmp : DWord
  scope : Nat
  rel : Bool
  op : AtomOp
  wide : Bool
  inst : Word
  target : Nat
  stamp : Nat
  issued : Nat × DWord
  lane : Nat
  deriving DecidableEq, Repr

/-- An outstanding deferred result (R143): the registers it holds and the values that land. -/
structure Deferred where
  id : Nat
  vregs : List Nat
  uregs : List Nat
  lanes : List (Nat × Nat × Word)
  unis : List (Nat × Word)
  flags : BitVec 5
  wait : Nat
  deriving DecidableEq, Repr

/-- A trap on its way to a group: cause, address, first word and detail (R359, R360). -/
structure TrapRec where
  cause : BitVec 8
  addr : DWord
  inst : Word
  info : Word
  block : BitVec 512
  deriving DecidableEq, Repr

/-- The trap frame of a group (R360, R361). -/
structure Frame where
  trap : TrapRec
  pc : DWord
  issuing : BitVec 64
  live : BitVec 64
  pcs : Sparse DWord
  uregs : Sparse Word
  vregs : Sparse (Sparse Word)
  tile : Nat
  deriving DecidableEq, Repr

/-- What stopped a group that is not in the handler (R133, R362, R365, R368). -/
inductive StopKind where
  | grpstop | hang | preempt
  deriving DecidableEq, Repr

/-- A trap owed to lanes that signed a discarded round and have left its MMA: the group takes it when one of them issues
there again (R271, R279). -/
structure Owed where
  lanes : List Nat
  pc : DWord
  cause : BitVec 8
  info : Word
  deriving DecidableEq, Repr

/-- One group of a team (R14, R133). A refusal leaves `refused` and `blocked` until the trap is taken; then stores
queued up to cycle `hold` wait for the handler to resume the group; `refusedAt` is the cycle in which the refused
store was queued (R188). `half` holds the halves of a 128-bit LD that were read early: PC, whether they are the high
ones, lane and bytes (R192). `claims` holds the stages claimed by CB.WAIT: object, PC and stage (R261); `winRes` the
values window atomics have returned: PC, lane, value. `held` lists the lanes whose instruction is parked before it
took effect and issues again first, and, while a precise trap is pending, its issuing set; `pending` is the trap on
its way and `later` those that wait behind it; `readyAt` is the cycle from which the group may issue again (R140,
R158); `needs` says that a page its parked instruction waited for has come and the instruction has not completed
(R335); `owed` the traps of discarded rounds; `badV` (lane, register) and `badU` the registers whose parity is wrong
(R91). -/
structure Group where
  slot : Nat
  lanes : List Lane
  uregs : Sparse Word
  tile : Nat
  fflags : BitVec 5
  park : Option Park
  stop : Option StopKind
  inHandler : Bool
  frame : Option Frame
  pending : Option TrapRec
  later : List TrapRec
  storeQ : List SqEntry
  blocked : Bool
  refusedAt : Nat
  hold : Nat
  refused : Option TrapRec
  claims : List (Nat × DWord × Word)
  half : Option (DWord × Bool × List (Nat × List Byte))
  winRes : List (DWord × Nat × DWord)
  deferred : List Deferred
  arrivals : Sparse Nat
  lastIssue : Nat
  readyAt : Nat
  held : List Nat
  settling : Bool
  released : Bool
  needs : Bool
  owed : List Owed
  badV : List (Nat × Nat)
  badU : List Nat
  deriving DecidableEq, Repr

/-! ### The matrix array of a team -/

/-- One weight buffer (R264); `badE` and `badS` list the 4-byte words of its parts that hold an uncorrectable error
(R283). -/
structure WBuf where
  loaded : Option (Fmt × Nat × Nat)
  elems : Mem
  side : Mem
  badE : List Nat
  badS : List Nat
  deriving DecidableEq, Repr

/-- The collector latch (R280). -/
structure Latch where
  fmt : Fmt
  rows : Sparse Word
  scales : Sparse Word
  deriving DecidableEq, Repr

/-- A lane's signature: set index, lane, the PC it is held at, captured activation and scale registers (R270). -/
structure Signer where
  m : Nat
  grp : Nat
  lane : Nat
  pc : DWord
  regs : List Word
  scales : List Word
  deriving DecidableEq, Repr

/-- A convergence register (R268). -/
inductive KReg where
  | idle
  | armed (g0 : Nat)
  | opened (g0 : Nat) (w t : Word) (signers : List Signer)
  deriving DecidableEq, Repr

/-- An entry of the matrix queue (R266). -/
inductive MqKind where
  | mma (x : Mma) (signers : List Signer)
  | wload (x : WLoad) (g : Nat) (elems side : Nat)
  | wact
  | zclr (z : Nat)
  | zstt (z : Nat) (g : Nat) (off : Nat)
  | zldt (z : Nat) (g : Nat) (off : Nat)
  | zrd (z : Nat) (g : Nat) (res : Nat) (lanes : List (Nat × Nat × Word)) (d : Nat)
  | zwr (z : Nat) (clr : Word) (lanes : List (Nat × Word × Word × Word))
  deriving DecidableEq, Repr

/-- A queued matrix instruction, the cycle it entered (R287), and for a round whether it has passed the checks at the
queue head, so that its signers are free (R279). -/
structure MqEntry where
  kind : MqKind
  entered : Nat
  passed : Bool
  deriving DecidableEq, Repr

/-- An accumulator tile: word 128 × i + c, its status, and the words whose parity is wrong (R281 to R283). -/
structure Tile where
  words : Sparse Word
  status : BitVec 4
  bad : List Nat
  deriving DecidableEq, Repr

/-! ### Teams -/

/-- A subscription of a team (R179); `resync` is the RESYNC bit of its STATUS. -/
structure Sub where
  handle : Nat
  block : Nat
  va : Nat
  len : Nat
  loc : Nat
  active : Bool
  resync : Bool
  deriving DecidableEq, Repr

/-- A named barrier: generation and arrival count (R160). -/
structure Barrier where
  gen : Nat
  count : Nat
  deriving DecidableEq, Repr

/-- Where a team stands (R16, R368 to R370). -/
inductive Place where
  | running
  | preempting
  | saved
  | ended
  deriving DecidableEq, Repr

/-- One team with everything its slot holds (R14, R39, R83, R163); `codeFrom` is the length of the code log when it was
launched (R28); `shareSeen` lists the teams of the cluster whose core's copy of the share table holds the change under
way, with the cycle it reached them (R175); `badT` lists the team-memory words, by offset / 4,
that hold a double-bit error (R169). -/
structure Team where
  id : Nat
  inst : Nat
  place : Place
  core : Nat
  slot : Nat
  pasid : Nat
  vif : Nat
  width : Nat
  vregs : Nat
  ztiles : Nat
  kregs : Nat
  groups : List Group
  teamId : Word
  clusterId : Word
  clusterTeam : Nat
  clusterW : Nat
  clusterH : Nat
  clusterKey : Nat
  node : Nat
  label : Nat
  sheafBase : Nat
  sheafN : Nat
  depth : Nat
  params : DWord
  handler : DWord
  window : Nat
  tmem : Mem
  badT : List Nat
  tiles : Sparse Tile
  kregState : Sparse KReg
  barriers : Sparse Barrier
  bufs : Sparse WBuf
  activeBuf : Nat
  wloads : Nat
  latch : Option Latch
  mq : List MqEntry
  share : Option Share
  shareSeen : List (Nat × Nat)
  subs : List Sub
  hang : Nat
  res : Nat
  codeFrom : Nat
  deriving DecidableEq, Repr

/-! ### Cores: caches, the Gutter and the slot table -/

/-- A line in an L1: line number and its 128 bytes, as read (R184, R185). -/
structure L1Line where
  line : Nat
  data : Mem
  deriving DecidableEq, Repr

/-- An access that is performed at core scope and on its way to its home (R187, R199, R213); `logged` when it replays
from the Gutter an entry with PEND (R227). -/
structure HomeReq where
  team : Nat
  grp : Nat
  pasid : Nat
  pa : Nat
  e : SqEntry
  result : Option (Nat × Nat × Nat)
  order : Order
  unreached : List Holder
  since : Nat
  logged : Bool
  deriving DecidableEq, Repr

/-- A Gutter entry (R351). -/
structure GutterEntry where
  team : Nat
  grp : Nat
  pasid : Nat
  e : SqEntry
  logged : Nat
  pend : Bool
  since : Nat
  deriving DecidableEq, Repr

/-- The pack that issues (R137): its lane pipe, its groups, and whether it has been presented to the special-function
pipe (R113). -/
structure Pack where
  pipe : Nat
  groups : List GRef
  shown : Bool
  deriving DecidableEq, Repr

/-- One core (R113, R184, R285, R351): the pack that issues, the packs that lane pipes hold for the special-function
pipe and the cycle from which that pipe is free; the slot table in force, as last written, the cycle of that write,
and the cycle from which the array is free. -/
structure Core where
  l1 : List L1Line
  reqs : List HomeReq
  gutter : List GutterEntry
  logSeq : Nat
  pack : Option Pack
  sfuHeld : Sparse (List GRef)
  sfuUntil : Nat
  slots : Sparse Word
  slotsNext : Sparse Word
  slotWrote : Nat
  arrayFree : Nat
  deriving DecidableEq, Repr

/-! ### The home directory and wait lists -/

/-- Copies of one 128-byte line in RDCs (R233). -/
structure LineDir where
  shared : List Holder
  fwd : Option Holder
  deriving DecidableEq, Repr

/-- The home directory: copies by line, the RDC that owns a grain in E or M (R186, R233), and for each node that has
come back the homes it has not reached again (R238); data is held in memory, where the owner's value and the home's
agree (log 13). -/
structure Dir where
  lines : Sparse LineDir
  owners : Sparse (Option Holder)
  returned : List (Nat × Nat)
  deriving DecidableEq, Repr

/-- A waiter registered at a home (R203, R204). Once woken it has left the list, by its timeout or not, and re-reads the
word as soon as the home can serve it (R229, R234). -/
structure WaitReg where
  chiplet : Nat
  pa : Nat
  va : DWord
  g : GRef
  lane : Nat
  d : Nat
  cmp : Word
  cond : WaitCond
  scope : Nat
  deadline : Nat
  woken : Option Bool
  deriving DecidableEq, Repr

/-! ### Workings instances and launchers -/

/-- A captured node descriptor (R290). -/
structure NodeDesc where
  clh : Nat
  clw : Nat
  kregs : Nat
  ztiles : Nat
  tmem : Nat
  vregs : Nat
  width : Nat
  groups : Nat
  range : Bool
  depthLim : Nat
  target : Nat
  recBytes : Nat
  reserve : Nat
  count : Nat
  timer : Nat
  entries : List Word
  deriving DecidableEq, Repr

/-- A record in flight to its bin: its poster, its slot and its home launcher (R303). -/
structure Flight where
  g : GRef
  slot : Nat
  launcher : Nat
  node : Nat
  label : Nat
  deriving DecidableEq, Repr

/-- A bin with its records, oldest first, and the cycle its oldest record arrived (R304). -/
structure Bin where
  launcher : Nat
  node : Nat
  label : Nat
  recs : List Nat
  since : Nat
  deriving DecidableEq, Repr

/-- A cut sheaf or range entry on a ready list (R304, R306); `depth` is the largest DEPTH its slots' headers held at
the cut, `cluster` a range entry's number. -/
structure Sheaf where
  launcher : Nat
  node : Nat
  label : Nat
  recs : List Nat
  depth : Nat
  cluster : Nat
  seq : Nat
  deriving DecidableEq, Repr

/-- A lane's record: who posts it, the register of its status, its node, label, payload offset and key; an unserved
lane of a POST.wait keeps it (R299, R300). -/
structure PostWaiter where
  g : GRef
  lane : Nat
  d : Nat
  node : Nat
  label : Nat
  off : Nat
  key : Option DWord
  deriving DecidableEq, Repr

/-- A running workings instance (R289 to R312), with the addresses of its completion word and signal; `ended` holds
the node, the cause and the records left of one that has ended and still has to write them (R309, R312; log 25). -/
structure Inst where
  id : Nat
  desc : Nat
  conc : Bool
  pasid : Nat
  vif : Nat
  queue : Nat
  codeBase : DWord
  handler : DWord
  nodes : List NodeDesc
  arena : Nat
  params : Nat
  slotBase : Nat
  slotBytes : Nat
  arenaEnd : Nat
  slots : Nat
  used : List Nat
  res : Nat
  flights : List Flight
  bins : List Bin
  ready : List Sheaf
  waiters : List PostWaiter
  counters : Sparse Nat
  launched : Nat
  completion : Nat
  signal : Option Nat
  ended : Option (Nat × BitVec 8 × Nat)
  deriving DecidableEq, Repr

/-! ### Fault queues -/

/-- A waiter of a fault entry (R345); a Gutter entry's post and a DISCARD's wait for room alone (R346). -/
inductive Waiter where
  | group (g : GRef) (needs : BitVec 6)
  | engine (copy : Nat) (needs : BitVec 6)
  | queue (slot pasid vpn : Nat) (needs : BitVec 6)
  | signal (vif : Nat) (q : Nat)
  | gutter (core pasid vpn : Nat) (since : Nat)
  | window (id pasid vpn : Nat) (needs : BitVec 6)
  | discard (g : GRef) (vpn : Nat)
  deriving DecidableEq, Repr

/-- A fault entry (R342), its waiters (R345) and the decline cause last recorded (R349). -/
structure FEntry where
  pasid : Nat
  vpn : Nat
  vif : Nat
  needs : BitVec 6
  chain : Bool
  stage : Nat
  tries : Nat
  signal : Bool
  engine : Bool
  merges : Nat
  time : Nat
  core : Nat
  engno : Nat
  qslot : Nat
  seq : Nat
  waiters : List Waiter
  declined : BitVec 8
  deriving DecidableEq, Repr

/-- One fault queue of a chiplet (R346). -/
structure FQueue where
  entries : List FEntry
  seq : Nat
  head : Nat
  starved : List Waiter
  deriving DecidableEq, Repr

/-- An entry in service (R382): whether its page has been installed under the handle, whether the page is held, whether
replay ran, and how many entries it replayed (R383 to R385). -/
structure Served where
  hart : Nat
  handle : Nat
  chiplet : Nat
  remote : Bool
  entry : FEntry
  installed : Bool
  hold : Bool
  replayed : Bool
  replays : Nat
  deriving DecidableEq, Repr

/-- The fault queues, the host queue and its registers, deadlines and spill lists; `spillNext` is the place of each
chiplet's spill ring that its next record takes (R370, log 21). -/
structure FaultSys where
  queues : Sparse FQueue
  served : List Served
  host : List FEntry
  hostSeq : Nat
  arm : Bool
  latch : BitVec 256
  doneLow : Word
  popped : List FEntry
  deadline : Sparse Word
  spill : Sparse (List GutterEntry)
  spillNext : Sparse Nat
  gspBase : Sparse DWord
  gspSize : Sparse Word
  deriving DecidableEq, Repr

/-! ### Copy engines, subscriptions and the fabric -/

/-- An accepted copy with everything it captured (R241); `grains` are the destination grains its engine owns, `held`
says that these are all of them (R186, R228); `done` lists the pieces of 128 bytes it has written (R242, R243), and
`since` the host region it waits for, with the cycle the wait began (R339). -/
structure CopyJob where
  id : Nat
  g : GRef
  engine : Nat
  pasid : Nat
  vif : Nat
  dir : CopyDir
  src : BitVec 512
  dst : BitVec 512
  coords : List Word
  chain : Option (BitVec 512)
  aw : Option Nat
  waiting : Option (Nat × Nat)
  grains : List Nat
  held : Bool
  done : List Nat
  since : Option (Nat × Nat)
  deriving DecidableEq, Repr

/-- A registered (base, length) pair with its counter (R181); `pa` is where its page lies, none while a DISCARD has left
the page without a frame. -/
structure SubHome where
  va : Nat
  pasid : Nat
  pa : Option Nat
  len : Nat
  count : Word
  members : List (Nat × Nat)
  deriving DecidableEq, Repr

/-- A delivery in flight (R181). -/
structure Delivery where
  team : Nat
  handle : Nat
  off : Nat
  data : List Byte
  seq : Word
  deriving DecidableEq, Repr

/-- A PUT or GET in a port queue (R412), or a window atomic of a lane at a PC (R201); `entry` is the import entry it
was admitted under (R408), `dropped` the cause that ends it on this side, `since` the host region it waits for, with
the cycle the wait began (R339). -/
structure FabOp where
  id : Nat
  team : Nat
  chiplet : Nat
  put : Bool
  va : Nat
  len : Nat
  vif : Nat
  imp : Nat
  off : Nat
  pasid : Nat
  notify : Bool
  entry : BitVec 256
  dropped : Option (BitVec 8)
  atom : Option (GRef × Nat × DWord)
  since : Option (Nat × Nat)
  deriving DecidableEq, Repr

/-- A window request that was admitted under an export entry and waits at this package (R409); `since` as for an
operation. -/
structure WinWait where
  id : Nat
  req : WindowReq
  entry : BitVec 256
  since : Option (Nat × Nat)
  deriving DecidableEq, Repr

/-- A message that leaves the package. -/
inductive Msg where
  | windowReply (src tag : Nat) (cause : BitVec 8) (data : List Byte)
  | put (id node : Nat) (key : BitVec 16) (exp off : Nat) (notify : Bool) (len : Nat) (data : List Byte)
  | get (id node : Nat) (key : BitVec 16) (exp off len : Nat)
  | windowAtomic (node : Nat) (key : BitVec 16) (exp : Nat) (off : Nat) (op : AtomOp) (wide : Bool)
      (ret : Bool) (b c : DWord) (tag : Nat)
  | lost (node line : Nat)
  | xfer (hart credit node : Nat) (write : Bool) (space : Nat) (remote len : Nat) (data : List Byte)
  | xferReply (src tag : Nat) (code : BitVec 8) (data : List Byte)
  | lode (hart credit node op : Nat) (entry : BitVec 256) (expect tag : Word)
  | lodeReply (src tag : Nat) (code : BitVec 8) (entry : BitVec 256)
  | declare (node : Nat)
  | measurement (i : Nat) (v : BitVec 384)
  | counter (i : Nat) (v : Nat)
  | flush (region : Nat)
  | snoopData (pa : Nat) (data : List Byte)
  | snoopReply (pa : Nat)
  | register (v : DWord)
  deriving DecidableEq, Repr

/-- The fabric, its windows and the membership of the pod (R406 to R416); `pod` counts the packages of the pod and
`pods` the pods reachable, as firmware last found them (R21, R23). Window entry n of interface v lies at key 512 × v +
n for imports and 512 × v + 256 + n for exports. -/
structure Fabric where
  ops : List FabOp
  waiting : List WinWait
  windows : Sparse (BitVec 256)
  nodeId : BitVec 16
  planesDown : List Nat
  uesDown : List Nat
  silent : Sparse Nat
  dead : List Nat
  epochs : Sparse Nat
  outbox : List Msg
  pod : Nat
  pods : Nat
  deriving DecidableEq, Repr

/-! ### Service cores, the Lode and the queue slots -/

/-- A hart waiting in SWAIT (R381). -/
structure HartWait where
  rd : Nat
  mask : DWord
  deadline : Option Nat
  deriving DecidableEq, Repr

/-- One service core (R371 to R378). Role: 0 slice, 1 Headframe, 2 queue, 3 management. -/
structure Hart where
  role : Nat
  num : Nat
  pc : DWord
  mode : Nat
  x : Sparse DWord
  csrs : Sparse DWord
  mxkenable : BitVec 16
  mxklode : BitVec 17
  taken : BitVec 64
  xack : BitVec 64
  ctrlAck : Bool
  wait : Option HartWait
  reserved : Option Nat
  deriving DecidableEq, Repr

/-- What a posted descriptor asks (R387, R392). -/
inductive XferKind where
  | rfetch | ueread | uewrite | lode (op : Nat)
  deriving DecidableEq, Repr

/-- A posted transfer or Lode request (R388). -/
structure Xfer where
  hart : Nat
  credit : Nat
  kind : XferKind
  desc : Nat
  loc : Nat
  len : Nat
  node : Nat
  path : Nat
  tag : Word
  posted : Nat
  deriving DecidableEq, Repr

/-- A hardware queue slot's state (R398). -/
inductive SlotState where
  | idle | loaded | running | stopping | stopped
  deriving DecidableEq, Repr

/-- A hardware queue slot (R398 to R404). `poll` is the cycle a WAIT that found no registration reads again (R401);
`held` says that the slot holds at its packet for a page, and what a refusal of that page comes to: 0 a packet error,
else the REASON of R293; `failed` keeps that REASON until the packet executes again. -/
structure QSlot where
  state : SlotState
  event : Nat
  qcb : BitVec 1024
  save : Nat
  emptySeen : Bool
  preempting : Bool
  poll : Option Nat
  held : Option Nat
  failed : Option Nat
  deriving DecidableEq, Repr

/-- A registration of the signal unit, with the slot its WAIT ran in; `hit` once a write made its condition hold
(R401). -/
structure SigReg where
  pasid : Nat
  va : Nat
  pa : Option Nat
  cond : WaitCond
  val : DWord
  vif : Nat
  q : Nat
  save : Nat
  slot : Nat
  hit : Bool
  deriving DecidableEq, Repr

/-- The queue system: slots, notify words, aggregate, remap and slot-event bits (R398). Queue q of interface v has
number 1,024 × v + q. -/
structure QueueSys where
  slots : Sparse QSlot
  notify : Sparse (Option Word)
  agg : List Nat
  rmap : List Nat
  slotEv : List Nat
  regs : List SigReg
  deriving DecidableEq, Repr

/-- An invalidation ring (R393). -/
structure Ring where
  base : DWord
  head : Nat
  tail : Nat
  count : Nat
  waiting : List RingMsg
  deriving DecidableEq, Repr

/-- The Headframe's registers and the Lode shards this package holds (R389 to R393, R405). -/
structure Lode where
  entries : List (BitVec 256)
  rings : Sparse Ring
  spBase : DWord
  spCount : BitVec 17
  hold : Bool
  deriving DecidableEq, Repr

/-! ### Translation registers, host sharing, management -/

/-- A teardown register (R340). -/
structure Td where
  pasid : Nat
  state : Nat
  deriving DecidableEq, Repr

/-- Translation registers (R317, R326, R333, R340). Map 64 is the host function's. -/
structure Trn where
  normal : Bool
  refused : Bool
  busy : Bool
  ptBase : DWord
  inva : Sparse DWord
  invb : Sparse DWord
  started : Sparse DWord
  td : Sparse Td
  deriving DecidableEq, Repr

/-- A HOSTSHARED region: its state, since when, and the lines the host has snooped and waits for, with whether the
line is still to be returned (R338, R339, R417). -/
structure Region where
  state : Nat
  since : Nat
  snoops : List (Nat × Bool)
  deriving DecidableEq, Repr

/-- Management: MGT_BOOT, measurements, lifetime counters, fused values, and whether service cores run
(R419 to R423). -/
structure Mgt where
  boot : Word
  meas : List (BitVec 384)
  counters : Sparse Nat
  rsaHash : BitVec 384
  slhHash : BitVec 384
  minVersion : Nat
  started : Bool
  deriving DecidableEq, Repr

/-- One entry of the Ridge table (R21). -/
structure RidgeEntry where
  ex : Bool
  promote : Nat
  members : Nat
  typ : Word
  worst : Word
  rt : Word
  deriving DecidableEq, Repr

/-! ### The whole machine -/

/-- The agent whose turn it is: nobody, a group, whichever group of a core R137 picks, or a service core. -/
inductive Actor where
  | idle
  | group (g : GRef)
  | core (c : Nat)
  | hart (h : Nat)
  deriving DecidableEq, Repr

/-- A soft error (R422): a word of a register file, of team memory, of a tile or of a weight buffer, or a word of
HBM4, that can no longer be corrected; or an event that is corrected and counted under a number (R423; log 33). -/
inductive Upset where
  | reg (r : GRef) (lane v : Nat)
  | uni (r : GRef) (u : Nat)
  | tmem (team word : Nat)
  | tile (team z word : Nat)
  | weight (team buf : Nat) (side : Bool) (word : Nat)
  | hbm (word : Nat)
  | counted (n : Nat)
  deriving DecidableEq, Repr

/-- One move of the schedule (log 4): an event of the opcode table, a turn of an agent, the passing of cycles, a soft
error, what the links have become (the packages of the pod and the pods reachable), an entry of a group's store queue
that leaves before others (R178), a change of a team's share table that reaches a core of its cluster (R175), a
128-bit LD that performs one of its halves first (R192), woken waiters that re-read their words (R203), a piece of a
copy that is written before the others (R242, R256), the end of a host region's transfer to the host (R338) and of a
mode change (R326), and the reload of the Headframe microcode from an image (R405). -/
inductive Move where
  | event (i : Instr)
  | turn (a : Actor)
  | tick (n : Nat)
  | upset (u : Upset)
  | links (pod pods : Nat)
  | pass (g : GRef) (entry : Nat)
  | shareCopy (team mate : Nat)
  | half (g : GRef) (high : Bool)
  | reread
  | piece (copy n : Nat)
  | toHost (region : Nat)
  | modeDone
  | reload (x : BootImage)
  deriving DecidableEq, Repr

/-- The package. `actor` and `moves` are the schedule, `free` counts the free values used, `fresh` the names given;
`badMem` lists the HBM4 words, by address / 4, that hold an uncorrectable error (R242, R422); `codeLog` holds, for each
word written while teams are present, its address / 4 and the value it had before, oldest first (R28). -/
structure State where
  build : Build
  clock : Nat
  actor : Actor
  moves : List Move
  free : Nat
  fresh : Nat
  mem : Mem
  badMem : List Nat
  codeLog : List (Nat × Word)
  ridge : List RidgeEntry
  cores : Sparse Core
  dir : Dir
  waits : List WaitReg
  teams : List Team
  insts : List Inst
  faults : FaultSys
  copies : List CopyJob
  subHomes : List SubHome
  deliveries : List Delivery
  fabric : Fabric
  harts : List Hart
  xfers : List Xfer
  queues : QueueSys
  lode : Lode
  trn : Trn
  regions : Sparse Region
  vifs : Sparse DWord
  mgt : Mgt
  deriving DecidableEq, Repr

/-! ### Reset -/

/-- A core after reset: nothing cached, nothing logged, an open slot table (R286). -/
def Core.reset : Core :=
  { l1 := [], reqs := [], gutter := [], logSeq := 0, pack := none, sfuHeld := [], sfuUntil := 0, slots := [], slotsNext := [], slotWrote := 0
    arrayFree := 0 }

/-- Number of chiplets of a build (R1, R10). -/
def chipletsOf : Build → Nat
  | .kg9P => 8
  | .kg9M => 8
  | .kg9P4 => 4
  | .kg9M4 => 4

/-- A service core after reset: its role and number; M-mode at pc 0 (log 5). -/
def Hart.reset (role num : Nat) : Hart :=
  { role, num, pc := 0, mode := 3, x := [], csrs := [], mxkenable := 0, mxklode := 0, taken := 0, xack := 0,
    ctrlAck := false, wait := none, reserved := none }

/-- The service cores of a build, slice cores first (R13, R371). -/
def hartsOf (b : Build) : List Hart :=
  (List.range (2 * chipletsOf b)).map (Hart.reset 0) ++ (List.range (chipletsOf b)).map (Hart.reset 1)
    ++ (List.range 4).map (Hart.reset 2) ++ (List.range 2).map (Hart.reset 3)

/-- Whether the reticle scope exists on the build (R19). -/
def hasReticle : Build → Bool
  | .kg9P => true
  | .kg9M => true
  | .kg9P4 => false
  | .kg9M4 => false

/-- The scope a scope is folded into (R19). -/
def foldScope (b : Build) (n : Nat) : Nat := if n = 4 ∧ hasReticle b = false then 5 else n

/-- The MEMBERS figures of R21, for the packages of the pod and the pods reachable. -/
def ridgeMembers (b : Build) (pod pods n : Nat) : Nat :=
  match n with
  | 0 => 64
  | 1 => 64
  | 2 => 16
  | 3 => 2
  | 4 => 4
  | 5 => if hasReticle b then 2 else 4
  | 6 => pod
  | _ => pods

/-- The Ridge table of a part in a pod; `cost n k` is cost word k of scope n (R21, R22). -/
def ridgeTable (b : Build) (pod pods : Nat) (cost : Nat → Nat → Word) : List RidgeEntry :=
  (List.range 8).map fun n =>
    let m := foldScope b n
    { ex := m == n, promote := m, members := ridgeMembers b pod pods m, typ := cost m 0, worst := cost m 1, rt := cost m 2 }

/-- The Ridge table before firmware measures the part: the figures of the build, alone in its pod, costs zero
(log 8). -/
def ridgeReset (b : Build) : List RidgeEntry := ridgeTable b 1 1 fun _ _ => 0

/-- The package of build `b` right after reset. -/
def State.resetOf (b : Build) : State :=
  { build := b, clock := 0, actor := .idle, moves := [], free := 0, fresh := 1, mem := [], badMem := [], codeLog := [], ridge := ridgeReset b,
    cores := [], dir := { lines := [], owners := [], returned := [] }, waits := [], teams := [], insts := [],
    faults := { queues := [], served := [], host := [], hostSeq := 0, arm := false, latch := 0, doneLow := 0,
                popped := [], deadline := [], spill := [], spillNext := [], gspBase := [], gspSize := [] },
    copies := [], subHomes := [], deliveries := [],
    fabric := { ops := [], waiting := [], windows := [], nodeId := 0, planesDown := [], uesDown := [], silent := [], dead := [],
                epochs := [], outbox := [], pod := 1, pods := 1 },
    harts := hartsOf b, xfers := [],
    queues := { slots := [], notify := [], agg := [], rmap := [], slotEv := [], regs := [] },
    lode := { entries := [], rings := [], spBase := 0, spCount := 0, hold := false },
    trn := { normal := false, refused := false, busy := false, ptBase := 0, inva := [], invb := [], started := [], td := [] },
    regions := [], vifs := [],
    mgt := { boot := 0, meas := List.replicate 16 0, counters := [], rsaHash := 0, slhHash := 0, minVersion := 0,
             started := false } }

/-- The machine right after reset: a KG9-P (log 1). -/
def State.reset : State := State.resetOf .kg9P

end Sys2Proof.Machine
end

