-- ==== Sys2Proof/Machine/Operands.lean ====
section
/-! DEFINITION. Operand forms: registers of lanes and groups, second sources, pairs, immediates, and the integer
functions the lane and uniform sets share (R33 to R37, R93 to R100). -/

namespace Sys2Proof.Machine

/-! ### Registers -/

/-- Lane register v of a lane. -/
def Lane.reg (l : Lane) (v : Nat) : Word := Sparse.get 0 l.regs v

/-- Write lane register v. -/
def Lane.setReg (l : Lane) (v : Nat) (x : Word) : Lane := { l with regs := Sparse.set 0 l.regs v x }

/-- Lane L of a group; a lane that is not there reads as an exited lane. -/
def Group.lane (g : Group) (L : Nat) : Lane :=
  g.lanes.getD L { pc := 0, age := 0, exited := true, park := none, regs := [], rng := 0 }

/-- Change lane L. -/
def Group.adjLane (g : Group) (L : Nat) (f : Lane → Lane) : Group := { g with lanes := adjAt f g.lanes L }

/-- ReadLane of R49. -/
def Group.readLane (g : Group) (L v : Nat) : Word := (g.lane L).reg v

/-- WriteLane of R49; a write sets the parity (R91). -/
def Group.writeLane (g : Group) (L v : Nat) (x : Word) : Group :=
  { g.adjLane L fun l => l.setReg v x with badV := g.badV.filter fun e => e ≠ (L, v) }

/-- ReadUni of R49: s0 reads 0 (R37). -/
def Group.readUni (g : Group) (s : Nat) : Word := if s = 0 then 0 else Sparse.get 0 g.uregs s

/-- WriteUni of R49: a write to s0 is discarded (R37). -/
def Group.writeUni (g : Group) (s : Nat) (x : Word) : Group :=
  if s = 0 then g else { g with uregs := Sparse.set 0 g.uregs s x, badU := g.badU.filter fun e => e ≠ s }

/-- A lane pair, low word in the even register (R5). -/
def Group.lanePair (g : Group) (L v : Nat) : DWord := g.readLane L (v + 1) ++ g.readLane L v

/-- Write a lane pair. -/
def Group.writeLanePair (g : Group) (L v : Nat) (x : DWord) : Group :=
  (g.writeLane L v (x.extractLsb' 0 32)).writeLane L (v + 1) (x.extractLsb' 32 32)

/-- A uniform pair, low word in the even register (R5); s0:s1 reads 0 in its low word. -/
def Group.uniPair (g : Group) (s : Nat) : DWord := g.readUni (s + 1) ++ g.readUni s

/-- Write a uniform pair; a pair of s0:s1 writes only s1. -/
def Group.writeUniPair (g : Group) (s : Nat) (x : DWord) : Group :=
  (g.writeUni s (x.extractLsb' 0 32)).writeUni (s + 1) (x.extractLsb' 32 32)

/-- The second source b of an LR word in lane L (R93). -/
def Group.src (g : Group) (L : Nat) : Src → Word
  | .lane r => g.readLane L r.toNat
  | .uni r => g.readUni r.toNat

/-- The second source as a pair (R99). -/
def Group.srcPair (g : Group) (L : Nat) : Src → DWord
  | .lane r => g.lanePair L r.toNat
  | .uni r => g.uniPair r.toNat

/-! ### What an instruction names (R37, R144) -/

/-- Registers, tiles and convergence registers an instruction names, and the registers it reads as sources (R91). -/
structure Names where
  v : List Nat := []
  u : List Nat := []
  z : List Nat := []
  k : List Nat := []
  sv : List Nat := []
  su : List Nat := []
  deriving DecidableEq, Repr

/-- A run of registers. -/
def runOf (r n : Nat) : List Nat := (List.range n).map (r + ·)

/-- Both lists of names. -/
def Names.add (a b : Names) : Names :=
  ⟨a.v ++ b.v, a.u ++ b.u, a.z ++ b.z, a.k ++ b.k, a.sv ++ b.sv, a.su ++ b.su⟩

/-- Lane registers read. -/
def readsV (l : List Nat) : Names := { v := l, sv := l }
/-- Uniform registers read. -/
def readsU (l : List Nat) : Names := { u := l, su := l }
/-- Lane registers only written. -/
def writesV (l : List Nat) : Names := { v := l }
/-- Uniform registers only written. -/
def writesU (l : List Nat) : Names := { u := l }

/-- The register a second source names. -/
def Src.names : Src → Names
  | .lane r => readsV [r.toNat]
  | .uni r => readsU [r.toNat]

/-- The register a second source names, where the lanes that read it are not the issuing ones. -/
def Src.named : Src → Names
  | .lane r => writesV [r.toNat]
  | .uni r => readsU [r.toNat]

/-- The pair a second source names. -/
def Src.pairNames : Src → Names
  | .lane r => readsV (runOf r.toNat 2)
  | .uni r => readsU (runOf r.toNat 2)

/-! ### Integer functions (R94 to R98); each takes a, b and the old destination d -/

/-- A truth value as a word. -/
def boolWord (b : Bool) : Word := if b then 1 else 0

/-- MIN (R94). -/
def fMin (a b : Word) : Word := if a.sle b then a else b
/-- MAX (R94). -/
def fMax (a b : Word) : Word := if b.sle a then a else b
/-- MINU (R94). -/
def fMinU (a b : Word) : Word := if a ≤ b then a else b
/-- MAXU (R94). -/
def fMaxU (a b : Word) : Word := if b ≤ a then a else b
/-- ABS; 0x80000000 gives itself (R94). -/
def fAbs (a : Word) : Word := if a.msb then 0 - a else a
/-- MULHI (R95). -/
def fMulHi (a b : Word) : Word := ((a.signExtend 64) * (b.signExtend 64)).extractLsb' 32 32
/-- MULHIU (R95). -/
def fMulHiU (a b : Word) : Word := ((a.setWidth 64) * (b.setWidth 64)).extractLsb' 32 32
/-- The shift amount n = b<5:0> (R96). -/
def shAmt (b : Word) : Nat := (b.extractLsb' 0 6).toNat
/-- SHL by n (R96). -/
def fShl (a : Word) (n : Nat) : Word := a <<< n
/-- SHR by n (R96). -/
def fShr (a : Word) (n : Nat) : Word := a >>> n
/-- SAR by min(n, 31) (R96). -/
def fSar (a : Word) (n : Nat) : Word := a.sshiftRight (min n 31)
/-- ROL by n mod 32 (R96). -/
def fRol (a : Word) (n : Nat) : Word := a.rotateLeft (n % 32)

/-- The bits of a word from bit 0 up. -/
def bitList (a : Word) : List Bool := (List.range 32).map fun i => a.getLsbD i
/-- POPC (R97). -/
def fPopc (a : Word) : Word := BitVec.ofNat 32 ((bitList a).countP id)
/-- CTZ; 32 when a = 0 (R97). -/
def fCtz (a : Word) : Word := BitVec.ofNat 32 ((bitList a).takeWhile not).length
/-- CLZ; 32 when a = 0 (R97). -/
def fClz (a : Word) : Word := BitVec.ofNat 32 ((bitList a).reverse.takeWhile not).length
/-- BREV (R97). -/
def fBrev (a : Word) : Word := a.reverse

/-- Field position p = min(b<7:0>, 32) (R98). -/
def bfPos (b : Word) : Nat := min (b.extractLsb' 0 8).toNat 32
/-- Field length n = min(b<15:8>, 32 − p) (R98). -/
def bfLen (b : Word) : Nat := min (b.extractLsb' 8 8).toNat (32 - bfPos b)
/-- 2^n − 1 as a word. -/
def lowMask (n : Nat) : Word := BitVec.ofNat 32 (2 ^ n - 1)
/-- BFEU (R98). -/
def fBfeu (a b : Word) : Word := (a >>> bfPos b) &&& lowMask (bfLen b)
/-- BFES (R98). -/
def fBfes (a b : Word) : Word :=
  let n := bfLen b
  let f := fBfeu a b
  if n = 0 then 0 else if f.getLsbD (n - 1) then f ||| ~~~ (lowMask n) else f
/-- BFI (R98). -/
def fBfi (a b d : Word) : Word :=
  let m := lowMask (bfLen b) <<< bfPos b
  (d &&& ~~~ m) ||| ((a <<< bfPos b) &&& m)
/-- One byte of PRMT: bytes 0 to 3 of a, 4 to 7 of d, or the sign spread (R98). -/
def prmtByte (src : DWord) (c : BitVec 4) : Byte :=
  let y : Byte := (src >>> (8 * (c.extractLsb' 0 3).toNat)).setWidth 8
  if c.getLsbD 3 then (if y.msb then 0xFF else 0) else y
/-- PRMT (R98). -/
def fPrmt (a b d : Word) : Word :=
  let src : DWord := d ++ a
  prmtByte src (b.extractLsb' 12 4) ++ prmtByte src (b.extractLsb' 8 4) ++ prmtByte src (b.extractLsb' 4 4)
    ++ prmtByte src (b.extractLsb' 0 4)

/-- The 64-bit shift amount k = B32<6:0> (R99). -/
def shAmt64 (b : Word) : Nat := (b.extractLsb' 0 7).toNat

/-! ### Immediates and targets (R36) -/

/-- Branch target: the next instruction plus 4 × SignExtend(off16). -/
def branchTarget (next : DWord) (off : BitVec 16) : DWord := next + ((off.signExtend 64) <<< 2)

/-! ### Addresses (R34, R42) -/

/-- The global address of lane L: s(sb):s(sb+1) plus the zero-extended va, or the pair va when sb = 0. -/
def Group.globalAddr (g : Group) (L : Nat) (sb : BitVec 6) (a : BitVec 7) : DWord :=
  if sb = 0 then g.lanePair L a.toNat else g.uniPair sb.toNat + (g.readLane L a.toNat).setWidth 64

/-- The team-memory offset of lane L: s(sb) + va, with s0 = 0. -/
def Group.teamAddr (g : Group) (L : Nat) (sb : BitVec 6) (a : BitVec 7) : Word :=
  g.readUni sb.toNat + g.readLane L a.toNat

/-- The registers that form a global address. -/
def addrNames (sb : BitVec 6) (a : BitVec 7) : Names :=
  if sb = 0 then readsV (runOf a.toNat 2) else Names.add (readsV [a.toNat]) (readsU (runOf sb.toNat 2))

/-- The uniform address s(sa):s(sa+1) + SignExtend(imm12) (R42). -/
def Group.uniAddr (g : Group) (a : BitVec 6) (imm : BitVec 12) : DWord := g.uniPair a.toNat + imm.signExtend 64

/-- The bytes of an access's data registers in lane L, low register first. -/
def Group.storeBytes (g : Group) (L : Nat) (d : BitVec 7) (w : MemW) : List Byte :=
  leBytes w.bytes (((runOf d.toNat w.regs).map fun v => (g.readLane L v).toNat).foldr (fun x acc => x + 2 ^ 32 * acc) 0)

/-- The words a load of width w delivers, narrow values extended by x (R34). -/
def loadWords (w : MemW) (x : Bool) (bs : List Byte) : List Word :=
  let v := leNat bs
  match w with
  | .b8 => [if x then (BitVec.ofNat 8 v).signExtend 32 else BitVec.ofNat 32 v]
  | .b16 => [if x then (BitVec.ofNat 16 v).signExtend 32 else BitVec.ofNat 32 v]
  | .b32 => [BitVec.ofNat 32 v]
  | .b64 => [BitVec.ofNat 32 v, BitVec.ofNat 32 (v / 2 ^ 32)]
  | .b128 => (List.range 4).map fun i => BitVec.ofNat 32 (v / 2 ^ (32 * i))

end Sys2Proof.Machine
end

