-- ==== Sys2Proof/Machine/Flags.lean ====
section
/-! DEFINITION. The sticky floating-point flags of a group (R40, R74). -/

namespace Sys2Proof.Machine

/-- NV, DZ, OF, UF and NX in bits 4 to 0 (R40). -/
abbrev FFlags := BitVec 5

/-- an invalid operation produced a NaN -/
def flagNV : FFlags := 16
/-- a division by zero produced an infinity -/
def flagDZ : FFlags := 8
/-- a result overflowed, or a saturating conversion clamped -/
def flagOF : FFlags := 4
/-- a result was tiny and inexact -/
def flagUF : FFlags := 2
/-- a result was inexact -/
def flagNX : FFlags := 1

/-- A flag raised when a condition holds. -/
def flagIf (c : Bool) (f : FFlags) : FFlags := if c then f else 0

/-- Flags of several results together (R74). -/
def orFlags (fs : List FFlags) : FFlags := fs.foldl (· ||| ·) 0

/-- Instructions set flags of their group and never clear them (R40). -/
def Group.raise (g : Group) (f : FFlags) : Group := { g with fflags := g.fflags ||| f }

/-- SWR clears the bits written as 1 (R40, W1C). -/
def Group.clearFlags (g : Group) (x : Word) : Group := { g with fflags := g.fflags &&& ~~~ (x.setWidth 5) }

end Sys2Proof.Machine
end

