-- ==== Sys2Proof/Machine/Float.lean ====
section
/-! DEFINITION. Floating-point formats, exact values, Round with its five modes, overflow and saturation, and the
arithmetic built on them (R57 to R60, R69 to R73). Exact values are dyadic numbers, so no bit is lost before Round. -/

namespace Sys2Proof.Machine

/-! ### Exact values -/

/-- The exact value (−1)^neg × m × 2^e; m = 0 is a signed zero. -/
structure Dy where
  neg : Bool
  m : Nat
  e : Int
  deriving DecidableEq, Repr

/-- A decoded operand. -/
inductive FVal where
  | nan
  | inf (neg : Bool)
  | fin (x : Dy)
  deriving DecidableEq, Repr

/-- +0. -/
def Dy.zero : Dy := ⟨false, 0, 0⟩
/-- The number as an integer at exponent e. -/
def Dy.at (x : Dy) (e : Int) : Int :=
  let v : Int := (x.m * 2 ^ (x.e - e).toNat : Nat)
  if x.neg then -v else v
/-- An integer times 2^e; zero takes the given sign. -/
def Dy.ofInt (v : Int) (e : Int) (zneg : Bool) : Dy := ⟨if v = 0 then zneg else decide (v < 0), v.natAbs, e⟩
/-- x + y; an exact zero is −0 only when both are −0 (R111, IEEE 754 under RNE). -/
def Dy.add (x y : Dy) : Dy :=
  let e := min x.e y.e
  Dy.ofInt (x.at e + y.at e) e (x.neg && y.neg)
/-- −x. -/
def Dy.negate (x : Dy) : Dy := { x with neg := !x.neg }
/-- x × y; the sign is the exclusive or of the signs. -/
def Dy.mul (x y : Dy) : Dy := ⟨x.neg ^^ y.neg, x.m * y.m, x.e + y.e⟩
/-- x × 2^n. -/
def Dy.scale (x : Dy) (n : Int) : Dy := { x with e := x.e + n }
/-- Floor(Log2(|x|)), for x ≠ 0. -/
def Dy.log2 (x : Dy) : Int := (x.m.log2 : Int) + x.e
/-- x < y. -/
def Dy.lt (x y : Dy) : Bool :=
  let e := min x.e y.e
  decide (x.at e < y.at e)
/-- x = y as numbers. -/
def Dy.eq (x y : Dy) : Bool :=
  let e := min x.e y.e
  x.at e == y.at e

/-! ### Layouts (R58) -/

/-- What the top codes of a layout mean. -/
inductive Specials where
  | ieee | e4m3 | none
  deriving DecidableEq, Repr

/-- A floating-point element layout. -/
structure Layout where
  ebits : Nat
  mbits : Nat
  bias : Nat
  sp : Specials
  deriving DecidableEq, Repr

/-- The layouts of R58; MX formats take their element's, other codes binary32. -/
def layoutOf : Fmt → Layout
  | .bf16 => ⟨8, 7, 127, .ieee⟩
  | .fp16 => ⟨5, 10, 15, .ieee⟩
  | .e4m3 => ⟨4, 3, 7, .e4m3⟩ | .mxe4m3 => ⟨4, 3, 7, .e4m3⟩
  | .e5m2 => ⟨5, 2, 15, .ieee⟩ | .mxe5m2 => ⟨5, 2, 15, .ieee⟩
  | .e3m2 => ⟨3, 2, 3, .none⟩ | .mxe3m2 => ⟨3, 2, 3, .none⟩
  | .e2m3 => ⟨2, 3, 1, .none⟩ | .mxe2m3 => ⟨2, 3, 1, .none⟩
  | .e2m1 => ⟨2, 1, 1, .none⟩ | .mxe2m1 => ⟨2, 1, 1, .none⟩
  | _ => ⟨8, 23, 127, .ieee⟩

/-- binary32. -/
def fp32 : Layout := ⟨8, 23, 127, .ieee⟩
/-- binary16. -/
def fp16 : Layout := ⟨5, 10, 15, .ieee⟩
/-- BF16. -/
def bf16 : Layout := ⟨8, 7, 127, .ieee⟩

/-- Least exponent Emin = 1 − bias (R69). -/
def Layout.emin (l : Layout) : Int := 1 - (l.bias : Int)
/-- The sign bit's place value. -/
def Layout.signBit (l : Layout) : Nat := 2 ^ (l.ebits + l.mbits)
/-- The code of the largest finite magnitude. -/
def Layout.maxCode (l : Layout) : Nat :=
  match l.sp with
  | .ieee => (2 ^ l.ebits - 1) * 2 ^ l.mbits - 1
  | .e4m3 => 2 ^ (l.ebits + l.mbits) - 2
  | .none => 2 ^ (l.ebits + l.mbits) - 1
/-- The code of +Inf, where the layout has one. -/
def Layout.infCode (l : Layout) : Nat := (2 ^ l.ebits - 1) * 2 ^ l.mbits
/-- The canonical NaN (R59); 0 where the layout has none. -/
def Layout.nanCode (l : Layout) : Nat :=
  match l.sp with
  | .ieee => l.infCode + 2 ^ (l.mbits - 1)
  | .e4m3 => 2 ^ (l.ebits + l.mbits) - 1
  | .none => 0
/-- A magnitude code with a sign. -/
def Layout.signed (l : Layout) (neg : Bool) (code : Nat) : Nat := if neg then l.signBit + code else code

/-- The value of a code (R58). -/
def Layout.decode (l : Layout) (bits : Nat) : FVal :=
  let neg := bits / l.signBit % 2 == 1
  let ef := bits / 2 ^ l.mbits % 2 ^ l.ebits
  let mf := bits % 2 ^ l.mbits
  if l.sp = .ieee ∧ ef = 2 ^ l.ebits - 1 then (if mf = 0 then .inf neg else .nan)
  else if l.sp = .e4m3 ∧ ef = 2 ^ l.ebits - 1 ∧ mf = 2 ^ l.mbits - 1 then .nan
  else if ef = 0 then .fin ⟨neg, mf, l.emin - l.mbits⟩
  else .fin ⟨neg, 2 ^ l.mbits + mf, (ef : Int) - l.bias - l.mbits⟩

/-! ### Round (R69) -/

/-- The xorshift step of the stochastic state (R70). -/
def stochNext (st : Word) : Word :=
  let a := st ^^^ (st <<< 13)
  let b := a ^^^ (a >>> 17)
  b ^^^ (b <<< 5)

/-- StochasticCarry of R70 on the discarded part rem / 2^sh; n is Log2(q / SourceUlp). -/
def stochCarry (st : Word) (n : Int) (rem sh : Nat) : Nat :=
  if n ≤ 0 then 0
  else
    let m := min n.toNat 32
    let d := if sh ≤ m then rem * 2 ^ (m - sh) else rem / 2 ^ (sh - m)
    if d + st.toNat % 2 ^ m ≥ 2 ^ m then 1 else 0

/-- The kept magnitude of |x| at grid exponent qe, rounded, and whether anything was discarded (R69).
`ulp` is the exponent of SourceUlp, read only by RS. -/
def roundMag (mode : Rnd) (st : Word) (ulp : Int) (x : Dy) (qe : Int) : Nat × Bool :=
  if qe ≤ x.e then (x.m * 2 ^ (x.e - qe).toNat, false)
  else
    let sh := (qe - x.e).toNat
    -- a value below a quarter of the grid keeps k = 0; its fraction is only known to be small and nonzero
    let far := decide (x.m.log2 + 40 < sh) && decide (x.m ≠ 0)
    let k := if far then 0 else x.m / 2 ^ sh
    let rem := if far then 1 else x.m % 2 ^ sh
    let shr := if far then 40 else sh
    let up : Nat :=
      match mode with
      | .rne => if 2 * rem > 2 ^ shr then 1 else if 2 * rem = 2 ^ shr ∧ k % 2 = 1 then 1 else 0
      | .rz => 0
      | .ru => if rem > 0 ∧ x.neg = false then 1 else 0
      | .rd => if rem > 0 ∧ x.neg = true then 1 else 0
      | .rs => stochCarry st (qe - ulp) (if far then 0 else rem) shr
    (k + up, rem ≠ 0)

/-- Overflow by destination, mode and sat (R72): the code, with OF and NX. -/
def overflowCode (l : Layout) (mode : Rnd) (sat neg : Bool) : Nat :=
  match l.sp with
  | .none => l.signed neg l.maxCode
  | .e4m3 => if sat then l.signed neg l.maxCode else l.nanCode
  | .ieee =>
    if sat then l.signed neg l.maxCode
    else
      match mode with
      | .rne => l.signed neg l.infCode
      | .rs => l.signed neg l.infCode
      | .rz => l.signed neg l.maxCode
      | .ru => if neg then l.signed true l.maxCode else l.infCode
      | .rd => if neg then l.signed true l.infCode else l.maxCode

/-- Round of R69 with the overflow of R72: the code and the flags. -/
def roundTo (l : Layout) (mode : Rnd) (sat : Bool) (st : Word) (ulp : Int) (x : Dy) : Nat × FFlags :=
  if x.m = 0 then (l.signed x.neg 0, 0)
  else
    let qe := max x.log2 l.emin - l.mbits
    let (k, inexact) := roundMag mode st ulp x qe
    let code := ((qe + l.mbits + l.bias - 1) * 2 ^ l.mbits + k).toNat
    let nx := flagIf inexact flagNX
    if code > l.maxCode then (overflowCode l mode sat x.neg, flagOF ||| flagNX)
    else (l.signed x.neg code, nx ||| flagIf (inexact && decide (code < 2 ^ l.mbits)) flagUF)

/-- Arithmetic rounding: RNE without saturation (R71). -/
def rne (l : Layout) (x : Dy) : Nat × FFlags := roundTo l .rne false 0 0 x

/-- An arithmetic result: a value to round, an infinity, or a NaN with its flags. -/
inductive FRes where
  | val (x : Dy)
  | inf (neg : Bool)
  | nan (f : FFlags)
  deriving DecidableEq, Repr

/-- Deliver an arithmetic result (R111). -/
def deliver (l : Layout) : FRes → Nat × FFlags
  | .val x => rne l x
  | .inf neg => (l.signed neg l.infCode, 0)
  | .nan f => (l.nanCode, f)

/-! ### Arithmetic on operands (R114, R116, R120) -/

/-- −a. -/
def FVal.negate : FVal → FVal
  | .nan => .nan
  | .inf n => .inf (!n)
  | .fin x => .fin x.negate

/-- a + b: NV for infinities of opposite sign (R114). -/
def fAdd : FVal → FVal → FRes
  | .nan, _ => .nan 0
  | _, .nan => .nan 0
  | .inf m, .inf n => if m = n then .inf m else .nan flagNV
  | .inf m, .fin _ => .inf m
  | .fin _, .inf n => .inf n
  | .fin x, .fin y => .val (x.add y)

/-- a × b: NV for 0 × Inf (R114). -/
def fMul : FVal → FVal → FRes
  | .nan, _ => .nan 0
  | _, .nan => .nan 0
  | .inf m, .inf n => .inf (m ^^ n)
  | .inf m, .fin y => if y.m = 0 then .nan flagNV else .inf (m ^^ y.neg)
  | .fin x, .inf n => if x.m = 0 then .nan flagNV else .inf (x.neg ^^ n)
  | .fin x, .fin y => .val (x.mul y)

/-- d + p for an exact product p; 0 × Inf sets NV even when d is NaN (R116). -/
def fFma (d a b : FVal) : FRes :=
  match fMul a b with
  | .nan f => .nan f
  | .inf n => fAdd d (.inf n)
  | .val p => fAdd d (.fin p)

/-- d + Σ aᵢ × bᵢ, rounded once, with the NaN cases of R120 in their order. -/
def fDot (d : FVal) (ps : List (FVal × FVal)) : FRes :=
  if ps.any fun p => p.1 = .nan || p.2 = .nan then .nan 0
  else
    let rs := ps.map fun p => fMul p.1 p.2
    if rs.any fun r => match r with | .nan _ => true | _ => false then .nan flagNV
    else if d = .nan then .nan 0
    else
      let vs : List FVal := d :: rs.map fun r => match r with | .val x => .fin x | .inf n => .inf n | .nan _ => .nan
      let pos := vs.contains (.inf false)
      let neg := vs.contains (.inf true)
      if pos && neg then .nan flagNV
      else if pos then .inf false
      else if neg then .inf true
      else
        match vs with
        | [] => .val Dy.zero
        | v :: r => r.foldl (fun acc x => match acc, x with | .val a, .fin b => .val (a.add b) | a, _ => a)
            (match v with | .fin x => .val x | _ => .val Dy.zero)

/-- a < b as FMIN, FMAX and FCMP order them; `zeros` also orders −0 below +0 (R114, R117). -/
def fLess (zeros : Bool) : FVal → FVal → Bool
  | .inf m, .inf n => m && !n
  | .inf m, .fin _ => m
  | .fin _, .inf n => !n
  | .fin x, .fin y => if x.m = 0 ∧ y.m = 0 then zeros && x.neg && !y.neg else x.lt y
  | _, _ => false

/-- a = b for FEQ; +0 equals −0 (R117). -/
def fEqual : FVal → FVal → Bool
  | .inf m, .inf n => m == n
  | .fin x, .fin y => x.eq y
  | _, _ => false

/-- FMIN or FMAX on codes: one NaN gives the other operand, two the canonical NaN (R114). -/
def fPick (l : Layout) (larger : Bool) (a b : Nat) : Nat :=
  match l.decode a, l.decode b with
  | .nan, .nan => l.nanCode
  | .nan, _ => b
  | _, .nan => a
  | x, y => if (if larger then fLess true x y else fLess true y x) then b else a

/-! ### Binary32 instructions (R114 to R118) -/

/-- The value of an FP32 register. -/
def f32 (a : Word) : FVal := fp32.decode a.toNat
/-- A result as a register value. -/
def w32 (r : Nat × FFlags) : Word × FFlags := (BitVec.ofNat 32 r.1, r.2)
/-- The canonical FP32 NaN (R59). -/
def nan32 : Word := 0x7FC00000

/-- FADD (R114). -/
def opFadd (a b : Word) : Word × FFlags := w32 (deliver fp32 (fAdd (f32 a) (f32 b)))
/-- FSUB (R114). -/
def opFsub (a b : Word) : Word × FFlags := w32 (deliver fp32 (fAdd (f32 a) (f32 b).negate))
/-- FMUL (R114). -/
def opFmul (a b : Word) : Word × FFlags := w32 (deliver fp32 (fMul (f32 a) (f32 b)))
/-- FMIN (R114). -/
def opFmin (a b : Word) : Word := BitVec.ofNat 32 (fPick fp32 false a.toNat b.toNat)
/-- FMAX (R114). -/
def opFmax (a b : Word) : Word := BitVec.ofNat 32 (fPick fp32 true a.toNat b.toNat)
/-- FCPSGN (R114). -/
def opFcpsgn (a b : Word) : Word :=
  if f32 a = .nan then nan32 else (a &&& 0x7FFFFFFF) ||| (b &&& 0x80000000)
/-- FABS (R115). -/
def opFabs (a : Word) : Word := if f32 a = .nan then nan32 else a &&& 0x7FFFFFFF
/-- FNEG (R115). -/
def opFneg (a : Word) : Word := if f32 a = .nan then nan32 else a ^^^ 0x80000000
/-- FFMA, FFMS, FNMA and FNMS: signs of the addend and of the product (R116). -/
def opFma (negD negP : Bool) (a b d : Word) : Word × FFlags :=
  let x := if negP then (f32 a).negate else f32 a
  let y := if negD then (f32 d).negate else f32 d
  w32 (deliver fp32 (fFma y x (f32 b)))
/-- FCLASS (R118). -/
def opFclass (a : Word) : Word :=
  match f32 a with
  | .nan => 0x100
  | .inf true => 0x001
  | .inf false => 0x080
  | .fin x =>
    if x.m = 0 then (if x.neg then 0x008 else 0x010)
    else if x.m < 2 ^ 23 then (if x.neg then 0x004 else 0x020)
    else (if x.neg then 0x002 else 0x040)
/-- FSCALE (R118). -/
def opFscale (a b : Word) : Word × FFlags :=
  match f32 a with
  | .nan => (nan32, 0)
  | .inf _ => (a, 0)
  | .fin x => if x.m = 0 then (a, 0) else w32 (rne fp32 (x.scale b.toInt))
/-- FGETEXP (R118). -/
def opFgetexp (a : Word) : Word :=
  match f32 a with
  | .nan => 0x7FFFFFFF
  | .inf _ => 0x7FFFFFFF
  | .fin x => if x.m = 0 then 0x80000000 else BitVec.ofInt 32 x.log2

/-! ### Pairs and dots (R119, R120) -/

/-- Apply a function to both 16-bit elements and OR the flags. -/
def onHalves (f : Nat → Nat → Nat → Nat × FFlags) (a b d : Word) : Word × FFlags :=
  let lo := f (a.toNat % 65536) (b.toNat % 65536) (d.toNat % 65536)
  let hi := f (a.toNat / 65536) (b.toNat / 65536) (d.toNat / 65536)
  (BitVec.ofNat 16 hi.1 ++ BitVec.ofNat 16 lo.1, lo.2 ||| hi.2)
/-- HADD2 and BADD2. -/
def opAdd2 (l : Layout) (a b : Word) : Word × FFlags :=
  onHalves (fun x y _ => deliver l (fAdd (l.decode x) (l.decode y))) a b 0
/-- HMUL2 and BMUL2. -/
def opMul2 (l : Layout) (a b : Word) : Word × FFlags :=
  onHalves (fun x y _ => deliver l (fMul (l.decode x) (l.decode y))) a b 0
/-- HFMA2 and BFMA2. -/
def opFma2 (l : Layout) (a b d : Word) : Word × FFlags :=
  onHalves (fun x y z => deliver l (fFma (l.decode z) (l.decode x) (l.decode y))) a b d
/-- HMAX2 and BMAX2. -/
def opMax2 (l : Layout) (a b : Word) : Word × FFlags := onHalves (fun x y _ => (fPick l true x y, 0)) a b 0
/-- HDOT2 and BDOT2. -/
def opDot2 (l : Layout) (a b d : Word) : Word × FFlags :=
  w32 (deliver fp32 (fDot (f32 d) [(l.decode (a.toNat % 65536), l.decode (b.toNat % 65536)),
    (l.decode (a.toNat / 65536), l.decode (b.toNat / 65536))]))
/-- I8DOT4 and U8DOT4. -/
def opDot4 (sgn : Bool) (a b d : Word) : Word :=
  (List.range 4).foldl (fun acc j =>
    let x : Byte := a.extractLsb' (8 * j) 8
    let y : Byte := b.extractLsb' (8 * j) 8
    acc + (if sgn then x.signExtend 32 * y.signExtend 32 else x.setWidth 32 * y.setWidth 32)) d

/-! ### Conversion (R126 to R130, R72, R73) -/

/-- Bounds of an integer format (R62). -/
def intRangeOf : Fmt → Option (Int × Int)
  | .int4 => some (-8, 7)
  | .int8 => some (-128, 127)
  | .uint8 => some (0, 255)
  | .int16 => some (-32768, 32767)
  | .uint16 => some (0, 65535)
  | .int32 => some (-2147483648, 2147483647)
  | .uint32 => some (0, 4294967295)
  | _ => none

/-- Element width in bits (R57); 6-bit elements count 6. -/
def elemBitsOf : Fmt → Nat
  | .e3m2 => 6 | .e2m3 => 6 | .mxe3m2 => 6 | .mxe2m3 => 6
  | f => f.bits

/-- The integer a code of an integer format holds (R62). -/
def intOf (f : Fmt) (bits : Nat) : Int :=
  match f with
  | .uint8 => (bits % 256 : Nat)
  | .uint16 => (bits % 65536 : Nat)
  | .uint32 => (bits % 2 ^ 32 : Nat)
  | _ => (BitVec.ofNat f.bits bits).toInt

/-- SourceUlp of R70 as an exponent: the grid of x in its source format; 0 for integers. -/
def sourceUlp (f : Fmt) (x : Dy) : Int :=
  match intRangeOf f with
  | some _ => 0
  | none => max x.log2 (layoutOf f).emin - (layoutOf f).mbits

/-- A rounded integer, unbounded (R69 with q = 1). -/
def roundInt (mode : Rnd) (st : Word) (ulp : Int) (x : Dy) : Int × Bool :=
  let (k, nx) := roundMag mode st ulp x 0
  (if x.neg then -(k : Int) else k, nx)

/-- The code of an integer in a format's storage width. -/
def intCode (f : Fmt) (v : Int) : Nat := (BitVec.ofInt f.bits v).toNat

/-- Float to float (R72, R130). R130 calls a conversion to a wider format exact, which E2M3 to E5M2 cannot be: it is
rounded here by `mode`, with NX, the model's choice (log 96). -/
def cvtFF (fd fs : Fmt) (mode : Rnd) (sat : Bool) (st : Word) (bits : Nat) : Nat × FFlags :=
  let ld := (layoutOf fd)
  match (layoutOf fs).decode bits with
  | .nan => if ld.sp = .none then (0, flagNV) else (ld.nanCode, 0)
  | .inf n =>
    if fd = fs ∨ elemBitsOf fs < elemBitsOf fd then (ld.signed n ld.infCode, 0)
    else
      match ld.sp with
      | .none => (ld.signed n ld.maxCode, flagOF ||| flagNX)
      | .e4m3 => (if sat then ld.signed n ld.maxCode else ld.nanCode, flagOF ||| flagNX)
      | .ieee => if sat then (ld.signed n ld.maxCode, flagOF ||| flagNX) else (ld.signed n ld.infCode, 0)
  | .fin x => roundTo ld mode sat st (sourceUlp fs x) x

/-- Float to integer: NaN gives 0, out of range clamps, each with NV alone (R73). -/
def cvtFI (fd fs : Fmt) (lo hi : Int) (mode : Rnd) (st : Word) (bits : Nat) : Nat × FFlags :=
  match (layoutOf fs).decode bits with
  | .nan => (0, flagNV)
  | .inf n => (intCode fd (if n then lo else hi), flagNV)
  | .fin x =>
    let (v, nx) := roundInt mode st (sourceUlp fs x) x
    if v < lo then (intCode fd lo, flagNV)
    else if hi < v then (intCode fd hi, flagNV)
    else (intCode fd v, flagIf nx flagNX)

/-- Integer to integer: low bits, or clamped with OF and NX under sat (R73). -/
def cvtII (fd : Fmt) (lo hi : Int) (sat : Bool) (v : Int) : Nat × FFlags :=
  if sat then
    if v < lo then (intCode fd lo, flagOF ||| flagNX)
    else if hi < v then (intCode fd hi, flagOF ||| flagNX)
    else (intCode fd v, 0)
  else (intCode fd v, 0)

/-- One element of a conversion (R130): the code in the destination format and the flags. -/
def convElem (fd fs : Fmt) (mode : Rnd) (sat : Bool) (st : Word) (bits : Nat) : Nat × FFlags :=
  match intRangeOf fd, intRangeOf fs with
  | none, none => cvtFF fd fs mode sat st bits
  | some (lo, hi), none => cvtFI fd fs lo hi mode st bits
  | some (lo, hi), some _ => cvtII fd lo hi sat (intOf fs bits)
  | none, some _ => roundTo (layoutOf fd) mode sat st 0 (Dy.ofInt (intOf fs bits) 0 false)

/-- Where a single converted element goes in a 32-bit register (R128). -/
def placeElem (fd : Fmt) (code : Nat) : Word :=
  match fd with
  | .int4 => (BitVec.ofNat 4 code).signExtend 32
  | .int8 => (BitVec.ofNat 8 code).signExtend 32
  | .int16 => (BitVec.ofNat 16 code).signExtend 32
  | _ => BitVec.ofNat 32 code

/-- Element i of a run of registers (R127); bits 7:6 of a 6-bit element are ignored. -/
def elemOf (f : Fmt) (regs : List Word) (i : Nat) : Nat :=
  let r := regs.getD (i * f.bits / 32) 0
  (r.toNat / 2 ^ (i * f.bits % 32)) % 2 ^ elemBitsOf f

/-- Pack element codes into registers, w bits each (R127). -/
def packElems (w : Nat) (codes : List Nat) : Nat := codes.foldr (fun c acc => c % 2 ^ w + 2 ^ w * acc) 0

end Sys2Proof.Machine
end

