-- ==== Sys2Proof/Machine/Sfu.lean ====
section
/-! DEFINITION. The eight SFU functions with the special cases and bounds of R122, and the sums of the cross-lane
instructions and of the matrix array (R76 to R79). Where R122 gives only a bound, the bits are the free value
`Config.sfuBits` wherever those bits meet the bound (log 7). -/

namespace Sys2Proof.Machine

/-! ### Fixed-point evaluation, p fraction bits -/

/-- Fraction bits of every fixed-point value below. -/
def fixBits : Nat := 128
/-- 1.0. -/
def fixOne : Nat := 2 ^ fixBits
/-- ln 2. -/
def fixLn2 : Nat := 235865763225513294137944142764154484399
/-- log2 e. -/
def fixLog2e : Nat := 490923683258796565746369346286093237521
/-- π/2. -/
def fixHalfPi : Nat := 534514292032483373929840186580935391650

/-- Largest r below 2^n with r² ≤ x. -/
def isqrtBits (x : Nat) : Nat → Nat → Nat
  | 0, r => r
  | n + 1, r =>
    let r' := r + 2 ^ n
    isqrtBits x n (if r' * r' ≤ x then r' else r)
/-- Integer square root of numbers below 2^400. -/
def isqrt (x : Nat) : Nat := isqrtBits x 200 0

/-- Σ x^k / k! from term k on, n terms. -/
def expTerms (x : Nat) : Nat → Nat → Nat → Nat
  | 0, _, _ => 0
  | n + 1, k, t => t + expTerms x n (k + 1) (t * x / fixOne / (k + 1))
/-- e^x for a fixed-point x in [0, 1). -/
def fixExp (x : Nat) : Nat := expTerms x 45 0 fixOne
/-- 2^(n + f) for a fixed-point argument, as an exact dyadic number close to it. -/
def fixPow2 (t : Int) : Dy :=
  let n := t / (fixOne : Int)
  let f := (t % (fixOne : Int)).toNat
  ⟨false, fixExp (f * fixLn2 / fixOne), n - fixBits⟩

/-- Fraction bits of log2 of a mantissa in [1, 2), by repeated squaring. -/
def log2Bits : Nat → Nat → Nat → Nat
  | 0, _, acc => acc
  | n + 1, x, acc =>
    let y := x * x / fixOne
    if y < 2 * fixOne then log2Bits n y (2 * acc) else log2Bits n (y / 2) (2 * acc + 1)

/-- Σ of the sine (odd = true) or cosine series with alternating signs. -/
def trigTerms (x2 : Nat) : Nat → Nat → Int → Int
  | 0, _, _ => 0
  | n + 1, k, t => t + trigTerms x2 n (k + 2) (-(t * x2 / (fixOne : Int) / (((k + 1) * (k + 2) : Nat) : Int)))
/-- sin x for a fixed-point x in [−1, 1]. -/
def fixSin (x : Int) : Int := trigTerms (x.natAbs * x.natAbs / fixOne) 20 1 x
/-- cos x for a fixed-point x in [−1, 1]. -/
def fixCos (x : Int) : Int := trigTerms (x.natAbs * x.natAbs / fixOne) 20 0 fixOne

/-- A dyadic number as fixed point, rounded down. -/
def toFix (x : Dy) : Int :=
  let s := x.e + fixBits
  let v : Int := if 0 ≤ s then (x.m * 2 ^ s.toNat : Nat) else (x.m / 2 ^ (-s).toNat : Nat)
  if x.neg then -v else v
/-- A fixed-point number as a dyadic one. -/
def ofFix (v : Int) : Dy := Dy.ofInt v (-fixBits) false

/-- sin or cos of a: reduce by multiples of π/2, then a series. -/
def fixTrig (cosine : Bool) (a : Dy) : Dy :=
  let v := toFix a
  let h : Int := fixHalfPi
  let k := (2 * v + h) / (2 * h)
  let r := v - k * h
  match ((k + (if cosine then 1 else 0)) % 4).toNat with
  | 0 => ofFix (fixSin r)
  | 1 => ofFix (fixCos r)
  | 2 => ofFix (-(fixSin r))
  | _ => ofFix (-(fixCos r))

/-- tanh |a|: a series below 2^−10, else (E − 1)/(E + 1) with E = e^(2|a|). -/
def fixTanh (a : Dy) : Dy :=
  if a.log2 < -10 then
    -- a × (1 − a²/3 + 2a⁴/15)
    let v := (toFix { a with neg := false }).toNat
    let a2 := v * v / fixOne
    let c : Int := (fixOne : Int) - (a2 / 3 : Nat) + (2 * (a2 * a2 / fixOne) / 15 : Nat)
    ⟨false, a.m * c.toNat, a.e - fixBits⟩
  else
    let t := 2 * (toFix { a with neg := false }).toNat * fixLog2e / fixOne
    let ex := toFix (fixPow2 t)
    ofFix ((ex - fixOne) * fixOne / (ex + fixOne))

/-! ### Acceptance of the free bits -/

/-- Exponent of one ulp: the FP32 grid spacing at x (R122). -/
def ulp32 (x : Dy) : Int := max x.log2 (-126) - 23

/-- |c − x| ≤ n × 2^e, plus a slack of 2^−50 of that for the evaluation of x. -/
def nearTo (c x : Dy) (n : Nat) (e : Int) : Bool :=
  let d := c.add x.negate
  !(Dy.lt ⟨false, n * (2 ^ 50 + 1), e - 50⟩ { d with neg := false })

/-- The free bits of function f when they meet the bound, else a value that does (log 7). -/
def sfuPick (f : Nat) (a : Word) (ok : Dy → Bool) (x : Dy) : Word :=
  let c := Config.sfuBits f a
  match f32 c with
  | .fin y => if ok y then c else (w32 (rne fp32 x)).1
  | _ => (w32 (rne fp32 x)).1

/-- The free bits within n ulp of x. -/
def sfuUlps (f : Nat) (a : Word) (n : Nat) (x : Dy) : Word := sfuPick f a (fun c => nearTo c x n (ulp32 x)) x

/-! ### The functions (R122) -/

/-- FP32 +1. -/
def one32 : Word := 0x3F800000
/-- FP32 ±Inf. -/
def inf32 (neg : Bool) : Word := if neg then 0xFF800000 else 0x7F800000
/-- FP32 ±0. -/
def zero32 (neg : Bool) : Word := if neg then 0x80000000 else 0
/-- A result with its sign. -/
def withSign (neg : Bool) (w : Word) : Word := if neg then w ||| 0x80000000 else w

/-- RCP. -/
def sfuRcp (a : Word) : Word × FFlags :=
  match f32 a with
  | .nan => (nan32, 0)
  | .inf n => (zero32 n, 0)
  | .fin x =>
    if x.m = 0 then (inf32 x.neg, flagDZ)
    else ((w32 (rne fp32 ⟨x.neg, 2 * (2 ^ 80 / x.m) + (if 2 ^ 80 % x.m = 0 then 0 else 1), -81 - x.e⟩)).1, 0)

/-- A positive value with an even exponent, for square roots. -/
def evenExp (x : Dy) : Nat × Int := if x.e % 2 = 0 then (x.m, x.e) else (2 * x.m, x.e - 1)

/-- RSQ. -/
def sfuRsq (a : Word) : Word × FFlags :=
  match f32 a with
  | .nan => (nan32, 0)
  | .inf true => (nan32, flagNV)
  | .inf false => (0, 0)
  | .fin x =>
    if x.m = 0 then (inf32 x.neg, flagDZ)
    else if x.neg then (nan32, flagNV)
    else
      let (m, e) := evenExp x
      (sfuUlps 1 a 1 ⟨false, isqrt (2 ^ 256 / m), -128 - e / 2⟩, 0)

/-- SQRT. -/
def sfuSqrt (a : Word) : Word × FFlags :=
  match f32 a with
  | .nan => (nan32, 0)
  | .inf true => (nan32, flagNV)
  | .inf false => (a, 0)
  | .fin x =>
    if x.m = 0 then (a, 0)
    else if x.neg then (nan32, flagNV)
    else
      let (m, e) := evenExp x
      let r := isqrt (m * 2 ^ 80)
      ((w32 (rne fp32 ⟨false, 2 * r + (if r * r = m * 2 ^ 80 then 0 else 1), e / 2 - 41⟩)).1, 0)

/-- EXP2. -/
def sfuExp2 (a : Word) : Word × FFlags :=
  match f32 a with
  | .nan => (nan32, 0)
  | .inf true => (0, 0)
  | .inf false => (inf32 false, 0)
  | .fin x =>
    if !(x.lt ⟨false, 128, 0⟩) then (inf32 false, flagOF)
    else if x.lt ⟨true, 150, 0⟩ then (0, 0)
    else
      let n := x.at (min x.e 0) / 2 ^ (-(min x.e 0)).toNat
      if Dy.eq x (Dy.ofInt n 0 false) ∧ -149 ≤ n then ((w32 (rne fp32 ⟨false, 1, n⟩)).1, 0)
      else
        -- 2^a lies between 2^n and 2^(n + 1), also where the evaluation rounds to 2^(n + 1)
        let y := fixPow2 (toFix x)
        (sfuPick 3 a (fun c => nearTo c y 2 (max n (-126) - 23)) y, 0)

/-- LOG2. -/
def sfuLog2 (a : Word) : Word × FFlags :=
  match f32 a with
  | .nan => (nan32, 0)
  | .inf true => (nan32, flagNV)
  | .inf false => (a, 0)
  | .fin x =>
    if x.m = 0 then (inf32 true, flagDZ)
    else if x.neg then (nan32, flagNV)
    else
      let e := x.log2
      if x.m = 2 ^ x.m.log2 then ((w32 (rne fp32 (Dy.ofInt e 0 false))).1, 0)
      else
        let y := Dy.add (Dy.ofInt e 0 false) ⟨false, log2Bits 80 (x.m * 2 ^ (fixBits - x.m.log2)) 0, -80⟩
        if (-1 ≤ e ∧ e < 1) then (sfuPick 4 a (fun c => nearTo c y 1 (-22)) y, 0)
        else (sfuUlps 4 a 2 y, 0)

/-- SIN and COS. -/
def sfuTrig (cosine : Bool) (a : Word) : Word × FFlags :=
  let f := if cosine then 6 else 5
  match f32 a with
  | .nan => (nan32, 0)
  | .inf _ => (nan32, flagNV)
  | .fin x =>
    if x.m = 0 then (if cosine then one32 else a, 0)
    else if Dy.lt ⟨false, 32768, 0⟩ { x with neg := false } then
      (sfuPick f a (fun c => !(Dy.lt ⟨false, 1, 0⟩ { c with neg := false })) (fixTrig cosine x), 0)
    else
      let y := fixTrig cosine x
      (sfuPick f a (fun c => nearTo c y 1 (-21)) y, 0)

/-- TANH. -/
def sfuTanh (a : Word) : Word × FFlags :=
  match f32 a with
  | .nan => (nan32, 0)
  | .inf n => (withSign n one32, 0)
  | .fin x =>
    if x.m = 0 then (a, 0)
    else if !(Dy.lt ⟨false, 10 * x.m, x.e⟩ ⟨false, 91, 0⟩) then (withSign x.neg one32, 0)
    else
      -- |tanh a| < |a|: below a power of two the grid is that of the next lower binade
      let y : Dy := { fixTanh x with neg := x.neg }
      let e := if x.m = 2 ^ x.m.log2 then min y.log2 (x.log2 - 1) else y.log2
      (sfuPick 7 a (fun c => nearTo c y 2 (max e (-126) - 23)) y, 0)

/-! ### Two-operand operations of REDUCE and SCAN (R78, R157) -/

/-- One combination with its flags; IADD64 combines pairs. -/
def redOp (op : RedOp) (a b : DWord) : DWord × FFlags :=
  let x : Word := a.setWidth 32
  let y : Word := b.setWidth 32
  let w (r : Word) : DWord := r.setWidth 64
  match op with
  | .iadd => (w (x + y), 0)
  | .imin => (w (fMin x y), 0)
  | .imax => (w (fMax x y), 0)
  | .umin => (w (fMinU x y), 0)
  | .umax => (w (fMaxU x y), 0)
  | .and => (w (x &&& y), 0)
  | .or => (w (x ||| y), 0)
  | .xor => (w (x ^^^ y), 0)
  | .iadd64 => (a + b, 0)
  | .fadd => let r := opFadd x y; (w r.1, r.2)
  | .fmin => (w (opFmin x y), 0)
  | .fmax => (w (opFmax x y), 0)

/-- One level of the tree: neighbours combined, an odd last element carried up. -/
def treeLevel (op : RedOp) : List DWord → List DWord × FFlags
  | a :: b :: r =>
    let c := redOp op a b
    let rest := treeLevel op r
    (c.1 :: rest.1, c.2 ||| rest.2)
  | l => (l, 0)

/-- TreeReduce of R78; seven levels take any list of 64 to one element. -/
def treeLevels (op : RedOp) : Nat → List DWord → List DWord × FFlags
  | 0, l => (l, 0)
  | n + 1, l =>
    let t := treeLevel op l
    let r := treeLevels op n t.1
    (r.1, t.2 ||| r.2)

/-! ### The matrix array's sums (R66, R76, R77) -/

/-- The sign of a zero sum: −0 only when every addend is −0. -/
def allNegZero (l : List FVal) : Bool := l.all fun v => match v with | .fin x => x.m == 0 && x.neg | _ => false

/-- The largest exponent among nonzero addends. -/
def maxExp (l : List Dy) : Option Int :=
  l.foldl (fun acc x => if x.m = 0 then acc else match acc with | none => some x.log2 | some e => some (max e x.log2)) none

/-- FloatAccumulate of R76: the code, and whether it is a NaN made from no NaN addend, or overflowed. -/
def floatAccumulate (addends : List FVal) : Word × FFlags :=
  if addends.contains .nan then (nan32, 0)
  else if addends.contains (.inf false) ∧ addends.contains (.inf true) then (nan32, 0)
  else if addends.contains (.inf false) then (inf32 false, 0)
  else if addends.contains (.inf true) then (inf32 true, 0)
  else
    let xs := addends.filterMap fun v => match v with | .fin x => some x | _ => none
    match maxExp xs with
    | none => (zero32 (allNegZero addends), 0)
    | some e =>
      let u := e - 48
      let s := xs.foldl (fun (acc : Int) x =>
        let k : Nat := if u ≤ x.e then x.m * 2 ^ (x.e - u).toNat else x.m / 2 ^ (u - x.e).toNat
        if x.neg then acc - k else acc + k) 0
      if s = 0 then (0, 0) else w32 (rne fp32 (Dy.ofInt s u false))

end Sys2Proof.Machine
end

