-- ==== Sys2Proof/Machine/Translate.lean ====
section
/-! DEFINITION. Addresses: scopes and chiplets (R12 to R23), the physical map and colours (R318 to R321), the PASID
table and range trees (R316, R322 to R324), the inverted tables (R327 to R330) and Translate (R331). -/

namespace Sys2Proof.Machine

/-! ### Cores, scopes and causes -/

/-- Chiplet of a core number (R12). -/
def chipletOfCore (c : Nat) : Nat := c / 32
/-- A party to a synchronisation (R18): a group on its core, an engine, slice core, launcher or Headframe core of a
chiplet, a queue or management core, the host processor, or an agent of a peer package, reached within the pod or not.
-/
inductive Party where
  | group (core : Nat) (r : GRef)
  | chiplet (c : Nat)
  | package
  | host
  | peer (inPod : Bool)
  deriving DecidableEq, Repr
/-- Lowest scope enclosing two groups, from their core numbers (R18). -/
def enclosingGroups (b : Build) (a : Nat) (x : GRef) (c : Nat) (y : GRef) : Nat :=
  if a = c ∧ x = y then 0 else if a = c then 1 else if a / 16 = c / 16 then 2 else if a / 32 = c / 32 then 3
  else if a / 128 = c / 128 then foldScope b 4 else 5
/-- Scope that encloses agents of two chiplets, one of them on a base die (R17, R18). -/
def enclosingChiplets (b : Build) (a c : Nat) : Nat := if a = c then 3 else if a / 4 = c / 4 then foldScope b 4 else 5
/-- Lowest scope enclosing two parties (R17, R18). -/
def enclosing (b : Build) : Party → Party → Nat
  | .peer p, .peer q => if p && q then 6 else 7
  | .peer p, _ => if p then 6 else 7
  | _, .peer p => if p then 6 else 7
  | .group a x, .group c y => enclosingGroups b a x c y
  | .group a _, .chiplet c => enclosingChiplets b (chipletOfCore a) c
  | .chiplet a, .group c _ => enclosingChiplets b a (chipletOfCore c)
  | .chiplet a, .chiplet c => enclosingChiplets b a c
  | _, _ => 5
/-- The scope a synchronisation of several parties needs: the widest of the pairwise results (R18). -/
def enclosingAll (b : Build) (l : List Party) : Nat :=
  l.foldl (fun n x => l.foldl (fun n y => if x = y then n else max n (enclosing b x y)) n) 0

/-- Trap cause codes of R359. -/
abbrev Cause := BitVec 8
def cIllegal : Cause := 0x01
def cUnsettled : Cause := 0x02
def cDiverge : Cause := 0x03
def cMisalign : Cause := 0x04
def cTranslation : Cause := 0x05
def cProtection : Cause := 0x06
def cGrain : Cause := 0x07
def cLost : Cause := 0x08
def cAtomicPath : Cause := 0x09
def cArenaFull : Cause := 0x0A
def cDepth : Cause := 0x0B
def cCopyOverlap : Cause := 0x0C
def cCopyBounds : Cause := 0x0D
def cMatrixFormat : Cause := 0x0E
def cHang : Cause := 0x0F
def cSoft : Cause := 0x10
def cPrivilege : Cause := 0x11
def cConvergence : Cause := 0x12
def cOutOfFrames : Cause := 0x14
def cRemoteDeclined : Cause := 0x15
def cTeamBounds : Cause := 0x16
def cWindow : Cause := 0x17
def cPasidGone : Cause := 0x18

/-! ### The physical map (R318 to R321) -/

/-- Whether the part has four chiplets. -/
def isFour (b : Build) : Bool := chipletsOf b == 4
/-- Colour of a page number (R319). -/
def colour (b : Build) (x : Nat) : Nat :=
  (bitsOf x 0 4 ^^^ bitsOf x 4 4 ^^^ bitsOf x 8 4) % (if isFour b then 8 else 16)
/-- Home chiplet of a page number (R319). -/
def homeOfPage (b : Build) (vpn : Nat) : Nat := colour b vpn / 2
/-- Physical address of frame i of stack c (R320). -/
def framePA (b : Build) (c i : Nat) : Nat :=
  if isFour b then (8 * i + (c ^^^ bitsOf i 1 3 ^^^ bitsOf i 5 3) % 8) * 65536
  else (16 * i + (c ^^^ bitsOf i 0 4 ^^^ bitsOf i 4 4) % 16) * 65536
/-- Stack of a local physical address (R320). -/
def stackOf (b : Build) (pa : Nat) : Nat := colour b (pa / 65536)
/-- Frame index of a local physical address within its stack (R320). -/
def frameIdx (b : Build) (pa : Nat) : Nat := pa / 65536 / (if isFour b then 8 else 16) % 2 ^ 20
/-- Bytes of local HBM4 (R318). -/
def localBytes (b : Build) : Nat := if isFour b then 2 ^ 39 else 2 ^ 40
/-- First address of the device part (R318). -/
def devBase : Nat := 0x0010000000000
/-- First address of the host part (R318). -/
def hostBase : Nat := 0x8000000000000
/-- Bytes of the host part (R318). -/
def hostBytes : Nat := 0x2000000000
/-- The Ridge page lies beside the 52-bit space: no frame holds it (R20). -/
def ridgeBase : Nat := 2 ^ 52
/-- Whether a physical address lies in the part its kind may reach (R318). -/
def partOk (b : Build) (kind pa : Nat) : Bool :=
  match kind with
  | 1 => decide (pa < localBytes b)
  | 4 => decide (hostBase ≤ pa) && decide (pa < hostBase + hostBytes)
  | 6 => decide (devBase ≤ pa) && decide (pa < devBase + 0x100000)
  | _ => true
/-- Home chiplet of a physical address: the colour of a local frame, chiplet 0 for host memory (R184, R321). -/
def homeOf (b : Build) (pa : Nat) : Nat := if pa < localBytes b then stackOf b pa / 2 else 0

/-! ### The tables of a stack (R327 to R329) -/

/-- Byte j of the table of stack c that begins at frame `first`. -/
def tableAddr (b : Build) (c first j : Nat) : Nat := framePA b c (first + j / 65536) + j % 65536
/-- Address of inverted-table entry i of stack c. -/
def entryAddr (b : Build) (c i : Nat) : Nat := tableAddr b c 0xFFDC0 (16 * i)
/-- Address of anchor head h of stack c. -/
def anchorAddr (b : Build) (c h : Nat) : Nat := tableAddr b c 0xFFEC0 (4 * h)
/-- Address of the lost map of frame i of stack c. -/
def lostAddr (b : Build) (c i : Nat) : Nat := tableAddr b c 0xFFF00 (16 * i)

/-- An inverted-table entry (R328). -/
structure InvEntry where
  vpn : Nat
  pasid : Nat
  next : Nat
  nextv : Bool
  valid : Bool
  lost : Bool
  zero : Bool
  dirty : Bool
  accessed : Bool
  lode : Nat
  pin : Nat
  deriving DecidableEq, Repr

/-- The fields of 128 entry bits (R328). -/
def InvEntry.ofBits (v : Nat) : InvEntry :=
  { vpn := bitsOf v 88 40, pasid := bitsOf v 68 20, next := bitsOf v 48 20, nextv := bitsOf v 47 1 == 1,
    valid := bitsOf v 46 1 == 1, lost := bitsOf v 45 1 == 1, zero := bitsOf v 44 1 == 1,
    dirty := bitsOf v 43 1 == 1, accessed := bitsOf v 42 1 == 1, lode := bitsOf v 40 2, pin := bitsOf v 28 12 }
/-- The bits of an entry; reserved bits are zero. -/
def InvEntry.toBits (e : InvEntry) : Nat :=
  e.vpn * 2 ^ 88 + e.pasid * 2 ^ 68 + e.next * 2 ^ 48 + e.nextv.toNat * 2 ^ 47 + e.valid.toNat * 2 ^ 46
    + e.lost.toNat * 2 ^ 45 + e.zero.toNat * 2 ^ 44 + e.dirty.toNat * 2 ^ 43 + e.accessed.toNat * 2 ^ 42
    + e.lode * 2 ^ 40 + e.pin * 2 ^ 28
/-- Entry i of stack c. -/
def invEntry (b : Build) (m : Mem) (c i : Nat) : InvEntry := InvEntry.ofBits (readLE m (entryAddr b c i) 16)
/-- Store an entry. -/
def setInvEntry (b : Build) (m : Mem) (c i : Nat) (e : InvEntry) : Mem := writeLE m (entryAddr b c i) 16 e.toBits
/-- Whether grain g of a frame is marked lost (R235). -/
def lostBit (b : Build) (m : Mem) (c i g : Nat) : Bool :=
  bitsOf (readByte m (lostAddr b c i + g / 8)).toNat (g % 8) 1 == 1

/-- The chain from entry i on, at most n more entries: found, absent, or longer than 64 (R329). -/
def chainFind (b : Build) (m : Mem) (c pasid vpn : Nat) : Nat → Nat → Option (Option Nat)
  | 0, _ => none
  | n + 1, i =>
    let e := invEntry b m c i
    if e.valid ∧ e.pasid = pasid ∧ e.vpn = vpn then some (some i)
    else if e.nextv then chainFind b m c pasid vpn n e.next else some none

/-- Whether a local address lies in the frames of a stack's own tables, which only the service cores write, in M-mode
(R327; log 94). -/
def inTables (b : Build) (pa : Nat) : Bool := decide (pa < localBytes b) && decide (0xFFDC0 ≤ frameIdx b pa)
/-- Anchor of a page (R329). -/
def anchorOf (pasid vpn : Nat) : Nat := bitsOf vpn 4 20 ^^^ bitsOf vpn 24 16 ^^^ pasid % 2 ^ 20

/-- InvertedLookup (R329): the frame index, none, or a chain fault as the outer none. -/
def invLookup (b : Build) (m : Mem) (pasid vpn : Nat) : Option (Option Nat) :=
  let c := colour b vpn
  let a := readLE m (anchorAddr b c (anchorOf pasid vpn)) 4
  if bitsOf a 31 1 = 0 then some none else chainFind b m c pasid vpn 64 (bitsOf a 0 20)

/-- Set ACCESSED in the entry of the frame that holds a local address (R328). -/
def markAccessed (b : Build) (m : Mem) (pa : Nat) : Mem :=
  let c := stackOf b pa
  let i := frameIdx b pa
  let e := invEntry b m c i
  if pa < localBytes b ∧ e.valid then setInvEntry b m c i { e with accessed := true } else m
/-- Set DIRTY and clear ZERO for the frame that holds a local address (R328, R337). -/
def markDirty (b : Build) (m : Mem) (pa : Nat) : Mem :=
  let c := stackOf b pa
  let i := frameIdx b pa
  let e := invEntry b m c i
  if pa < localBytes b ∧ e.valid then setInvEntry b m c i { e with dirty := true, zero := false } else m
/-- Mark a grain of local HBM4 lost: its bit in the map, and LOST of the frame's entry (R235). -/
def markLost (b : Build) (m : Mem) (pa : Nat) : Mem :=
  if localBytes b ≤ pa then m else
  let c := stackOf b pa
  let i := frameIdx b pa
  let g := pa % 65536 / 512
  let a := lostAddr b c i + g / 8
  let m := writeByte m a (readByte m a ||| BitVec.ofNat 8 (2 ^ (g % 8)))
  let e := invEntry b m c i
  if e.valid then setInvEntry b m c i { e with lost := true } else m
/-- Clear a grain's mark, and LOST once the map is empty (R237). -/
def clearLost (b : Build) (m : Mem) (pa : Nat) : Mem :=
  let c := stackOf b pa
  let i := frameIdx b pa
  let g := pa % 65536 / 512
  let a := lostAddr b c i + g / 8
  let m := writeByte m a (readByte m a &&& ~~~ (BitVec.ofNat 8 (2 ^ (g % 8))))
  let e := invEntry b m c i
  if e.valid ∧ readLE m (lostAddr b c i) 16 = 0 then setInvEntry b m c i { e with lost := false } else m

/-! ### The PASID table and the range tree (R316, R322 to R324) -/

/-- The fields of a PASID entry (R316). -/
structure PasidEntry where
  root : Nat
  tdepth : Nat
  vif : Nat
  state : Nat
  deriving DecidableEq, Repr

/-- Address of a PASID's entry. -/
def pasidAddr (s : State) (p : Nat) : Nat := s.trn.ptBase.toNat + 16 * p
/-- The entry of a PASID. -/
def pasidEntry (s : State) (p : Nat) : PasidEntry :=
  let v := readLE s.mem (pasidAddr s p) 16
  { root := bitsOf v 85 43 * 512, tdepth := bitsOf v 82 3, vif := bitsOf v 24 6, state := bitsOf v 0 2 }
/-- Write the STATE of a PASID's entry; hardware writes 2 and 3 (R316, R341). -/
def setPasidState (s : State) (p st : Nat) : State :=
  let a := pasidAddr s p
  { s with mem := writeByte s.mem a (BitVec.ofNat 8 ((readByte s.mem a).toNat / 4 * 4 + st)) }

/-- A leaf range (R323). -/
structure Range where
  base : Nat
  limit : Nat
  offset : Nat
  space : Nat
  kind : Nat
  r : Bool
  w : Bool
  x : Bool
  nc : Bool
  pinned : Bool
  deriving DecidableEq, Repr

/-- The fields of a leaf entry (R323). -/
def Range.ofBits (v : Nat) : Range :=
  { base := bitsOf v 176 40, limit := bitsOf v 216 40, offset := bitsOf v 112 64, space := bitsOf v 80 32,
    kind := bitsOf v 9 3, r := bitsOf v 8 1 == 1, w := bitsOf v 7 1 == 1, x := bitsOf v 6 1 == 1,
    nc := bitsOf v 5 1 == 1, pinned := bitsOf v 4 1 == 1 }

/-- The entries of a node that is well formed for its level, as 256-bit numbers (R322, R324). -/
def nodeSlots (m : Mem) (a level : Nat) : Option (List Nat) :=
  let h := readLE m a 32
  let n := bitsOf h 4 4
  if n = 0 ∨ bitsOf h 3 1 ≠ (if level = 0 then 1 else 0) ∨ bitsOf h 0 3 ≠ level ∨ h / 256 ≠ 0 then none
  else some ((List.range n).map fun i => readLE m (a + 32 + 32 * i) 32)

/-- The walk of R324 from a node of a given level down. -/
def walk (m : Mem) (vpn : Nat) : Nat → Nat → Option Range
  | 0, a =>
    (nodeSlots m a 0).bind fun es =>
      (es.find? fun v => bitsOf v 9 3 ≠ 0 ∧ bitsOf v 176 40 ≤ vpn ∧ vpn ≤ bitsOf v 216 40).bind fun v =>
        if bitsOf v 9 3 = 7 ∨ bitsOf v 12 68 ≠ 0 ∨ bitsOf v 0 4 ≠ 0 then none else some (Range.ofBits v)
  | level + 1, a =>
    (nodeSlots m a (level + 1)).bind fun es =>
      (es.reverse.find? fun v => bitsOf v 216 40 ≤ vpn).bind fun v =>
        if bitsOf v 52 164 ≠ 0 ∨ bitsOf v 0 9 ≠ 0 then none else walk m vpn level (bitsOf v 0 52)

/-- The range that covers a page in a PASID (R324). -/
def rangeLookup (s : State) (pasid vpn : Nat) : Option Range :=
  let p := pasidEntry s pasid
  if p.tdepth = 0 ∨ 4 < p.tdepth then none else walk s.mem vpn (p.tdepth - 1) p.root

/-- Whether an address lies in an uncached range (R323). -/
def uncached (s : State) (pasid va : Nat) : Bool := match rangeLookup s pasid (va / 65536) with | some r => r.nc | none => false

/-! ### What an access is (R189, R201, R324) -/

/-- The ways of using an address that the checks tell apart; widths in bytes. -/
inductive Use where
  | read (w : Nat)
  | readO (w : Nat)
  | write (w : Nat)
  | writeO (w : Nat)
  | writeG
  | atomic (op : AtomOp) (wide : Bool) (scope : Nat)
  | reduce (op : AtomOp) (wide : Bool) (scope : Nat)
  | wait
  | wake
  | claim
  | discard
  | fetch
  | copyRead
  | copyWrite
  | subscribe
  deriving DecidableEq, Repr

/-- Whether the use reads, writes or fetches (R324). -/
def Use.needsR : Use → Bool
  | .read _ => true
  | .readO _ => true
  | .atomic _ _ _ => true
  | .wait => true
  | .copyRead => true
  | .subscribe => true
  | _ => false
def Use.needsW : Use → Bool
  | .write _ => true
  | .writeO _ => true
  | .writeG => true
  | .atomic _ _ _ => true
  | .reduce _ _ _ => true
  | .claim => true
  | .discard => true
  | .copyWrite => true
  | _ => false
/-- NEED bits of a miss (R342; log 79). -/
def Use.need (u : Use) : BitVec 6 :=
  match u with
  | .fetch => 4
  | .discard => 16
  | .atomic _ _ _ => 3
  | .wake => 1
  | u => (if u.needsR then 1 else 0) ||| (if u.needsW then 2 else 0)
/-- Whether the LOST tests apply (R331). -/
def Use.skipsLost : Use → Bool
  | .claim => true
  | .discard => true
  | _ => false
/-- KIND of %trapinfo (R191). -/
def Use.infoKind : Use → Nat
  | .read _ => 0
  | .readO _ => 0
  | .write _ => 1
  | .writeO _ => 1
  | .writeG => 1
  | .atomic _ _ _ => 2
  | .reduce _ _ _ => 3
  | .wait => 4
  | .wake => 4
  | .claim => 5
  | .discard => 5
  | _ => 0

/-- The refusals of R189 and R201 by range kind: cause and CODE, 13 also for a scope HOSTSHARED does not carry (log
92). `pod` tells whether a window's peer is in the pod. -/
def kindRefusal (pod : Bool) (kind : Nat) (u : Use) : Option (Cause × Nat) :=
  match kind, u with
  | 4, .atomic _ _ sc => if sc = 6 ∨ sc = 7 then some (cAtomicPath, 13) else none
  | 4, .reduce _ _ sc => if sc = 6 ∨ sc = 7 then some (cAtomicPath, 13) else none
  | 1, .discard => some (cProtection, 13)
  | 4, .discard => some (cProtection, 13)
  | 5, .atomic op wide _ =>
    if pod then (if op = .inc ∨ op = .dec ∨ op = .fadd then some (cAtomicPath, 13) else none)
    else if op ≠ .add ∧ op ≠ .cas then some (cAtomicPath, 13)
    else if wide then none else some (cAtomicPath, 14)
  | 5, .reduce op wide _ =>
    if pod then (if op = .inc ∨ op = .dec ∨ op = .fadd then some (cAtomicPath, 13) else none)
    else if op ≠ .add ∧ op ≠ .cas then some (cAtomicPath, 13)
    else if wide then none else some (cAtomicPath, 14)
  | 5, .wait => some (cAtomicPath, 13)
  | 5, .wake => some (cAtomicPath, 13)
  | 5, .discard => some (cProtection, 13)
  | 5, .claim => some (cProtection, 13)
  | 5, .subscribe => some (cProtection, 13)
  | 5, .copyRead => none
  | 5, .copyWrite => none
  | 5, .fetch => some (cProtection, 13)
  | 5, _ => some (cWindow, 13)
  | 6, .read w => if w = 4 ∨ w = 8 then none else some (cProtection, 12)
  | 6, .readO w => if w = 4 ∨ w = 8 then none else some (cProtection, 12)
  | 6, .write w => if w = 4 ∨ w = 8 then none else some (cProtection, 12)
  | 6, .writeO w => if w = 4 ∨ w = 8 then none else some (cProtection, 12)
  | 6, .writeG => some (cProtection, 13)
  | 6, .atomic _ _ _ => some (cAtomicPath, 13)
  | 6, .reduce _ _ _ => some (cAtomicPath, 13)
  | 6, .wait => some (cAtomicPath, 13)
  | 6, .wake => some (cAtomicPath, 13)
  | 6, .discard => some (cProtection, 13)
  | 6, .claim => some (cProtection, 13)
  | 6, .fetch => some (cProtection, 13)
  | 6, .subscribe => some (cProtection, 13)
  | 4, .subscribe => some (cProtection, 13)
  | 3, .subscribe => some (cProtection, 13)
  | _, _ => none

/-! ### Translate (R331) -/

/-- Where an address leads, or why the access does not proceed. -/
inductive Tr where
  /-- a physical address, by range kind; kind 0 is the Ridge page -/
  | at (pa kind : Nat)
  /-- a window and the offset within its range -/
  | window (w off : Nat)
  /-- not resident: the entry's NEED, the remote queue, and a broken chain -/
  | miss (need : BitVec 6) (remote chain : Bool)
  | trap (cause : Cause) (code : Nat)
  deriving DecidableEq, Repr

/-- Whether a window's PATH runs over Krovgil Link, to a pod peer (R406, R408). -/
def windowInPod (s : State) (vif w : Nat) : Bool :=
  decide (bitsOf (Sparse.get 0 s.fabric.windows (512 * vif + w % 256)).toNat 110 2 < 2)

/-- The last steps for a page of a PAGED or REMOTE range: LOST first, then what the Lode must grant (R330, R331); a
DISCARD needs no grant. -/
def translatePaged (s : State) (pasid va kind : Nat) (u : Use) : Tr :=
  let vpn := bitsOf va 16 40
  let c := colour s.build vpn
  match invLookup s.build s.mem pasid vpn with
  | none => .miss u.need (kind == 3) true
  | some none => .miss u.need (kind == 3) false
  | some (some i) =>
    let e := invEntry s.build s.mem c i
    if !u.skipsLost && e.lost && lostBit s.build s.mem c i (va % 65536 / 512) then .trap cLost 15
    else if e.lode = 3 ∧ u ≠ .discard then .miss u.need true false
    else if e.lode = 1 ∧ u.needsW ∧ u ≠ .discard then .miss (u.need ||| 8) true false
    else .at (framePA s.build c i + va % 65536) kind

/-- Translate (R331): the checks in their order, then the range kinds. -/
def translate (s : State) (pasid va : Nat) (u : Use) : Tr :=
  let vpn := bitsOf va 16 40
  if 2 ^ 56 ≤ va then .trap cTranslation 15
  else
    let p := pasidEntry s pasid
    if vpn = 0xFFFFFFFFFF then
      if p.state ≠ 1 then .trap cPasidGone 15
      else if u = .fetch then .trap cProtection 10
      else if u.needsW then .trap cProtection 11
      else .at (ridgeBase + va % 65536) 0
    else
      match rangeLookup s pasid vpn with
      | none => .trap cTranslation 15
      | some r =>
        if p.state ≠ 1 then .trap cPasidGone 15
        else if s.trn.normal = false ∧ r.kind ≠ 1 then .trap cTranslation 15
        else if u.needsR && !r.r || u = .fetch && !r.x then .trap cProtection 10
        else if u.needsW && !r.w then .trap cProtection 11
        else
          match kindRefusal (windowInPod s p.vif r.space) r.kind u with
          | some (c, code) => .trap c code
          | none =>
            match r.kind with
            | 5 => .window r.space (va - r.base * 65536)
            | 2 => translatePaged s pasid va 2 u
            | 3 => translatePaged s pasid va 3 u
            | k =>
              let pa := (va + r.offset) % 2 ^ 52
              if !(partOk s.build k pa) || (k == 1 && u.needsW && inTables s.build pa) then .trap cProtection 15
              else if k = 1 ∧ !u.skipsLost
                  ∧ lostBit s.build s.mem (stackOf s.build pa) (frameIdx s.build pa) (pa % 65536 / 512) then
                .trap cLost 15
              else .at pa k

/-! ### The Ridge page (R20 to R22) -/

/-- The 128 bits of a Ridge entry (R21). -/
def RidgeEntry.toBits (e : RidgeEntry) : Nat :=
  e.rt.toNat * 2 ^ 96 + e.worst.toNat * 2 ^ 64 + e.typ.toNat * 2 ^ 32 + e.members * 256 + e.promote * 2 + e.ex.toNat
/-- A byte of the Ridge page. -/
def ridgeByte (rs : List RidgeEntry) (off : Nat) : Byte :=
  match rs[off / 16]? with
  | some e => BitVec.ofNat 8 (e.toBits / 2 ^ (8 * (off % 16)))
  | none => 0
/-- A byte as the home holds it, the Ridge page included. -/
def homeByte (s : State) (pa : Nat) : Byte :=
  if ridgeBase ≤ pa then ridgeByte s.ridge (pa - ridgeBase) else readByte s.mem pa
/-- Bytes as the home holds them. -/
def homeBytes (s : State) (pa n : Nat) : List Byte := (List.range n).map fun i => homeByte s (pa + i)

end Sys2Proof.Machine
end

