-- ==== Sys2Proof/Machine/Faults.lean ====
section
/-! DEFINITION. Teams, groups and cores by name; fault entries: posting, merging and queues (R342 to R346). -/

namespace Sys2Proof.Machine

/-! ### Teams, groups, cores -/

/-- The team with a number, while it holds its slot. -/
def State.team (s : State) (id : Nat) : Option Team := s.teams.find? fun t => t.id == id
/-- Change the team with a number. -/
def State.adjTeam (s : State) (id : Nat) (f : Team → Team) : State :=
  { s with teams := s.teams.map fun t => if t.id = id then f t else t }
/-- A group by team number and %groupid. -/
def State.group (s : State) (r : GRef) : Option Group := (s.team r.team).bind fun t => t.groups[r.grp]?
/-- Change a group. -/
def State.adjGroup (s : State) (r : GRef) (f : Group → Group) : State :=
  s.adjTeam r.team fun t => { t with groups := adjAt f t.groups r.grp }
/-- Change a lane. -/
def State.adjLane (s : State) (r : GRef) (L : Nat) (f : Lane → Lane) : State := s.adjGroup r fun g => g.adjLane L f
/-- A core; one that nothing has touched is as after reset. -/
def State.core (s : State) (c : Nat) : Core := Sparse.get Core.reset s.cores c
/-- Change a core. -/
def State.adjCore (s : State) (c : Nat) (f : Core → Core) : State :=
  { s with cores := Sparse.set Core.reset s.cores c (f (s.core c)) }
/-- Change every core that anything has touched. -/
def State.mapCores (s : State) (f : Nat → Core → Core) : State := { s with cores := Sparse.mapKey Core.reset f s.cores }
/-- Keep some entries of every Gutter and spill list. -/
def State.keepLogged (s : State) (f : List GutterEntry → List GutterEntry) : State :=
  let s := s.mapCores fun _ c => { c with gutter := f c.gutter }
  { s with faults := { s.faults with spill := Sparse.mapKey [] (fun _ l => f l) s.faults.spill } }
/-- An instance by number. -/
def State.inst (s : State) (id : Nat) : Option Inst := s.insts.find? fun i => i.id == id
/-- Change an instance. -/
def State.adjInst (s : State) (id : Nat) (f : Inst → Inst) : State :=
  { s with insts := s.insts.map fun i => if i.id = id then f i else i }
/-- A team that runs or stands on its core. -/
def Team.onCore (t : Team) : Bool := t.place == .running || t.place == .preempting
/-- Whether every lane of a group has exited (R133). -/
def Group.exited (g : Group) : Bool := g.lanes.all fun l => l.exited

/-! ### Fault entries (R342 to R346) -/

/-- Queue 2c is the local queue of chiplet c, 2c + 1 its remote queue (R347). -/
def fqKey (chiplet : Nat) (remote : Bool) : Nat := 2 * chiplet + remote.toNat
/-- An empty queue. -/
def FQueue.empty : FQueue := { entries := [], seq := 0, head := 0, starved := [] }
/-- A queue of the package. -/
def State.fq (s : State) (k : Nat) : FQueue := Sparse.get FQueue.empty s.faults.queues k
/-- Change a queue. -/
def State.adjFq (s : State) (k : Nat) (f : FQueue → FQueue) : State :=
  { s with faults := { s.faults with queues := Sparse.set FQueue.empty s.faults.queues k (f (s.fq k)) } }

/-- Take entry i out of a queue: HEAD advances (R347). -/
def takeEntry (s : State) (k i : Nat) : State :=
  s.adjFq k fun q => { q with entries := dropAt q.entries i, head := q.head + 1 }

/-- Whether an entry is for a page (R344). -/
def FEntry.isFor (e : FEntry) (pasid vpn : Nat) : Bool := e.pasid == pasid && e.vpn == vpn
/-- NEED after a merge: bit 5 goes when any other bit stands (R344). -/
def mergeNeed (a b : BitVec 6) : BitVec 6 :=
  let n := a ||| b
  if n &&& 31 = 0 then n else n &&& 31

/-- What becomes of an access that posts. -/
inductive Posted where
  | done (s : State)
  | full
  deriving DecidableEq, Repr

/-- What a fresh entry records of its poster (R342); `turn` when it waited for room and its turn has come (R346). -/
structure Poster where
  core : Nat := 0xFF
  engno : Option Nat := none
  qslot : Option Nat := none
  stage : Nat := 0
  since : Option Nat := none
  turn : Bool := false
  deriving DecidableEq, Repr

/-- Merge an access into an entry: an engine that joins shows in ENGINE, and a post that waited for room counts from its
time (R342, R344, R346). -/
def FEntry.merge (e : FEntry) (need : BitVec 6) (p : Poster) (ws : List Waiter) : FEntry :=
  { e with needs := mergeNeed e.needs need, merges := min (e.merges + 1) 0xFFFF, waiters := e.waiters ++ ws
           engine := e.engine || p.engno.isSome, engno := if e.engine then e.engno else p.engno.getD e.engno
           time := match p.since with | some n => min n e.time | none => e.time }

/-- Post to the queue of R330, or merge (R343, R344); a queue holds 1,024 entries, and who waits for one goes first
(R346). -/
def postFault (s : State) (pasid vpn : Nat) (need : BitVec 6) (remote chain : Bool) (p : Poster) (ws : List Waiter) :
    Posted :=
  let c := homeOfPage s.build vpn
  let merge := fun (e : FEntry) => if e.isFor pasid vpn then e.merge need p ws else e
  let inService : Bool := s.faults.served.any (fun sv => sv.chiplet == c && sv.entry.isFor pasid vpn)
  let here := fun (k : Nat) => (s.fq k).entries.any fun e => e.isFor pasid vpn
  let kl := fqKey c false
  let kr := fqKey c true
  if here kl then .done (s.adjFq kl fun q => { q with entries := q.entries.map merge })
  else if here kr then .done (s.adjFq kr fun q => { q with entries := q.entries.map merge })
  else if inService then
    let f := fun (sv : Served) => if sv.chiplet = c then { sv with entry := merge sv.entry } else sv
    .done { s with faults := { s.faults with served := s.faults.served.map f } }
  else
    let k := fqKey c remote
    let q := s.fq k
    if 1024 ≤ q.entries.length ∨ (p.turn = false ∧ q.starved ≠ []) then .full
    else
      let e : FEntry :=
        { pasid, vpn, vif := (pasidEntry s pasid).vif, needs := need, chain, stage := p.stage, tries := 0,
          signal := p.qslot.isSome, engine := p.engno.isSome, merges := 0, time := p.since.getD s.clock, core := p.core,
          engno := p.engno.getD 0, qslot := p.qslot.getD 0, seq := q.seq, waiters := ws, declined := 0 }
      .done (s.adjFq k fun q => { q with entries := q.entries ++ [e], seq := (q.seq + 1) % 2 ^ 32 })

/-- The number of the first copy engine among waiters (R342). -/
def engineNo (s : State) (ws : List Waiter) : Option Nat :=
  ws.findSome? fun w => match w with | .engine id _ => (s.copies.find? fun c => c.id == id).map fun c => c.engine | _ => none
/-- An entry with other waiters; ENGINE tells whether a copy engine is among them (R342). -/
def FEntry.withWaiters (e : FEntry) (s : State) (ws : List Waiter) : FEntry :=
  { e with waiters := ws, engine := (engineNo s ws).isSome, engno := (engineNo s ws).getD 0 }
/-- Drop a waiter from every entry and from every list of those waiting for room. -/
def dropWaiter (s : State) (p : Waiter → Bool) : State :=
  let f := fun (e : FEntry) => if e.waiters.any p then e.withWaiters s (e.waiters.filter fun w => !(p w)) else e
  let fs := s.faults
  { s with faults := { fs with
      queues := Sparse.mapKey FQueue.empty (fun _ (q : FQueue) => { q with
        entries := q.entries.map f, starved := q.starved.filter fun w => !(p w) }) fs.queues
      served := fs.served.map fun v => { v with entry := f v.entry }
      host := fs.host.map f
      popped := fs.popped.map f } }

/-- Whether a waiter is a given group. -/
def Waiter.isGroup (r : GRef) : Waiter → Bool
  | .group g _ => g == r
  | .discard g _ => g == r
  | _ => false
/-- Whether a waiter is a given copy. -/
def Waiter.isCopy (id : Nat) : Waiter → Bool
  | .engine c _ => c == id
  | _ => false
/-- NEED of a waiter. -/
def Waiter.need : Waiter → BitVec 6
  | .group _ n => n
  | .engine _ n => n
  | .gutter _ _ _ _ => 2
  | .queue _ _ _ n => n
  | .window _ _ _ n => n
  | .signal _ _ => 1
  | .discard _ _ => 16

/-- Post for a group that parks on a page (R343); a full queue parks it until an entry frees (R346). A trap that ends
the park reports `va` (R30). -/
def parkOnFault (s : State) (r : GRef) (core pasid vpn va : Nat) (need : BitVec 6) (remote chain : Bool) (info : Word) :
    Park × State :=
  match postFault s pasid vpn need remote chain { core } [.group r need] with
  | .done s => (.fault pasid vpn va info, s)
  | .full =>
    let c := homeOfPage s.build vpn
    (.queueFull remote vpn va need chain info, s.adjFq (fqKey c remote) fun q => { q with starved := addOnce q.starved (.group r need) })

/-- Whether the chain a page is looked up in is broken (R329). -/
def chainBroken (s : State) (pasid vpn : Nat) : Bool := (invLookup s.build s.mem pasid vpn).isNone

/-! ### Installed pages that are not yet open (R227, R385) -/

/-- Whether a page is held by the handle it was installed under (R385). -/
def pageHeld (s : State) (pasid vpn : Nat) : Bool :=
  s.faults.served.any fun v => v.hold && v.entry.isFor pasid vpn

/-- Translate as an access does: one that reaches a held page merges into its entry (R385). -/
def place (s : State) (pasid va : Nat) (u : Use) : Tr :=
  match translate s pasid va u with
  | .at pa kind =>
    if (kind = 2 ∨ kind = 3) ∧ pageHeld s pasid (va / 65536) then .miss u.need (kind == 3) false else .at pa kind
  | t => t

/-- A translation of a PAGED or REMOTE page sets ACCESSED (R328). -/
def noteAccess (s : State) (pa kind : Nat) : State :=
  if kind = 2 ∨ kind = 3 then { s with mem := markAccessed s.build s.mem pa } else s
/-- The same for every place of a list. -/
def notePlaces (s : State) (l : List Tr) : State :=
  l.foldl (fun s t => match t with | .at pa kind => noteAccess s pa kind | _ => s) s

/-- The logged entries of every core and every spill list, each in logging order. -/
def gutterLists (s : State) : List (List GutterEntry) := s.cores.map (·.2.gutter) ++ s.faults.spill.map (·.2)

/-- Whether an entry waits for the handler to resume its group (R357). -/
def gutterHeld (s : State) (e : GutterEntry) : Bool :=
  match s.group ⟨e.team, e.grp⟩ with
  | some g => g.blocked || decide (e.e.stamp ≤ g.hold)
  | none => false

/-- The first entry of each group in a list: the others wait behind it (R356). -/
def groupFirsts : List (Nat × Nat) → List GutterEntry → List GutterEntry
  | _, [] => []
  | seen, e :: r =>
    if seen.contains (e.team, e.grp) then groupFirsts seen r else e :: groupFirsts ((e.team, e.grp) :: seen) r

/-- Whether a refusal holds a request back until the handler resumes its group: a store queued after the refused one
(R188). -/
def reqHeld (s : State) (q : HomeReq) : Bool :=
  match s.group ⟨q.team, q.grp⟩ with
  | some g => q.e.kind != .att && decide (g.refusedAt < q.e.stamp) && (g.blocked || decide (q.e.stamp ≤ g.hold))
  | none => false

/-- Whether a replay of an entry logged for a page has not reached its home. -/
def replayUnderWay (s : State) (pasid vpn : Nat) : Bool :=
  s.cores.any fun kc => kc.2.reqs.any fun q => q.logged && q.pasid == pasid && q.e.va / 65536 == vpn && !(reqHeld s q)

/-- Whether an entry logged for a page stands first in its group and so replays, or replays, before the page serves an
access (R227, R356). -/
def pageWaits (s : State) (pasid vpn : Nat) : Bool :=
  ((gutterLists s).any fun l => (groupFirsts [] l).any fun e =>
    e.pend && e.pasid == pasid && e.e.va / 65536 == vpn && !(gutterHeld s e)) || replayUnderWay s pasid vpn

end Sys2Proof.Machine
end

