-- ==== Sys2Proof/Machine/Home.lean ====
section
/-! DEFINITION. What homes do: the directory (R186, R233), writes with their deliveries (R181), the write grain
(R187), atomics (R171, R198), host regions (R338), the L1 and what a load sees (R184, R185, R211, R212). -/

namespace Sys2Proof.Machine

/-! ### Directory state -/

/-- A line nobody holds. -/
def LineDir.empty : LineDir := { shared := [], fwd := none }
/-- Directory entry of a 128-byte line. -/
def State.lineDir (s : State) (line : Nat) : LineDir := Sparse.get LineDir.empty s.dir.lines line
/-- Change a line's entry. -/
def State.setLineDir (s : State) (line : Nat) (d : LineDir) : State :=
  { s with dir := { s.dir with lines := Sparse.set LineDir.empty s.dir.lines line d } }
/-- The RDC that owns a grain in E or M. -/
def State.owner (s : State) (grain : Nat) : Option Holder := Sparse.get none s.dir.owners grain
/-- Drop a grain's owner. -/
def State.dropOwner (s : State) (grain : Nat) : State :=
  { s with dir := { s.dir with owners := Sparse.set none s.dir.owners grain none } }
/-- Lines a remote-data cache holds: 16 MiB (R4, R184). -/
def rdcLines : Nat := 131072
/-- Lines an RDC holds: copies, and four for each grain it owns. -/
def State.rdcUse (s : State) (h : Holder) : Nat :=
  (s.dir.lines.filter fun e => e.2.fwd == some h || e.2.shared.contains h).length
    + 4 * (s.dir.owners.filter fun e => e.2 == some h).length
/-- Evict from an RDC: the lowest line of which it holds a copy, else its lowest grain, which is written back
(R233; log 13). -/
def State.rdcEvict (s : State) (h : Holder) : State :=
  match s.dir.lines.find? fun e => e.2.fwd == some h || e.2.shared.contains h with
  | some e => s.setLineDir e.1
      { shared := e.2.shared.filter fun x => x ≠ h, fwd := if e.2.fwd = some h then none else e.2.fwd }
  | none =>
    match s.dir.owners.find? fun e => e.2 == some h with
    | some e => s.dropOwner e.1
    | none => s
/-- Make room for n more lines in a chiplet's RDC, at most k evictions; a peer's RDC is its own affair. -/
def State.rdcRoom (h : Holder) (n : Nat) : Nat → State → State
  | 0, s => s
  | k + 1, s =>
    match h with
    | .node _ => s
    | .chiplet _ => if s.rdcUse h + n ≤ rdcLines then s else State.rdcRoom h n k (s.rdcEvict h)
/-- Grant a grain in M. -/
def State.grant (s : State) (grain : Nat) (o : Holder) : State :=
  let s := State.rdcRoom o 4 4 s
  { s with dir := { s.dir with owners := Sparse.set none s.dir.owners grain (some o) } }
/-- Whether a copy engine owns a grain: a thread's access then waits (R229). -/
def State.engineOwned (s : State) (pa : Nat) : Bool := s.copies.any fun c => c.grains.contains (pa / 512)
/-- Invalidate every S and F copy of a line (R233). -/
def State.invalidateLine (s : State) (line : Nat) : State := s.setLineDir line LineDir.empty
/-- Invalidate the four lines of a grain. -/
def State.invalidateGrain (s : State) (grain : Nat) : State :=
  (List.range 4).foldl (fun s i => s.invalidateLine (4 * grain + i)) s
/-- Recall an RDC owner: it writes the grain back and keeps it in S (R186). -/
def State.recall (s : State) (grain : Nat) : State :=
  match s.owner grain with
  | some h =>
    (List.range 4).foldl (fun s i =>
      let d := s.lineDir (4 * grain + i)
      s.setLineDir (4 * grain + i) { d with shared := addOnce d.shared h }) (s.dropOwner grain)
  | none => s

/-- A read of a line by an RDC: the reader takes F, the old F holder keeps S (R233). -/
def State.readLine (s : State) (line : Nat) (h : Holder) : State :=
  let own := s.owner (line / 4)
  if own = some h then s
  else
    let s := s.recall (line / 4)
    let d := s.lineDir line
    if d.fwd = some h ∨ (own = none ∧ d.shared.contains h) then s
    else
      let sh := match d.fwd with | some f => addOnce d.shared f | none => d.shared
      let s := if d.shared.contains h then s else State.rdcRoom h 1 1 s
      s.setLineDir line { shared := sh.filter fun x => x ≠ h, fwd := some h }

/-- A read by an agent of a chiplet: the home's own agents are served from L2 (R233). -/
def State.readBy (s : State) (chiplet pa : Nat) : State :=
  if ridgeBase ≤ pa then s
  else if homeOf s.build pa = chiplet ∧ pa < localBytes s.build then s.recall (pa / 512)
  else s.readLine (pa / 128) (.chiplet chiplet)

/-! ### Writes at the home -/

/-- Whether a registered pair lies at an address. -/
def SubHome.at_ (h : SubHome) (pa len : Nat) : Bool := h.pa == some pa && h.len == len
/-- Deliveries of one write to every registered pair it touches; each counter advances, also while no team subscribes
(R181; log 89). -/
def deliverTo (s : State) (pa : Nat) (bs : List Byte) : State :=
  let touch := fun (h : SubHome) =>
    match h.pa with | some a => decide (a < pa + bs.length) && decide (pa < a + h.len) | none => false
  let news := (s.subHomes.filter touch).flatMap fun h =>
    let a := h.pa.getD 0
    let lo := max a pa
    let hi := min (a + h.len) (pa + bs.length)
    h.members.map fun m =>
      ({ team := m.1, handle := m.2, off := lo - a, data := (bs.drop (lo - pa)).take (hi - lo),
         seq := h.count + 1 } : Delivery)
  let bump := fun (h : SubHome) => if touch h then { h with count := h.count + 1 } else h
  { s with subHomes := s.subHomes.map bump, deliveries := s.deliveries ++ news }

/-- Condition of WAITA over words (R202) or signal values (R401). -/
def condHolds {n : Nat} (c : WaitCond) (x b : BitVec n) : Bool :=
  match c with
  | .eq => x == b
  | .ne => x != b
  | .lt => x.slt b
  | .ge => b.sle x
  | .ltu => x.ult b
  | .geu => b.ule x
  | .any => (x &&& b) != 0
  | .none => (x &&& b) == 0

/-- The signal unit looks at every write of a registered word (R401). -/
def noteSignals (s : State) (pa n : Nat) : State :=
  let see := fun (r : SigReg) =>
    match r.pa with
    | some p =>
      if p < pa + n ∧ pa < p + 8 ∧ condHolds r.cond (BitVec.ofNat 64 (leNat (homeBytes s p 8)) : DWord) r.val then
        { r with hit := true }
      else r
    | none => r
  { s with queues := { s.queues with regs := s.queues.regs.map see } }
/-- A write ends the reservations of service cores on the 8 bytes it touches (R373). -/
def Hart.unreserve (h : Hart) (pa n : Nat) : Hart :=
  match h.reserved with
  | some a => if a < pa + n ∧ pa < a + 8 then { h with reserved := none } else h
  | none => h
/-- The aligned words a write changes, with the values they had, while teams may have fetched them (R28). -/
def changedWords (s : State) (m : Mem) (pa n : Nat) : List (Nat × Word) :=
  if s.teams.isEmpty then []
  else (runOf (pa / 4) ((pa + n + 3) / 4 - pa / 4)).filterMap fun w =>
    if readLE s.mem (4 * w) 4 = readLE m (4 * w) 4 then none else some (w, BitVec.ofNat 32 (readLE s.mem (4 * w) 4))
/-- Words that are written whole hold no uncorrectable error any more (R422). -/
def State.mended (s : State) (pa n : Nat) : State :=
  { s with badMem := s.badMem.filter fun w => !(decide (pa ≤ 4 * w) && decide (4 * w + 4 ≤ pa + n)) }
/-- Bytes written at the home: memory, the frame's DIRTY, the words code may be fetched from, deliveries and registered
signals (R28, R181, R328, R401); a word that is written whole holds no error any more. -/
def homeStore (s : State) (pa : Nat) (bs : List Byte) : State :=
  if ridgeBase ≤ pa ∨ bs.isEmpty then s
  else
    let harts := s.harts.map fun h => h.unreserve pa bs.length
    let m := writeBytes s.mem pa bs
    let s := { s.mended pa bs.length with
      mem := markDirty s.build m pa, harts, codeLog := s.codeLog ++ changedWords s m pa bs.length }
    noteSignals (deliverTo s pa bs) pa bs.length

/-- The lines a run of bytes touches. -/
def linesOf (pa n : Nat) : List Nat := runOf (pa / 128) ((pa + n + 127) / 128 - pa / 128)
/-- The grains a run of bytes touches. -/
def grainsOf (pa n : Nat) : List Nat := runOf (pa / 512) ((pa + n + 511) / 512 - pa / 512)

/-- A write performed at the home by an agent without a grain of its own: owners are recalled, copies of the lines
invalidated, and the bytes merged (R233, R234). -/
def homeWrite (s : State) (pa : Nat) (bs : List Byte) : State :=
  let s := (grainsOf pa bs.length).foldl State.recall s
  let s := (linesOf pa bs.length).foldl State.invalidateLine s
  homeStore s pa bs

/-- `n` fresh unspecified bytes at an address (log 6). -/
def scrambleBytes (s : State) (pa n : Nat) : State :=
  let bs := (List.range n).map fun i => Config.freeByte (s.free + i)
  { homeWrite s pa bs with free := s.free + n }

/-- Drop every copy a core's L1 holds (R185). -/
def State.dropL1 (s : State) (core : Nat) : State := s.adjCore core fun c => { c with l1 := [] }
/-- Drop one line of a core's L1. -/
def State.dropLine (s : State) (core line : Nat) : State :=
  s.adjCore core fun c => { c with l1 := c.l1.filter fun l => l.line ≠ line }
/-- What a release at layer scope makes sure of: no other L1 of the layer keeps a line that its home no longer holds
as it was read, so that writes the releasing group has seen are seen there (R214, R218). -/
def State.dropStale (s : State) (core : Nat) : State :=
  s.mapCores fun k c =>
    if k / 16 = core / 16 ∧ k ≠ core then
      { c with l1 := c.l1.filter fun l => readBytes l.data 0 128 == homeBytes s (l.line * 128) 128 }
    else c
/-- A write-through invalidates the line in every other L1 of the writer's layer (R185). -/
def State.dropLayer (s : State) (core line : Nat) : State :=
  s.mapCores fun k c => if k / 16 = core / 16 ∧ k ≠ core then { c with l1 := c.l1.filter fun l => l.line ≠ line } else c

/-! ### Atomics (R171, R198) -/

/-- The new value of an atomic of `n` bytes. -/
def atomicNew (op : AtomOp) (wide : Bool) (old b c : DWord) : DWord :=
  let o : Word := old.setWidth 32
  let x : Word := b.setWidth 32
  let z (w : Word) : DWord := w.setWidth 64
  match op with
  | .add => if wide then old + b else z (o + x)
  | .and => old &&& b
  | .or => old ||| b
  | .xor => old ^^^ b
  | .min => if wide then (if old.sle b then old else b) else z (fMin o x)
  | .max => if wide then (if b.sle old then old else b) else z (fMax o x)
  | .minu => if old ≤ b then old else b
  | .maxu => if b ≤ old then old else b
  | .xchg => b
  | .cas => if old = c then b else old
  | .inc => z (if x ≤ o then 0 else o + 1)
  | .dec => z (if o = 0 ∨ x < o then x else o - 1)
  | .fadd => z (opFadd o x).1

/-- One indivisible read-modify-write at the home: the old value and the state after (R199). -/
def homeRmw (s : State) (pa : Nat) (op : AtomOp) (wide : Bool) (b c : DWord) : DWord × State :=
  let n := if wide then 8 else 4
  let old : DWord := BitVec.ofNat 64 (leNat (homeBytes s pa n))
  let b : DWord := if wide then b else (b.setWidth 32).setWidth 64
  let c : DWord := if wide then c else (c.setWidth 32).setWidth 64
  (old, homeWrite s pa (leBytes n (atomicNew op wide old b c).toNat))

/-! ### Host regions (R338, R339) -/

/-- A region after reset: owned by the host. -/
def Region.reset : Region := { state := 0, since := 0, snoops := [] }
/-- Region of a host address. -/
def regionOf (pa : Nat) : Nat := (pa - hostBase) / 2 ^ 21
/-- A region's record. -/
def State.region (s : State) (q : Nat) : Region := Sparse.get Region.reset s.regions q
/-- Change a region's record. -/
def State.setRegion (s : State) (q : Nat) (r : Region) : State :=
  { s with regions := Sparse.set Region.reset s.regions q r }
/-- Whether the accelerator may be served now (R338). -/
def regionReady (s : State) (pa : Nat) : Bool := decide (pa < hostBase) || decide (ridgeBase ≤ pa) || (s.region (regionOf pa)).state == 1
/-- Add a message to what leaves the package. -/
def send (s : State) (m : Msg) : State := { s with fabric := { s.fabric with outbox := s.fabric.outbox ++ [m] } }
/-- An accelerator access that must wait starts, or asks for, a transfer to ACCEL, which flushes every line of the
region (R338, R417). -/
def wantRegion (s : State) (pa : Nat) : State :=
  let q := regionOf pa
  let r := s.region q
  if regionReady s pa then s
  else if r.state = 0 then send (s.setRegion q { r with state := 2, since := s.clock }) (.flush q)
  else s

/-! ### Store-queue entries and the Gutter record -/

/-- Bytes an entry covers. -/
def SqEntry.len (e : SqEntry) : Nat := e.data.length
/-- Entries that only write bytes. -/
def SqEntry.isPlain (e : SqEntry) : Bool :=
  match e.kind with
  | .st => true
  | .sto => true
  | .stog => true
  | .claim => true
  | _ => false
/-- Entries for global memory (R225). -/
def SqEntry.isGlobal (e : SqEntry) : Bool := e.isPlain || e.kind == .red
/-- The use an entry makes of its address. -/
def SqEntry.use (e : SqEntry) : Use :=
  match e.kind with
  | .sto => .writeO e.len
  | .stog => .writeG
  | .claim => .claim
  | .red => .reduce e.op e.wide e.scope
  | _ => .write e.len
/-- Whether an entry writes part of a grain (R187). -/
def SqEntry.isPartial (e : SqEntry) : Bool := e.kind == .st || e.kind == .sto
/-- Lanes of one instruction that write the same 32-byte block: they leave, are performed and are refused as one
store (R188, R351). -/
def SqEntry.mate (e x : SqEntry) : Bool :=
  e.isPartial && x.kind == e.kind && x.stamp == e.stamp && x.va / 32 == e.va / 32
/-- The entries of a list that are one store with `e`. -/
def SqEntry.unit (e : SqEntry) (l : List SqEntry) : List SqEntry := if e.isPartial then l.filter e.mate else [e]
/-- Whether two byte runs overlap. -/
def overlaps (a n b m : Nat) : Bool := decide (a < b + m) && decide (b < a + n)

/-- KIND of a Gutter record (R351). -/
def SqKind.gutterCode : SqKind → Nat
  | .sto => 1
  | .stog => 2
  | .red => 3
  | .claim => 4
  | _ => 0
/-! ### What a load of a core sees -/

/-- Overlay one entry at address `b` on bytes at address `a`. -/
def overlay (a : Nat) (bs : List Byte) (b : Nat) (data : List Byte) : List Byte :=
  (List.range bs.length).map fun i =>
    if b ≤ a + i ∧ a + i < b + data.length then data.getD (a + i - b) 0 else bs.getD i 0

/-- The 64-byte record of the entries that share one block (R351). -/
def gutterBits (es : List SqEntry) (pasid grp tslot logseq : Nat) (pend : Bool) : BitVec 512 :=
  match es with
  | [] => 0
  | e :: _ =>
    let base := e.va / 32 * 32
    let block := es.foldl (fun bs x => overlay base bs x.va x.data) (List.replicate 32 0)
    let mask := (List.range 32).foldl (fun m i =>
      if es.any fun x => decide (x.va ≤ base + i) && decide (base + i < x.va + x.len) then m + 2 ^ i else m) 0
    BitVec.ofNat 512 (leNat block * 2 ^ 256 + mask * 2 ^ 224
      + e.va / 32 % 2 ^ 51 * 2 ^ 173 + pasid % 2 ^ 20 * 2 ^ 153 + grp % 16 * 2 ^ 149 + tslot % 16 * 2 ^ 145
      + e.scope % 8 * 2 ^ 142 + (if e.rel then 2 else 0) * 2 ^ 140 + e.kind.gutterCode * 2 ^ 137
      + e.op.code.toNat * 2 ^ 132 + e.wide.toNat * 2 ^ 131 + pend.toNat * 2 ^ 130 + logseq % 2 ^ 32 * 2 ^ 98)

/-- The records of a grain's entry: one of each of its 16 blocks (R351). -/
def SqEntry.blocks (e : SqEntry) : List SqEntry :=
  (List.range 16).map fun i => { e with va := e.va + 32 * i, data := (e.data.drop (32 * i)).take 32 }

/-- A core's bytes: its own line or the home's value, then the stores already performed at core scope that have not
reached their homes (R212). -/
def coreBytes (s : State) (core pa n : Nat) (bypass : Bool) : List Byte :=
  let c := s.core core
  let base : List Byte :=
    match (if bypass then none else c.l1.find? fun l => l.line == pa / 128) with
    | some l => readBytes l.data (pa % 128) n
    | none => homeBytes s pa n
  (c.reqs.filter fun q => q.e.isPlain).foldl (fun bs q => overlay pa bs q.pa q.e.data) base

/-- A load brings its line into the L1, dropping the oldest of 2,048 (R184; log 31). -/
def fillL1 (s : State) (core pa : Nat) : State :=
  if ridgeBase ≤ pa ∨ (s.core core).l1.any (fun l => l.line == pa / 128) then s
  else
    let s := s.readBy (chipletOfCore core) pa
    let d := writeBytes [] 0 (coreBytes s core (pa / 128 * 128) 128 true)
    s.adjCore core fun c => { c with l1 := ({ line := pa / 128, data := d } :: c.l1).take 2048 }

/-- A store performed at core scope updates a line already present (R184). -/
def updateL1 (s : State) (core pa : Nat) (bs : List Byte) : State :=
  s.adjCore core fun c =>
    { c with l1 := c.l1.map fun l =>
        if overlaps pa bs.length (l.line * 128) 128 then
          { l with data := (List.range bs.length).foldl (fun m i =>
              if pa + i < l.line * 128 ∨ l.line * 128 + 128 ≤ pa + i then m
              else writeByte m (pa + i - l.line * 128) (bs.getD i 0)) l.data }
        else l }

/-! ### Requests on their way to a home -/

/-- What a home does with a request. -/
inductive HomeRes where
  /-- not now: an earlier request, an engine, or an invalidation stands before it -/
  | wait
  | done (s : State)
  /-- refused: the store, with every lane of it, is dropped and its group takes the cause (R188) -/
  | refused (s : State) (q : HomeReq) (unit : List HomeReq) (cause : Cause)
  deriving DecidableEq, Repr

/-- Deliver the old value of an atomic to its deferred result. -/
def giveResult (s : State) (q : HomeReq) (old : DWord) : State :=
  match q.result with
  | none => s
  | some (id, lane, reg) =>
    let words : List (Nat × Nat × Word) :=
      (lane, reg, old.setWidth 32) :: (if q.e.wide then [(lane, reg + 1, old.extractLsb' 32 32)] else [])
    s.adjGroup ⟨q.team, q.grp⟩ fun g =>
      { g with deferred := g.deferred.map fun d =>
          if d.id = id then { d with lanes := d.lanes ++ words, wait := d.wait - 1 } else d }

/-- Whether the wait for a host region that began at a cycle has lasted longer than a deadline (R339). -/
def regionLate (s : State) (q : Nat) (since : Option (Nat × Nat)) (deadline : Nat) : Bool :=
  match since with
  | some (r, n) => r == q && decide (n + deadline < s.clock)
  | none => false
/-- The region an access waits for, with the cycle its wait began. -/
def waitSince (s : State) (pa : Nat) (old : Option (Nat × Nat)) : Option (Nat × Nat) :=
  match old with
  | some (r, n) => if r = regionOf pa then some (r, n) else some (regionOf pa, s.clock)
  | none => some (regionOf pa, s.clock)

/-- Whether a write to a line waits at its home for acknowledgements: later requests to the line wait (R234). -/
def lineBusy (s : State) (line : Nat) : Bool :=
  s.cores.any fun kc => kc.2.reqs.any fun q => !q.unreached.isEmpty && (linesOf q.pa q.e.len).contains line
/-- Whether an access of a core must wait for the core's own stores to the same bytes to reach their home: a read that
the home serves returns no older value (R212, R220). What a refusal holds back is not waited for. -/
def ownInFlight (s : State) (core pa n : Nat) : Bool :=
  (s.core core).reqs.any fun q => overlaps q.pa q.e.len pa n && !(reqHeld s q)

/-- Whether every copy of a group holds its destination grains (R228). -/
def copiesHold (s : State) (r : GRef) : Bool := s.copies.all fun c => c.g != r || c.held

/-- Whether a release beyond the core may be performed: everything before it on the core has reached its home, and its
group's copies hold their grains (R214, R228). -/
def releaseReady (s : State) (i : Nat) (q : HomeReq) : Bool :=
  !(q.e.rel && decide (2 ≤ foldScope s.build q.e.scope)) || (i == 0 && copiesHold s ⟨q.team, q.grp⟩)

/-- Whether an earlier request of a core stands before a later one: one for the same grain, and of those a refusal holds
back another group's for the same bytes (R188, R211, R212). -/
def standsBefore (s : State) (p q : HomeReq) : Bool :=
  if reqHeld s p then !(p.team == q.team && p.grp == q.grp) && overlaps p.pa p.e.len q.pa q.e.len else p.pa / 512 == q.pa / 512

/-- Whether request `i` of a core may be performed: nothing holds it, no earlier one stands before it, no engine owns
its grain, no other write to its lines waits for acknowledgements, and every invalidation can be delivered (R188,
R211, R229, R234). -/
def reqReady (s : State) (core i : Nat) (q : HomeReq) : Bool :=
  !(reqHeld s q) && releaseReady s i q &&
  !(((s.core core).reqs.take i).any fun p => standsBefore s p q) && !(s.engineOwned q.pa) && q.unreached.isEmpty
    && !((linesOf q.pa q.e.len).any (lineBusy s)) && regionReady s q.pa

/-- Whether a request is one store with another (R188). -/
def HomeReq.mate (q p : HomeReq) : Bool := p.team == q.team && p.grp == q.grp && q.e.mate p.e
/-- The requests of a list that are one store with `q`. -/
def HomeReq.unit (q : HomeReq) (l : List HomeReq) : List HomeReq := if q.e.isPartial then l.filter q.mate else [q]
/-- Take request `i` out of a core's list. -/
def dropReq (s : State) (core i : Nat) : State := s.adjCore core fun c => { c with reqs := dropAt c.reqs i }

/-- Perform request `i` of a core at its home (R187, R199, R233). A single-copy part of a store is one write of it
(R181, R192; log 89). -/
def performReq (s : State) (core i : Nat) : HomeRes :=
  match (s.core core).reqs[i]? with
  | none => .wait
  | some q =>
    if !(reqReady s core i q) then .wait
    else
      let me : Holder := .chiplet (chipletOfCore core)
      let s1 := if q.e.rel ∧ 2 ≤ foldScope s.build q.e.scope then (dropReq s core i).dropStale core else dropReq s core i
      let fin := fun (t : State) => (linesOf q.pa q.e.len).foldl (fun t l => t.dropLayer core l) t
      if q.e.kind = .stog ∨ q.e.kind = .claim then
        let t := (s1.dropOwner (q.pa / 512)).invalidateGrain (q.pa / 512)
        let t := if homeOf t.build q.pa = chipletOfCore core ∧ q.pa < localBytes t.build then t else t.grant (q.pa / 512) me
        let t := if q.e.kind = .claim ∧ q.pa < localBytes t.build then { t with mem := clearLost t.build t.mem q.pa } else t
        .done (fin (homeStore t q.pa q.e.data))
      else if q.e.isPartial then
        match s.owner (q.pa / 512) with
        | none => .done (fin (homeWrite s1 q.pa q.e.data))
        | some o =>
          if o = me then .done (fin (homeStore s1 q.pa q.e.data))
          else
            .refused (s.adjCore core fun c => { c with reqs := c.reqs.filter fun p => !(q.mate p) }) q
              (q.unit (s.core core).reqs) cGrain
      else
        let (old, t) := homeRmw s1 q.pa q.e.op q.e.wide (BitVec.ofNat 64 (leNat q.e.data)) q.e.cmp
        let t := (fin (giveResult t q old)).dropLine core (q.pa / 128)
        let acq : Bool := match q.order with | .acq => true | .acqrel => true | _ => false
        .done (if acq && decide (3 ≤ foldScope t.build q.e.scope) then t.dropL1 core else t)

/-! ### Waking waiters (R204, R205) -/

/-- A lane that leaves a WAITA takes the word and its status; a condition that holds is an acquire (R91, R203). -/
def finishLane (s : State) (r : GRef) (core L d : Nat) (x cmp : Word) (cond : WaitCond) (scope : Nat) (miss : Word) :
    State :=
  let held := condHolds cond x cmp
  let s := s.adjGroup r fun g =>
    ((g.writeLane L d x).writeLane L (d + 1) (if held then 0 else miss)).adjLane L fun l =>
      { l with park := none, pc := l.pc + 8 }
  if held && decide (3 ≤ foldScope s.build scope) then s.dropL1 core else s

/-- Finish a waiter with a re-read of its word at the home, which recalls any owner; the core's L1 keeps no older copy
(R186, R203, R219). -/
def finishWait (s : State) (w : WaitReg) : State :=
  match s.team w.g.team with
  | none => s
  | some t =>
    let x : Word := BitVec.ofNat 32 (leNat (homeBytes s w.pa 4))
    let s := (s.readBy (chipletOfCore t.core) w.pa).dropLine t.core (w.pa / 128)
    finishLane s w.g t.core w.lane w.d x w.cmp w.cond w.scope (if w.woken = some true then 1 else 2)

/-- Whether the home can serve a woken waiter's read now (R212, R229, R234, R338). -/
def rereadReady (s : State) (w : WaitReg) : Bool :=
  !(s.engineOwned w.pa) && !(lineBusy s (w.pa / 128)) && regionReady s w.pa &&
    (match s.team w.g.team with
     | some t => !(ownInFlight s t.core w.pa 4) && !(pageWaits s t.pasid (w.va.toNat / 65536))
     | none => true)
/-- The woken waiters whose re-read the home can serve finish, in order of registration (R203, R229). -/
def rereadAll (s : State) : State :=
  (s.waits.filter fun w => w.woken.isSome && rereadReady s w).foldl
    (fun s w => finishWait { s with waits := s.waits.filter fun v => v ≠ w } w) s
/-- Wake the waiters that satisfy a test: they leave the list, and re-read. -/
def wakeWaiters (s : State) (p : WaitReg → Bool) (timedOut : Bool) : State :=
  rereadAll { s with waits := s.waits.map fun w => if w.woken.isNone && p w then { w with woken := some timedOut } else w }

/-- A woken waiter that has to wait looks again where its word lies; where its page is no longer resident its WAITA
executes again. -/
def replaceWoken (s : State) (w : WaitReg) : State :=
  let put := fun (l : List WaitReg) => { s with waits := l }
  match (s.team w.g.team).map fun t => translate s t.pasid w.va.toNat .wait with
  | some (.at pa _) => put (s.waits.map fun v => if v = w then { v with pa } else v)
  | _ => (put (s.waits.filter fun v => v ≠ w)).adjLane w.g w.lane fun l => { l with park := none }
/-- Woken waiters that had to wait look again (R203). -/
def rereadLate (s : State) : State := rereadAll ((s.waits.filter fun w => w.woken.isSome).foldl replaceWoken s)

/-- WAKEA at the home: the n earliest waiters on a word, or all when n = 0 (R204). -/
def wakeAt (s : State) (pa n : Nat) : State :=
  let ws := s.waits.filter fun w => w.pa == pa && w.woken.isNone
  let chosen := if n = 0 then ws else ws.take n
  wakeWaiters s (fun w => chosen.contains w) false

end Sys2Proof.Machine
end

