-- ==== Sys2Proof/Machine/Launch.lean ====
section
/-! DEFINITION. The ends of teams and instances: the completion word and signal (R309, R312, R400), abort (R311),
fatal ends (R366), and what a team leaves behind (R86, R164). -/

namespace Sys2Proof.Machine

/-! ### Instances -/

/-- FREE of R296. -/
def Inst.free (i : Inst) : Nat := i.slots - i.used.length - i.res
/-- Records held in bins and ready lists and in flight. -/
def Inst.recsLeft (i : Inst) : Nat :=
  i.flights.length + (i.bins.map fun b => b.recs.length).sum + (i.ready.map fun r => r.recs.length).sum
/-- Teams of an instance that run: launched and not yet ended (R305). -/
def runningTeams (s : State) (id : Nat) : List Team := s.teams.filter fun t => t.inst == id && t.place != .ended

/-- The completion word's 128 bits (R312). -/
def completionBits (teams left reason node : Nat) (cause : Cause) : Nat :=
  teams % 2 ^ 64 * 2 ^ 64 + left % 2 ^ 32 * 2 ^ 32 + 2 ^ 31 + reason % 16 * 2 ^ 16 + node % 64 * 2 ^ 8 + cause.toNat

/-- An atomic subtraction of 1 on a signal (R400). -/
def signalDown (s : State) (sig : Option Nat) : State :=
  match sig with
  | none => s
  | some pa => (homeRmw s pa .add true (0 - 1) 0).2

/-- FREE less the slots that lanes of a POST.wait wait for (R300). -/
def Inst.spare (i : Inst) : Nat := i.free - i.waiters.length

/-- Where the end of an instance is written. -/
inductive EndAddr where
  | pa (n : Nat) (s : State)
  /-- not yet: a page has to come, or something stands before the write -/
  | wait (s : State)
  /-- the address no longer leads anywhere: nothing is written there -/
  | gone
  deriving DecidableEq, Repr
/-- Whether a fault entry for a page stands anywhere. -/
def pagePosted (s : State) (pasid vpn : Nat) : Bool :=
  (s.faults.queues.any fun q => q.2.entries.any fun e => e.isFor pasid vpn) || (s.faults.served.any fun v => v.entry.isFor pasid vpn)
    || (s.faults.host ++ s.faults.popped).any fun e => e.isFor pasid vpn
/-- Where an address of an instance's end leads now (log 25). -/
def endAddr (s : State) (pasid va : Nat) (u : Use) : EndAddr :=
  match place s pasid va u with
  | .at pa kind =>
    if kind = 6 then .gone
    else if s.engineOwned pa || lineBusy s (pa / 128) || pageWaits s pasid (va / 65536) then .wait s
    else if regionReady s pa then .pa pa (noteAccess s pa kind) else .wait (wantRegion s pa)
  | .miss need remote chain =>
    .wait (if pagePosted s pasid (va / 65536) then s
      else match postFault s pasid (va / 65536) need remote chain {} [] with | .done s => s | .full => s)
  | _ => .gone
/-- Both addresses of an end, once both can be written: the completion word's, and the signal's. -/
def endAddrs (s : State) (i : Inst) : Option (Option Nat × Option Nat) × State :=
  let sig := fun (s : State) => match i.signal with | some va => endAddr s i.pasid va (.write 8) | none => .gone
  let both := fun (s : State) (c : Option Nat) =>
    match sig s with
    | .wait s => (none, s)
    | .pa g s => (some (c, some g), s)
    | .gone => (some (c, none), s)
  match endAddr s i.pasid i.completion (.write 16) with
  | .wait s => (none, s)
  | .pa c s => both s (some c)
  | .gone => both s none
/-- End an instance: its records go; the completion word is written first, then its signal, and the instance is gone
(R309, R311, R400). While a page of them has to come the end waits (log 25). -/
def finishInst (s : State) (i : Inst) (node : Nat) (cause : Cause) (left : Nat) : State :=
  let e := i.ended.getD (node, cause, left)
  match endAddrs s i with
  | (none, s) => s.adjInst i.id fun i => { i with ended := some e, flights := [], bins := [], ready := [], waiters := [] }
  | (some (comp, sig), s) =>
    let bits := completionBits i.launched e.2.2 0 e.1 e.2.1
    let s := match comp with | some pa => homeWrite s pa (leBytes 16 bits) | none => s
    let s := signalDown s sig
    { s with insts := s.insts.filter fun j => j.id ≠ i.id }

/-! ### Places (R12, R14, R15, R81, R132, R163, R263) -/

/-- A lane as it is launched (R70, R84, R134). -/
def Lane.start (pc : DWord) (teamlane : Nat) : Lane :=
  { pc, age := 0, exited := false, park := none, regs := [], rng := 0x6A09E667 ^^^ BitVec.ofNat 32 teamlane }

/-- A group as it is launched (R84, R134). -/
def Group.start (pc : DWord) (width slot grp : Nat) : Group :=
  { slot, lanes := (List.range width).map fun L => Lane.start pc (grp * width + L), uregs := [], tile := width
    fflags := 0, park := none, stop := none, inHandler := false, frame := none, pending := none, later := [], storeQ := []
    blocked := false, refusedAt := 0, hold := 0, refused := none, claims := [], half := none, winRes := [], deferred := [], arrivals := []
    lastIssue := 0, readyAt := 0, held := [], settling := false, released := false, needs := false, owed := [], badV := [], badU := [] }

/-- What a team asks of its core: groups, their width and registers, tiles and window (R81). -/
structure Shape where
  groups : Nat
  width : Nat
  vregs : Nat
  ztiles : Nat
  window : Nat
  deriving DecidableEq, Repr

/-- Register units of some groups and tiles (R81). -/
def unitsOf (groups width vregs ztiles : Nat) : Nat := groups * (width / 8 * (vregs / 8) + 1) + 32 * ztiles
/-- Teams whose state a core holds. -/
def coreTeams (s : State) (core : Nat) : List Team := s.teams.filter fun t => t.core == core && t.place != .saved
/-- Groups of a team that hold their slot: from launch to exit (R24). -/
def Team.slotGroups (t : Team) : List Group := t.groups.filter fun g => !g.exited
/-- Groups of a team that hold their registers: until they are released (R86). -/
def Team.heldGroups (t : Team) : List Group := t.groups.filter fun g => !g.released
/-- Whether an entry of the matrix queue holds the team's tiles: an MMA, ZSTT or ZLDT (R86). -/
def MqEntry.holdsTiles (e : MqEntry) : Bool :=
  match e.kind with
  | .mma _ _ => true
  | .zstt _ _ _ => true
  | .zldt _ _ _ => true
  | _ => false
/-- Whether a team holds its slot, tiles, convergence registers and weight context: until its last group has exited and
the array has finished every MMA, ZSTT and ZLDT of it (R86, R263). -/
def Team.holdsSlot (t : Team) : Bool := t.place != .ended || t.mq.any MqEntry.holdsTiles
/-- Whether a team has CLT accesses to another that its store queue has admitted and not performed (R175). -/
def cltTo (s : State) (team : Nat) : Bool :=
  s.teams.any fun t => t.groups.any fun g => g.storeQ.any fun e => e.kind == .clt && e.target == team
/-- Whether a team holds its window: as long as its slot, and until its share window has drained and its subscriptions
have stopped delivering (R164). -/
def holdsWindow (s : State) (t : Team) : Bool :=
  t.holdsSlot || cltTo s t.id || s.deliveries.any (fun d => d.team == t.id)
/-- Whether a core can grant everything a team declares at one instant (R15). -/
def coreFits (s : State) (core : Nat) (d : Shape) : Bool :=
  let ts := coreTeams s core
  let sum := fun (f : Team → Nat) => (ts.map f).sum
  let slots := ts.filter Team.holdsSlot
  decide (slots.length < 16) && decide (sum (fun t => t.slotGroups.length) + d.groups ≤ 64)
    && decide (sum (fun t => unitsOf t.heldGroups.length t.width t.vregs (if t.holdsSlot then t.ztiles else 0))
        + unitsOf d.groups d.width d.vregs d.ztiles ≤ 2048)
    && decide (sum (fun t => if holdsWindow s t then t.window else 0) + d.window ≤ 524288)
    && (d.ztiles == 0 || decide (((slots.filter fun t => t.ztiles != 0).length) < 4))
/-- The rectangles w × h of a chiplet, by rising origin, their cores in the order of %clusterteam (R15, R173). -/
def rectsOf (chiplet w h : Nat) : List (List Nat) :=
  (List.range 2).flatMap fun layer => (List.range (5 - h)).flatMap fun y => (List.range (5 - w)).map fun x =>
    (List.range h).flatMap fun dy => (List.range w).map fun dx => 32 * chiplet + 16 * layer + 4 * (y + dy) + x + dx
/-- The rectangle a cluster takes (R15). -/
def findRect (chiplet w h : Nat) (fits : Nat → Nat → Bool) : Option (List Nat) :=
  (rectsOf chiplet w h).find? fun r => r.zipIdx.all fun ci => fits ci.1 ci.2
/-- The lowest number outside a list. -/
def lowestFree (used : List Nat) : Nat := ((List.range (used.length + 1)).find? fun n => !(used.contains n)).getD 0
/-- The `n` lowest numbers outside a list, rising. -/
def lowestFrees (used : List Nat) : Nat → List Nat
  | 0 => []
  | n + 1 => let k := lowestFree used; k :: lowestFrees (k :: used) n
/-- The team slot and group slots a team of `n` groups takes on a core (R132). -/
def takeSlots (s : State) (core n : Nat) : Nat × List Nat :=
  let ts := coreTeams s core
  (lowestFree ((ts.filter Team.holdsSlot).map fun t => t.slot),
   lowestFrees (ts.flatMap fun t => t.slotGroups.map fun g => g.slot) n)

/-! ### Teams -/

/-- Change the pin count of the frame that holds a local address, when the inverted table maps it (R335). -/
def adjPin (s : State) (pa : Nat) (f : Nat → Nat) : State :=
  let c := stackOf s.build pa
  let i := frameIdx s.build pa
  let e := invEntry s.build s.mem c i
  if pa < localBytes s.build ∧ e.valid then { s with mem := setInvEntry s.build s.mem c i { e with pin := f e.pin } } else s

/-- A home stops delivering to a handle, and the pin is given back (R180, R182). -/
def leaveHome (s : State) (team handle : Nat) : State :=
  let m := (team, handle)
  let hit := s.subHomes.find? fun h => h.members.contains m
  let s := { s with subHomes := s.subHomes.map fun h => { h with members := h.members.filter fun x => x ≠ m } }
  match hit with
  | none => s
  | some h => match h.pa with | some pa => adjPin s pa (· - 1) | none => s

/-- STATUS of a subscription block (R179). -/
def Sub.status (u : Sub) : Nat := u.active.toNat + 2 * u.resync.toNat

/-- Stop one subscription with its deliveries in flight (R182). -/
def stopSub (s : State) (team handle : Nat) : State :=
  let s := leaveHome s team handle
  { s with deliveries := s.deliveries.filter fun d => !(d.team == team && d.handle == handle) }

/-- Stop every subscription of a team. -/
def stopSubs (s : State) (t : Team) : State := t.subs.foldl (fun s u => stopSub s t.id u.handle) s

/-- Drop the Gutter and spill entries of a team (R366). -/
def dropGutter (s : State) (team : Nat) : State :=
  s.keepLogged fun l => l.filter fun e => e.team ≠ team

/-- Drop a copy: the grains its engine owned are free again and it waits on nothing. -/
def dropCopy (s : State) (id : Nat) : State :=
  let s := dropWaiter s (Waiter.isCopy id)
  { s with copies := s.copies.filter fun c => c.id ≠ id }

/-- Drop every copy of a team. -/
def dropCopies (s : State) (team : Nat) : State :=
  (s.copies.filter fun c => c.g.team == team).foldl (fun s c => dropCopy s c.id) s

/-- Lane pipes hold nothing of a team any more (R113). -/
def Core.dropHeld (c : Core) (team : Nat) : Core :=
  { c with sfuHeld := Sparse.mapKey [] (fun _ l => l.filter fun r => r.team ≠ team) c.sfuHeld }

/-- Take a team off the machine: its waits, waiters, copies and place in the instance go (R366). -/
def removeTeam (s : State) (t : Team) : State :=
  let s := stopSubs s t
  let s := dropGutter s t.id
  let s := dropCopies s t.id
  let s := dropWaiter s fun w => match w with | .group g _ => g.team == t.id | .discard g _ => g.team == t.id | _ => false
  let s := s.adjInst t.inst fun i =>
    { i with res := i.res - t.res, waiters := i.waiters.filter fun w => w.g.team ≠ t.id }
  let s := s.mapCores fun _ c => c.dropHeld t.id
  { s with
    waits := s.waits.filter fun w => w.g.team ≠ t.id
    teams := s.teams.filter fun u => u.id ≠ t.id }

/-- Fabric operations of a team that ends fatally: what is unsent is dropped, and they end with its cause (R412). -/
def dropFabric (s : State) (team : Nat) (cause : Cause) : State :=
  let mark := fun (o : FabOp) => if o.team = team ∧ o.dropped = none then { o with dropped := some cause } else o
  { s with fabric := { s.fabric with ops := s.fabric.ops.map mark } }

/-- Abort an instance: its teams stop, its records are dropped, and the completion word carries the cause
(R311; log 51). -/
def abortInst (s : State) (id node : Nat) (cause : Cause) : State :=
  let s := (s.teams.filter fun t => t.inst == id).foldl (fun s t => removeTeam (dropFabric s t.id cause) t) s
  match s.inst id with
  | none => s
  | some i => finishInst s i node cause i.recsLeft

/-- FatalEnd: the team and with it its instance (R366). -/
def fatalEnd (s : State) (team : Nat) (cause : Cause) : State :=
  match s.team team with
  | none => s
  | some t => abortInst (removeTeam (dropFabric s team cause) t) t.inst t.node cause

/-- Whether nothing of a team is left to happen: queues, Gutter, requests, results, matrix work, and what others still
deliver into its window are done. Its record stays until then; what it holds of its core goes as R86 and R164 give. -/
def teamQuiet (s : State) (t : Team) : Bool :=
  t.mq.isEmpty && !(holdsWindow s t) && (t.groups.all fun g => g.storeQ.isEmpty && g.deferred.isEmpty)
    && ((s.core t.core).gutter.all fun e => e.team ≠ t.id) && ((s.core t.core).reqs.all fun q => q.team ≠ t.id)
    && (s.faults.spill.all fun kl => kl.2.all fun e => e.team ≠ t.id)
    && (s.copies.all fun c => c.g.team ≠ t.id)

/-- Store bytes into a team's window; writing every byte of a word clears its error (R169). -/
def teamStore (s : State) (team off : Nat) (bs : List Byte) : State :=
  s.adjTeam team fun t => { t with
    tmem := writeBytes t.tmem off bs
    badT := t.badT.filter fun w => !(decide (off ≤ 4 * w) && decide (4 * w + 4 ≤ off + bs.length)) }

/-- A subscription that has stopped is forgotten once its deliveries have landed: ACTIVE clears (R182). -/
def settleSub (s : State) (team : Nat) (u : Sub) : State :=
  if s.deliveries.any fun d => d.team == team && d.handle == u.handle then s
  else
    (teamStore s team (u.block + 12) (leBytes 4 ({ u with active := false } : Sub).status)).adjTeam team fun t =>
      { t with subs := t.subs.filter fun x => x.handle ≠ u.handle }
/-- The last group has exited: the team's window closes, its subscriptions stop under the drain of UNSUB and its unused
reservation is returned (R153, R175, R182, R296). -/
def endTeam (s : State) (t : Team) : State :=
  let s := t.subs.foldl (fun s u => leaveHome s t.id u.handle) s
  let s := s.adjInst t.inst fun i => { i with res := i.res - t.res }
  let s := s.adjTeam t.id fun t => { t with place := .ended, share := none, shareSeen := [], res := 0 }
  t.subs.foldl (fun s u => settleSub s t.id u) s

end Sys2Proof.Machine
end

