-- ==== Sys2Proof/Machine/Ops.lean ====
section
/-! DEFINITION. The named operations every meaning is built from: who acts, the choice of the issuing set (R134), the
checks before an instruction takes effect (R47), landing and settling (R143 to R145), taking a trap (R360, R446)
and returning from one (R363), and the shared shapes of lane and uniform instructions (R92, R93, R104). -/

namespace Sys2Proof.Machine

/-- What a meaning answers. -/
abbrev Out := Host.Outcome State Fault Refusal

/-! ### The acting group -/

/-- Lanes that are live and not parked (R134). -/
def Group.cands (g : Group) : List Nat :=
  (List.range g.lanes.length).filter fun L => !(g.lane L).exited && (g.lane L).park.isNone

/-- Smallest of a list of addresses. -/
def minPc : List DWord → DWord
  | [] => 0
  | [p] => p
  | p :: r => let q := minPc r; if p ≤ q then p else q

/-- The issuing set and its PC: a held instruction first, else the lowest aged lane, else the lowest PC (R134). -/
def Group.issueSet (g : Group) : List Nat × DWord :=
  let c := g.cands
  let h := g.held.filter fun L => c.contains L
  match h with
  | L :: _ => (h, (g.lane L).pc)
  | [] =>
    let p :=
      match c.find? fun L => (g.lane L).age == 64 with
      | some L => (g.lane L).pc
      | none => minPc (c.map fun L => (g.lane L).pc)
    (c.filter fun L => (g.lane L).pc == p, p)

/-- The ages after an issue (R134). -/
def Group.ageLanes (g : Group) (cands issuing : List Nat) : Group :=
  cands.foldl (fun g L => g.adjLane L fun l =>
    { l with age := if issuing.contains L then 0 else min (l.age + 1) 64 }) g

/-- What a meaning sees: the state, the group, its issuing set and PC. -/
structure Ctx where
  s : State
  r : GRef
  t : Team
  g : Group
  I : List Nat
  pc : DWord
  deriving DecidableEq, Repr

/-- The acting group's context. -/
def State.ctx (s : State) : Option Ctx :=
  match s.actor with
  | .group r =>
    match s.team r.team with
    | none => none
    | some t =>
      match t.groups[r.grp]? with
      | none => none
      | some g => some { s, r, t, g, I := g.issueSet.1, pc := g.issueSet.2 }
  | _ => none

/-- The acting group's park before its instruction executes again. -/
def State.parkNow (s : State) : Option Park :=
  match s.ctx with
  | some c => c.g.park
  | none => none

/-- Width of the group. -/
def Ctx.W (c : Ctx) : Nat := c.t.width
/-- The issuing set as a mask. -/
def maskOf (I : List Nat) : BitVec 64 := I.foldl (fun m L => m ||| (1 <<< L)) 0

/-! ### Trap detail -/

/-- %trapinfo of R183: lane and code. -/
def infoTeam (lane code : Nat) : Word := BitVec.ofNat 32 (lane % 256 * 16 + code % 16)
/-- %trapinfo of R191: kind, lane and code. -/
def infoGlobal (kind lane code : Nat) : Word := BitVec.ofNat 32 (kind % 16 * 4096 + lane % 256 * 16 + code % 16)

/-- The versions of an aligned code word that a team may fetch: as it stood when the team launched, and every value
later written to it (R28). -/
def codeVersions (s : State) (t : Team) (pa : Nat) : List Word :=
  ((s.codeLog.drop t.codeFrom).filter fun e => e.1 == pa / 4).map (·.2) ++ [BitVec.ofNat 32 (leNat (homeBytes s pa 4))]
/-- The version that group `grp` of a team fetches in this cycle (R28; log 19). -/
def codeWord (s : State) (t : Team) (grp pa va : Nat) : Word :=
  match codeVersions s t pa with
  | [w] => w
  | ws => ws.getD (Config.codeVersion s.clock t.id grp va % ws.length) 0

/-- The word at an address as a fetch of the group sees it; 0 where it cannot be fetched. At a misaligned address,
which only GRPWR can make a PC, the four bytes there (R445; log 86). -/
def wordAt (s : State) (t : Team) (grp : Nat) (pc : DWord) : Word :=
  match translate s t.pasid pc.toNat .fetch with
  | .at pa _ => if pa % 4 = 0 then codeWord s t grp pa pc.toNat else BitVec.ofNat 32 (leNat (homeBytes s pa 4))
  | _ => 0

/-- A trap at the current instruction. -/
def Ctx.mkTrap (c : Ctx) (cause : Cause) (addr : DWord) (info : Word) : TrapRec :=
  { cause, addr, inst := wordAt c.s c.t c.r.grp c.pc, info, block := 0 }

/-! ### Landing (R143 to R145) -/

/-- Write a result's registers and raise its flags. -/
def Group.land (g : Group) (d : Deferred) : Group :=
  let g := d.lanes.foldl (fun g x => g.writeLane x.1 x.2.1 x.2.2) g
  let g := d.unis.foldl (fun g x => g.writeUni x.1 x.2) g
  g.raise d.flags
/-- The end of a settle: RUNNING again once nothing is outstanding (R145). -/
def Group.endSettle (g : Group) : Group :=
  if g.park = some .settle ∧ g.deferred = [] then { g with park := none } else g
/-- Land every result that waits for nothing more. -/
def Group.landReady (g : Group) : Group :=
  let g' := (g.deferred.filter fun d => d.wait == 0).foldl Group.land g
  ({ g' with deferred := g.deferred.filter fun d => d.wait ≠ 0 }).endSettle
/-- A park ends; a group whose instruction had S set goes on to settle (R31). -/
def Group.unpark (g : Group) : Group :=
  { g with park := if g.settling && !g.deferred.isEmpty then some .settle else none }

/-- Make a result outstanding: ids come from `fresh`. `wait` counts what must still happen before it can land. -/
def addDeferred (s : State) (r : GRef) (vregs uregs : List Nat) (lanes : List (Nat × Nat × Word))
    (unis : List (Nat × Word)) (flags : FFlags) (wait : Nat) : State :=
  let d : Deferred := { id := s.fresh, vregs, uregs, lanes, unis, flags, wait }
  { (s.adjGroup r fun g => { g with deferred := g.deferred ++ [d] }) with fresh := s.fresh + 1 }

/-! ### Parks and traps (R446) -/

/-- Parks a trap cancels at once; the others complete first (R446). -/
def Park.cancels : Park → Bool
  | .settle => false
  | .ztransfer => false
  | .nodeq _ _ => false
  | .wcrd _ _ => false
  | .discard _ _ _ => false
  | .winAtom => false
  | .stopping => false
  | .grpstop _ => false
  | _ => true

/-- The change of a team's share table that is under way: the earliest parked JOIN or LEAVE, its group and its entry
(R174, R175). -/
def Team.shareChange (t : Team) : Option (Nat × Option Share) :=
  let l := t.groups.zipIdx.filterMap fun gi => match gi.1.park with | some (.share w n _) => some (n, gi.2, w) | _ => none
  (l.find? fun x => l.all fun y => decide (x.1 ≤ y.1)).map (·.2)

/-- End the waits of a group and its lanes: barrier waits, registrations and an unfinished WLOAD go, signatures of
rounds stay (R271, R274, R360). -/
def cancelWaits (s : State) (r : GRef) : State :=
  let s := s.adjTeam r.team fun t => if (t.shareChange.map (·.1)) = some r.grp then { t with shareSeen := [] } else t
  let s := { s with waits := s.waits.filter fun w => w.g ≠ r }
  let s := s.adjGroup r fun g => { g with
    park := none, half := none, needs := false, lanes := g.lanes.map fun l => { l with park := none } }
  let s := dropWaiter s (Waiter.isGroup r)
  let loads := fun (e : MqEntry) => match e.kind with | .wload _ g _ _ => g == r.grp | _ => false
  let s := s.adjTeam r.team fun t => { t with mq := t.mq.filter fun e => !(loads e) }
  match s.team r.team with
  | none => s
  | some t => s.adjInst t.inst fun i => { i with waiters := i.waiters.filter fun w => w.g ≠ r }

/-- Saved registers: s48 to s63, and v120 to v127 of every lane (R360). -/
def Group.saved (g : Group) : Sparse Word × Sparse (Sparse Word) :=
  (g.uregs.filter fun e => 48 ≤ e.1,
   (List.range g.lanes.length).foldl (fun m L =>
     Sparse.set [] m L ((g.lane L).regs.filter fun e => 120 ≤ e.1 ∧ e.1 < 128)) [])

/-- Causes that no handler receives (R359). -/
def fatalCause (c : Cause) : Bool := c == cOutOfFrames || c == cPasidGone

/-- Whether a trap is the refusal that stopped the group's store queue (R188). -/
def fromRefusal (g : Group) (t : TrapRec) : Bool := g.blocked && g.refused.isNone && t.block != 0

/-- EnterHandler (R360): a trap in the handler or without one ends the team fatally (R366). -/
def enterHandler (s : State) (r : GRef) (t : TrapRec) (issuing : List Nat) (resume : List (Nat × DWord)) : State :=
  match s.team r.team with
  | none => s
  | some tm =>
    match tm.groups[r.grp]? with
    | none => s
    | some g0 =>
      if g0.inHandler ∨ tm.handler = 0 ∨ fatalCause t.cause then fatalEnd s r.team t.cause
      else
        let s := (cancelWaits s r).adjGroup r Group.landReady
        s.adjGroup r fun g =>
          let live := (List.range g.lanes.length).filter fun L => !(g.lane L).exited
          let pcOf := fun L => ((resume.find? fun x => x.1 == L).map (·.2)).getD (g.lane L).pc
          let tp := match issuing with | L :: _ => pcOf L | [] => match live with | L :: _ => pcOf L | [] => 0
          { g with
            frame := some
              { trap := t, pc := tp, issuing := maskOf issuing, live := maskOf live
                pcs := live.map fun L => (L, pcOf L)
                uregs := g.saved.1, vregs := g.saved.2, tile := g.tile }
            lanes := g.lanes.map fun l => if l.exited then l else { l with pc := tm.handler, age := 0 }
            tile := tm.width, inHandler := true, park := none, pending := g.later.head?, later := g.later.drop 1
            held := [], settling := false
            blocked := g.blocked && !fromRefusal g t, hold := if fromRefusal g t then s.clock else g.hold }

/-- Take a trap: at once when every outstanding result can land, else as soon as they have (R360). -/
def takeTrap (s : State) (r : GRef) (t : TrapRec) (issuing : List Nat) (resume : List (Nat × DWord)) : State :=
  match s.group r with
  | none => s
  | some g =>
    let dead : Bool := match s.team r.team with | some tm => g.inHandler || tm.handler == 0 || fatalCause t.cause | none => true
    if dead || g.deferred.all (fun d => d.wait == 0) then enterHandler s r t issuing resume
    else
      s.adjGroup r fun g => { g with
        pending := some t, held := issuing, park := some .stopping
        lanes := (List.range g.lanes.length).map fun L =>
          match resume.find? fun x => x.1 == L with
          | some x => { g.lane L with pc := x.2 }
          | none => g.lane L }

/-- A trap that arrives from outside the current instruction: taken at once by a group whose park it cancels, else at
its next instruction boundary (R359, R446). One that finds another on its way waits behind it. An instruction that was
about to execute again does so after the handler. -/
def takeImprecise (s : State) (r : GRef) (t : TrapRec) : State :=
  match s.group r with
  | none => s
  | some g =>
    let keep := s.adjGroup r fun g =>
      if g.pending.isSome then { g with later := g.later ++ [t] }
      else { g with pending := some t, held := if g.park.isNone then [] else g.held }
    if g.exited then fatalEnd s r.team t.cause
    else if g.stop.isSome then keep
    else
      match g.park with
      | some p =>
        if g.pending.isSome then keep
        else if p.cancels then takeTrap { s with waits := s.waits.filter fun w => w.g ≠ r } r t [] [] else keep
      | none => if g.cands.isEmpty && g.pending.isNone then takeTrap s r t [] [] else keep

/-- A pending trap is taken at an instruction boundary once nothing is outstanding. A group that waits for its results
holds the issuing set of a precise trap; an imprecise one has none (R360). -/
def runPending (s : State) (r : GRef) : State :=
  match s.group r with
  | none => s
  | some g =>
    match g.pending with
    | none => s
    | some t =>
      let issuing := if g.park = some .stopping then g.held else []
      if g.deferred.all (fun d => d.wait == 0) then
        enterHandler (s.adjGroup r fun g => { g with park := none, pending := none }) r t issuing []
      else s.adjGroup r fun g => { g with park := some .stopping, held := issuing }

/-- After a result has landed or a park has ended: enter the handler if a trap waits for it. -/
def afterLanding (s : State) (r : GRef) : State :=
  match s.group r with
  | none => s
  | some g => if g.pending.isSome ∧ (g.park = none ∨ g.park = some .stopping) ∧ g.deferred = [] then runPending s r else s

/-- The convergence register a lane at a PC stands signed in: an open round, or a closed one not yet accepted
(R270, R271, R279). -/
def Team.signedAt (t : Team) (grp L : Nat) (pc : DWord) : Option Nat :=
  let has := fun (ss : List Signer) => ss.any fun x => x.grp == grp && x.lane == L && x.pc == pc
  match t.kregState.find? fun k => match k.2 with | .opened _ _ _ ss => has ss | _ => false with
  | some k => some k.1
  | none =>
    t.mq.findSome? fun e => match e.kind with
      | .mma x ss => if !e.passed && has ss then some x.k.toNat else none
      | _ => none

/-- A resumed group keeps the traps owed to lanes that still stand at their MMA (R271, R279). -/
def Group.keepOwed (g : Group) : Group :=
  { g with owed := (g.owed.map fun o => { o with
      lanes := o.lanes.filter fun L => !(g.lane L).exited && (g.lane L).pc == o.pc }).filter fun o => o.lanes ≠ [] }

/-- RTE (R363): the saved registers, the tile size and the lane PCs come back, and queued stores go on (R188). A lane
whose signature stands in an open round waits for it again (R271). -/
def returnFromTrap (s : State) (r : GRef) : State :=
  match s.team r.team with
  | none => s
  | some tm =>
    s.adjGroup r fun g =>
      match g.frame with
      | none => g
      | some f =>
        let lanes := (List.range g.lanes.length).map fun L =>
          let l := g.lane L
          if l.exited then l
          else { l with
            pc := Sparse.get l.pc f.pcs L, age := 0
            park := (tm.signedAt r.grp L (Sparse.get l.pc f.pcs L)).map LanePark.mma
            regs := (Sparse.get [] f.vregs L).foldl (fun m e => Sparse.set 0 m e.1 e.2)
              (l.regs.filter fun e => e.1 < 120) }
        Group.keepOwed { g with
          lanes, uregs := (g.uregs.filter fun e => e.1 < 48) ++ f.uregs
          badV := g.badV.filter fun e => e.2 < 120, badU := g.badU.filter fun e => e < 48
          tile := f.tile, frame := none, inHandler := false, hold := 0 }

/-! ### Issuing (R47, R134, R145) -/

/-- What the body of an instruction answers. -/
inductive Res where
  /-- done: the issuing lanes go to the next instruction -/
  | ok (s : State)
  /-- done, with every PC set -/
  | moved (s : State)
  | trap (t : TrapRec)
  /-- not performed: the group parks and the instruction issues again -/
  | park (p : Park) (s : State)
  deriving DecidableEq, Repr

/-- Names within the counts the team declares (R37, R83). -/
def namesOk (t : Team) (n : Names) : Bool :=
  n.v.all (· < t.vregs) && n.z.all (· < t.ztiles) && n.k.all (· < t.kregs)
/-- Names an outstanding register (R144). -/
def unsettled (g : Group) (n : Names) : Bool :=
  g.deferred.any fun d => n.v.any (fun v => d.vregs.contains v) || n.u.any fun u => d.uregs.contains u

/-- A source register with wrong parity (R91). -/
def sourceBad (g : Group) (I : List Nat) (n : Names) : Bool :=
  g.badV.any (fun e => I.contains e.1 && n.sv.contains e.2) || g.badU.any fun e => n.su.contains e
/-- Whether register v has wrong parity in one of the lanes an instruction reads it in, active or not (R91). -/
def lanesBad (g : Group) (l : List Nat) (v : Nat) : Bool := l.any fun L => g.badV.contains (L, v)

/-- Set the PCs of lanes. -/
def setPcs (s : State) (r : GRef) (l : List (Nat × DWord)) : State :=
  l.foldl (fun s x => s.adjLane r x.1 fun ln => { ln with pc := x.2 }) s

/-- The ages after an issue (R134): an instruction that executes again after a park was counted when it first issued. -/
def Group.countIssue (g : Group) (c : Ctx) : Group := if c.g.held = [] then g.ageLanes c.g.cands c.I else g

/-- The bookkeeping of an issue: ages, the issue time, the HANG count, and the settle (R134, R137, R145, R365). -/
def afterIssue (c : Ctx) (settle : Bool) (s : State) : State :=
  let s := s.adjTeam c.r.team fun t => { t with hang := 0 }
  s.adjGroup c.r fun g =>
    let g : Group := { g with lastIssue := c.s.clock + 1, needs := false }
    if g.pending.isSome || (g.inHandler && !c.g.inHandler) then g
    else
      let g := if c.g.inHandler && !g.inHandler then g else g.countIssue c
      let g : Group := { g with held := [], settling := settle }
      if settle ∧ g.park = none ∧ g.deferred ≠ [] then { g with park := some .settle } else g

/-- An instruction parks its group: the issue counts when it is the first, and the instruction executes again later
(R134, R137). -/
def parkIssue (c : Ctx) (p : Park) (s : State) : State :=
  s.adjGroup c.r fun g =>
    let g := g.countIssue c
    { g with lastIssue := if c.g.held = [] then c.s.clock + 1 else g.lastIssue, park := some p, held := c.I }

/-- Turn the body's answer into a state. -/
def finish (c : Ctx) (len : Nat) (settle : Bool) : Res → Out
  | .ok s => .next (afterIssue c settle (setPcs s c.r (c.I.map fun L => (L, c.pc + BitVec.ofNat 64 len))))
  | .moved s => .next (afterIssue c settle s)
  | .trap t => .next (takeTrap c.s c.r t c.I [])
  | .park p s => .next (parkIssue c p s)

/-- One instruction of the acting group: the checks of R47 in their order, then the body. -/
def issue (s : State) (n : Names) (len : Nat) (settle priv : Bool) (body : Ctx → Res) : Out :=
  match s.ctx with
  | none => .fault .noAgent
  | some c =>
    let c := { c with s := s.adjGroup c.r fun g => { g with park := none }, g := { c.g with park := none } }
    if !(namesOk c.t n) then finish c len settle (.trap (c.mkTrap cIllegal 0 0))
    else if priv && !c.g.inHandler then finish c len settle (.trap (c.mkTrap cPrivilege 0 0))
    else if unsettled c.g n then finish c len settle (.trap (c.mkTrap cUnsettled 0 0))
    else if sourceBad c.g c.I n then finish c len settle (.trap (c.mkTrap cSoft 0 0))
    else finish c len settle (body c)

/-! ### Lane shapes (R92, R93) -/

/-- Write one value per active lane. -/
def writeLanes (c : Ctx) (d : Nat) (f : Nat → Word) (s : State) : State :=
  s.adjGroup c.r fun g => c.I.foldl (fun g L => g.writeLane L d (f L)) g
/-- Write one pair per active lane. -/
def writePairs (c : Ctx) (d : Nat) (f : Nat → DWord) (s : State) : State :=
  s.adjGroup c.r fun g => c.I.foldl (fun g L => g.writeLanePair L d (f L)) g
/-- Raise flags in the group. -/
def raiseFlags (c : Ctx) (f : FFlags) (s : State) : State := s.adjGroup c.r fun g => g.raise f

/-- Names of an LR word; `old` when it reads the old destination. -/
def LR.names (x : LR) (old : Bool) : Names :=
  Names.add (if old then readsV [x.d.toNat] else writesV [x.d.toNat]) (Names.add (readsV [x.a.toNat]) (Src.names x.b))

/-- An LR instruction whose result is a function of a, b and the old d (R93). -/
def lrOp3 (old : Bool) (x : LR) (s : State) (f : Word → Word → Word → Word) : Out :=
  issue s (LR.names x old) 4 x.s false fun c =>
    .ok (writeLanes c x.d.toNat (fun L => f (c.g.readLane L x.a.toNat) (c.g.src L x.b) (c.g.readLane L x.d.toNat)) c.s)
/-- An LR instruction whose result is a function of a and b. -/
def lrOp (x : LR) (s : State) (f : Word → Word → Word) : Out := lrOp3 false x s fun a b _ => f a b

/-- An LR instruction with flags (R110); `old` when it reads the old destination. -/
def lrFlagOp (old : Bool) (x : LR) (s : State) (f : Word → Word → Word → Word × FFlags) : Out :=
  issue s (LR.names x old) 4 x.s false fun c =>
    let val := fun L => f (c.g.readLane L x.a.toNat) (c.g.src L x.b) (c.g.readLane L x.d.toNat)
    .ok (raiseFlags c (orFlags (c.I.map fun L => (val L).2)) (writeLanes c x.d.toNat (fun L => (val L).1) c.s))

/-- Names of a unary lane word. -/
def LU.names (x : LU) : Names := Names.add (writesV [x.d.toNat]) (readsV [x.a.toNat])

/-- A unary lane instruction. -/
def luOp (x : LU) (s : State) (f : Word → Word) : Out :=
  issue s (LU.names x) 4 x.s false fun c =>
    .ok (writeLanes c x.d.toNat (fun L => f (c.g.readLane L x.a.toNat)) c.s)

/-- A lane instruction on pairs (R99). -/
def lrPairOp (x : LR) (s : State) (f : DWord → DWord → DWord) : Out :=
  issue s (Names.add (writesV (runOf x.d.toNat 2)) (Names.add (readsV (runOf x.a.toNat 2)) (Src.pairNames x.b))) 4 x.s
    false fun c => .ok (writePairs c x.d.toNat (fun L => f (c.g.lanePair L x.a.toNat) (c.g.srcPair L x.b)) c.s)
/-- A shift of a lane pair by one amount register (R99). -/
def lrShift64 (x : LR) (s : State) (f : DWord → Nat → DWord) : Out :=
  issue s (Names.add (writesV (runOf x.d.toNat 2)) (Names.add (readsV (runOf x.a.toNat 2)) (Src.names x.b))) 4 x.s
    false fun c =>
      .ok (writePairs c x.d.toNat (fun L => f (c.g.lanePair L x.a.toNat) (shAmt64 (c.g.src L x.b))) c.s)

/-- A lane instruction with an immediate, already widened. -/
def limmOp (settle : Bool) (d a : BitVec 7) (s : State) (f : Word → Word) : Out :=
  issue s (Names.add (writesV [d.toNat]) (readsV [a.toNat])) 4 settle false fun c =>
    .ok (writeLanes c d.toNat (fun L => f (c.g.readLane L a.toNat)) c.s)

/-! ### Uniform shapes (R104, R105) -/

/-- Change the group's uniform registers. -/
def writeU (c : Ctx) (d : Nat) (v : Word) (s : State) : State := s.adjGroup c.r fun g => g.writeUni d v
/-- Write a uniform pair. -/
def writeUPair (c : Ctx) (d : Nat) (v : DWord) (s : State) : State := s.adjGroup c.r fun g => g.writeUniPair d v

/-- Names of a UR word; `old` when it reads the old destination. -/
def UR.names (x : UR) (old : Bool) : Names :=
  Names.add (if old then readsU [x.d.toNat] else writesU [x.d.toNat]) (readsU [x.a.toNat, x.b.toNat])

/-- A UR instruction: a function of a, b and the old d. -/
def urOp3 (old : Bool) (x : UR) (s : State) (f : Word → Word → Word → Word) : Out :=
  issue s (UR.names x old) 4 x.s false fun c =>
    .ok (writeU c x.d.toNat (f (c.g.readUni x.a.toNat) (c.g.readUni x.b.toNat) (c.g.readUni x.d.toNat)) c.s)
/-- A UR instruction: a function of a and b. -/
def urOp (x : UR) (s : State) (f : Word → Word → Word) : Out := urOp3 false x s fun a b _ => f a b
/-- A unary uniform instruction. -/
def uuOp (x : UU) (s : State) (f : Word → Word) : Out :=
  issue s (Names.add (writesU [x.d.toNat]) (readsU [x.a.toNat])) 4 x.s false fun c =>
    .ok (writeU c x.d.toNat (f (c.g.readUni x.a.toNat)) c.s)
/-- A uniform instruction on pairs. -/
def urPairOp (x : UR) (s : State) (f : DWord → DWord → DWord) : Out :=
  issue s (Names.add (writesU (runOf x.d.toNat 2)) (readsU (runOf x.a.toNat 2 ++ runOf x.b.toNat 2))) 4 x.s false
    fun c => .ok (writeUPair c x.d.toNat (f (c.g.uniPair x.a.toNat) (c.g.uniPair x.b.toNat)) c.s)
/-- A uniform 64-bit shift. -/
def urShift64 (x : UR) (s : State) (f : DWord → Nat → DWord) : Out :=
  issue s (Names.add (writesU (runOf x.d.toNat 2)) (readsU (x.b.toNat :: runOf x.a.toNat 2))) 4 x.s false fun c =>
    .ok (writeUPair c x.d.toNat (f (c.g.uniPair x.a.toNat) (shAmt64 (c.g.readUni x.b.toNat))) c.s)
/-- A uniform instruction with a widened immediate. -/
def uimmOp (settle : Bool) (d a : BitVec 6) (s : State) (f : Word → Word) : Out :=
  issue s (Names.add (writesU [d.toNat]) (readsU [a.toNat])) 4 settle false fun c =>
    .ok (writeU c d.toNat (f (c.g.readUni a.toNat)) c.s)

/-! ### Deferred shapes -/

/-- Make a lane result outstanding: one list of words per active lane, in registers from d on. -/
def deferLanes (c : Ctx) (d n : Nat) (f : Nat → List Word) (flags : FFlags) (s : State) : State :=
  addDeferred s c.r (runOf d n) []
    (c.I.flatMap fun L => (f L).zipIdx.map fun wi => (L, d + wi.2, wi.1)) [] flags 0
/-- Make a uniform result outstanding, s0 too: its value is discarded when it lands (R37, R144), and until then an
access that names s0 is UNSETTLED, the model's choice (log 97). -/
def deferUni (c : Ctx) (d : Nat) (ws : List Word) (s : State) : State :=
  addDeferred s c.r [] (runOf d ws.length) [] (ws.zipIdx.map fun wi => (d + wi.2, wi.1)) 0 0

end Sys2Proof.Machine
end

