-- ==== Sys2Proof/Machine/Fetch.lean ====
section
/-! DEFINITION. Fetching (R27 to R30, R47, R123), the turn of a group and of a core (R137), the passing of cycles
(R365), and which instructions are events. -/

namespace Sys2Proof.Machine

/-! ### Fetching -/

/-- The word at an aligned address, where the fetch of a group goes through (R27, R28; log 19). -/
def fetchWord (s : State) (t : Team) (grp : Nat) (pc : DWord) : Option Word :=
  match place s t.pasid pc.toNat .fetch with
  | .at pa _ =>
    if s.engineOwned pa || pageWaits s t.pasid (pc.toNat / 65536) || !(regionReady s pa) then none
    else some (codeWord s t grp pa pc.toNat)
  | _ => none

/-- Whether a fused sequence names registers the team has. -/
def fusedOk (t : Team) : Instr → Bool
  | .fusedExpSum x => [x.vm, x.vx, x.vt, x.vs].all fun v => v.toNat < t.vregs
  | _ => false

/-- The fused sequence at an address, where conditions 5 and 6 of R123 hold too (log 78). -/
def fetchFused (s : State) (t : Team) (grp : Nat) (g : Group) (pc : DWord) (w0 : Word) : Option Instr :=
  if pc.toNat / 65536 ≠ (pc.toNat + 12) / 65536 ∨ g.deferred ≠ [] then none
  else
    match fetchWord s t grp (pc + 4), fetchWord s t grp (pc + 8), fetchWord s t grp (pc + 12) with
    | some w1, some w2, some w3 => (decodeFused w0 w1 w2 w3).filter (fusedOk t)
    | _, _, _ => none

/-- The instruction at an address: a fetch that does not go through and a word that does not decode are instructions
of their own (R27, R45, R47). -/
def fetchInstr (s : State) (t : Team) (grp : Nat) (g : Group) (pc : DWord) : Instr :=
  if pc.extractLsb' 0 2 ≠ 0 then .instructionFetchFault false
  else
    match fetchWord s t grp pc with
    | none => .instructionFetchFault false
    | some w =>
      match fetchFused s t grp g pc w with
      | some i => i
      | none =>
        if isTwoWord w && headOk w then
          match fetchWord s t grp (pc + 4) with
          | none => .instructionFetchFault true
          | some u => match decodeWords [w, u] with | .ok (i, _) => i | .error _ => .illegalWord w
        else match decodeWords [w] with | .ok (i, _) => i | .error _ => .illegalWord w

/-! ### Turns -/

/-- Parks that look again at each turn; the others end by an event of their own (log 12). -/
def Park.polls : Park → Bool
  | .drain => true
  | .storeRoom => true
  | .recall => true
  | .hostWait _ _ => true
  | .waitg _ _ _ _ => true
  | .cbAcq _ _ => true
  | .cbWait _ _ _ _ => true
  | .wcwait => true
  | .grpstop _ => true
  | _ => false

/-- Whether a group is RUNNING and not held back by a transfer or a YIELD (R133, R140, R158). -/
def Group.ready (g : Group) (clock : Nat) : Bool :=
  g.stop.isNone && g.park.isNone && g.pending.isNone && !g.cands.isEmpty && decide (g.readyAt ≤ clock)
/-- Whether a parked group looks again at what it waits for (log 12). -/
def Group.looks (g : Group) : Bool :=
  g.stop.isNone && (match g.park with | some p => p.polls | none => false) && !g.cands.isEmpty
/-- Whether a pending trap of a group is due (R359, R360). -/
def Group.trapDue (g : Group) : Bool :=
  g.pending.isSome && g.stop.isNone && (g.park.isNone || g.park == some .stopping)

/-- What a turn comes to: nothing more, or an instruction. -/
inductive Turn where
  | idle (s : State)
  | run (i : Instr) (s : State)
  deriving DecidableEq, Repr

/-- A fetch sets ACCESSED of the page of each word it translates, and reads the word from its home (R186, R328). -/
def noteFetch (s : State) (t : Team) (grp : Nat) (pc : DWord) : State :=
  let see := fun (s : State) (va : Nat) =>
    match place s t.pasid va .fetch with
    | .at pa kind => (noteAccess s pa kind).readBy (chipletOfCore t.core) pa
    | _ => s
  let s' := see s pc.toNat
  match (if pc.toNat % 128 = 124 then fetchWord s t grp pc else none) with
  | some w => if isTwoWord w then see s' (pc.toNat + 4) else s'
  | none => s'

/-- Whether the special-function pipe holds the pack of a group back (R113, R140). -/
def State.sfuHolds (s : State) (core : Nat) (r : GRef) : Bool := (s.core core).sfuHeld.any fun e => e.2.contains r

/-- The turn of a group: a pending trap first, else the instruction at the PC R134 chooses. -/
def groupTurn (s : State) (r : GRef) : Turn :=
  match s.team r.team with
  | none => .idle s
  | some t =>
    match t.groups[r.grp]? with
    | none => .idle s
    | some g =>
      if t.place ≠ .running ∨ s.sfuHolds t.core r then .idle s
      else if g.trapDue then .idle (runPending s r)
      else if g.ready s.clock || g.looks then
        .run (fetchInstr s t r.grp g g.issueSet.2) { noteFetch s t r.grp g.issueSet.2 with actor := .group r }
      else .idle s

/-! ### The selections of a cycle (R136, R137, R141) -/

/-- A group that can be selected: when it last issued and its slot, its name, its PC, its width, and whether its
instruction is of the lane set. -/
structure Cand where
  last : Nat
  slot : Nat
  r : GRef
  pc : DWord
  width : Nat
  lane : Bool
  deriving DecidableEq, Repr

/-- A running group of a core. -/
structure Seat where
  r : GRef
  t : Team
  g : Group
  deriving DecidableEq, Repr
/-- The groups of the running teams of a core, by slot table order of the teams and rising %groupid. -/
def seats (s : State) (core : Nat) : List Seat :=
  (s.teams.filter fun t => t.core == core && t.place == .running).flatMap fun t =>
    t.groups.zipIdx.map fun gi => ⟨⟨t.id, gi.2⟩, t, gi.1⟩

/-- The set of the instruction a ready group stands at: true for the lane set; none where the fetch does not go through
(R26, R136). -/
def nextSet (s : State) (x : Seat) : Option Bool :=
  let pc := x.g.issueSet.2
  if pc.extractLsb' 0 2 ≠ 0 then none else (fetchWord s x.t x.r.grp pc).map fun w => !w.msb

/-- The groups that act before the selections: a trap that is due, a parked group that looks again, and a fetch that
does not go through. -/
def frontOf (s : State) (core : Nat) : List GRef :=
  ((seats s core).filter fun x => !(s.sfuHolds core x.r) &&
    (x.g.trapDue || x.g.looks || (x.g.ready s.clock && (nextSet s x).isNone))).map fun x => x.r
/-- The ready groups of a core. -/
def candsOf (s : State) (core : Nat) : List Cand :=
  (seats s core).filterMap fun x =>
    if x.g.ready s.clock && !(s.sfuHolds core x.r) then
      (nextSet s x).map fun l => ⟨x.g.lastIssue, x.g.slot, x.r, x.g.issueSet.2, x.t.width, l⟩
    else none

/-- The leader: the earliest last issue, then the lower slot (R137). -/
def leader : List Cand → Option Cand
  | [] => none
  | x :: r =>
    match leader r with
    | none => some x
    | some y => if x.last < y.last ∨ (x.last = y.last ∧ x.slot ≤ y.slot) then some x else some y

/-- Add to a pack the groups of a list that fit (R137). -/
def fillPack (lead : Cand) : List Cand → Nat → List GRef
  | [], _ => []
  | h :: r, lanes =>
    if h.r = lead.r then h.r :: fillPack lead r lanes
    else if h.r.team = lead.r.team ∧ h.pc = lead.pc ∧ lanes + h.width ≤ 64 then h.r :: fillPack lead r (lanes + h.width)
    else fillPack lead r lanes
/-- The pack of a lane pipe, in ascending %groupid; none while the pipe holds a pack (R113, R137). -/
def packOf (s : State) (core pipe : Nat) (cs : List Cand) : List GRef :=
  if Sparse.get [] (s.core core).sfuHeld pipe ≠ [] then []
  else
    let ls := cs.filter fun x => x.lane
    match leader ls with
    | none => []
    | some l => fillPack l ls l.width

/-- What a core selects in a cycle, in order: the groups that act first, the packs of lane pipes 0 and 1, and the
uniform instruction (R136, R141). -/
structure Selection where
  front : List GRef
  pack0 : List GRef
  pack1 : List GRef
  uni : Option GRef
  deriving DecidableEq, Repr
/-- The selections of a cycle of a core. -/
def selectOf (s : State) (core : Nat) : Selection :=
  let cs := candsOf s core
  let p0 := packOf s core 0 cs
  let rest := cs.filter fun x => !(p0.contains x.r)
  let p1 := packOf s core 1 rest
  { front := frontOf s core, pack0 := p0, pack1 := p1, uni := (leader (cs.filter fun x => !x.lane)).map fun x => x.r }

/-! ### Cycles -/

/-- Whether a team's HANG count advances while nothing retires (R365). -/
def hangCounts (s : State) (t : Team) : Bool :=
  t.place == .running
    && t.groups.all (fun g =>
      (match g.park with
       | some (.fault _ _ _ _) => false
       | some (.queueFull _ _ _ _ _ _) => false
       | some (.overflow _) => false
       | some .storeRoom => false
       | _ => true)
      && g.lanes.all fun l => l.park != some .waita)
    && !(s.copies.any (fun c => c.g.team == t.id) && t.groups.any fun g =>
      match g.park with
      | some (.waitg _ _ _ _) => true
      | some (.cbAcq _ _) => true
      | some (.cbWait _ _ _ _) => true
      | _ => false)

/-- n cycles pass. -/
def tick (s : State) (n : Nat) : State :=
  { s with clock := s.clock + n, teams := s.teams.map fun t => if hangCounts s t then { t with hang := t.hang + n } else t }

/-! ### Events -/

/-- Whether an instruction is an event of another agent, not a word that a group or a service core fetches. -/
def isEvent : Instr → Bool
  | .add _ => false
  | .sub _ => false
  | .min _ => false
  | .max _ => false
  | .minu _ => false
  | .maxu _ => false
  | .abs _ => false
  | .neg _ => false
  | .mul _ => false
  | .mulhi _ => false
  | .mulhiu _ => false
  | .mad _ => false
  | .and _ => false
  | .or _ => false
  | .xor _ => false
  | .andn _ => false
  | .shl _ => false
  | .shr _ => false
  | .sar _ => false
  | .rol _ => false
  | .popc _ => false
  | .clz _ => false
  | .ctz _ => false
  | .brev _ => false
  | .bfeu _ => false
  | .bfes _ => false
  | .bfi _ => false
  | .prmt _ => false
  | .seq _ => false
  | .sne _ => false
  | .slt _ => false
  | .sltu _ => false
  | .sel _ => false
  | .mov _ => false
  | .add64 _ => false
  | .sub64 _ => false
  | .shl64 _ => false
  | .shr64 _ => false
  | .addi _ => false
  | .shli _ => false
  | .shri _ => false
  | .sari _ => false
  | .roli _ => false
  | .andi _ => false
  | .ori _ => false
  | .xori _ => false
  | .andni _ => false
  | .movi _ => false
  | .movw _ => false
  | .lsrd _ => false
  | .fadd _ => false
  | .fsub _ => false
  | .fmul _ => false
  | .fmin _ => false
  | .fmax _ => false
  | .fabs _ => false
  | .fneg _ => false
  | .fcpsgn _ => false
  | .ffma _ => false
  | .ffms _ => false
  | .fnma _ => false
  | .fnms _ => false
  | .feq _ => false
  | .flt _ => false
  | .fle _ => false
  | .fUn _ => false
  | .fclass _ => false
  | .fscale _ => false
  | .fgetexp _ => false
  | .hadd2 _ => false
  | .hmul2 _ => false
  | .hfma2 _ => false
  | .hmax2 _ => false
  | .badd2 _ => false
  | .bmul2 _ => false
  | .bfma2 _ => false
  | .bmax2 _ => false
  | .rcp _ => false
  | .rsq _ => false
  | .sqrt _ => false
  | .exp2 _ => false
  | .log2 _ => false
  | .sin _ => false
  | .cos _ => false
  | .tanh _ => false
  | .fusedExpSum _ => false
  | .cvt _ => false
  | .pcvt _ => false
  | .seed _ => false
  | .rand _ => false
  | .hdot2 _ => false
  | .bdot2 _ => false
  | .i8dot4 _ => false
  | .u8dot4 _ => false
  | .bnz _ => false
  | .bz _ => false
  | .jmpl _ => false
  | .calll _ => false
  | .retl _ => false
  | .any _ => false
  | .all _ => false
  | .ballot _ => false
  | .uni _ => false
  | .shflIdx _ => false
  | .shflUp _ => false
  | .shflDown _ => false
  | .shflXor _ => false
  | .reduce _ => false
  | .scan _ => false
  | .rdlane _ => false
  | .firstlane _ => false
  | .ldt _ => false
  | .stt _ => false
  | .att _ => false
  | .cltLoad _ => false
  | .cltStore _ => false
  | .ld _ => false
  | .st _ => false
  | .ldo _ => false
  | .sto _ => false
  | .stog _ => false
  | .atom _ => false
  | .red _ => false
  | .waita _ => false
  | .wakea _ => false
  | .mma _ => false
  | .zrd _ => false
  | .zwr _ => false
  | .post _ => false
  | .postTry _ => false
  | .postWait _ => false
  | .saluAdd _ => false
  | .saluSub _ => false
  | .saluMin _ => false
  | .saluMax _ => false
  | .saluMinu _ => false
  | .saluMaxu _ => false
  | .saluAbs _ => false
  | .saluNeg _ => false
  | .saluMul _ => false
  | .saluMulhi _ => false
  | .saluMulhiu _ => false
  | .saluMad _ => false
  | .saluAnd _ => false
  | .saluOr _ => false
  | .saluXor _ => false
  | .saluAndn _ => false
  | .saluShl _ => false
  | .saluShr _ => false
  | .saluSar _ => false
  | .saluRol _ => false
  | .saluPopc _ => false
  | .saluClz _ => false
  | .saluCtz _ => false
  | .saluBrev _ => false
  | .saluBfeu _ => false
  | .saluBfes _ => false
  | .saluBfi _ => false
  | .saluPrmt _ => false
  | .saluSeq _ => false
  | .saluSne _ => false
  | .saluSlt _ => false
  | .saluSltu _ => false
  | .saluSel _ => false
  | .saluMov _ => false
  | .salu64Add64 _ => false
  | .salu64Sub64 _ => false
  | .salu64Shl64 _ => false
  | .salu64Shr64 _ => false
  | .saddi _ => false
  | .sandi _ => false
  | .sori _ => false
  | .sxori _ => false
  | .sshli _ => false
  | .sshri _ => false
  | .ssari _ => false
  | .sroli _ => false
  | .sslti _ => false
  | .smovi _ => false
  | .smovw _ => false
  | .bra _ => false
  | .call _ => false
  | .jmpr _ => false
  | .ret _ => false
  | .exit _ => false
  | .srd _ => false
  | .swr _ => false
  | .settile _ => false
  | .sleep _ => false
  | .yield _ => false
  | .barArrive _ => false
  | .barWait _ => false
  | .barSync _ => false
  | .lduW _ => false
  | .lduD _ => false
  | .stuW _ => false
  | .fence _ => false
  | .discard _ => false
  | .pref _ => false
  | .claim _ => false
  | .shareJoin _ => false
  | .shareLeave _ => false
  | .shareSub _ => false
  | .shareUnsub _ => false
  | .copy _ => false
  | .expect _ => false
  | .arrive _ => false
  | .waitg _ => false
  | .testg _ => false
  | .cbInit _ => false
  | .cbAcq _ => false
  | .cbCommit _ => false
  | .cbWait _ => false
  | .cbRel _ => false
  | .wload _ => false
  | .zclr _ => false
  | .zstt _ => false
  | .zldt _ => false
  | .wact _ => false
  | .kset _ => false
  | .nodeq _ => false
  | .put _ => false
  | .get _ => false
  | .wcwait _ => false
  | .wcrd _ => false
  | .wcreset _ => false
  | .trap _ => false
  | .rte _ => false
  | .grprd _ => false
  | .grpwr _ => false
  | .grpres _ => false
  | .grpstop _ => false
  | .grplist _ => false
  | .illegalWord _ => false
  | .instructionFetchFault _ => false
  | .bfx _ => false
  | .lodeh _ => false
  | .swait _ => false
  | .fqpop _ => false
  | .wakegComplete _ => false
  | .wakegRefuse _ => false
  | .wakegDecline _ => false
  | .wakegRequeue _ => false
  | .glreplay _ => false
  | .pginst _ => false
  | .pgevict _ => false
  | .rfetch _ => false
  | .ueread _ => false
  | .uewrite _ => false
  | .lodeq _ => false
  | .dispatchRun _ => false
  | .dispatchStop _ => false
  | .dispatchPreempt _ => false
  | .qsave _ => false
  | .qload _ => false
  | .fenceConditionsMet _ => true
  | .shareChangeDone _ => true
  | .subscriptionRegister _ => true
  | .subscriptionDelivery _ => true
  | .copyQueueFree _ => true
  | .copyArrival _ => true
  | .copyError _ => true
  | .wloadComplete _ => true
  | .matrixQueueFree _ => true
  | .matrixEntryPerform _ => true
  | .mmaRoundExecute _ => true
  | .slotBoundary _ => true
  | .fabricPortFree _ => true
  | .putGetComplete _ => true
  | .windowRequestArrival _ => true
  | .deferredResultLand _ => true
  | .sfuEnter _ => true
  | .registerUnitRelease _ => true
  | .storeQueueLeave _ => true
  | .faultQueueFree _ => true
  | .gutterOverflowRelease _ => true
  | .gutterReplay _ => true
  | .grainRefusal _ => true
  | .homeRead _ => true
  | .homePartialStore _ => true
  | .homeFullGrainWrite _ => true
  | .homeAtomic _ => true
  | .fCopyEviction _ => true
  | .mGrainEviction _ => true
  | .grainLostMark _ => true
  | .invalidationDeliveryFailure _ => true
  | .declarationTimeout _ => true
  | .waitaTimeout _ => true
  | .sleepWake _ => true
  | .hangExpiry _ => true
  | .faultDeadline _ => true
  | .recordArrival _ => true
  | .binTimerExpiry _ => true
  | .drainCut _ => true
  | .sheafLaunch _ => true
  | .postWaitServe _ => true
  | .postWaitStall _ => true
  | .instanceStallDrain _ => true
  | .instanceComplete _ => true
  | .preemptSave _ => true
  | .teamResume _ => true
  | .hostsharedToAccelDone _ => true
  | .hostSnoop _ => true
  | .swaitReturn _ => true
  | .transferDone _ => true
  | .transferTimeout _ => true
  | .transferServe _ => true
  | .lodeLookup _ => true
  | .lodeCas _ => true
  | .lodeAddhold _ => true
  | .lodeDrophold _ => true
  | .lodeInsert _ => true
  | .lodeInval _ => true
  | .lodeAck _ => true
  | .lodeRdreq _ => true
  | .invalRingArrival _ => true
  | .qpktNop _ => true
  | .qpktStart _ => true
  | .qpktWait _ => true
  | .qpktSignal _ => true
  | .qpktFence _ => true
  | .qpktBarrier _ => true
  | .qpktTimestamp _ => true
  | .signalReevaluate _ => true
  | .signalPollTimer _ => true
  | .notifyWrite _ => true
  | .fqhArmWrite _ => true
  | .fqhPopRead => true
  | .fqhDoneLowWrite _ => true
  | .fqhRefuse _ => true
  | .fqhReturn _ => true
  | .trnModeWrite _ => true
  | .trnInvPages _ => true
  | .trnInvPasidPages _ => true
  | .trnInvPasidAll _ => true
  | .trnInvAll _ => true
  | .invalidationComplete _ => true
  | .teardownStart _ => true
  | .teardownDrained _ => true
  | .sltEntryWrite _ => true
  | .windowEntryWrite _ => true
  | .vifCfgWrite _ => true
  | .hfrHoldWrite _ => true
  | .hfrXackWrite _ => true
  | .hfrIrtailWrite _ => true
  | .registerWrite _ => true
  | .planeDown _ => true
  | .uePathDown _ => true
  | .nodeSilentTimeout _ => true
  | .declarationConfirm _ => true
  | .hostReset => true
  | .boot _ => true
  | .spdmMeasurementRequest _ => true
  | .spdmCounterRead _ => true
  | .serviceCoreFence _ => false
  | .serviceCoreAmo _ => false
  | .xkrovCsrWrite _ => false
  | .nodeRejoin _ => true
  | .hostsharedAccelHoldExpiry _ => true
  | .hostsharedTransferDeadline _ => true
  | .nodeqAnswer _ => true
  | .wcrdAnswer _ => true
  | .discardComplete _ => true
  | .unsubComplete _ => true

end Sys2Proof.Machine
end

