-- ==== Sys2Proof/Machine/Control.lean ====
section
/-! DEFINITION. Control flow, exits, votes, shuffles, reductions, tiles, barriers, special registers, landing, HANG and
the release of registers (R132 to R162, R445, R86, R365), and what undecodable and unfetchable words do (R27, R45). -/

namespace Sys2Proof.Machine

/-! ### Transfers (R148 to R152, R445) -/

/-- The group is not ready in the next cycle (R140, R158). -/
def holdNext (c : Ctx) (s : State) : State := s.adjGroup c.r fun g => { g with readyAt := c.s.clock + 2 }
/-- Send each active lane to its target, or trap for the lowest lane whose target is misaligned; `lane` tells whether
the trap names a lane. -/
def transfer (c : Ctx) (lane : Bool) (target : Nat → DWord) (s : State) : Res :=
  match c.I.find? fun L => (target L).extractLsb' 0 2 ≠ 0 with
  | some L => .trap (c.mkTrap cMisalign (target L) (infoGlobal 7 (if lane then L else 0) 7))
  | none => .moved (holdNext c (setPcs s c.r (c.I.map fun L => (L, target L))))

/-- BNZ and BZ (R149). -/
def laneBranch (x : LBranch) (s : State) (nz : Bool) : Out :=
  issue s (readsV [x.c.toNat]) 4 x.s false fun c =>
    let t := branchTarget (c.pc + 4) x.off
    let taken := c.I.filter fun L => (c.g.readLane L x.c.toNat != 0) == nz
    if x.u ∧ taken ≠ [] ∧ taken ≠ c.I then .trap (c.mkTrap cDiverge 0 0)
    else transfer c true (fun L => if taken.contains L then t else c.pc + 4) c.s
/-- BNZ (R149). -/
def execBnz (x : LBranch) (s : State) : Out := laneBranch x s true
/-- BZ (R149). -/
def execBz (x : LBranch) (s : State) : Out := laneBranch x s false

/-- JMPL and RETL (R150). -/
def laneJump (x : LJump) (s : State) : Out :=
  issue s (readsV (runOf x.a.toNat 2)) 4 x.s false fun c => transfer c true (fun L => c.g.lanePair L x.a.toNat) c.s
/-- JMPL (R150). -/
def execJmpl (x : LJump) (s : State) : Out := laneJump x s
/-- RETL (R150). -/
def execRetl (x : LJump) (s : State) : Out := laneJump x s
/-- CALLL: the source pair is read before the destination pair is written (R150). -/
def execCalll (x : LU) (s : State) : Out :=
  issue s (Names.add (writesV (runOf x.d.toNat 2)) (readsV (runOf x.a.toNat 2))) 4 x.s false fun c =>
    transfer c true (fun L => c.g.lanePair L x.a.toNat) (writePairs c x.d.toNat (fun _ => c.pc + 4) c.s)

/-- Whether a BRA or CALL is taken (R35, R151). -/
def condTaken (cond : BitVec 2) (v : Word) : Bool :=
  if cond = 0 then true else if cond = 1 then v == 0 else if cond = 2 then v != 0 else v.msb
/-- Names of a UJ word. -/
def UBranch.names (x : UBranch) : Names := if x.cond = 0 then {} else readsU [x.sc.toNat]
/-- BRA (R151). -/
def execBra (x : UBranch) (s : State) : Out :=
  issue s (UBranch.names x) 4 x.s false fun c =>
    let t := if condTaken x.cond (c.g.readUni x.sc.toNat) then branchTarget (c.pc + 4) x.off else c.pc + 4
    transfer c false (fun _ => t) c.s
/-- CALL: when taken, pc + 4 goes to s62:s63 (R151). -/
def execCall (x : UBranch) (s : State) : Out :=
  issue s (Names.add (UBranch.names x) (writesU [62, 63])) 4 x.s false fun c =>
    if condTaken x.cond (c.g.readUni x.sc.toNat) then
      transfer c false (fun _ => branchTarget (c.pc + 4) x.off) (writeUPair c 62 (c.pc + 4) c.s)
    else .ok (holdNext c c.s)
/-- JMPR (R152). -/
def execJmpr (x : USrc) (s : State) : Out :=
  issue s (readsU (runOf x.a.toNat 2)) 4 x.s false fun c => transfer c false (fun _ => c.g.uniPair x.a.toNat) c.s
/-- RET (R152). -/
def execRet (settle : Bool) (s : State) : Out :=
  issue s (readsU [62, 63]) 4 settle false fun c => transfer c false (fun _ => c.g.uniPair 62) c.s

/-! ### Barriers (R160 to R162) -/

/-- A barrier at launch. -/
def Barrier.launch : Barrier := { gen := 0, count := 0 }
/-- Barrier n of a team. -/
def Team.bar (t : Team) (n : Nat) : Barrier := Sparse.get Barrier.launch t.barriers n
/-- Whether a group's last arrival at n is in the current generation; arrivals are held as generation + 1. -/
def arrivedNow (t : Team) (g : Group) (n : Nat) : Bool := Sparse.get 0 g.arrivals n == (t.bar n).gen + 1

/-- CheckComplete of R160: the generation advances and every lane parked on n wakes. -/
def checkBarrier (t : Team) (n : Nat) : Team :=
  let live := (t.groups.filter fun g => !g.exited).length
  let b := t.bar n
  if 0 < live ∧ b.count = live then
    { t with
      barriers := Sparse.set Barrier.launch t.barriers n { gen := b.gen + 1, count := 0 }
      groups := t.groups.map fun g => { g with
        lanes := g.lanes.map fun l =>
          match l.park with
          | some (.bar m _) => if m = n then { l with park := none, pc := l.pc + 4 } else l
          | _ => l } }
  else t

/-- Arrive of R160. -/
def arrive (t : Team) (grp n : Nat) : Team :=
  match t.groups[grp]? with
  | none => t
  | some g =>
    if g.exited ∨ arrivedNow t g n then t
    else
      let b := t.bar n
      let t := { t with
        barriers := Sparse.set Barrier.launch t.barriers n { b with count := b.count + 1 }
        groups := adjAt (fun g => { g with arrivals := Sparse.set 0 g.arrivals n (b.gen + 1) }) t.groups grp }
      checkBarrier t n

/-- Whether nothing of a group stands before a release at core scope: its store queue, its Gutter entries, and the
grains its copies have still to take (R214, R226, R228). -/
def coreDrained (s : State) (r : GRef) : Bool :=
  match s.team r.team with
  | none => true
  | some t =>
    (match t.groups[r.grp]? with | some g => g.storeQ.isEmpty | none => true)
      && ((s.core t.core).gutter.all fun e => !(e.team == r.team && e.grp == r.grp)) && copiesHold s r

/-- An arrival that waits in the store queue behind its group's stores (R226). -/
def barEntry (n stamp : Nat) : SqEntry :=
  { kind := .bar, va := 0, data := [], cmp := 0, scope := 1, rel := true, op := .add, wide := false, inst := 0, target := n
    stamp, issued := (0, 0), lane := 0 }

/-- Park the issuing lanes; their PCs stay at the instruction (R160). -/
def parkLanes (c : Ctx) (p : LanePark) (s : State) : State :=
  s.adjGroup c.r fun g => c.I.foldl (fun g L => g.adjLane L fun l => { l with park := some p }) g

/-- BAR.WAIT on a state whose arrival is counted: park in the current generation, else go on. -/
def waitBar (c : Ctx) (n : Nat) (s : State) : Res :=
  match s.team c.r.team with
  | none => .ok s
  | some t =>
    match t.groups[c.r.grp]? with
    | none => .ok s
    | some g => if arrivedNow t g n then .moved (parkLanes c (.bar n (t.bar n).gen) s) else .ok s
/-- Whether an arrival of the group at barrier n is held back (R226). -/
def Group.barHeld (g : Group) (n : Nat) : Bool := g.storeQ.any fun e => e.kind == .bar && e.target == n
/-- A held arrival is performed: the lanes that wait for it go on when it ends the generation, else they wait for the
generation's end (R160, R226). -/
def arriveHeld (t : Team) (grp n : Nat) : Team :=
  let u := arrive t grp n
  match u.groups[grp]? with
  | none => u
  | some g =>
    if g.barHeld n then u
    else
      let wait := arrivedNow u g n
      let f := fun (l : Lane) =>
        if l.park = some (.barHeld n) then
          if wait then { l with park := some (.bar n (u.bar n).gen) } else { l with park := none, pc := l.pc + 4 }
        else l
      { u with groups := adjAt (fun g => { g with lanes := g.lanes.map f }) u.groups grp }

/-- BAR.ARRIVE (R160): counted at once when nothing stands before the release, else when the drain completes. -/
def execBarArrive (x : UBar) (s : State) : Out :=
  issue s {} 4 x.s false fun c =>
    if coreDrained c.s c.r then .ok (c.s.adjTeam c.r.team fun t => arrive t c.r.grp x.n.toNat)
    else .ok (c.s.adjGroup c.r fun g => { g with storeQ := g.storeQ ++ [barEntry x.n.toNat c.s.clock] })
/-- BAR.WAIT (R160); an arrival of the group that is still held is counted first: the issuing lanes wait for it. -/
def execBarWait (x : UBar) (s : State) : Out :=
  issue s {} 4 x.s false fun c =>
    if c.g.barHeld x.n.toNat then .moved (parkLanes c (.barHeld x.n.toNat) c.s) else waitBar c x.n.toNat c.s
/-- BAR.SYNC: Arrive, then BAR.WAIT; an arrival that is held back until the group has drained parks the issuing lanes
(R160, R226). -/
def execBarSync (x : UBar) (s : State) : Out :=
  issue s {} 4 x.s false fun c =>
    if !(coreDrained c.s c.r) then
      .moved (parkLanes c (.barHeld x.n.toNat)
        (c.s.adjGroup c.r fun g => { g with storeQ := g.storeQ ++ [barEntry x.n.toNat c.s.clock] }))
    else
      let t0 := c.t.bar x.n.toNat
      let s := c.s.adjTeam c.r.team fun t => arrive t c.r.grp x.n.toNat
      match s.team c.r.team with
      | none => .ok s
      | some t => if (t.bar x.n.toNat).gen = t0.gen then waitBar c x.n.toNat s else .ok s

/-! ### Exits (R153, R161, R271) -/

/-- Groups of a signing set that starts at group g0 (R268). -/
def inSet (t : Team) (g0 grp : Nat) : Bool := decide (g0 ≤ grp) && decide (grp < g0 + 64 / t.width)

/-- Whether a group can take a trap of a discarded round now: it neither stands stopped, nor has a trap on its way, nor
waits for something a trap does not cancel (R446). -/
def Group.takesRound (g : Group) : Bool :=
  g.stop.isNone && g.pending.isNone && (match g.park with | none => true | some p => p.cancels)
/-- The lanes of a group whose signatures of a round at one PC are undone (R271, R279). -/
def owedOf (cause : Cause) (info : Word) (grp : Nat) (ss : List Signer) : List Owed :=
  let mine := ss.filter fun x => x.grp == grp
  ((mine.map fun x => x.pc).eraseDups).map fun p => ⟨(mine.filter fun x => x.pc == p).map fun x => x.lane, p, cause, info⟩
/-- A trap at an MMA for a group with a signer of a discarded round: at once where its lanes stand parked there, else
when they issue there again (R271, R279, R288). -/
def roundTrap (s : State) (team k : Nat) (ss : List Signer) (cause : Cause) (info : Word) (grp : Nat) : State :=
  let r : GRef := ⟨team, grp⟩
  match s.team team, s.group r with
  | some t, some g =>
    let parked := (List.range g.lanes.length).filter fun L => (g.lane L).park == some (.mma k)
    let free := fun (l : Lane) => if l.park = some (.mma k) then { l with park := none } else l
    let s := s.adjGroup r fun g => { g with lanes := g.lanes.map free }
    if parked ≠ [] ∧ g.takesRound then
      takeTrap s r { cause, addr := 0, inst := wordAt s t grp (g.lane (parked.headD 0)).pc, info, block := 0 } parked []
    else s.adjGroup r fun g => { g with owed := g.owed ++ owedOf cause info grp ss }
  | _, _ => s
/-- %trapinfo of R288. -/
def infoMatrix (reg unit lane code : Nat) : Word := BitVec.ofNat 32 (reg * 2 ^ 16 + unit * 2 ^ 12 + lane * 16 + code)

/-- The convergence registers whose set holds a lane that exits become IDLE; an open round is discarded and its
parked groups take CONVERGENCE (R271). -/
def exitRounds (s : State) (r : GRef) (lanes : List Nat) : State :=
  match s.team r.team with
  | none => s
  | some t =>
    let hit := t.kregState.filter fun k =>
      match k.2 with
      | .idle => false
      | .armed g0 => inSet t g0 r.grp
      | .opened g0 _ _ _ => inSet t g0 r.grp
    let s := hit.foldl (fun s k => s.adjTeam r.team fun t => { t with kregState := Sparse.set .idle t.kregState k.1 .idle }) s
    hit.foldl (fun s k =>
      match k.2 with
      | .opened g0 _ _ ss =>
        let m := (r.grp - g0) * t.width + lanes.headD 0
        ((ss.map fun x => x.grp).eraseDups).foldl (fun s grp => roundTrap s r.team k.1 ss cConvergence (infoMatrix k.1 0 m 11) grp) s
      | _ => s) s

/-- What follows when a group's last lane has exited: it leaves every barrier, and with the last group the team
ends (R153, R161). -/
def groupExit (s : State) (r : GRef) : State :=
  let s := s.adjTeam r.team fun t =>
    match t.groups[r.grp]? with
    | none => t
    | some g =>
      let t := (List.range 16).foldl (fun t n =>
        if arrivedNow t g n then
          { t with barriers := Sparse.set Barrier.launch t.barriers n { t.bar n with count := (t.bar n).count - 1 } }
        else t) t
      (List.range 16).foldl checkBarrier t
  match s.team r.team with
  | none => s
  | some t => if t.groups.all Group.exited then endTeam s t else s

/-- Lanes exit (R153). -/
def exitLanes (s : State) (r : GRef) (lanes : List Nat) : State :=
  let s := s.adjGroup r fun g => lanes.foldl (fun g L => g.adjLane L fun l => { l with exited := true, park := none }) g
  let s := exitRounds s r lanes
  match s.group r with
  | none => s
  | some g => if g.exited then groupExit s r else s

/-- EXIT (R153). -/
def execExit (settle : Bool) (s : State) : Out := issue s {} 4 settle false fun c => .moved (exitLanes c.s c.r c.I)

/-- A group's registers are released and cleared (R86). -/
def Group.release (g : Group) : Group :=
  { g with uregs := [], released := true, lanes := g.lanes.map fun l => { l with regs := [] }, badV := [], badU := [] }
/-- Release of a group's registers, once its lanes have exited and its results have landed; a team of which nothing is
left is forgotten (R86). -/
def execRegisterUnitRelease (r : GRef) (s : State) : Out :=
  match s.team r.team, s.group r with
  | some t, some g =>
    if g.exited ∧ g.deferred = [] then
      let s := s.adjGroup r Group.release
      let all := t.groups.zipIdx.all fun gi => gi.1.released || gi.2 == r.grp
      .next (if all && t.place == .ended && teamQuiet s t then removeTeam s { t with res := 0 } else s)
    else .next s
  | _, _ => .next s

/-! ### Votes and shuffles (R154 to R156) -/

/-- Active lanes of the tile of lane L, ascending. -/
def tileOf (c : Ctx) (L : Nat) : List Nat := c.I.filter fun K => K / c.g.tile == L / c.g.tile

/-- A vote: a value per tile from its active lanes and their words. -/
def voteOp (x : LU) (s : State) (f : List Word → Word) : Out :=
  issue s (LU.names x) 4 x.s false fun c =>
    .ok (writeLanes c x.d.toNat (fun L => f ((tileOf c L).map fun K => c.g.readLane K x.a.toNat)) c.s)
/-- ANY (R155). -/
def execAny (x : LU) (s : State) : Out := voteOp x s fun l => boolWord (l.any fun w => w != 0)
/-- ALL (R155). -/
def execAll (x : LU) (s : State) : Out := voteOp x s fun l => boolWord (l.all fun w => w != 0)
/-- UNI (R155). -/
def execUni (x : LU) (s : State) : Out := voteOp x s fun l => boolWord (l.all fun w => w == l.headD 0)
/-- BALLOT: bit %tilelane of the pair for each active lane with a nonzero word (R155). -/
def execBallot (x : LU) (s : State) : Out :=
  issue s (Names.add (writesV (runOf x.d.toNat 2)) (readsV [x.a.toNat])) 4 x.s false fun c =>
    .ok (writePairs c x.d.toNat (fun L =>
      maskOf (((tileOf c L).filter fun K => c.g.readLane K x.a.toNat != 0).map fun K => K % c.g.tile)) c.s)

/-- Names of a shuffle: its source is read in other lanes than the issuing ones. -/
def shflNames (x : LR) : Names := Names.add (writesV [x.d.toNat, x.a.toNat]) (Src.names x.b)
/-- SHFL: the source lane from L, its tile lane p, the tile size z and n (R156); a source lane that is read, active or
not, must have right parity (R91). -/
def shflOp (x : LR) (s : State) (src : Nat → Nat → Nat → Nat → Nat) : Out :=
  issue s (shflNames x) 4 x.s false fun c =>
    let from_ := fun L => src L (L % c.g.tile) c.g.tile (c.g.src L x.b).toNat
    if lanesBad c.g (c.I.map from_) x.a.toNat then .trap (c.mkTrap cSoft 0 0)
    else .ok (deferLanes c x.d.toNat 1 (fun L => [c.g.readLane (from_ L) x.a.toNat]) 0 c.s)
/-- SHFL.IDX (R156). -/
def execShflIdx (x : LR) (s : State) : Out := shflOp x s fun L p z n => L - p + n % z
/-- SHFL.UP (R156). -/
def execShflUp (x : LR) (s : State) : Out := shflOp x s fun L p _ n => if p < n then L else L - n
/-- SHFL.DOWN (R156). -/
def execShflDown (x : LR) (s : State) : Out := shflOp x s fun L p z n => if z ≤ p + n then L else L + n
/-- SHFL.XOR (R156). -/
def execShflXor (x : LR) (s : State) : Out := shflOp x s fun L p z n => L - p + (p ^^^ (n % z))

/-! ### Reductions and scans (R78, R157) -/

/-- Identities of the operations (R157). -/
def redIdentity : RedOp → DWord
  | .iadd => 0 | .imin => 0x7FFFFFFF | .imax => 0x80000000 | .umin => 0xFFFFFFFF | .umax => 0 | .and => 0xFFFFFFFF
  | .or => 0 | .xor => 0 | .iadd64 => 0 | .fadd => 0 | .fmin => 0x7F800000 | .fmax => 0xFF800000
/-- A NaN result is the canonical NaN (R157). -/
def redCanon (op : RedOp) (v : DWord) : DWord :=
  let w : Word := v.setWidth 32
  match op with
  | .fadd => if f32 w = .nan then nan32.setWidth 64 else v
  | .fmin => if f32 w = .nan then nan32.setWidth 64 else v
  | .fmax => if f32 w = .nan then nan32.setWidth 64 else v
  | _ => v
/-- TreeReduce of a list (R78). -/
def treeReduce (op : RedOp) (l : List DWord) : DWord × FFlags :=
  let r := treeLevels op 7 l
  (redCanon op (r.1.headD (redIdentity op)), r.2)
/-- Registers of a result: a pair for iadd64. -/
def redRegs (op : RedOp) : Nat := if op = .iadd64 then 2 else 1
/-- A lane's operand. -/
def redOperand (c : Ctx) (op : RedOp) (a L : Nat) : DWord :=
  if op = .iadd64 then c.g.lanePair L a else (c.g.readLane L a).setWidth 64
/-- The words of a result. -/
def redWords (op : RedOp) (v : DWord) : List Word :=
  if op = .iadd64 then [v.setWidth 32, v.extractLsb' 32 32] else [v.setWidth 32]

/-- REDUCE and SCAN: for each active lane, the lanes of its tile that it combines. -/
def combineOp (settle : Bool) (d a : BitVec 7) (op : RedOp) (s : State) (part : Nat → List Nat → List Nat) : Out :=
  issue s (Names.add (writesV (runOf d.toNat (redRegs op))) (readsV (runOf a.toNat (redRegs op)))) 8 settle false
    fun c =>
      let val := fun L => treeReduce op ((part L (tileOf c L)).map (redOperand c op a.toNat))
      .ok (deferLanes c d.toNat (redRegs op) (fun L => redWords op (val L).1) (orFlags (c.I.map fun L => (val L).2)) c.s)
/-- REDUCE (R157). -/
def execReduce (x : LReduce) (s : State) : Out := combineOp x.s x.d x.a x.op s fun _ l => l
/-- SCAN (R157). -/
def execScan (x : LScan) (s : State) : Out :=
  combineOp x.s x.d x.a x.op s fun L l => l.filter fun K => if x.excl then K < L else K ≤ L

/-! ### Tiles, sleep, special registers (R147, R158, R159) -/

/-- SETTILE (R147). -/
def execSettile (x : UCode10) (s : State) : Out :=
  issue s {} 4 x.s false fun c =>
    let z := if x.n = 0 then c.t.width else min (2 ^ x.n.toNat) c.t.width
    .ok (c.s.adjGroup c.r fun g => { g with tile := z })

/-- SLEEP: the group parks at the instruction and goes on past it when it wakes (R158, R446). -/
def execSleep (x : UCode10) (s : State) : Out :=
  issue s {} 4 x.s false fun c => .park (.sleep (c.s.clock + 16 * x.n.toNat) x.s) c.s
/-- YIELD: the group is not ready in the next cycle, and has issued most recently (R158). -/
def execYield (settle : Bool) (s : State) : Out := issue s {} 4 settle false fun c => .ok (holdNext c c.s)

/-- Complete an instruction whose lanes were held: they go on past it, and the group settles if S was set. -/
def completeHeld (s : State) (r : GRef) (len : Nat) (settle : Bool) : State :=
  let s := s.adjTeam r.team fun t => { t with hang := 0 }
  let s := s.adjGroup r fun g =>
    let h := g.held
    let g := h.foldl (fun g L => g.adjLane L fun l => { l with pc := l.pc + BitVec.ofNat 64 len }) g
    ({ g with held := [], settling := settle, needs := false } : Group).unpark
  afterLanding s r

/-- A sleeping group wakes once its time has come (R158). -/
def execSleepWake (r : GRef) (s : State) : Out :=
  match s.group r with
  | none => .next s
  | some g =>
    match g.park with
    | some (.sleep w settle) => .next (if w ≤ s.clock then completeHeld s r 4 settle else s)
    | _ => .next s

/-- The uniform special registers (R39). -/
def uniSpecial (c : Ctx) (n : Nat) : DWord :=
  let w (v : Word) : DWord := v.setWidth 64
  let k (v : Nat) : DWord := BitVec.ofNat 64 v
  let f : DWord × DWord × DWord × DWord :=
    match c.g.frame with
    | none => (0, 0, 0, 0)
    | some f => (f.trap.cause.setWidth 64, f.trap.addr, w f.trap.inst, w f.trap.info)
  match n with
  | 0x000 => k c.r.grp
  | 0x001 => k c.t.width
  | 0x002 => w c.t.teamId
  | 0x003 => w c.t.clusterId
  | 0x004 => k c.t.clusterTeam
  | 0x005 => k (c.t.clusterW + 16 * c.t.clusterH)
  | 0x006 => k c.t.core
  | 0x007 => k c.t.node
  | 0x008 => k c.t.label
  | 0x009 => k c.t.sheafBase
  | 0x00A => k c.t.sheafN
  | 0x00B => k c.t.depth
  | 0x00C => k c.g.tile
  | 0x00D => (maskOf c.I) &&& 0xFFFFFFFF
  | 0x00E => (maskOf c.I) >>> 32
  | 0x010 => 0x00FFFFFFFFFF0000
  | 0x012 => k c.s.clock
  | 0x014 => k c.t.pasid
  | 0x015 => k c.t.vif
  | 0x016 => c.t.params
  | 0x01C => c.g.fflags.setWidth 64
  | 0x040 => f.1
  | 0x041 => k c.r.grp
  | 0x042 => f.2.1
  | 0x044 => f.2.2.1
  | _ => f.2.2.2
/-- Numbers only the handler reads (R39). -/
def handlerOnly (n : Nat) : Bool := decide (0x040 ≤ n) && decide (n ≤ 0x045)
/-- SRD (R159). A read of %fflags with S set waits for the results that are outstanding, so that it sees their flags
(R111; log 87). -/
def execSrd (x : USrd) (s : State) : Out :=
  let wide := srdWide.contains x.n.toNat
  issue s (writesU (runOf x.d.toNat (if wide then 2 else 1))) 4 x.s (handlerOnly x.n.toNat) fun c =>
    if x.n = 0x01C ∧ x.s ∧ c.g.deferred ≠ [] then .park .settle c.s
    else if wide then .ok (writeUPair c x.d.toNat (uniSpecial c x.n.toNat) c.s)
    else .ok (writeU c x.d.toNat ((uniSpecial c x.n.toNat).setWidth 32) c.s)
/-- SWR: %fflags under its W1C code (R40, R159). -/
def execSwr (x : USwr) (s : State) : Out :=
  issue s (readsU [x.a.toNat]) 4 x.s false fun c =>
    .ok (c.s.adjGroup c.r fun g => g.clearFlags (c.g.readUni x.a.toNat))

/-! ### Landing and HANG (R143, R365) -/

/-- An outstanding result lands (R143). -/
def execDeferredResultLand (x : GIdx) (s : State) : Out :=
  match s.group x.g with
  | none => .next s
  | some g =>
    match g.deferred[x.i]? with
    | none => .next s
    | some d =>
      if d.wait = 0 then
        .next (afterLanding (s.adjGroup x.g fun g => ({ (g.land d) with deferred := dropAt g.deferred x.i }).endSettle) x.g)
      else .next s

/-- End the park of a group that a trap or a stop cancels: its instruction executes again when it resumes, from the PCs
its lanes then have (R362, R446). -/
def freezeGroup (s : State) (r : GRef) : State :=
  match s.group r with
  | none => s
  | some g =>
    match g.park with
    | none => (cancelWaits s r).adjGroup r fun h => { h with held := [] }
    | some p =>
      (cancelWaits s r).adjGroup r fun h => { h with
        park := if p.cancels then none else some p, held := if p.cancels then [] else h.held }
/-- Stop a group as GRPSTOP does (R362). -/
def stopGroup (s : State) (r : GRef) (k : StopKind) : State :=
  (freezeGroup s r).adjGroup r fun g => { g with stop := some k }

/-- HANG: every group stops and the lowest enters the handler (R365). -/
def execHangExpiry (team : Nat) (s : State) : Out :=
  match s.team team with
  | none => .next s
  | some t =>
    if t.hang < 2 ^ 26 ∨ t.place ≠ .running then .next s
    else
      let live := (t.groups.zipIdx.filter fun gi => !gi.1.exited).map (·.2)
      let s := s.adjTeam team fun t => { t with hang := 0 }
      let s := live.foldl (fun s i => if (s.group ⟨team, i⟩).any (fun g => g.inHandler) then s else stopGroup s ⟨team, i⟩ .hang) s
      match live with
      | [] => .next s
      | i :: _ =>
        let r : GRef := ⟨team, i⟩
        let s := s.adjGroup r fun g => { g with stop := none }
        .next (takeImprecise s r { cause := cHang, addr := 0, inst := 0, info := 0, block := 0 })

/-! ### Words that do not decode or cannot be fetched (R27, R30, R45, R47) -/

/-- A word that does not decode: ILLEGAL at its address (R45). -/
def execIllegalWord (_ : Word) (s : State) : Out := issue s {} 4 false false fun c => .trap (c.mkTrap cIllegal 0 0)

/-- A fetch that does not go through; `tail` for the second word, reported at the first also where its page is not
resident (R27, R30, R445). -/
def execInstructionFetchFault (tail : Bool) (s : State) : Out :=
  issue s {} 4 false false fun c =>
    if c.pc.extractLsb' 0 2 ≠ 0 then .trap (c.mkTrap cMisalign c.pc (infoGlobal 7 (c.I.headD 0) 7))
    else
      let a : DWord := if tail then c.pc + 4 else c.pc
      match place c.s c.t.pasid a.toNat .fetch with
      | .trap cause code => .trap (c.mkTrap cause c.pc (infoGlobal 0 0 code))
      | .miss need remote chain =>
        let p := parkOnFault c.s c.r c.t.core c.t.pasid (a.toNat / 65536) c.pc.toNat need remote chain (infoGlobal 0 0 15)
        .park p.1 p.2
      | .at pa _ => if regionReady c.s pa then .park .recall c.s else .park (.hostWait (regionOf pa) c.s.clock) (wantRegion c.s pa)
      | .window _ _ => .park .recall c.s

end Sys2Proof.Machine
end

