-- ==== Sys2Proof/Machine/TeamMem.lean ====
section
/-! DEFINITION. Team memory: its checks, loads, stores and atomics (R163 to R172), share windows and CLT (R174 to
R178), and subscriptions (R179 to R183). -/

namespace Sys2Proof.Machine

/-! ### What a group's accesses wait for (R215) -/

/-- Whether an acquire of the group is still on its way: an acquire atomic at a home, or a queued ATT (R172, R215). -/
def acquirePending (s : State) (core : Nat) (r : GRef) (g : Group) : Bool :=
  g.storeQ.any (fun e => e.kind == .att)
    || (s.core core).reqs.any fun q => q.team == r.team && q.grp == r.grp &&
      (match q.order with | .acq => true | .acqrel => true | _ => false)

/-! ### Checks (R166, R169) -/

/-- The first lane that fails a test, and how it fails. -/
def firstFault {α : Type} (I : List Nat) (f : Nat → Option α) : Option (Nat × α) :=
  match I with
  | [] => none
  | L :: r => match f L with | some e => some (L, e) | none => firstFault r f

/-- The checks of R166 on an access of n bytes at an offset: cause and CODE. -/
def teamFault (window n off : Nat) : Option (Cause × Nat) :=
  if off % n ≠ 0 then some (cMisalign, 7) else if window < off + n then some (cTeamBounds, 1) else none

/-- Whether an access meets a word with a double-bit error (R169). -/
def softHit (t : Team) (off n : Nat) : Bool := t.badT.any fun w => overlaps (4 * w) 4 off n

/-- Bytes of a team's window as a group sees them: its own queued stores to that team over the single copy
(R168, R211). -/
def teamView (g : Group) (target : Team) (off n : Nat) : List Byte :=
  (g.storeQ.filter fun e => (e.kind == .team || e.kind == .clt) && e.target == target.id).foldl
    (fun bs e => overlay off bs e.va e.data) (readBytes target.tmem off n)

/-- The first issue of the acting instruction and its PC: what the groups of a pack share (R137). -/
def Ctx.issued (c : Ctx) : Nat × DWord := (if c.g.held = [] then c.s.clock + 1 else c.g.lastIssue, c.pc)
/-- Whether a group of the same pack with a lower %groupid still waits at the instruction: the acting group follows it
(R170, R172). -/
def packBefore (c : Ctx) : Bool :=
  (c.t.groups.take c.r.grp).any fun h =>
    (h.park == some .drain || h.park == some .recall) && h.lastIssue == c.issued.1 && (h.lane (h.held.headD 0)).pc == c.pc
/-- Whether an entry of a group with a lower %groupid, of the same pack, takes effect before an entry (R170, R172): any
atomic, and a store of the same bytes. -/
def packEarlier (t : Team) (grp : Nat) (e : SqEntry) : Bool :=
  (t.groups.take grp).any fun h => h.storeQ.any fun x =>
    x.kind == e.kind && x.issued == e.issued && (e.kind == .att || overlaps x.va x.data.length e.va e.data.length)

/-- A store-queue entry for team memory. -/
def teamEntry (c : Ctx) (kind : SqKind) (target off lane : Nat) (data : List Byte) (rel : Bool) : SqEntry :=
  { kind, va := off, data, cmp := 0, scope := if kind = .clt then 2 else 1, rel, op := .add, wide := false, inst := 0, target
    stamp := c.s.clock, issued := c.issued, lane }

/-- Put entries into the acting group's store queue. -/
def enqueue (c : Ctx) (es : List SqEntry) (s : State) : State :=
  s.adjGroup c.r fun g => { g with storeQ := g.storeQ ++ es }
/-- Whether the store queue has entries for n more: it holds those of one instruction at least, and so many more as the
part has (R225; log 16). -/
def storeRoom (g : Group) (n : Nat) : Bool :=
  let k := (g.storeQ.filter fun e => e.kind != .bar).length + n
  decide (k ≤ 128) || decide (k ≤ 128 + Config.storeDepth)
/-- The entries of an instruction enter the queue, or the group parks until one frees (R225). -/
def enqueueOr (c : Ctx) (es : List SqEntry) (s : State) : Res :=
  if storeRoom c.g es.length then .ok (enqueue c es s) else .park .storeRoom c.s

/-- The trap of the lowest failing lane of a team-memory access, if any lane fails; a double-bit error is met only
once every lane passes. -/
def teamTrap (c : Ctx) (n : Nat) (off : Nat → Nat) (reads : Bool) : Option TrapRec :=
  match firstFault c.I fun L => teamFault c.t.window n (off L) with
  | some (L, cause, code) => some (c.mkTrap cause (BitVec.ofNat 64 (off L)) (infoTeam L code))
  | none =>
    (c.I.find? fun L => reads && softHit c.t (off L) n).map fun L =>
      c.mkTrap cSoft (BitVec.ofNat 64 (off L)) 0

/-! ### LDT, STT, ATT (R170 to R172) -/

/-- LDT (R170). -/
def execLdt (x : LLoad) (s : State) : Out :=
  issue s (Names.add (writesV (runOf x.d.toNat x.w.regs)) (Names.add (readsV [x.a.toNat]) (readsU [x.sb.toNat]))) 4 x.s
    false fun c =>
      let off := fun L => (c.g.teamAddr L x.sb x.a).toNat
      match teamTrap c x.w.bytes off true with
      | some t => .trap t
      | none =>
        if acquirePending c.s c.t.core c.r c.g then .park .recall c.s
        else
          .ok (deferLanes c x.d.toNat x.w.regs (fun L => loadWords x.w x.x (teamView c.g c.t (off L) x.w.bytes)) 0 c.s)

/-- STT (R170). -/
def execStt (x : LStore) (s : State) : Out :=
  issue s (Names.add (readsV (x.a.toNat :: runOf x.d.toNat x.w.regs)) (readsU [x.sb.toNat])) 4 x.s false fun c =>
    let off := fun L => (c.g.teamAddr L x.sb x.a).toNat
    match teamTrap c x.w.bytes off false with
    | some t => .trap t
    | none =>
      if acquirePending c.s c.t.core c.r c.g || packBefore c then .park .recall c.s
      else enqueueOr c (c.I.map fun L => teamEntry c .team c.t.id (off L) L (c.g.storeBytes L x.d x.w) false) c.s

/-- One read-modify-write of team memory: the old value and the state after (R171). -/
def teamRmw (s : State) (team off : Nat) (op : AtomOp) (wide : Bool) (b c : DWord) : DWord × State :=
  let n := if wide then 8 else 4
  let old : DWord := match s.team team with | some t => BitVec.ofNat 64 (readLE t.tmem off n) | none => 0
  let cut := fun (v : DWord) => if wide then v else (v.setWidth 32).setWidth 64
  (old, teamStore s team off (leBytes n (atomicNew op wide old (cut b) (cut c)).toNat))

/-- A lane's operand of an atomic: a register, or a pair of a 64-bit atomic. -/
def Group.atomSrc (g : Group) (L : Nat) (wide : Bool) (v : BitVec 7) : DWord :=
  if wide then g.lanePair L v.toNat else (g.readLane L v.toNat).setWidth 64
/-- Registers of an atomic's operand. -/
def atomRegs (wide : Bool) (v : BitVec 7) : List Nat := runOf v.toNat (if wide then 2 else 1)
/-- Words of an atomic's result. -/
def atomWords (wide : Bool) (v : DWord) : List Word :=
  v.setWidth 32 :: (if wide then [v.extractLsb' 32 32] else [])

/-- The lanes of an ATT in their order: their old values and the state after (R172). -/
def attLanes (c : Ctx) (x : TAtomic) (s : State) : List Nat → List (Nat × DWord) × State
  | [] => ([], s)
  | L :: r =>
    let (old, s) := teamRmw s c.t.id (c.g.teamAddr L x.sb x.a).toNat x.op x.wide (c.g.atomSrc L x.wide x.b)
      (c.g.atomSrc L x.wide x.c)
    let (rest, s) := attLanes c x s r
    ((L, old) :: rest, s)

/-- ATT: with a return it is performed once every earlier store of the group has taken effect; without one it takes
its place in the store queue (R172, R211, R226). -/
def execAtt (x : TAtomic) (s : State) : Out :=
  let n := if x.wide then 8 else 4
  issue s
    (Names.add (if x.ret then writesV (atomRegs x.wide x.d) else {}) (Names.add (readsV (x.a.toNat :: atomRegs x.wide x.b))
      (Names.add (if x.op = .cas then readsV (atomRegs x.wide x.c) else {}) (readsU [x.sb.toNat])))) 8 x.s false
    fun c =>
      let off := fun L => (c.g.teamAddr L x.sb x.a).toNat
      match teamTrap c n off true with
      | some t => .trap t
      | none =>
        if acquirePending c.s c.t.core c.r c.g || packBefore c then .park .recall c.s
        else if x.ret then
          if !(coreDrained c.s c.r) then .park .drain c.s
          else
            let (olds, s) := attLanes c x c.s c.I
            .ok (addDeferred s c.r (atomRegs x.wide x.d) []
              (olds.flatMap fun p => (atomWords x.wide p.2).zipIdx.map fun wi => (p.1, x.d.toNat + wi.2, wi.1)) [] 0 0)
        else
          enqueueOr c (c.I.map fun L =>
            { teamEntry c .att c.t.id (off L) L (leBytes n (c.g.atomSrc L x.wide x.b).toNat) true with
              cmp := c.g.atomSrc L x.wide x.c, op := x.op, wide := x.wide }) c.s

/-! ### CLT (R176 to R178) -/

/-- The team of the cluster with a number (R173). -/
def clusterMate (c : Ctx) (n : Nat) : Option Team :=
  c.s.teams.find? fun t => t.clusterKey == c.t.clusterKey && t.clusterTeam == n

/-- The share window of a team as the core of team n of its cluster holds it (R175). -/
def Team.shareFor (t : Team) (n : Nat) : Option Share :=
  if t.shareSeen.any fun x => x.1 == n then (match t.shareChange with | some w => w.2 | none => t.share) else t.share
/-- The share window of a team of the cluster, in the issuing core's table. -/
def mateShare (c : Ctx) (n : Nat) : Option Share := (clusterMate c n).bind fun t => t.shareFor c.t.clusterTeam

/-- The checks of R177 in one lane: cause and CODE. -/
def cltFault (c : Ctx) (store : Bool) (n o t : Nat) : Option (Cause × Nat) :=
  if o % n ≠ 0 then some (cMisalign, 7)
  else if c.t.clusterW * c.t.clusterH ≤ t then some (cTeamBounds, 2)
  else
    match mateShare c t with
    | none => some (cTeamBounds, 3)
    | some w =>
      if w.len < o + n then some (cTeamBounds, 3) else if store && !w.wr then some (cTeamBounds, 4) else none

/-- The access of one lane: the target team's number in the state and the offset in its window. -/
def cltPlace (c : Ctx) (o t : Nat) : Nat × Nat :=
  match clusterMate c t with
  | none => (0, 0)
  | some m => (m.id, (match m.shareFor c.t.clusterTeam with | some w => w.base | none => 0) + o)

/-- What a CLT load sees (R168, R178). -/
def cltView (c : Ctx) (o t n : Nat) : List Byte :=
  match clusterMate c t with
  | none => []
  | some m => teamView c.g m (cltPlace c o t).2 n

/-- Whether a run of bytes of a team's window lies in the mirror of one of its subscriptions (R179). -/
def Team.mirrors (t : Team) (off n : Nat) : Bool := t.subs.any fun u => overlaps u.loc u.len off n
/-- CLT load (R177); at layer scope an acquire leaves the L1 unchanged (R185), but one that reads a mirror drops it,
since the delivery may carry a wider release (R232; log 93). -/
def execCltLoad (x : CLoad) (s : State) : Out :=
  issue s
    (Names.add (writesV (runOf x.d.toNat x.w.regs)) (Names.add (readsV [x.a.toNat])
      (Names.add (Src.names x.t) (readsU [x.sb.toNat])))) 8 x.s false fun c =>
      let off := fun L => (c.g.teamAddr L x.sb x.a).toNat
      let tgt := fun L => (c.g.src L x.t).toNat
      match firstFault c.I fun L => cltFault c false x.w.bytes (off L) (tgt L) with
      | some (L, cause, code) => .trap (c.mkTrap cause (BitVec.ofNat 64 (off L)) (infoTeam L code))
      | none =>
        let soft := fun L => match clusterMate c (tgt L) with
          | some m => softHit m (cltPlace c (off L) (tgt L)).2 x.w.bytes
          | none => false
        match c.I.find? soft with
        | some L => .trap (c.mkTrap cSoft (BitVec.ofNat 64 (off L)) 0)
        | none =>
          if acquirePending c.s c.t.core c.r c.g then .park .recall c.s
          else
            let mirror := x.acq && c.I.any fun L =>
              (clusterMate c (tgt L)).any fun m => m.mirrors (cltPlace c (off L) (tgt L)).2 x.w.bytes
            .ok (deferLanes c x.d.toNat x.w.regs
              (fun L => loadWords x.w x.x (cltView c (off L) (tgt L) x.w.bytes)) 0 (if mirror then c.s.dropL1 c.t.core else c.s))

/-- CLT store (R177). -/
def execCltStore (x : CStore) (s : State) : Out :=
  issue s
    (Names.add (readsV (x.a.toNat :: runOf x.d.toNat x.w.regs)) (Names.add (Src.names x.t) (readsU [x.sb.toNat]))) 8 x.s
    false fun c =>
      let off := fun L => (c.g.teamAddr L x.sb x.a).toNat
      let tgt := fun L => (c.g.src L x.t).toNat
      match firstFault c.I fun L => cltFault c true x.w.bytes (off L) (tgt L) with
      | some (L, cause, code) => .trap (c.mkTrap cause (BitVec.ofNat 64 (off L)) (infoTeam L code))
      | none =>
        if acquirePending c.s c.t.core c.r c.g then .park .recall c.s
        else
          enqueueOr c (c.I.map fun L =>
            let p := cltPlace c (off L) (tgt L)
            teamEntry c .clt p.1 p.2 L (c.g.storeBytes L x.d x.w) x.rel) c.s

/-! ### Share windows (R174, R175) -/

/-- SHARE.JOIN: refused operands trap at the base offset (log 91); else the group parks until the change is done
(R174, R175). -/
def execShareJoin (x : USrc2) (s : State) : Out :=
  issue s (readsU [x.a.toNat, x.b.toNat]) 4 x.s false fun c =>
    let base := (c.g.readUni x.a.toNat).toNat
    let v := (c.g.readUni x.b.toNat).toNat
    let len := bitsOf v 0 20
    if base % 256 ≠ 0 ∨ len % 256 ≠ 0 ∨ len = 0 ∨ 524288 < len ∨ bitsOf v 20 11 ≠ 0 ∨ c.t.window < base + len then
      .trap (c.mkTrap cTeamBounds (BitVec.ofNat 64 base) (infoTeam 0 5))
    else .park (.share (some { base, len, wr := bitsOf v 31 1 == 1 }) c.s.clock x.s) c.s

/-- SHARE.LEAVE (R175). -/
def execShareLeave (settle : Bool) (s : State) : Out :=
  issue s {} 4 settle false fun c => .park (.share none c.s.clock settle) c.s

/-- Whether a CLT access admitted to a team under the entry that a change replaces has not completed at it (R175). -/
def oldClt (s : State) (t : Team) : Bool :=
  s.teams.any fun u => u.groups.any fun g => g.storeQ.any fun e =>
    e.kind == .clt && e.target == t.id && !(t.shareSeen.any fun x => x.1 == u.clusterTeam && decide (x.2 ≤ e.stamp))
/-- The change of a team's share table reaches the core of a team of its cluster (R175). -/
def shareReach (s : State) (team mate : Nat) : State :=
  s.adjTeam team fun t =>
    if t.shareChange.isSome ∧ mate < t.clusterW * t.clusterH ∧ t.shareSeen.all (fun x => x.1 ≠ mate) then
      { t with shareSeen := t.shareSeen ++ [(mate, s.clock)] }
    else t

/-- A change of the share table is in every copy: the earliest one of the team takes effect, a LEAVE once the CLT
accesses admitted under the old entry have completed (R174, R175). -/
def execShareChangeDone (r : GRef) (s : State) : Out :=
  match s.team r.team, s.group r with
  | some t, some g =>
    match g.park with
    | some (.share w _ settle) =>
      if (t.shareChange.map (·.1)) ≠ some r.grp ∨ (t.share.isSome ∧ oldClt s t) then .next s
      else .next (completeHeld (s.adjTeam r.team fun t => { t with share := w, shareSeen := [] }) r 4 settle)
    | _ => .next s
  | _, _ => .next s

/-! ### Subscriptions (R179 to R182) -/

/-- Whether a block and its mirror keep R179. -/
def subBlockOk (window block loc len : Nat) : Bool :=
  decide (block % 16 = 0) && decide (block + 16 ≤ window) && decide (loc % 128 = 0) && decide (len % 128 = 0)
    && decide (128 ≤ len) && decide (len ≤ 65536) && decide (loc + len ≤ window)

/-- LOCAL and LENGTH of a block as the group sees them. SUB reads and checks them when it issues, and the registration
reads them again as they then stand (R180; log 90). -/
def subBlock (g : Group) (t : Team) (block : Nat) : Nat × Nat :=
  (leNat (teamView g t block 4), leNat (teamView g t (block + 4) 4))

/-- SHARE.SUB: misuse traps, of the block at its offset (log 91), a missing page parks as a load does, else the group
parks until the home has registered (R180). -/
def execShareSub (x : UR) (s : State) : Out :=
  issue s (Names.add (writesU [x.d.toNat]) (readsU (x.b.toNat :: runOf x.a.toNat 2))) 4 x.s false fun c =>
    let va := (c.g.uniPair x.a.toNat).toNat
    let block := (c.g.readUni x.b.toNat).toNat
    let (loc, len) := if block % 16 = 0 ∧ block + 16 ≤ c.t.window then subBlock c.g c.t block else (0, 0)
    if !(subBlockOk c.t.window block loc len) then
      .trap (c.mkTrap cTeamBounds (BitVec.ofNat 64 block) (infoTeam 0 6))
    else if va % 128 ≠ 0 ∨ 65536 < va % 65536 + len then
      .trap (c.mkTrap cProtection (BitVec.ofNat 64 va) (infoGlobal 0 0 15))
    else
      match place c.s c.t.pasid va .subscribe with
      | .trap cause code => .trap (c.mkTrap cause (BitVec.ofNat 64 va) (infoGlobal 0 0 code))
      | .miss need remote chain =>
        let p := parkOnFault c.s c.r c.t.core c.t.pasid (va / 65536) va need remote chain (infoGlobal 0 0 15)
        .park p.1 p.2
      | .window _ _ => .trap (c.mkTrap cProtection (BitVec.ofNat 64 va) (infoGlobal 0 0 13))
      | .at pa kind =>
        if acquirePending c.s c.t.core c.r c.g || pageWaits c.s c.t.pasid (va / 65536) then .park .recall c.s
        else if (kind ≠ 1 ∧ kind ≠ 2) ∨ homeOf c.s.build pa ≠ chipletOfCore c.t.core then
          .trap (c.mkTrap cProtection (BitVec.ofNat 64 va) (infoGlobal 0 0 13))
        else .park (.subRegister x.d.toNat va block x.s) c.s

/-- Members registered at the home of an address. -/
def subEntriesAt (s : State) (chiplet : Nat) : Nat :=
  ((s.subHomes.filter fun h => homeOfPage s.build (h.va / 65536) == chiplet).map fun h => h.members.length).sum

/-- The registration step of R181: the copy, SEQ, and ACTIVE with RESYNC as given. -/
def registerSub (s : State) (team handle block loc pa len va pasid status : Nat) : State :=
  let s := if s.subHomes.any fun h => h.at_ pa len then s
    else { s with subHomes := s.subHomes ++ [{ va, pasid, pa := some pa, len, count := 0, members := [] }] }
  let cnt : Word := match s.subHomes.find? fun h => h.at_ pa len with | some h => h.count | none => 0
  let join := fun (h : SubHome) =>
    if h.at_ pa len then { h with members := addOnce h.members (team, handle) } else h
  let s := { s with subHomes := s.subHomes.map join }
  let s := adjPin s pa (· + 1)
  let s := teamStore s team loc (homeBytes s pa len)
  let s := teamStore s team (block + 8) (leBytes 4 cnt.toNat)
  teamStore s team (block + 12) (leBytes 4 status)

/-- A subscription registers at its home, under the lowest free handle (R180, R181; log 90). -/
def execSubscriptionRegister (r : GRef) (s : State) : Out :=
  match s.team r.team, s.group r with
  | some t, some g =>
    match g.park with
    | some (.subRegister d va block settle) =>
      let (loc, len) := subBlock g t block
      match place s t.pasid va .subscribe with
      | .at pa kind =>
        if pageWaits s t.pasid (va / 65536) || (grainsOf pa len).any fun q => s.engineOwned (q * 512) then .next s
        else
          let h := (List.range 8).find? fun h => !(t.subs.any fun u => u.handle == h)
          match h with
          | none => .next (completeHeld (s.adjGroup r fun g => g.writeUni d 0x80000001) r 4 settle)
          | some h =>
            if 256 ≤ subEntriesAt s (homeOf s.build pa) then
              .next (completeHeld (s.adjGroup r fun g => g.writeUni d 0x80000001) r 4 settle)
            else
              let s := registerSub (noteAccess s pa kind) t.id h block loc pa len va t.pasid 1
              let s := s.adjTeam t.id fun t =>
                { t with subs := t.subs ++ [{ handle := h, block, va, len, loc, active := true, resync := false }] }
              .next (completeHeld (s.adjGroup r fun g => g.writeUni d (BitVec.ofNat 32 h)) r 4 settle)
      | _ => .next (s.adjGroup r Group.unpark)
    | _ => .next s
  | _, _ => .next s

/-- A delivery lands: the data, then SEQ, and STATUS as the hardware keeps it, in the order of its handle; a pre-empted
team's is dropped, and the last one of a team that has exited ends its subscription (R179, R181, R182). -/
def execSubscriptionDelivery (n : Nat) (s : State) : Out :=
  match s.deliveries[n]? with
  | none => .next s
  | some d =>
    if (s.deliveries.take n).any fun e => e.team == d.team && e.handle == d.handle then .next s
    else
      let s := { s with deliveries := dropAt s.deliveries n }
      match s.team d.team with
      | none => .next s
      | some t =>
        match t.subs.find? fun u => u.handle == d.handle with
        | none => .next s
        | some u =>
          if t.place = .running ∨ t.place = .ended then
            let s := teamStore s d.team (u.loc + d.off) d.data
            let s := teamStore s d.team (u.block + 8) (leBytes 4 d.seq.toNat ++ leBytes 4 u.status)
            .next (if t.place = .ended then settleSub s d.team u else s)
          else .next s

/-- SHARE.UNSUB: the home stops delivering and the group parks until what is in flight has landed (R182; log 26). -/
def execShareUnsub (x : USrc) (s : State) : Out :=
  issue s (readsU [x.a.toNat]) 4 x.s false fun c =>
    let h := (c.g.readUni x.a.toNat).toNat
    if c.t.subs.any fun u => u.handle == h then .park (.unsub h x.s) (leaveHome c.s c.t.id h) else .ok c.s

/-- The deliveries of a handle have landed: ACTIVE clears and the group goes on (R182). -/
def execUnsubComplete (r : GRef) (s : State) : Out :=
  match s.team r.team, s.group r with
  | some t, some g =>
    match g.park with
    | some (.unsub h settle) =>
      if s.deliveries.any fun d => d.team == t.id && d.handle == h then .next s
      else
        let s := match t.subs.find? fun u => u.handle == h with
          | none => s
          | some u => settleSub s t.id u
        .next (completeHeld s r 4 settle)
    | _ => .next s
  | _, _ => .next s

end Sys2Proof.Machine
end

