-- ==== Sys2Proof/Machine/Arrive.lean ====
section
/-! DEFINITION. Arrival words (R257 to R259) and circular buffers (R260, R261), and how a copy ends (R242, R258). -/

namespace Sys2Proof.Machine

/-! ### Arrival words (R257, R258) -/

/-- The four words of an arrival word; `flags` is bits 127:96. -/
structure Arrival where
  expected : Word
  arrived : Word
  gen : Word
  flags : Word
  deriving DecidableEq, Repr

/-- The arrival word of 16 bytes. -/
def Arrival.ofBytes (bs : List Byte) : Arrival :=
  let v := leNat bs
  let w := fun (i : Nat) => BitVec.ofNat 32 (bitsOf v (32 * i) 32)
  { expected := w 0, arrived := w 1, gen := w 2, flags := w 3 }
/-- The 16 bytes of an arrival word. -/
def Arrival.bytes (a : Arrival) : List Byte :=
  leBytes 4 a.expected.toNat ++ leBytes 4 a.arrived.toNat ++ leBytes 4 a.gen.toNat ++ leBytes 4 a.flags.toNat
/-- ARMED. -/
def Arrival.armed (a : Arrival) : Bool := a.flags.getLsbD 0
/-- ERROR or OVER. -/
def Arrival.bad (a : Arrival) : Bool := a.flags.getLsbD 1 || a.flags.getLsbD 2
/-- Settle of R258. -/
def Arrival.settle (a : Arrival) : Arrival :=
  if a.armed && a.arrived == a.expected then
    { expected := 0, arrived := 0, gen := a.gen + 1, flags := a.flags &&& ~~~ 1#32 }
  else if a.armed && decide (a.expected < a.arrived) then { a with flags := a.flags ||| 4 }
  else a
/-- Whether the generation has passed v (R258). -/
def Arrival.passed (a : Arrival) (v : Word) : Bool := (0 : Word).slt (a.gen - v)
/-- EXPECT (R259). -/
def Arrival.expect (a : Arrival) (n : Word) : Arrival :=
  ({ a with expected := a.expected + n, flags := a.flags ||| 1 } : Arrival).settle
/-- ARRIVE, and the arrival of a copy (R258, R259). -/
def Arrival.arrive (a : Arrival) (n : Word) : Arrival := ({ a with arrived := a.arrived + n } : Arrival).settle
/-- A copy ends with ERROR: ECAUSE when it is zero; settled like every change (R258). -/
def Arrival.fail (a : Arrival) (cause : Cause) : Arrival :=
  let f := a.flags ||| 2
  ({ a with flags := if f.extractLsb' 8 8 = 0 then f ||| (cause.setWidth 32 <<< 8) else f } : Arrival).settle

/-- The arrival word at an offset of a team's window. -/
def Team.arrival (t : Team) (off : Nat) : Arrival := Arrival.ofBytes (readBytes t.tmem off 16)
/-! ### Circular-buffer objects (R260) -/

/-- The fields of a circular-buffer object (R260). -/
structure CircBuf where
  base : Nat
  stageB : Nat
  nstage : Nat
  res : Nat
  awBase : Nat
  head : Word
  cmt : Word
  tail : Word
  cpos : Word
  deriving DecidableEq, Repr

/-- The object in 32 bytes. -/
def CircBuf.ofBytes (bs : List Byte) : CircBuf :=
  let v := leNat bs
  let w := fun (i : Nat) => BitVec.ofNat 32 (bitsOf v (32 * i) 32)
  { base := bitsOf v 0 32, stageB := bitsOf v 32 32, nstage := bitsOf v 64 16, res := bitsOf v 80 16, awBase := bitsOf v 96 32
    head := w 4, cmt := w 5, tail := w 6, cpos := w 7 }

/-- Offset of a stage's data. -/
def CircBuf.data (b : CircBuf) (n : Word) : Nat := b.base + n.toNat % b.nstage * b.stageB
/-- Offset of a stage's arrival word. -/
def CircBuf.word (b : CircBuf) (n : Word) : Nat := b.awBase + 16 * (n.toNat % b.nstage)
/-- Whether the data of a stage use is complete (R260). -/
def CircBuf.complete (b : CircBuf) (a : Arrival) (n : Word) : Bool := a.passed (BitVec.ofNat 32 (n.toNat / b.nstage))

/-! ### Changes of a word, and the waiters they wake (R258, R259) -/

/-- A group's wait for an arrival word ends: the return is an acquire at chiplet scope (R185, R216). -/
def endAwait (s : State) (r : GRef) (core : Nat) (settle : Bool) : State := completeHeld (s.dropL1 core) r 4 settle
/-- The arrival word at an offset that a group waits on in WAITG or CB.WAIT, if it is that one. -/
def Group.awaits (g : Group) (t : Team) (off : Nat) : Option Park :=
  match g.park with
  | some (.waitg d o v b) => if o = off then some (.waitg d o v b) else none
  | some (.cbWait d obj n b) =>
    if (CircBuf.ofBytes (readBytes t.tmem obj 32)).word n = off then some (.cbWait d obj n b) else none
  | _ => none
/-- A word has changed: a group that waits on it in WAITG or CB.WAIT goes on where its condition now holds (R258,
R261). -/
def wakeAwait (s : State) (r : GRef) (off : Nat) : State :=
  match s.team r.team, s.group r with
  | some t, some g =>
    let a := t.arrival off
    match g.awaits t off with
    | some (.waitg d _ v settle) =>
      if a.passed v = true ∨ a.bad = true then endAwait (s.adjGroup r fun g => g.writeUni d a.flags) r t.core settle
      else s
    | some (.cbWait d obj n settle) =>
      let b := CircBuf.ofBytes (readBytes t.tmem obj 32)
      let pc := (g.lane (g.held.headD 0)).pc
      if b.complete a n = true ∨ a.bad = true then
        endAwait (s.adjGroup r fun g =>
          { ((g.writeUni d (BitVec.ofNat 32 (b.data n))).writeUni (d + 1) (BitVec.ofNat 32 (b.word n))) with
            claims := g.claims.filter fun k => !(k.1 == obj && k.2.1 == pc) }) r t.core settle
      else s
    | _ => s
  | _, _ => s
/-- One indivisible change of an arrival word; the groups parked on it wake together (R258, R259). -/
def adjArrival (s : State) (team off : Nat) (f : Arrival → Arrival) : State :=
  match s.team team with
  | none => s
  | some t => (List.range t.groups.length).foldl (fun s i => wakeAwait s ⟨team, i⟩ off) (teamStore s team off (f (t.arrival off)).bytes)

/-- A copy ends with ERROR and a cause (R242, R258); a copy whose team is gone just ends. -/
def failCopy (s : State) (id : Nat) (cause : Cause) : State :=
  match s.copies.find? fun c => c.id == id with
  | none => s
  | some c =>
    let s := dropCopy s id
    match c.aw with
    | none => s
    | some off => adjArrival s c.g.team off (Arrival.fail · cause)

/-! ### The ARRIVE family (R259) -/

/-- The checks of an object of n bytes at a window offset, for a uniform instruction: R166, then R169. -/
def uniTeamTrap (c : Ctx) (n off : Nat) (soft : Bool) : Option TrapRec :=
  match teamFault c.t.window n off with
  | some (cause, code) => some (c.mkTrap cause (BitVec.ofNat 64 off) (infoTeam 0 code))
  | none => if soft && softHit c.t off n then some (c.mkTrap cSoft (BitVec.ofNat 64 off) 0) else none

/-- One step that acts as an ATT on an object in team memory: the checks, then, once the group's earlier stores have
taken effect, the body (R172, R226, R259, R261). -/
def asAtt (c : Ctx) (n off : Nat) (body : Unit → Res) : Res :=
  match uniTeamTrap c n off true with
  | some t => .trap t
  | none =>
    if acquirePending c.s c.t.core c.r c.g then .park .recall c.s
    else if !(coreDrained c.s c.r) then .park .drain c.s
    else body ()

/-- EXPECT (R259). -/
def execExpect (x : USrc2) (s : State) : Out :=
  issue s (readsU [x.a.toNat, x.b.toNat]) 4 x.s false fun c =>
    let off := (c.g.readUni x.a.toNat).toNat
    asAtt c 16 off fun _ => .ok (adjArrival c.s c.t.id off (Arrival.expect · (c.g.readUni x.b.toNat)))
/-- ARRIVE (R259). -/
def execArrive (x : USrc2) (s : State) : Out :=
  issue s (readsU [x.a.toNat, x.b.toNat]) 4 x.s false fun c =>
    let off := (c.g.readUni x.a.toNat).toNat
    asAtt c 16 off fun _ => .ok (adjArrival c.s c.t.id off (Arrival.arrive · (c.g.readUni x.b.toNat)))

/-- WAITG: its return is an acquire at chiplet scope; a change of the word that meets its condition ends the wait
(R185, R258, R259). -/
def execWaitg (x : UR) (s : State) : Out :=
  issue s (Names.add (writesU [x.d.toNat]) (readsU [x.a.toNat, x.b.toNat])) 4 x.s false fun c =>
    let off := (c.g.readUni x.a.toNat).toNat
    match uniTeamTrap c 16 off true with
    | some t => .trap t
    | none =>
      if acquirePending c.s c.t.core c.r c.g then .park .recall c.s
      else
        let a := Arrival.ofBytes (teamView c.g c.t off 16)
        if a.passed (c.g.readUni x.b.toNat) || a.bad then .ok ((writeU c x.d.toNat a.flags c.s).dropL1 c.t.core)
        else .park (.waitg x.d.toNat off (c.g.readUni x.b.toNat) x.s) c.s
/-- TESTG (R259). -/
def execTestg (x : UR) (s : State) : Out :=
  issue s (Names.add (writesU [x.d.toNat]) (readsU [x.a.toNat, x.b.toNat])) 4 x.s false fun c =>
    let off := (c.g.readUni x.a.toNat).toNat
    match uniTeamTrap c 16 off true with
    | some t => .trap t
    | none =>
      if acquirePending c.s c.t.core c.r c.g then .park .recall c.s
      else
        let a := Arrival.ofBytes (teamView c.g c.t off 16)
        let v := boolWord (a.passed (c.g.readUni x.b.toNat)) ||| (if a.bad then 0x80000000 else 0)
        .ok (writeU c x.d.toNat v c.s)

/-! ### Circular buffers (R260, R261) -/

/-- Whether n objects of a size at an offset leave the window or lie over the circular-buffer object (R261). -/
def cbOutside (window obj off n size : Nat) : Bool := decide (window < off + n * size) || overlaps off (n * size) obj 32
/-- The ITEM of the first field that puts a stage or an arrival word outside the window or over the object; an object of
no stage has none to put anywhere (R261; log 40). -/
def CircBuf.outside (b : CircBuf) (window obj : Nat) : Option Nat :=
  if cbOutside window obj b.base b.nstage b.stageB then some 0
  else if b.nstage = 0 then some 8
  else if cbOutside window obj b.awBase b.nstage 16 then some 12
  else none
/-- The ITEM of the first field that CB.INIT refuses: one that breaks R260 or R261. -/
def CircBuf.fault (b : CircBuf) (window obj : Nat) : Option Nat :=
  let sizeOk : Bool := decide (b.stageB % 128 = 0) && decide (128 ≤ b.stageB) && decide (b.stageB ≤ 65536)
  let countOk : Bool := decide (1 ≤ b.nstage) && decide (b.nstage ≤ 16)
  if b.base % 128 ≠ 0 ∨ (sizeOk && countOk && cbOutside window obj b.base b.nstage b.stageB) = true then some 0
  else if !sizeOk then some 4
  else if !countOk then some 8
  else if b.res ≠ 0 then some 10
  else if b.awBase % 16 ≠ 0 ∨ cbOutside window obj b.awBase b.nstage 16 = true then some 12
  else none

/-- %trapinfo of a circular-buffer trap: WHICH 5, CODE 10 (R251, R261). -/
def cbTrap (c : Ctx) (obj item : Nat) : Res :=
  .trap (c.mkTrap cCopyBounds (BitVec.ofNat 64 obj) (BitVec.ofNat 32 (5 * 4096 + item * 16 + 10)))
/-- Write one word of the object. -/
def cbSet (c : Ctx) (obj field : Nat) (v : Word) (s : State) : State :=
  teamStore s c.t.id (obj + field) (leBytes 4 v.toNat)
/-- Return a stage in the pair sd. -/
def cbReturn (c : Ctx) (d : BitVec 6) (b : CircBuf) (n : Word) (s : State) : State :=
  writeU c (d.toNat + 1) (BitVec.ofNat 32 (b.word n)) (writeU c d.toNat (BitVec.ofNat 32 (b.data n)) s)
/-- The object that s(sa) names. -/
def Ctx.cb (c : Ctx) (obj : Nat) : CircBuf := CircBuf.ofBytes (teamView c.g c.t obj 32)

/-- CB.INIT (R261). -/
def execCbInit (x : USrc) (s : State) : Out :=
  issue s (readsU [x.a.toNat]) 4 x.s false fun c =>
    let obj := (c.g.readUni x.a.toNat).toNat
    asAtt c 32 obj fun _ =>
      let b := c.cb obj
      match b.fault c.t.window obj with
      | some item => cbTrap c obj item
      | none =>
        let s := teamStore c.s c.t.id (obj + 16) (List.replicate 16 0)
        .ok (teamStore s c.t.id b.awBase (List.replicate (16 * b.nstage) 0))

/-- Since when a group waits in CB.ACQ for an object: kept from its park, else from now. -/
def acqSince (s : State) (obj : Nat) : Nat :=
  match s.parkNow with
  | some (.cbAcq o since) => if o = obj then since else s.clock
  | _ => s.clock

/-- CB.ACQ: parked groups are served in the order they parked (R261). -/
def execCbAcq (x : UU) (s : State) : Out :=
  issue s (Names.add (writesU (runOf x.d.toNat 2)) (readsU [x.a.toNat])) 4 x.s false fun c =>
    let obj := (c.g.readUni x.a.toNat).toNat
    let since := acqSince s obj
    asAtt c 32 obj fun _ =>
      let b := c.cb obj
      match b.outside c.t.window obj with
      | some item => cbTrap c obj item
      | none =>
        let before := c.t.groups.zipIdx.any fun gi => gi.2 != c.r.grp &&
          (match gi.1.park with | some (.cbAcq o n) => o == obj && decide (n < since) | _ => false)
        if before || !(decide ((b.head - b.tail).toNat < b.nstage)) then .park (.cbAcq obj since) c.s
        else .ok (cbReturn c x.d b b.head (cbSet c obj 16 (b.head + 1) c.s))

/-- CB.COMMIT (R261). -/
def execCbCommit (x : USrc2) (s : State) : Out :=
  issue s (readsU [x.a.toNat, x.b.toNat]) 4 x.s false fun c =>
    let obj := (c.g.readUni x.a.toNat).toNat
    asAtt c 32 obj fun _ =>
      let b := c.cb obj
      match b.outside c.t.window obj with
      | some item => cbTrap c obj item
      | none =>
        if b.cmt < b.head then
          let s := adjArrival c.s c.t.id (b.word b.cmt) (Arrival.expect · (c.g.readUni x.b.toNat))
          .ok (cbSet c obj 20 (b.cmt + 1) s)
        else cbTrap c obj 20

/-- CB.WAIT on a claimed stage: return it once complete, or failed; the return is an acquire at chiplet scope. -/
def cbAwait (c : Ctx) (d : BitVec 6) (settle : Bool) (obj : Nat) (b : CircBuf) (n : Word) (s : State) : Res :=
  let a : Arrival := match s.team c.t.id with | some t => t.arrival (b.word n) | none => Arrival.ofBytes []
  if b.complete a n || a.bad then
    let s := s.adjGroup c.r fun g => { g with claims := g.claims.filter fun k => !(k.1 == obj && k.2.1 == c.pc) }
    .ok ((cbReturn c d b n s).dropL1 c.t.core)
  else .park (.cbWait d.toNat obj n settle) s

/-- CB.WAIT: the claim is made once, at issue, and kept through traps and pre-emption (R261, R446). -/
def execCbWait (x : UU) (s : State) : Out :=
  issue s (Names.add (writesU (runOf x.d.toNat 2)) (readsU [x.a.toNat])) 4 x.s false fun c =>
    let obj := (c.g.readUni x.a.toNat).toNat
    match c.g.claims.find? fun k => k.1 == obj && k.2.1 == c.pc with
    | some k => cbAwait c x.d x.s obj (c.cb obj) k.2.2 c.s
    | none =>
      asAtt c 32 obj fun _ =>
        let b := c.cb obj
        match b.outside c.t.window obj with
        | some item => cbTrap c obj item
        | none =>
          let s := cbSet c obj 28 (b.cpos + 1) c.s
          let s := s.adjGroup c.r fun g => { g with claims := g.claims ++ [(obj, c.pc, b.cpos)] }
          cbAwait c x.d x.s obj b b.cpos s

/-- CB.REL (R261). -/
def execCbRel (x : USrc) (s : State) : Out :=
  issue s (readsU [x.a.toNat]) 4 x.s false fun c =>
    let obj := (c.g.readUni x.a.toNat).toNat
    asAtt c 32 obj fun _ =>
      let b := c.cb obj
      match b.outside c.t.window obj with
      | some item => cbTrap c obj item
      | none => if b.tail < b.cpos then .ok (cbSet c obj 24 (b.tail + 1) c.s) else cbTrap c obj 24

end Sys2Proof.Machine
end

