-- ==== Sys2Proof/Machine/Refuse.lean ====
section
/-! DEFINITION. How waits on faults end: waking (R345), refusal (R350), the deadline (R349), and the teardown of a
PASID (R340, R341); with the queue slots (R398 to R401) and window counters (R412) these touch. -/

namespace Sys2Proof.Machine

/-! ### Bit fields of wide words -/

/-- n bits of a wide word from bit `lo` up. -/
def bvGet {k : Nat} (v : BitVec k) (lo n : Nat) : Nat := bitsOf v.toNat lo n
/-- Replace n bits of a wide word from bit `lo` up. -/
def bvSet {k : Nat} (v : BitVec k) (lo n x : Nat) : BitVec k :=
  let m : BitVec k := BitVec.ofNat k (2 ^ n - 1) <<< lo
  (v &&& ~~~ m) ||| (BitVec.ofNat k (x % 2 ^ n) <<< lo)

/-! ### Queue slots (R398, R399) -/

/-- A slot after reset. -/
def QSlot.reset : QSlot :=
  { state := .idle, event := 0, qcb := 0, save := 0, emptySeen := false, preempting := false, poll := none, held := none
    failed := none }
/-- A slot. -/
def State.slot (s : State) (n : Nat) : QSlot := Sparse.get QSlot.reset s.queues.slots n
/-- Change a slot. -/
def State.adjSlot (s : State) (n : Nat) (f : QSlot → QSlot) : State :=
  { s with queues := { s.queues with slots := Sparse.set QSlot.reset s.queues.slots n (f (s.slot n)) } }
/-- PASID of a QCB (R399). -/
def qcbPasid (q : BitVec 1024) : Nat := bvGet q 204 20
/-- Interface of a QCB. -/
def qcbVif (q : BitVec 1024) : Nat := bvGet q 224 6
/-- Queue number of a QCB. -/
def qcbQueue (q : BitVec 1024) : Nat := bvGet q 230 10
/-- The number of a queue among all interfaces. -/
def qcbKey (q : BitVec 1024) : Nat := 1024 * qcbVif q + qcbQueue q
/-- Set QSTATE of a QCB. -/
def qcbState (q : BitVec 1024) (st : Nat) : BitVec 1024 := bvSet q 244 3 st
/-- Raise an event of a slot (R398). -/
def raiseSlot (s : State) (n ev : Nat) : State :=
  let s := s.adjSlot n fun q => { q with event := ev }
  { s with queues := { s.queues with slotEv := addOnce s.queues.slotEv n } }
/-- A packet error: the slot stops with EVENT 4 and QSTATE ERROR (R400). -/
def slotError (s : State) (n : Nat) : State :=
  raiseSlot (s.adjSlot n fun q => { q with state := .stopped, qcb := qcbState q.qcb 3, held := none, failed := none, poll := none }) n 4
/-- The page a slot holds for cannot be had: a packet error, or a reason to refuse its START (R293, R400). -/
def slotRefused (s : State) (n : Nat) : State :=
  match (s.slot n).held with
  | none => s
  | some 0 => slotError s n
  | some r => s.adjSlot n fun q => { q with held := none, failed := some r }
/-- A queue may run again: its bit in QSL_RMAP (R401). -/
def setRemap (s : State) (vif q : Nat) : State :=
  { s with queues := { s.queues with rmap := addOnce s.queues.rmap (1024 * vif + q) } }
/-- Drop the registration of a queue with the signal unit. -/
def dropReg (s : State) (vif q : Nat) : State :=
  { s with queues := { s.queues with regs := s.queues.regs.filter fun r => !(r.vif == vif && r.q == q) } }
/-- The page of a waiting signal cannot be had: QSTATE ERROR in the QCB at its save address, and REMAP (R401). -/
def signalFail (s : State) (vif q : Nat) : State :=
  match s.queues.regs.find? fun r => r.vif == vif && r.q == q with
  | none => s
  | some r =>
    let b := readByte s.mem (r.save + 30)
    let s := homeWrite s (r.save + 30) [BitVec.ofNat 8 (bvSet b 4 3 3).toNat]
    setRemap (dropReg s vif q) vif q
/-- A registration whose condition holds sets REMAP and goes (R401). -/
def evalSignal (s : State) (r : SigReg) : State :=
  match r.pa with
  | none => s
  | some pa =>
    let v : DWord := BitVec.ofNat 64 (leNat (homeBytes s pa 8))
    if condHolds r.cond v r.val then setRemap (dropReg s r.vif r.q) r.vif r.q else s
/-- The signal unit posts for a registered word whose page is not resident; with no room the post waits for its turn
(R346, R401). -/
def postSignal (s : State) (r : SigReg) (turn : Bool) : State :=
  let vpn := r.va / 65536
  let remote := match rangeLookup s r.pasid vpn with | some x => x.kind == 3 | none => false
  match postFault s r.pasid vpn 1 remote (chainBroken s r.pasid vpn) { qslot := some r.slot, turn } [.signal r.vif r.q] with
  | .done s => s
  | .full => s.adjFq (fqKey (homeOfPage s.build vpn) remote) fun q => { q with starved := addOnce q.starved (.signal r.vif r.q) }
/-- The page of a waiting signal is mapped: the registration finds its word and is evaluated (R401). -/
def signalMapped (s : State) (vif q : Nat) : State :=
  match s.queues.regs.find? fun r => r.vif == vif && r.q == q with
  | none => s
  | some r =>
    match translate s r.pasid r.va (.read 8) with
    | .at pa _ =>
      let r' := { r with pa := some pa }
      let s := { s with queues := { s.queues with
        regs := s.queues.regs.map fun x => if x.vif == vif && x.q == q then r' else x } }
      evalSignal s r'
    | .trap _ _ => signalFail s vif q
    | _ => s

/-! ### Windows (R408, R412) -/

/-- An import entry's key. -/
def impKey (vif n : Nat) : Nat := 512 * vif + n
/-- An export entry's key. -/
def expKey (vif n : Nat) : Nat := 512 * vif + 256 + n
/-- A window entry. -/
def State.win (s : State) (k : Nat) : BitVec 256 := Sparse.get 0 s.fabric.windows k
/-- Store a window entry. -/
def State.setWin (s : State) (k : Nat) (v : BitVec 256) : State :=
  { s with fabric := { s.fabric with windows := Sparse.set 0 s.fabric.windows k v } }
/-- The end of an operation at the initiator: ERR and ECAUSE on failure, then ICNT; a window atomic touches no counter
(R412). -/
def endFabOp (s : State) (o : FabOp) (cause : Cause) : State :=
  let gone := fun (s : State) => { s with fabric := { s.fabric with ops := s.fabric.ops.filter fun x => x.id ≠ o.id } }
  if o.atom.isSome then gone s
  else
  let k := impKey o.vif o.imp
  let v := s.win k
  let v := if cause = 0 then v else
    let v := bvSet v 215 1 1
    if bvGet v 216 8 = 0 then bvSet v 216 8 cause.toNat else v
  let v := bvSet v 224 32 (bvGet v 224 32 + 1)
  gone (s.setWin k v)
/-- A window request that waited is refused: the failure travels back (R409). An operation of this package that waited
for its local page ends with the cause (R242, R412). -/
def refuseWindow (s : State) (id : Nat) (cause : Cause) : State :=
  match s.fabric.waiting.find? fun w => w.id == id with
  | none =>
    let mark := fun (o : FabOp) => if o.id = id ∧ o.dropped = none then { o with dropped := some cause } else o
    { s with fabric := { s.fabric with ops := s.fabric.ops.map mark } }
  | some w =>
    let s := { s with fabric := { s.fabric with waiting := s.fabric.waiting.filter fun x => x.id ≠ id } }
    send s (.windowReply w.req.src w.req.tag cause [])

/-! ### Refusals and deadlines (R349, R350, R367) -/

/-- A group parked on a page takes a refusal precisely at the access it is parked on. -/
def refuseGroup (s : State) (r : GRef) (pasid vpn : Nat) (cause : Cause) : State :=
  match s.team r.team, s.group r with
  | some t, some g =>
    match g.park with
    | some (.fault p v va info) =>
      if p = pasid ∧ v = vpn then
        let pc := (g.lane (g.held.headD 0)).pc
        takeTrap s r { cause, addr := BitVec.ofNat 64 va, inst := wordAt s t r.grp pc, info, block := 0 } g.held []
      else s
    | _ => s
  | _, _ => s

/-- Entries a refusal takes out of a list: each group's first entry for the page and all its later ones. -/
def dropRefused (pasid vpn : Nat) : List (Nat × Nat) → List GutterEntry → List GutterEntry × List GutterEntry
  | _, [] => ([], [])
  | hit, e :: r =>
    if hit.contains (e.team, e.grp) then dropRefused pasid vpn hit r
    else if e.pend && e.pasid == pasid && e.e.va / 65536 == vpn then
      let (k, f) := dropRefused pasid vpn ((e.team, e.grp) :: hit) r
      (k, e :: f)
    else
      let (k, f) := dropRefused pasid vpn hit r
      (e :: k, f)

/-- KIND of %trapinfo for a store-queue entry (R191). -/
def SqEntry.infoKind (e : SqEntry) : Nat :=
  match e.kind with
  | .red => 3
  | .claim => 5
  | .att => 2
  | _ => 1
/-- The trap a refused store brings to its group, with the lowest byte address of all its lanes (R188, R350). -/
def entryTrap (s : State) (team grp pasid : Nat) (e : SqEntry) (unit : List SqEntry) (cause : Cause) (logseq : Nat)
    (pend : Bool) : TrapRec :=
  let slot := match s.team team with | some t => t.slot | none => 0
  let lanes := unit.filter fun x => x.va / 32 == e.va / 32
  { cause, addr := BitVec.ofNat 64 (lanes.foldl (fun a x => min a x.va) e.va), inst := e.inst
    info := infoGlobal e.infoKind e.lane 15
    block := gutterBits (if lanes.isEmpty then [e] else lanes) pasid grp slot logseq pend }

/-- The lanes of a list that share a logged entry with `e` (R351). -/
def GutterEntry.unit (e : GutterEntry) (l : List GutterEntry) : List SqEntry :=
  (l.filter fun x => x.team == e.team && x.grp == e.grp && x.logged == e.logged).map (·.e)
/-- The Gutter entries of a refused page are discarded with what follows them, and their groups take the cause at
their next boundary (R350); OUT_OF_FRAMES is always fatal (R367). -/
def refuseGutter (s : State) (pasid vpn : Nat) (cause : Cause) : State :=
  let firsts := (gutterLists s).flatMap fun l => (dropRefused pasid vpn [] l).2
  let keep := fun (l : List GutterEntry) => (dropRefused pasid vpn [] l).1
  let all := (gutterLists s).flatten
  let s := s.keepLogged keep
  firsts.foldl (fun s e =>
    if cause = cOutOfFrames then fatalEnd s e.team cause
    else
      takeImprecise s ⟨e.team, e.grp⟩
        (entryTrap s e.team e.grp e.pasid e.e (e.unit all) cause e.logged e.pend)) s

/-- Refuse every waiter of an entry, in order, and the Gutter entries of its page (R350). -/
def refuseEntry (s : State) (e : FEntry) (cause : Cause) : State :=
  let s := e.waiters.foldl (fun s w =>
    match w with
    | .group r _ => refuseGroup s r e.pasid e.vpn cause
    | .engine id _ => failCopy s id cause
    | .queue n _ _ _ => slotRefused s n
    | .signal v q => signalFail s v q
    | .window id _ _ _ => refuseWindow s id cause
    | .gutter _ _ _ _ => s
    | .discard _ _ => s) s
  refuseGutter s e.pasid e.vpn cause

/-- An entry passes its deadline: its teams end fatally, its copies end with ERROR, and it is dropped (R349). -/
def expireEntry (s : State) (e : FEntry) : State :=
  let cause : Cause := if e.declined = 0 then cTranslation else e.declined
  let firsts := (gutterLists s).flatMap fun l => (dropRefused e.pasid e.vpn [] l).2
  let s := e.waiters.foldl (fun s w =>
    match w with
    | .group r _ => fatalEnd s r.team cause
    | .engine id _ => failCopy s id cause
    | .queue n _ _ _ => slotRefused s n
    | .signal v q => signalFail s v q
    | .window id _ _ _ => refuseWindow s id cTranslation
    | .gutter _ _ _ _ => s
    | .discard _ _ => s) s
  firsts.foldl (fun s g => fatalEnd s g.team cause) s

/-- Wake one waiter of a page that is now mapped (R356, R383). -/
def wakeWaiter (s : State) (w : Waiter) : State :=
  match w with
  | .group r _ =>
    afterLanding (s.adjGroup r fun g => match g.park with
      | some (.fault _ _ _ _) => { g with park := none, needs := true }
      | _ => g) r
  | .engine id _ =>
    { s with copies := s.copies.map fun c => if c.id = id then { c with waiting := none } else c }
  | .queue n _ _ _ => s.adjSlot n fun q => { q with held := none }
  | .signal v q => signalMapped s v q
  | .window _ _ _ _ => s
  | .gutter _ _ _ _ => s
  | .discard _ _ => s

/-- FLT_DEADLINE of an interface in cycles: 0 acts as 1; reset value 0x001A_D275 (R349). -/
def faultDeadline (s : State) (vif : Nat) : Nat := 1024 * max 1 (Sparse.get 0x001AD275 s.faults.deadline vif).toNat

/-! ### Teardown (R340, R341) -/

/-- Operations of a PASID still outstanding (R340, R341): accesses, copies, window operations, and the fetches of its
pages that Headframe cores have in service (log 95). -/
def outstanding (s : State) (pasid : Nat) : Nat :=
  (s.faults.served.filter fun v => v.remote && v.entry.pasid == pasid).length
    + (s.cores.map fun kc => (kc.2.reqs.filter fun q => q.pasid == pasid).length).sum
    + (s.copies.filter fun c => c.pasid == pasid).length + (s.fabric.ops.filter fun o => o.pasid == pasid).length

/-- Whether what waits for a place in a fault queue waits on behalf of a PASID. -/
def Waiter.ofPasid (s : State) (pasid : Nat) : Waiter → Bool
  | .gutter _ p _ _ => p == pasid
  | .queue _ p _ _ => p == pasid
  | .window _ p _ _ => p == pasid
  | .signal v q => s.queues.regs.any fun r => r.vif == v && r.q == q && r.pasid == pasid
  | _ => false

/-- The step that starts a teardown: every team and instance of the PASID ends with PASID_GONE and DRAINING follows in
the same step; its slots stop with EVENT 5, its registered signals fail, its fault and Gutter entries go, its copies
end with ERROR, its window operations are dropped (R341, R366, R401, R412). A page fetched for an entry in service is
not installed (R385). -/
def teardown (s : State) (pasid : Nat) : State :=
  let s := { s with faults := { s.faults with
    queues := Sparse.mapKey FQueue.empty (fun _ (q : FQueue) => { q with starved := q.starved.filter fun w => !(w.ofPasid s pasid) })
      s.faults.queues } }
  let s := (s.teams.filter fun t => t.pasid == pasid).foldl (fun s t => fatalEnd s t.id cPasidGone) s
  let s := (s.insts.filter fun i => i.pasid == pasid).foldl (fun s i => abortInst s i.id 0 cPasidGone) s
  let s := (s.copies.filter fun c => c.pasid == pasid).foldl (fun s c => failCopy s c.id cPasidGone) s
  let mark := fun (o : FabOp) => if o.pasid = pasid ∧ o.dropped = none then { o with dropped := some cPasidGone } else o
  let s := setPasidState { s with fabric := { s.fabric with ops := s.fabric.ops.map mark } } pasid 2
  let s := (s.queues.regs.filter fun r => r.pasid == pasid).foldl (fun s r => signalFail s r.vif r.q) s
  let slots := (s.queues.slots.filter fun e => e.2.state ≠ .idle ∧ qcbPasid e.2.qcb = pasid).map (·.1)
  let s := slots.foldl (fun s n =>
    raiseSlot (s.adjSlot n fun q => { q with state := .stopped, held := none, failed := none, poll := none }) n 5) s
  let keepE := fun (l : List FEntry) => l.filter fun e => e.pasid ≠ pasid
  let keepG := fun (l : List GutterEntry) => l.filter fun e => e.pasid ≠ pasid
  let s := s.keepLogged keepG
  let fs := s.faults
  { s with
    faults := { fs with
      queues := Sparse.mapKey FQueue.empty (fun _ (q : FQueue) => { q with entries := keepE q.entries }) fs.queues
      served := fs.served.map fun v =>
        if v.entry.pasid = pasid then { v with entry := { v.entry with waiters := [] } } else v
      host := keepE fs.host, popped := keepE fs.popped } }

/-- PASIDs whose entry says ACTIVE, with their interface, among the table's written entries. -/
def activePasids (s : State) : List Nat :=
  let base := s.trn.ptBase.toNat
  let ps := s.mem.filterMap fun c => if base ≤ c.1 ∧ c.1 < base + 2 ^ 24 then some ((c.1 - base) / 16) else none
  (ps.eraseDups).filter fun p => (pasidEntry s p).state == 1

/-- Tear down every active PASID of an interface (R418, R419). -/
def teardownVif (s : State) (vif : Nat) : State :=
  ((activePasids s).filter fun p => (pasidEntry s p).vif == vif).foldl teardown s

/-- Whether any ERROR or fault state may still name a PASID; with none, DRAINING becomes DRAINED (R341). -/
def drainPasid (s : State) (pasid : Nat) : State :=
  if (pasidEntry s pasid).state = 2 ∧ outstanding s pasid = 0 then setPasidState s pasid 3 else s

end Sys2Proof.Machine
end

