-- ==== Sys2Proof/Machine/Device.lean ====
section
/-! DEFINITION. The register maps (R3, R7, R317, R318): map v is interface v's, 64 the host function's, which service
cores reach too, 65 the firmware's own writes of read-only registers. Reading and writing, with what a write starts. -/

namespace Sys2Proof.Machine

/-- The host function's map. -/
def hostMap : Nat := 64
/-- The low or high word of a 64-bit register. -/
def half (v : DWord) (hi : Bool) : Word := if hi then v.extractLsb' 32 32 else v.setWidth 32

/-! ### Harts and their registers (R371, R389) -/

/-- The service core with a role and a number. -/
def hartNo (s : State) (role num : Nat) : Option Nat := indexOf (fun h => h.role == role && h.num == num) s.harts
/-- The core of an HFR_XACK index (R389). -/
def xackHart (s : State) (k : Nat) : Option Nat :=
  if k < 8 then hartNo s 1 k else if k < 24 then hartNo s 0 (k - 8) else if k < 26 then hartNo s 3 (k - 24) else none
/-- Change a service core. -/
def State.adjHart (s : State) (h : Nat) (f : Hart → Hart) : State := { s with harts := adjAt f s.harts h }
/-- An HFR_XACK write: set bits written with 1 clear and free their credits (R389). -/
def xackWrite (s : State) (k : Nat) (v : DWord) : State :=
  match xackHart s k with
  | none => s
  | some h => s.adjHart h fun x => { x with xack := x.xack &&& ~~~ v, taken := x.taken &&& ~~~ (x.xack &&& v) }
/-- Whether a Headframe core holds no entry in service and no credit (R405). -/
def headframeIdle (s : State) (c : Nat) : Bool :=
  match hartNo s 1 c with
  | none => true
  | some h =>
    (match s.harts[h]? with | some x => x.taken == 0 | none => true) && s.faults.served.all fun v => v.hart != h

/-! ### Invalidation rings (R393) -/

/-- A ring after reset. -/
def Ring.reset : Ring := { base := 0, head := 0, tail := 0, count := 0, waiting := [] }
/-- A ring. -/
def State.ring (s : State) (c : Nat) : Ring := Sparse.get Ring.reset s.lode.rings c
/-- Change a ring. -/
def State.adjRing (s : State) (c : Nat) (f : Ring → Ring) : State :=
  { s with lode := { s.lode with rings := Sparse.set Ring.reset s.lode.rings c (f (s.ring c)) } }
/-- The 32 bytes of a ring entry. -/
def RingMsg.bits (m : RingMsg) : Nat :=
  m.vpn.toNat * 2 ^ 216 + m.space.toNat * 2 ^ 184 + m.req.toNat * 2 ^ 168 + m.version.toNat * 2 ^ 136
    + m.kind.toNat * 2 ^ 32 + m.tag.toNat
/-- Place a message in a ring; a full ring keeps it waiting. -/
def ringPush (s : State) (c : Nat) (m : RingMsg) : State :=
  let r := s.ring c
  if 256 ≤ r.count then s.adjRing c fun r => { r with waiting := r.waiting ++ [m] }
  else
    let s := homeWrite s (r.base.toNat + 32 * r.head) (leBytes 32 (RingMsg.bits m))
    s.adjRing c fun r => { r with head := (r.head + 1) % 256, count := r.count + 1 }
/-- An IRTAIL write: entries are consumed, and messages that wait for room enter in order. -/
def irTailWrite (s : State) (c v : Nat) : State :=
  let r := s.ring c
  let t := v % 256
  let used := (t + 256 - r.tail) % 256
  let s := s.adjRing c fun r => { r with tail := t, count := r.count - used, waiting := [] }
  r.waiting.foldl (fun s m => ringPush s c m) s

/-! ### Translation registers (R317, R326, R333, R340) -/

/-- A TRN_MODE write (R326). -/
def modeWrite (s : State) (v : Word) : State :=
  let s := if v.getLsbD 30 then { s with trn := { s.trn with refused := false } } else s
  let m := bvGet v 0 2
  if 2 ≤ m then s
  else
    let normal := m == 1
    if normal = s.trn.normal then s
    else if s.teams.any (fun t => t.place != .ended && t.place != .saved)
        || !s.faults.host.isEmpty || s.faults.queues.any fun q => !q.2.entries.isEmpty then
      { s with trn := { s.trn with refused := true } }
    else { s with trn := { s.trn with normal, busy := true } }

/-- TRN_INVA of a map. -/
def State.inva (s : State) (map : Nat) : DWord := Sparse.get 0 s.trn.inva map
/-- Store TRN_INVA of a map. -/
def State.setInva (s : State) (map : Nat) (v : DWord) : State :=
  { s with trn := { s.trn with inva := Sparse.set 0 s.trn.inva map v } }
/-- WHAT of a TRN_INVA value. -/
def invWhat (v : DWord) : Nat := bvGet v 30 2
/-- A TRN_INVA write: ignored while BUSY, and in an interface's map for WHAT = 3 or another interface's PASID
(R317, R333). -/
def invWrite (s : State) (map : Nat) (v : DWord) : State :=
  let pasid := bvGet v 32 20
  if (s.inva map).getLsbD 63 then s
  else if map < 64 ∧ (invWhat v = 3 ∨ (pasidEntry s pasid).vif ≠ map) then s
  else
    let s := { s with trn := { s.trn with started := Sparse.set 0 s.trn.started map (Sparse.get 0 s.trn.invb map) } }
    s.setInva map (BitVec.ofNat 64 (2 ^ 63 + pasid * 2 ^ 32 + invWhat v * 2 ^ 30 + bvGet v 0 20))
/-- Whether a page of a PASID is among what a request covers (R333); TRN_INVB counts as it was when the request
started. -/
def invPage (s : State) (map pasid vpn : Nat) : Bool :=
  let v := s.inva map
  let first := bvGet (Sparse.get 0 s.trn.started map) 16 40
  match invWhat v with
  | 0 => pasid == bvGet v 32 20 && decide (first ≤ vpn) && decide (vpn < first + bvGet v 0 20)
  | 3 => true
  | _ => pasid == bvGet v 32 20
/-- Whether an access on its way to its home translated through what a request covers (R333). -/
def invCovers (s : State) (map : Nat) (q : HomeReq) : Bool := invPage s map q.pasid (q.e.va / 65536)

/-- A teardown register. -/
def State.td (s : State) (map n : Nat) : Td := Sparse.get { pasid := 0, state := 0 } s.trn.td (4 * map + n)
/-- Store a teardown register. -/
def State.setTd (s : State) (map n : Nat) (t : Td) : State :=
  { s with trn := { s.trn with td := Sparse.set { pasid := 0, state := 0 } s.trn.td (4 * map + n) t } }
/-- A TRN_TDn write (R340). -/
def tdWrite (s : State) (map n : Nat) (v : DWord) : State :=
  let p := bvGet v 0 20
  let e := pasidEntry s p
  if (s.td map n).state = 1 ∨ e.state ≠ 1 ∨ (map < 64 ∧ e.vif ≠ map) then s
  else teardown (s.setTd map n { pasid := p, state := 1 }) p

/-! ### Slot tables, windows, interfaces, queues -/

/-- The slot table of a core in force at a cycle: a write binds from the next boundary on (R286). -/
def Core.table (c : Core) (clock : Nat) : Sparse Word := if c.slotWrote / 4096 < clock / 4096 then c.slotsNext else c.slots
/-- An SLT_ENTRY write; only the host function's map takes it (R286). -/
def sltWrite (s : State) (map core n : Nat) (v : Word) : State :=
  if map = hostMap then
    s.adjCore core fun c => { c with
      slots := c.table s.clock, slotsNext := Sparse.set 0 c.slotsNext n (v &&& 0xC000003F), slotWrote := s.clock }
  else s
/-- An SLT_ENTRY read (R286). -/
def sltRead (s : State) (map core n : Nat) : Word :=
  let v := Sparse.get 0 (s.core core).slotsNext n
  if map = hostMap then v
  else (v &&& 0xC0000000) ||| (if v.getLsbD 31 && bvGet v 0 6 == map then 0x20000000 else 0)

/-- Writable bits of a word of an import or export entry (R408). -/
def winMask (imp : Bool) (w : Nat) : Word :=
  if imp then
    match w with
    | 0 => 1 | 3 => 0xFFFFC000 | 4 => 0xFFFFFF00 | 5 => 0xFFFFF000 | _ => 0
  else
    match w with
    | 0 => 7 | 1 => 0xFFFFFF00 | 2 => 0xFFFFFFFF | 3 => 0xFFFFFFFF | 4 => 0xFFFF0000 | 5 => 0xFFFFF000 | _ => 0
/-- A write of one word of a window entry, in its interface's own map (R408). -/
def winWrite (s : State) (vif : Nat) (imp : Bool) (n w : Nat) (v : Word) : State :=
  let k := if imp then impKey vif n else expKey vif n
  let old := s.win k
  let m := winMask imp w
  let word : Word := BitVec.ofNat 32 (bvGet old (32 * w) 32)
  let new := bvSet old (32 * w) 32 ((word &&& ~~~ m) ||| (v &&& m)).toNat
  let new := if w = 0 ∧ v.getLsbD 0 then
      let x := bvSet new 224 32 0
      if imp then bvSet x 215 9 0 else x
    else new
  s.setWin k new

/-- A VIF_CFG write: ENABLE always, the other fields only while ENABLE is 0; clearing ENABLE tears down the
interface (R418). -/
def vifWrite (s : State) (vif : Nat) (v : DWord) : State :=
  let old := Sparse.get 0 s.vifs vif
  if old.getLsbD 63 then
    if v.getLsbD 63 then s
    else teardownVif { s with vifs := Sparse.set 0 s.vifs vif (old &&& 0x7FFFFFFFFFFFFFFF) } vif
  else { s with vifs := Sparse.set 0 s.vifs vif (v &&& 0xC000FF00FFFFFFFF) }

/-- A notify write of one word; a slot that holds the queue takes it as WPTR (R398, R399). -/
def notifyWord (s : State) (vif q : Nat) (v : Word) : State :=
  let k := 1024 * vif + q
  let held := (s.queues.slots.filter fun e => e.2.state ≠ .idle ∧ qcbKey e.2.qcb = k).map (·.1)
  let s := held.foldl (fun s n => s.adjSlot n fun x => { x with qcb := bvSet x.qcb 288 32 v.toNat }) s
  { s with queues := { s.queues with notify := Sparse.set none s.queues.notify k (some v), agg := addOnce s.queues.agg k } }

/-! ### The host fault queue (R348, R344) -/

/-- The 256 bits of a fault entry (R342). -/
def FEntry.bits (e : FEntry) : Nat :=
  e.vpn * 2 ^ 216 + e.pasid * 2 ^ 196 + e.vif * 2 ^ 190 + e.needs.toNat * 2 ^ 184 + e.chain.toNat * 2 ^ 183
    + e.stage * 2 ^ 181 + e.tries * 2 ^ 179 + e.signal.toNat * 2 ^ 178 + e.engine.toNat * 2 ^ 177
    + e.merges * 2 ^ 160 + e.time % 2 ^ 32 * 2 ^ 128 + e.core * 2 ^ 120 + e.engno * 2 ^ 114 + e.qslot * 2 ^ 96
    + e.time / 2 ^ 32 % 2 ^ 32 * 2 ^ 32 + e.seq

/-- Arm the next pop. -/
def armWrite (s : State) (v : Word) : State :=
  if v.getLsbD 0 then { s with faults := { s.faults with arm := true } } else s
/-- A read of FQH_POP0: with ARM it pops the oldest entry into the latch (R348). -/
def popRead (s : State) : State :=
  if s.faults.arm then
    let fs := s.faults
    match fs.host with
    | [] => { s with faults := { fs with arm := false, latch := 0 } }
    | e :: r =>
      { s with faults := { fs with arm := false, latch := BitVec.ofNat 256 e.bits, host := r, popped := fs.popped ++ [e] } }
  else s

/-- The entry a host answer names, among those it holds. -/
def hostEntry (s : State) (seq : Word) : Option FEntry :=
  (s.faults.popped ++ s.faults.host).find? fun e => BitVec.ofNat 32 e.seq == seq
/-- Take an entry out of the host's hands. -/
def dropHost (s : State) (seq : Nat) : State :=
  { s with faults := { s.faults with
    popped := s.faults.popped.filter fun e => e.seq ≠ seq
    host := s.faults.host.filter fun e => e.seq ≠ seq } }

/-- An entry comes back from the host: it merges into one for its page, or goes to the tail of its home's local
queue with STAGE 2 (R344). -/
def returnEntry (s : State) (e : FEntry) : State :=
  let c := homeOfPage s.build e.vpn
  let join := fun (x : FEntry) =>
    if x.isFor e.pasid e.vpn then
      { x with needs := mergeNeed x.needs e.needs, merges := min (x.merges + e.merges + 1) 0xFFFF
               waiters := x.waiters ++ e.waiters, time := min x.time e.time, engine := x.engine || e.engine
               engno := if x.engine then x.engno else e.engno }
    else x
  let here := fun (k : Nat) => (s.fq k).entries.any fun x => x.isFor e.pasid e.vpn
  let kl := fqKey c false
  let kr := fqKey c true
  if here kl then s.adjFq kl fun q => { q with entries := q.entries.map join }
  else if here kr then s.adjFq kr fun q => { q with entries := q.entries.map join }
  else if s.faults.served.any fun v => v.chiplet == c && v.entry.isFor e.pasid e.vpn then
    let f := fun (v : Served) => if v.chiplet = c then { v with entry := join v.entry } else v
    { s with faults := { s.faults with served := s.faults.served.map f } }
  else s.adjFq kl fun q =>
    { q with entries := q.entries ++ [{ e with stage := 2, seq := q.seq }], seq := (q.seq + 1) % 2 ^ 32 }

/-- The cause a host refusal carries (R348). -/
def hostCause (low : Word) : Cause :=
  let c : Cause := low.setWidth 8
  if c = cTranslation ∨ c = cOutOfFrames ∨ c = cRemoteDeclined then c else cRemoteDeclined
/-- FQH_DONE with a SEQ and a low word (R348, R350). -/
def hostDone (s : State) (seq low : Word) : State :=
  match hostEntry s seq with
  | none => s
  | some e =>
    let s := dropHost s e.seq
    if low.getLsbD 31 then refuseEntry s e (hostCause low) else returnEntry s e

/-! ### Reading (R7, R318, R347) -/

/-- A word of a bit vector that lists its set bits. -/
def listWord (l : List Nat) (base : Nat) : Word :=
  (List.range 32).foldl (fun w i => if l.contains (base + i) then w ||| (1 <<< i) else w) 0
/-- One bit for each interface with an entry in a list of queues. -/
def summary (l : List Nat) : DWord :=
  (List.range 64).foldl (fun w v => if l.any fun k => k / 1024 == v then w ||| (1 <<< v) else w) 0
/-- STATE of a slot (R398). -/
def SlotState.code : SlotState → Nat
  | .idle => 0 | .loaded => 1 | .running => 2 | .stopping => 3 | .stopped => 4
/-- QSL_MAP of a slot (R398). -/
def slotMap (q : QSlot) : DWord :=
  BitVec.ofNat 64 (qcbQueue q.qcb * 2 ^ 42 + qcbVif q.qcb * 2 ^ 36 + qcbPasid q.qcb * 2 ^ 16 + q.event * 2 ^ 8
    + q.state.code)
/-- DID_IDENT (R3). -/
def identWord (b : Build) : Word :=
  let p : Nat := match b with | .kg9P => 1 | .kg9P4 => 2 | .kg9M => 3 | .kg9M4 => 4
  BitVec.ofNat 32 (0x1E7A * 2 ^ 16 + p * 2 ^ 12 + (if hasReticle b then 2 else 1) * 2 ^ 8 + 0x10)
/-- A register of a fault queue (R347). -/
def fqRead (s : State) (k o : Nat) : Word :=
  let q := s.fq k
  let n := q.entries.length
  match o with
  | 0 => BitVec.ofNat 32 (q.head % 1024)
  | 4 => BitVec.ofNat 32 ((q.head + n) % 1024)
  | 8 => BitVec.ofNat 32 n
  | 12 => (if s.lode.hold then 4 else 0) ||| (if q.starved.isEmpty then 0 else 2)
  | _ => 0

/-- Registers of the host function's map that an interface's map does not show. -/
def hostWord (s : State) (o : Nat) : Word :=
  let hi := o % 8 == 4
  if o = 0x20000 then (if s.trn.busy then 0x80000000 else 0) ||| (if s.trn.normal then 1 else 0) ||| (if s.trn.refused then 0x40000000 else 0)
  else if o = 0x20008 ∨ o = 0x2000C then half s.trn.ptBase hi
  else if 0x50000 ≤ o ∧ o < 0x50000 + 0x400 * chipletsOf s.build then fqRead s ((o - 0x50000) / 0x200) (o % 0x200)
  else if o = 0x54000 then BitVec.ofNat 32 s.faults.host.length
  else if 0x55000 ≤ o ∧ o < 0x55020 then BitVec.ofNat 32 (bvGet s.faults.latch (8 * (o - 0x55000)) 32)
  else if 0x58000 ≤ o ∧ o < 0x58000 + 0x10 * chipletsOf s.build then
    let c := (o - 0x58000) / 0x10
    if o % 16 < 8 then half (Sparse.get 0 s.faults.gspBase c) hi
    else if o % 16 = 8 then Sparse.get 0 s.faults.gspSize c else 0
  else if 0x5F000 ≤ o ∧ o < 0x5F100 then Sparse.get 0x001AD275 s.faults.deadline ((o - 0x5F000) / 4)
  else if o = 0x68000 ∨ o = 0x68004 then half (summary s.queues.agg) hi
  else if 0x68100 ≤ o ∧ o < 0x6A100 then listWord s.queues.agg (8 * (o - 0x68100))
  else if o = 0x6A400 ∨ o = 0x6A404 then half (summary s.queues.rmap) hi
  else if 0x6A410 ≤ o ∧ o < 0x6A420 then listWord s.queues.slotEv (8 * (o - 0x6A410))
  else if 0x6B000 ≤ o ∧ o < 0x6B400 then half (slotMap (s.slot ((o - 0x6B000) / 8))) hi
  else if 0x6C000 ≤ o ∧ o < 0x6E000 then listWord s.queues.rmap (8 * (o - 0x6C000))
  else if o = 0x70000 then (if s.lode.hold then 1 else 0)
  else if o = 0x70004 then
    let idle := (List.range (chipletsOf s.build)).filter (headframeIdle s)
    let w : Word := idle.foldl (fun w c => w ||| (2 <<< c)) 0
    if s.lode.hold && idle.length == chipletsOf s.build then w ||| 1 else w
  else if 0x70010 ≤ o ∧ o < 0x70010 + 8 * 26 then
    match xackHart s ((o - 0x70010) / 8) with
    | some h => (match s.harts[h]? with | some x => half x.xack hi | none => 0)
    | none => 0
  else if 0x70100 ≤ o ∧ o < 0x70100 + 0x10 * chipletsOf s.build then
    let r := s.ring ((o - 0x70100) / 0x10)
    if o % 16 < 8 then half r.base hi else BitVec.ofNat 32 (if o % 16 = 8 then r.head else r.tail)
  else if o = 0x70200 ∨ o = 0x70204 then half s.lode.spBase hi
  else if o = 0x70208 then s.lode.spCount.setWidth 32
  else if 0x90000 ≤ o ∧ o < 0x90200 then half (Sparse.get 0 s.vifs ((o - 0x90000) / 8)) hi
  else if o = 0xB0000 then s.mgt.boot
  else 0

/-- Registers only an interface's own map shows. -/
def vifWord (s : State) (map o : Nat) : Word :=
  if o = 0x5F000 then Sparse.get 0x001AD275 s.faults.deadline map
  else if 0x60000 ≤ o ∧ o < 0x61000 then (Sparse.get none s.queues.notify (1024 * map + (o - 0x60000) / 4)).getD 0
  else if 0x80000 ≤ o ∧ o < 0x82000 then
    BitVec.ofNat 32 (bvGet (s.win (impKey map ((o - 0x80000) / 32))) (8 * (o % 32)) 32)
  else if 0x82000 ≤ o ∧ o < 0x84000 then
    BitVec.ofNat 32 (bvGet (s.win (expKey map ((o - 0x82000) / 32))) (8 * (o % 32)) 32)
  else 0

/-- One aligned 32-bit word of a map; an offset with no register reads as zero. -/
def regWord (s : State) (map o : Nat) : Word :=
  let hi := o % 8 == 4
  if o = 0 then identWord s.build
  else if o = 0x20010 ∨ o = 0x20014 then half (s.inva map) hi
  else if o = 0x20018 ∨ o = 0x2001C then half (Sparse.get 0 s.trn.invb map) hi
  else if 0x20040 ≤ o ∧ o < 0x20060 then
    let t := s.td map ((o - 0x20040) / 8)
    if hi then BitVec.ofNat 32 (if t.state = 1 then outstanding s t.pasid else 0)
    else BitVec.ofNat 32 (t.state * 2 ^ 30 + t.pasid)
  else if 0x30000 ≤ o ∧ o < 0x30000 + 0x40 * 32 * chipletsOf s.build then
    sltRead s map ((o - 0x30000) / 0x40) (o % 0x40 / 4)
  else if 0x40000 ≤ o ∧ o < 0x44000 then
    let base := 16 * ((o - 0x40000) / 4)
    (List.range 16).foldl (fun w i => w ||| (BitVec.ofNat 32 (s.region (base + i)).state <<< (2 * i))) 0
  else if o = 0xA0000 then s.fabric.nodeId.setWidth 32
  else if map = hostMap then hostWord s o
  else vifWord s map o

/-- A 32-bit or 64-bit read (log 46). -/
def regRead (s : State) (map o : Nat) (wide : Bool) : DWord :=
  if wide then regWord s map (o + 4) ++ regWord s map o else (regWord s map o).setWidth 64

/-! ### Writing -/

/-- 64-bit registers of a map. -/
def isReg64 (s : State) (map o : Nat) : Bool :=
  o == 0x20010 || o == 0x20018 || (decide (0x20040 ≤ o) && decide (o < 0x20060))
    || (map == hostMap && (o == 0x20008 || (decide (0x58000 ≤ o) && decide (o < 0x58000 + 0x10 * chipletsOf s.build) && o % 16 == 0)
      || (decide (0x70010 ≤ o) && decide (o < 0x70010 + 8 * 26))
      || (decide (0x70100 ≤ o) && decide (o < 0x70100 + 0x10 * chipletsOf s.build) && o % 16 == 0)
      || o == 0x70200 || (decide (0x90000 ≤ o) && decide (o < 0x90200)) || o == 0x54008))

/-- A whole write of a 64-bit register. -/
def write64 (s : State) (map o : Nat) (v : DWord) : State :=
  if o = 0x20010 then invWrite s map v
  else if o = 0x20018 then
    { s with trn := { s.trn with invb := Sparse.set 0 s.trn.invb map (v &&& 0x00FFFFFFFFFF0000) } }
  else if 0x20040 ≤ o ∧ o < 0x20060 then tdWrite s map ((o - 0x20040) / 8) v
  else if map ≠ hostMap then s
  else if o = 0x20008 then { s with trn := { s.trn with ptBase := v &&& 0x000FFFFFFFFFF000 } }
  else if o = 0x54008 then hostDone s (v.extractLsb' 32 32) (v.setWidth 32)
  else if 0x58000 ≤ o ∧ o < 0x58100 then
    { s with faults := { s.faults with
      gspBase := Sparse.set 0 s.faults.gspBase ((o - 0x58000) / 0x10) (v &&& 0xFFFFFFFFFFFFF000) } }
  else if 0x70010 ≤ o ∧ o < 0x700E0 then xackWrite s ((o - 0x70010) / 8) v
  else if 0x70100 ≤ o ∧ o < 0x70180 then s.adjRing ((o - 0x70100) / 0x10) fun r => { r with base := v &&& 0xFFFFFFFFFFFFE000 }
  else if o = 0x70200 then { s with lode := { s.lode with spBase := v &&& 0xFFFFFFFFFFFFF000 } }
  else if 0x90000 ≤ o ∧ o < 0x90200 then vifWrite s ((o - 0x90000) / 8) v
  else s

/-- A 32-bit write that reaches half of a 64-bit register: the other half keeps its value; FQH_DONE latches its low
word and acts on its high word (R348), and a write-1-to-clear half acts alone. -/
def writeHalf (s : State) (map o : Nat) (v : Word) : State :=
  let b := o / 8 * 8
  let hi := o % 8 == 4
  if b = 0x54008 then
    if o = 0x5400C then hostDone s v s.faults.doneLow
    else if o = 0x54008 then { s with faults := { s.faults with doneLow := v } }
    else s
  else if 0x70010 ≤ b ∧ b < 0x700E0 then write64 s map b (if hi then v ++ 0#32 else v.setWidth 64)
  else if 0x20040 ≤ b ∧ b < 0x20060 ∧ hi then s
  else
    let old := regRead s map b true
    write64 s map b (if hi then v ++ old.setWidth 32 else old.extractLsb' 32 32 ++ v)

/-- Clear the listed bits that a write-1-to-clear word names. -/
def clearListed (l : List Nat) (base : Nat) (v : Word) : List Nat :=
  l.filter fun k => !(decide (base ≤ k) && decide (k < base + 32) && v.getLsbD (k - base))

/-- A 32-bit write of a 32-bit register. -/
def write32 (s : State) (map o : Nat) (v : Word) : State :=
  if 0x30000 ≤ o ∧ o < 0x30000 + 0x40 * 32 * chipletsOf s.build then sltWrite s map ((o - 0x30000) / 0x40) (o % 0x40 / 4) v
  else if map = 65 ∧ o = 0xA0000 then { s with fabric := { s.fabric with nodeId := v.setWidth 16 } }
  else if map < 64 then
    if 0x60000 ≤ o ∧ o < 0x61000 then notifyWord s map ((o - 0x60000) / 4) v
    else if 0x80000 ≤ o ∧ o < 0x82000 then winWrite s map true ((o - 0x80000) / 32) (o % 32 / 4) v
    else if 0x82000 ≤ o ∧ o < 0x84000 then winWrite s map false ((o - 0x82000) / 32) (o % 32 / 4) v
    else s
  else if map ≠ hostMap then s
  else if o = 0x20000 then modeWrite s v
  else if o = 0x54004 then armWrite s v
  else if 0x58000 ≤ o ∧ o < 0x58100 ∧ o % 16 = 8 then
    { s with faults := { s.faults with gspSize := Sparse.set 0 s.faults.gspSize ((o - 0x58000) / 0x10) v } }
  else if 0x5F000 ≤ o ∧ o < 0x5F100 then
    { s with faults := { s.faults with deadline := Sparse.set 0x001AD275 s.faults.deadline ((o - 0x5F000) / 4) v } }
  else if 0x68100 ≤ o ∧ o < 0x6A100 then
    { s with queues := { s.queues with agg := clearListed s.queues.agg (8 * (o - 0x68100)) v } }
  else if 0x6A410 ≤ o ∧ o < 0x6A420 then
    { s with queues := { s.queues with slotEv := clearListed s.queues.slotEv (8 * (o - 0x6A410)) v } }
  else if 0x6C000 ≤ o ∧ o < 0x6E000 then
    { s with queues := { s.queues with rmap := clearListed s.queues.rmap (8 * (o - 0x6C000)) v } }
  else if o = 0x70000 then { s with lode := { s.lode with hold := v.getLsbD 0 } }
  else if 0x70100 ≤ o ∧ o < 0x70180 ∧ o % 16 = 12 then irTailWrite s ((o - 0x70100) / 0x10) v.toNat
  else if o = 0x70208 then { s with lode := { s.lode with spCount := v.setWidth 17 } }
  else s

/-- One aligned 32-bit write. -/
def writeWord (s : State) (map o : Nat) (v : Word) : State :=
  if isReg64 s map (o / 8 * 8) then writeHalf s map o v else write32 s map o v

/-- A 32-bit or 64-bit write of a register map (R7); one that is not aligned leaves FQH_DONE alone (R348). -/
def regWrite (s : State) (map o : Nat) (wide : Bool) (v : DWord) : State :=
  if wide then
    if isReg64 s map o then write64 s map o v
    else
      let part := fun (s : State) (o : Nat) (v : Word) => if o / 8 * 8 = 0x54008 then s else writeWord s map o v
      part (part s o (v.setWidth 32)) (o + 4) (v.extractLsb' 32 32)
  else writeWord s map o (v.setWidth 32)

/-! ### The register writes of the opcode table -/

/-- TRN_MODE (R326). -/
def execTrnModeWrite (v : Word) (s : State) : Out := .next (modeWrite s v)
/-- TRN_INVA with WHAT 0 (R333). -/
def execTrnInvPages (x : InvReq) (s : State) : Out := .next (if invWhat x.v = 0 then invWrite s x.map x.v else s)
/-- TRN_INVA with WHAT 1 (R333). -/
def execTrnInvPasidPages (x : InvReq) (s : State) : Out := .next (if invWhat x.v = 1 then invWrite s x.map x.v else s)
/-- TRN_INVA with WHAT 2 (R336). -/
def execTrnInvPasidAll (x : InvReq) (s : State) : Out := .next (if invWhat x.v = 2 then invWrite s x.map x.v else s)
/-- TRN_INVA with WHAT 3 (R333). -/
def execTrnInvAll (x : InvReq) (s : State) : Out := .next (if invWhat x.v = 3 then invWrite s x.map x.v else s)
/-- TRN_TDn (R340, R341). -/
def execTeardownStart (x : TdWrite) (s : State) : Out := .next (tdWrite s x.map x.n x.v)
/-- COUNT reaches zero (R341); a PASID torn down without a register of its own drains with it. -/
def execTeardownDrained (x : TdRef) (s : State) : Out :=
  let ps := s.mem.filterMap fun c =>
    if s.trn.ptBase.toNat ≤ c.1 ∧ c.1 < s.trn.ptBase.toNat + 2 ^ 24 then some ((c.1 - s.trn.ptBase.toNat) / 16) else none
  let t := s.td x.map x.n
  let s := ps.eraseDups.foldl drainPasid s
  .next (if t.state = 1 ∧ outstanding s t.pasid = 0 then s.setTd x.map x.n { t with state := 2 } else s)
/-- SLT_ENTRY (R286). -/
def execSltEntryWrite (x : SltWrite) (s : State) : Out := .next (sltWrite s x.map x.core x.n x.v)
/-- WIN_IMP and WIN_EXP (R408). -/
def execWindowEntryWrite (x : WinWrite) (s : State) : Out := .next (winWrite s x.vif x.imp x.n x.word x.v)
/-- VIF_CFG; only the host function's map has it (R418). -/
def execVifCfgWrite (x : VifWrite) (s : State) : Out := .next (if x.map = hostMap then vifWrite s x.vif x.v else s)
/-- HFR_CTL (R405). -/
def execHfrHoldWrite (v : Word) (s : State) : Out := .next { s with lode := { s.lode with hold := v.getLsbD 0 } }
/-- HFR_XACK (R389). -/
def execHfrXackWrite (x : XackWrite) (s : State) : Out := .next (xackWrite s x.k x.v)
/-- HFR_IRTAIL (R393). -/
def execHfrIrtailWrite (x : IrWrite) (s : State) : Out := .next (irTailWrite s x.chiplet x.v.toNat)
/-- Any other device register write, and a write of any width through a map (R7). -/
def execRegisterWrite (x : RegWrite) (s : State) : Out := .next (regWrite s x.map x.off x.wide x.v)
/-- A notify write (R398). -/
def execNotifyWrite (x : NotifyW) (s : State) : Out := .next (notifyWord s x.vif x.q x.v)
/-- FQH_ARM (R348). -/
def execFqhArmWrite (v : Word) (s : State) : Out := .next (armWrite s v)
/-- A read of FQH_POP0; the value is word 0 of the latch (R348). -/
def execFqhPopRead (s : State) : Out :=
  let s := popRead s
  .next (send s (.register (BitVec.ofNat 64 (bvGet s.faults.latch 0 32))))
/-- The low word of FQH_DONE is latched (R348). -/
def execFqhDoneLowWrite (v : Word) (s : State) : Out := .next { s with faults := { s.faults with doneLow := v } }
/-- The SEQ and low word of a write that completes FQH_DONE. -/
def fqhParts (s : State) : FqhWrite → Word × Word
  | .full v => (v.extractLsb' 32 32, v.setWidth 32)
  | .high seq => (seq, s.faults.doneLow)
/-- FQH_DONE with REFUSE = 1 (R350). -/
def execFqhRefuse (x : FqhWrite) (s : State) : Out :=
  .next (if (fqhParts s x).2.getLsbD 31 then hostDone s (fqhParts s x).1 (fqhParts s x).2 else s)
/-- FQH_DONE with REFUSE = 0 (R344). -/
def execFqhReturn (x : FqhWrite) (s : State) : Out :=
  .next (if (fqhParts s x).2.getLsbD 31 then s else hostDone s (fqhParts s x).1 (fqhParts s x).2)
/-- A slot boundary of a core: the slot table as last written before it takes effect (R286). -/
def execSlotBoundary (core : Nat) (s : State) : Out :=
  .next (s.adjCore core fun c => { c with slots := c.table s.clock })

end Sys2Proof.Machine
end

