-- ==== Sys2Proof/Machine/GlobalMem.lean ====
section
/-! DEFINITION. Global memory as groups use it: the checks of R190, residence, what a load sees (R193 to R196, R211,
R353), stores entering the queue, atomics (R197 to R201), WAITA and WAKEA (R202 to R205), the page operations (R206
to R209) and FENCE (R221 to R224). -/

namespace Sys2Proof.Machine

/-! ### Checks and residence (R190, R191) -/

/-- One lane's access: lane, address, bytes and use. -/
structure Acc where
  lane : Nat
  va : Nat
  n : Nat
  use : Use
  deriving DecidableEq, Repr

/-- The first check of R190 an access fails: cause and CODE. -/
def accFault (s : State) (pasid : Nat) (a : Acc) : Option (Cause × Nat) :=
  if a.va % a.n ≠ 0 then some (cMisalign, 7)
  else match translate s pasid a.va a.use with | .trap c code => some (c, code) | _ => none

/-- The first access of a list that fails a test, and how. -/
def firstAcc (f : Acc → Option (Cause × Nat)) : List Acc → Option (Acc × Cause × Nat)
  | [] => none
  | a :: r => match f a with | some (c, code) => some (a, c, code) | none => firstAcc f r

/-- An access with the place it leads to. -/
abbrev Placed := Acc × Tr

/-- The first access whose page is not resident: address, NEED, queue and chain. -/
def firstMiss : List Placed → Option (Acc × BitVec 6 × Bool × Bool)
  | [] => none
  | (a, .miss need remote chain) :: r => let _ := r; some (a, need, remote, chain)
  | _ :: r => firstMiss r
/-- The physical address of a placed access, where it has one. -/
def Placed.pa (p : Placed) : Option Nat := match p.2 with | .at pa _ => some pa | _ => none
/-- Whether a placed access of a core must wait for replays of its page, for a copy engine, or at its home behind a
write that waits for acknowledgements, which a line in the L1 does not ask (R227, R229, R234). -/
def Placed.waits (s : State) (core pasid : Nat) (p : Placed) : Bool :=
  match p.2 with
  | .at pa _ =>
    pageWaits s pasid (p.1.va / 65536) || s.engineOwned pa ||
      (lineBusy s (pa / 128) && !((s.core core).l1.any fun l => l.line == pa / 128))
  | _ => false
/-- The first placed access on a HOSTSHARED region the accelerator does not own. -/
def firstHost (s : State) : List Placed → Option Nat
  | [] => none
  | (_, .at pa _) :: r => if regionReady s pa then firstHost s r else some pa
  | _ :: r => firstHost s r

/-- Park on a HOSTSHARED region, keeping the time since which the access waits (R339). -/
def hostPark (s0 : State) (s : State) (pa : Nat) : Res :=
  let q := regionOf pa
  let since := match s0.parkNow with | some (.hostWait q' n) => if q' = q then n else s.clock | _ => s.clock
  .park (.hostWait q since) (wantRegion s pa)

/-- The accesses of an instruction: the checks of R190 for every lane in its order, then residence; `k` goes on once
every access is placed and nothing stands before it. `s0` is the state before the issue. -/
def withAccess (s0 : State) (c : Ctx) (kind : Nat) (fault : Acc → Option (Cause × Nat)) (accs : List Acc)
    (k : List Placed → Res) : Res :=
  match firstAcc fault accs with
  | some (a, cause, code) => .trap (c.mkTrap cause (BitVec.ofNat 64 a.va) (infoGlobal kind a.lane code))
  | none =>
    if acquirePending c.s c.t.core c.r c.g then .park .recall c.s
    else
      let ps : List Placed := accs.map fun a => (a, place c.s c.t.pasid a.va a.use)
      match firstMiss ps with
      | some (a, need, remote, chain) =>
        let p := parkOnFault c.s c.r c.t.core c.t.pasid (a.va / 65536) a.va need remote chain (infoGlobal kind a.lane 15)
        .park p.1 p.2
      | none =>
        match firstHost c.s ps with
        | some pa => hostPark s0 c.s pa
        | none => if ps.any (Placed.waits c.s c.t.core c.t.pasid) then .park .recall c.s else k ps

/-- The accesses of a store: only the checks; residence is decided when the entry leaves the queue (R190, R352). -/
def withStore (c : Ctx) (kind : Nat) (fault : Acc → Option (Cause × Nat)) (accs : List Acc) (k : Unit → Res) : Res :=
  match firstAcc fault accs with
  | some (a, cause, code) => .trap (c.mkTrap cause (BitVec.ofNat 64 a.va) (infoGlobal kind a.lane code))
  | none => if acquirePending c.s c.t.core c.r c.g then .park .recall c.s else k ()

/-! ### What a load sees -/

/-- A group's own Gutter entries, oldest first. -/
def ownLogged (s : State) (core : Nat) (r : GRef) : List GutterEntry :=
  (s.core core).gutter.filter fun e => e.team == r.team && e.grp == r.grp
/-- What they would store, oldest first. -/
def ownGutter (s : State) (core : Nat) (r : GRef) : List SqEntry := (ownLogged s core r).map fun e => e.e

/-- Where an entry of a group's queue lies, in the addresses of an access at `va` that leads to `pa`, when they may
meet: by its own address, or by another that leads to the same bytes (R211). -/
def SqEntry.meets (e : SqEntry) (s : State) (pasid va pa n : Nat) : Option Nat :=
  if overlaps e.va e.len va n then some e.va
  else
    match translate s pasid e.va e.use with
    | .at p _ => if overlaps p e.len pa n then some (va + p - pa) else none
    | _ => none
/-- The entries of a list that an access meets, with where they lie. -/
def meeting (s : State) (pasid va pa n : Nat) (l : List SqEntry) : List (Nat × SqEntry) :=
  l.filterMap fun e => (e.meets s pasid va pa n).map fun a => (a, e)
/-- Whether the bytes of a list of entries cover a run. -/
def covered (l : List (Nat × SqEntry)) (va n : Nat) : Bool :=
  (List.range n).all fun i => l.any fun x => decide (x.1 ≤ va + i) && decide (va + i < x.1 + x.2.len)
/-- The stores that a load finds in the youngest of its group's Gutter entries that holds a byte of it, when that entry
covers the access; none while it must wait for a replay (R351, R353). -/
def forwarded (s : State) (pasid va pa n : Nat) (l : List GutterEntry) : Option (List (Nat × SqEntry)) :=
  match (l.filter fun x => (x.e.meets s pasid va pa n).isSome).getLast? with
  | none => some []
  | some y =>
    let es := meeting s pasid va pa n ((l.filter fun x => x.logged == y.logged).map fun x => x.e)
    if es.all (fun x => x.2.isPlain) && covered es va n then some es else none

/-- The bytes a load of the acting group sees at a local or host address: the core's (R212), its own Gutter entries
when the youngest covers the access (R353), and its own queued stores (R211); none while it must wait. A read that its
home serves waits for the core's own stores to reach it (R220). -/
def loadBytes (c : Ctx) (s : State) (va pa n : Nat) (bypass : Bool) : Option (List Byte) :=
  let queued := meeting s c.t.pasid va pa n (c.g.storeQ.filter SqEntry.isGlobal)
  let open_ := (s.core c.t.core).reqs.any fun q => !q.e.isPlain && overlaps q.pa q.e.len pa n
  if queued.any (fun x => !x.2.isPlain) || open_ || (bypass && ownInFlight s c.t.core pa n) then none
  else
    (forwarded s c.t.pasid va pa n (ownLogged s c.t.core c.r)).map fun gut =>
      (gut ++ queued).foldl (fun bs x => overlay va bs x.1 x.2.data) (coreBytes s c.t.core pa n bypass)

/-- Whether every earlier access of the group has completed, as a DEVICE access requires (R189). -/
def deviceReady (s : State) (t : Team) (r : GRef) : Bool :=
  coreDrained s r && ((s.core t.core).reqs.all fun q => !(q.team == r.team && q.grp == r.grp))

/-- One placed load: its bytes and the state after, none while it must wait. A read that passes the L1, by its scope or
its range (R196, R323), leaves no older copy there (R219). -/
def loadOne (c : Ctx) (s : State) (p : Placed) (bypass : Bool) : Option (List Byte × State) :=
  match p.2 with
  | .at pa kind =>
    if kind = 6 then
      if deviceReady s c.t c.r then some (leBytes p.1.n (regRead s c.t.vif (pa - devBase) (p.1.n == 8)).toNat, s)
      else none
    else
      let past := bypass || uncached s c.t.pasid p.1.va
      (loadBytes c s p.1.va pa p.1.n past).map fun bs =>
        let s := noteAccess s pa kind
        (bs, if past then (s.readBy (chipletOfCore c.t.core) pa).dropLine c.t.core (pa / 128) else fillL1 s c.t.core pa)
  | _ => none

/-- Placed loads in their order: each one's bytes, none while any must wait. -/
def loadEach (c : Ctx) (bypass : Bool) : State → List Placed → Option (List (Nat × List Byte) × State)
  | s, [] => some ([], s)
  | s, p :: r =>
    (loadOne c s p bypass).bind fun x =>
      (loadEach c bypass x.2 r).map fun y => ((p.1.lane, x.1) :: y.1, y.2)

/-- Make loaded lanes outstanding: the words each lane's bytes give, in registers from d on. -/
def deferBytes (c : Ctx) (d n : Nat) (f : List Byte → List Word) (l : List (Nat × List Byte)) (s : State) : State :=
  addDeferred s c.r (runOf d n) []
    (l.flatMap fun x => (f x.2).zipIdx.map fun wi => (x.1, d + wi.2, wi.1)) [] 0 0

/-! ### LD and ST, LDO, STO and STOG (R193, R195, R196) -/

/-- The registers an LM or LX memory word names. -/
def memNames (load : Bool) (d : BitVec 7) (w : MemW) (sb : BitVec 6) (a : BitVec 7) : Names :=
  Names.add (if load then writesV (runOf d.toNat w.regs) else readsV (runOf d.toNat w.regs)) (addrNames sb a)

/-- The accesses of the active lanes. -/
def laneAccs (c : Ctx) (sb : BitVec 6) (a : BitVec 7) (n : Nat) (u : Use) : List Acc :=
  c.I.map fun L => { lane := L, va := (c.g.globalAddr L sb a).toNat, n, use := u }

/-- The half of a placed 128-bit access. -/
def Placed.half (high : Bool) (p : Placed) : Placed :=
  let o := if high then 8 else 0
  ({ p.1 with va := p.1.va + o, n := 8 }, match p.2 with | .at pa kind => .at (pa + o) kind | t => t)
/-- The bytes of each lane of an LD, the halves of a 128-bit one that were read early among them (R192). -/
def loadHalves (c : Ctx) (ps : List Placed) : Option (List (Nat × List Byte) × State) :=
  match c.g.half with
  | some (pc, high, early) =>
    if pc = c.pc ∧ early.map (·.1) = c.I then
      (loadEach c false c.s (ps.map (Placed.half (!high)))).map fun x =>
        ((early.zip x.1).map fun y => (y.1.1, if high then y.2.2 ++ y.1.2 else y.1.2 ++ y.2.2),
         x.2.adjGroup c.r fun g => { g with half := none })
    else loadEach c false c.s ps
  | none => loadEach c false c.s ps
/-- LD (R192, R193). -/
def execLd (x : LLoad) (s : State) : Out :=
  issue s (memNames true x.d x.w x.sb x.a) 4 x.s false fun c =>
    withAccess s c 0 (accFault c.s c.t.pasid) (laneAccs c x.sb x.a x.w.bytes (.read x.w.bytes)) fun ps =>
      match loadHalves c ps with
      | none => .park .recall c.s
      | some (l, s) => .ok (deferBytes c x.d.toNat x.w.regs (loadWords x.w x.x) l s)
/-- A 128-bit LD performs one of its halves in every lane, and issues again for the other (R192). -/
def loadHalf (x : LLoad) (high : Bool) (s : State) : Out :=
  issue s (memNames true x.d x.w x.sb x.a) 4 x.s false fun c =>
    withAccess s c 0 (accFault c.s c.t.pasid) (laneAccs c x.sb x.a x.w.bytes (.read x.w.bytes)) fun ps =>
      match loadEach c false c.s (ps.map (Placed.half high)) with
      | none => .park .recall c.s
      | some (l, s) => .park .recall (s.adjGroup c.r fun g => { g with half := some (c.pc, high, l) })

/-- A store-queue entry for global memory. -/
def globalEntry (c : Ctx) (kind : SqKind) (va lane scope : Nat) (rel : Bool) (data : List Byte) : SqEntry :=
  { kind, va, data, cmp := 0, scope := foldScope c.s.build scope, rel, op := .add, wide := false
    inst := wordAt c.s c.t c.r.grp c.pc, target := 0
    stamp := c.s.clock, issued := c.issued, lane }

/-- The single-copy parts of an ST: a 128-bit store is two halves (R192). -/
def stParts (va : Nat) (bs : List Byte) : List (Nat × List Byte) :=
  if bs.length = 16 then [(va, bs.take 8), (va + 8, bs.drop 8)] else [(va, bs)]

/-- ST (R193). -/
def execSt (x : LStore) (s : State) : Out :=
  issue s (memNames false x.d x.w x.sb x.a) 4 x.s false fun c =>
    withStore c 1 (accFault c.s c.t.pasid) (laneAccs c x.sb x.a x.w.bytes (.write x.w.bytes)) fun _ =>
      enqueueOr c (c.I.flatMap fun L =>
        (stParts (c.g.globalAddr L x.sb x.a).toNat (c.g.storeBytes L x.d x.w)).map fun p =>
          globalEntry c .st p.1 L 0 false p.2) c.s

/-- LDO: at chiplet scope or wider it bypasses the L1; with acquire it is an acquire at its scope (R185, R196). -/
def execLdo (x : LOrdered) (s : State) : Out :=
  issue s (memNames true x.d x.w x.sb x.a) 8 x.s false fun c =>
    let wide := decide (3 ≤ foldScope c.s.build x.scope.toNat)
    withAccess s c 0 (accFault c.s c.t.pasid) (laneAccs c x.sb x.a x.w.bytes (.readO x.w.bytes)) fun ps =>
      match loadEach c wide c.s ps with
      | none => .park .recall c.s
      | some (l, s) =>
        .ok (deferBytes c x.d.toNat x.w.regs (loadWords x.w false) l (if wide && x.ordered then s.dropL1 c.t.core else s))

/-- STO (R196). -/
def execSto (x : LOrdered) (s : State) : Out :=
  issue s (memNames false x.d x.w x.sb x.a) 8 x.s false fun c =>
    withStore c 1 (accFault c.s c.t.pasid) (laneAccs c x.sb x.a x.w.bytes (.writeO x.w.bytes)) fun _ =>
      enqueueOr c (c.I.map fun L =>
        globalEntry c .sto (c.g.globalAddr L x.sb x.a).toNat L x.scope.toNat x.ordered (c.g.storeBytes L x.d x.w)) c.s

/-- Whether the accesses cover every byte of a grain. -/
def grainCovered (accs : List Acc) (g : Nat) : Bool :=
  (List.range 512).all fun i => accs.any fun a => decide (a.va ≤ 512 * g + i) && decide (512 * g + i < a.va + a.n)
/-- The checks of STOG: CODE 9 for a grain not covered (R191, R196). -/
def stogFault (s : State) (pasid : Nat) (accs : List Acc) (a : Acc) : Option (Cause × Nat) :=
  if a.va % a.n = 0 ∧ grainCovered accs (a.va / 512) = false then some (cMisalign, 9) else accFault s pasid a

/-- STOG: one full-grain store for each grain the group covers (R196). -/
def execStog (x : LOrdered) (s : State) : Out :=
  issue s (memNames false x.d x.w x.sb x.a) 8 x.s false fun c =>
    let accs := laneAccs c x.sb x.a x.w.bytes .writeG
    withStore c 1 (stogFault c.s c.t.pasid accs) accs fun _ =>
      let grains := ((accs.map fun a => a.va / 512).eraseDups).mergeSort
      enqueueOr c (grains.map fun g =>
        let own := c.I.filter fun L => (c.g.globalAddr L x.sb x.a).toNat / 512 == g
        let bytes := own.foldl (fun bs L =>
          overlay (512 * g) bs (c.g.globalAddr L x.sb x.a).toNat (c.g.storeBytes L x.d x.w)) (List.replicate 512 0)
        globalEntry c .stog (512 * g) (own.headD 0) x.scope.toNat x.ordered bytes) c.s

/-! ### LDU and STU (R194) -/

/-- LDU.W (R194). -/
def execLduW (x : UImm12) (s : State) : Out :=
  issue s (Names.add (writesU [x.d.toNat]) (readsU (runOf x.a.toNat 2))) 4 x.s false fun c =>
    let acc : Acc := { lane := 0, va := (c.g.uniAddr x.a x.imm).toNat, n := 4, use := .read 4 }
    withAccess s c 6 (accFault c.s c.t.pasid) [acc] fun ps =>
      match loadEach c false c.s ps with
      | some ([(_, bs)], s) => .ok (deferUni c x.d.toNat (loadWords .b32 false bs) s)
      | _ => .park .recall c.s
/-- LDU.D (R194). -/
def execLduD (x : UImm12) (s : State) : Out :=
  issue s (Names.add (writesU (runOf x.d.toNat 2)) (readsU (runOf x.a.toNat 2))) 4 x.s false fun c =>
    let acc : Acc := { lane := 0, va := (c.g.uniAddr x.a x.imm).toNat, n := 8, use := .read 8 }
    withAccess s c 6 (accFault c.s c.t.pasid) [acc] fun ps =>
      match loadEach c false c.s ps with
      | some ([(_, bs)], s) => .ok (deferUni c x.d.toNat (loadWords .b64 false bs) s)
      | _ => .park .recall c.s
/-- STU.W (R194). -/
def execStuW (x : UImm12) (s : State) : Out :=
  issue s (readsU (x.d.toNat :: runOf x.a.toNat 2)) 4 x.s false fun c =>
    let va := (c.g.uniAddr x.a x.imm).toNat
    withStore c 6 (accFault c.s c.t.pasid) [{ lane := 0, va, n := 4, use := .write 4 }] fun _ =>
      enqueueOr c [globalEntry c .st va 0 0 false (leBytes 4 (c.g.readUni x.d.toNat).toNat)] c.s

/-! ### Releases (R214, R226, R228) -/

/-- Whether a group's atomics and reductions on their way have been performed. -/
def atomsDone (s : State) (core : Nat) (r : GRef) : Bool :=
  (s.core core).reqs.all fun q => q.e.isPlain || !(q.team == r.team && q.grp == r.grp)
/-- Whether everything before a release at a scope has been performed there: the group's own queue and Gutter entries,
its copies' grains and its atomics, and beyond the core every store and atomic of the core on its way. -/
def drainedAt (s : State) (core : Nat) (r : GRef) (scope : Nat) : Bool :=
  coreDrained s r && atomsDone s core r && (decide (foldScope s.build scope ≤ 1) || (s.core core).reqs.isEmpty)
/-- A release at a scope: beyond the core the layer keeps no line the releasing group may have seen superseded (R214).
-/
def releaseAt (s : State) (core scope : Nat) : State := if 2 ≤ foldScope s.build scope then s.dropStale core else s

/-! ### ATOM and RED (R197 to R201) -/

/-- Whether an order releases. -/
def Order.releases : Order → Bool
  | .rel => true
  | .acqrel => true
  | _ => false

/-- Send the window atomics of the lanes in a WINDOW range: one operation each (R201, R409, R412). -/
def sendWinAtoms (c : Ctx) (op : AtomOp) (wide ret : Bool) (b cmp : Nat → DWord) (ps : List Placed) (s : State) : State :=
  ps.foldl (fun s p =>
    match p.2 with
    | .window w off =>
      let k := impKey c.t.vif (w % 256)
      let v := s.win k
      let o : FabOp := { id := s.fresh, team := c.r.team, chiplet := chipletOfCore c.t.core, put := false, va := p.1.va
                         len := p.1.n, vif := c.t.vif, imp := w % 256, off, pasid := c.t.pasid, notify := false
                         entry := v, dropped := none, atom := some (c.r, p.1.lane, c.pc), since := none }
      let s := { s with fresh := s.fresh + 1, fabric := { s.fabric with ops := s.fabric.ops ++ [o] } }
      send s (.windowAtomic (bvGet v 112 16) (BitVec.ofNat 16 (bvGet v 144 16)) (bvGet v 136 8) off op wide
        ret (b p.1.lane) (cmp p.1.lane) o.id)
    | _ => s) s

/-- Whether an import entry may carry the team's operation (R411). -/
def importOk (s : State) (vif pasid w : Nat) : Bool :=
  let v := s.win (impKey vif (w % 256))
  decide (w < 256) && bvGet v 0 1 == 1 && bvGet v 172 20 == pasid
/-- Whether a placed access names a window whose import is absent or foreign. -/
def badImport (c : Ctx) (p : Placed) : Bool :=
  match p.2 with
  | .window w _ => !(importOk c.s c.t.vif c.t.pasid w)
  | _ => false
/-- Whether a placed access lies in a window. -/
def Placed.isWindow (p : Placed) : Bool := match p.2 with | .window _ _ => true | _ => false

/-- The local lanes of an atomic as requests to their homes, and its result where it has one. -/
def atomRequests (c : Ctx) (ret : Option (BitVec 7)) (op : AtomOp) (wide : Bool) (scope : Nat) (order : Order)
    (b cmp : Nat → DWord) (ps : List Placed) (s : State) : State :=
  let n := if wide then 8 else 4
  let locals := ps.filter fun p => !p.isWindow
  let back := c.g.winRes.filter fun x => x.1 == c.pc
  let id := s.fresh
  let s := match ret with
    | none => s
    | some d =>
      addDeferred s c.r (atomRegs wide d) []
        (back.flatMap fun (x : DWord × Nat × DWord) =>
          (atomWords wide x.2.2).zipIdx.map fun (wi : Word × Nat) => (x.2.1, d.toNat + wi.2, wi.1)) [] 0 locals.length
  let reqs := locals.map fun (p : Placed) =>
    let pa := p.pa.getD 0
    ({ team := c.r.team, grp := c.r.grp, pasid := c.t.pasid, pa
       e := { globalEntry c .red p.1.va p.1.lane scope false (leBytes n (b p.1.lane).toNat) with
              op, wide, cmp := cmp p.1.lane, kind := .att }
       result := ret.map fun d => (id, p.1.lane, d.toNat), order, unreached := [], since := s.clock, logged := false } : HomeReq)
  let s := notePlaces s (locals.map fun p => p.2)
  let s := s.adjGroup c.r fun g => { g with winRes := g.winRes.filter fun x => x.1 ≠ c.pc }
  s.adjCore c.t.core fun k => { k with reqs := k.reqs ++ reqs }

/-- Whether an order acquires. -/
def Order.acquires : Order → Bool
  | .acq => true
  | .acqrel => true
  | _ => false
/-- Whether earlier stores of the group stand before a relaxed atomic: its queue, unless the group has Gutter entries
(R226), and any store of its own that is queued or logged to the same bytes (R211; log 27). -/
def atomBehind (c : Ctx) (ps : List Placed) : Bool :=
  let live := c.g.storeQ.filter fun e => e.kind != .bar && decide (c.g.hold < e.stamp)
  let own := live.filter SqEntry.isGlobal ++ ownGutter c.s c.t.core c.r
  ((ownGutter c.s c.t.core c.r).isEmpty && !live.isEmpty)
    || ps.any fun p => !(meeting c.s c.t.pasid p.1.va (p.pa.getD 0) p.1.n own).isEmpty
/-- The shared course of ATOM: the release first, then the window lanes, then the requests to the homes; `k` makes
them. An acquire whose lanes all lie in windows ends here (R185, R215). A relaxed ATOM without return that meets its
group's own earlier stores waits for them too (R211, R226; log 27). -/
def atomCourse (c : Ctx) (ret : Bool) (op : AtomOp) (wide : Bool) (scope : Nat) (order : Order)
    (b cmp : Nat → DWord) (ps : List Placed) (k : State → Res) : Res :=
  let wins := ps.filter Placed.isWindow
  let back := c.g.winRes.any fun x => x.1 == c.pc
  match (if back then none else ps.find? (badImport c)) with
  | some p => .trap (c.mkTrap cWindow (BitVec.ofNat 64 p.1.va) 2)
  | none =>
    if Order.releases order && !(drainedAt c.s c.t.core c.r scope) then .park .drain c.s
    else if !wins.isEmpty && !back then
      .park .winAtom (sendWinAtoms c op wide ret b cmp wins (if Order.releases order then releaseAt c.s c.t.core scope else c.s))
    else
      let s := if Order.releases order then releaseAt c.s c.t.core scope else c.s
      k (if Order.acquires order && !wins.isEmpty && decide (3 ≤ foldScope s.build scope) then s.dropL1 c.t.core else s)

/-- ATOM (R199). -/
def execAtom (x : GAtomic) (s : State) : Out :=
  issue s
    (Names.add (if x.ret then writesV (atomRegs x.wide x.d) else {}) (Names.add (readsV (atomRegs x.wide x.b))
      (Names.add (if x.op = .cas then readsV (atomRegs x.wide x.c) else {}) (addrNames x.sb x.a)))) 8 x.s false
    fun c =>
      let n := if x.wide then 8 else 4
      withAccess s c 2 (accFault c.s c.t.pasid) (laneAccs c x.sb x.a n (.atomic x.op x.wide x.scope.toNat)) fun ps =>
        let b := fun L => c.g.atomSrc L x.wide x.b
        let cmp := fun L => c.g.atomSrc L x.wide x.c
        if packBefore c || (!(Order.releases x.order) && atomBehind c ps) then .park .recall c.s
        else
          atomCourse c x.ret x.op x.wide x.scope.toNat x.order b cmp ps fun s =>
            .ok (atomRequests c (if x.ret then some x.d else none) x.op x.wide x.scope.toNat x.order b cmp ps s)

/-- RED: it takes its place in the store queue; its lanes on a window go as atomics without a return, before the others
(R200, R201). -/
def execRed (x : GReduce) (s : State) : Out :=
  issue s (Names.add (readsV (atomRegs x.wide x.b)) (addrNames x.sb x.a)) 8 x.s false fun c =>
    let n := if x.wide then 8 else 4
    let accs := laneAccs c x.sb x.a n (.reduce x.op x.wide x.scope.toNat)
    withStore c 3 (accFault c.s c.t.pasid) accs fun _ =>
      let ps : List Placed := accs.map fun a => (a, place c.s c.t.pasid a.va a.use)
      let local_ := (ps.filter fun p => !p.isWindow).map fun p =>
        { globalEntry c .red p.1.va p.1.lane x.scope.toNat x.rel (leBytes n (c.g.atomSrc p.1.lane x.wide x.b).toNat) with
          op := x.op, wide := x.wide }
      if ps.any Placed.isWindow then
        atomCourse c false x.op x.wide x.scope.toNat (if x.rel then .rel else .rlx) (fun L => c.g.atomSrc L x.wide x.b)
          (fun _ => 0) ps fun s =>
            enqueueOr c local_ (s.adjGroup c.r fun g => { g with winRes := g.winRes.filter fun y => y.1 ≠ c.pc })
      else enqueueOr c local_ c.s

/-! ### WAITA and WAKEA (R202 to R205) -/

/-- The lanes of a WAITA in their order: finish, or register and park (R203, R204). -/
def waitLanes (c : Ctx) (x : WaitA) : State → List (Placed × List Byte) → State
  | s, [] => s
  | s, (p, bs) :: r =>
    let w : Word := BitVec.ofNat 32 (leNat bs)
    let L := p.1.lane
    let b := c.g.readLane L x.b.toNat
    let held := condHolds x.cond w b
    let pa := p.pa.getD 0
    let home := homeOf s.build pa
    let full := decide (4096 ≤ (s.waits.filter fun q => q.chiplet == home && q.woken.isNone).length)
    let s := (s.recall (pa / 512)).invalidateLine (pa / 128)
    let s :=
      if held || full then finishLane s c.r c.t.core L x.d.toNat w b x.cond x.scope.toNat 2
      else
        let reg : WaitReg := { chiplet := home, pa, va := BitVec.ofNat 64 p.1.va, g := c.r, lane := L, d := x.d.toNat, cmp := b
                               cond := x.cond, scope := x.scope.toNat, deadline := s.clock + 2 ^ (8 + 2 * x.cls.toNat), woken := none }
        { (s.adjLane c.r L fun l => { l with park := some .waita }) with waits := s.waits ++ [reg] }
    waitLanes c x s r

/-- WAITA: one read and registration per lane, each a step at the home, which recalls the line's owner and invalidates
its copies (R203, R233). -/
def execWaita (x : WaitA) (s : State) : Out :=
  issue s (Names.add (writesV (runOf x.d.toNat 2)) (readsV (x.b.toNat :: runOf x.a.toNat 2))) 8 x.s false fun c =>
    withAccess s c 4 (accFault c.s c.t.pasid) (laneAccs c 0 x.a 4 .wait) fun ps =>
      let own := c.g.storeQ.filter (fun e => e.isGlobal)
      let flight := (c.s.core c.t.core).reqs.filter fun q => q.team == c.r.team && q.grp == c.r.grp
      let clash := ps.any fun p => !(meeting c.s c.t.pasid p.1.va (p.pa.getD 0) 4 own).isEmpty
        || flight.any fun q => overlaps q.pa q.e.len (p.pa.getD 0) 4
      if clash then .park .recall c.s
      else
        match loadEach c true c.s ps with
        | none => .park .recall c.s
        | some (l, s) => .moved (waitLanes c x s (ps.zip (l.map fun y => y.2)))

/-- WAKEA: a release at its scope, then the earliest waiters of each lane's word (R204). -/
def execWakea (x : WakeA) (s : State) : Out :=
  issue s (readsV (x.b.toNat :: runOf x.a.toNat 2)) 8 x.s false fun c =>
    withAccess s c 4 (accFault c.s c.t.pasid) (laneAccs c 0 x.a 4 .wake) fun ps =>
      if !(drainedAt c.s c.t.core c.r x.scope.toNat) then .park .drain c.s
      else
        let s := releaseAt (notePlaces c.s (ps.map fun p => p.2)) c.t.core x.scope.toNat
        .ok (ps.foldl (fun s p => wakeAt s (p.pa.getD 0) (c.g.readLane p.1.lane x.b.toNat).toNat) s)

/-- A registered lane's timeout passes (R205). -/
def execWaitaTimeout (x : GIdx) (s : State) : Out :=
  match s.waits.find? fun w => w.g == x.g && w.lane == x.i && w.woken.isNone with
  | none => .next s
  | some w => .next (if w.deadline ≤ s.clock then wakeWaiters s (fun v => v == w) true else s)

/-! ### FENCE (R221 to R224) -/

/-- Whether the conditions of R222 hold for a group at a scope; at group scope a queued store is performed already. -/
def fenceReady (s : State) (core : Nat) (r : GRef) (scope : Nat) : Bool :=
  if foldScope s.build scope = 0 then (ownGutter s core r).isEmpty && atomsDone s core r && copiesHold s r
  else drainedAt s core r scope
/-- What a FENCE does once its conditions hold: a release, and an acquire. -/
def fenceEffect (s : State) (core scope : Nat) : State :=
  let s := releaseAt s core scope
  if 3 ≤ foldScope s.build scope then s.dropL1 core else s

/-- FENCE (R222). -/
def execFence (x : UFence) (s : State) : Out :=
  issue s {} 4 x.s false fun c =>
    if fenceReady c.s c.t.core c.r x.scope.toNat then .ok (fenceEffect c.s c.t.core x.scope.toNat)
    else .park (.fence x.scope.toNat x.s) c.s
/-- The conditions of a parked FENCE hold (R222). -/
def execFenceConditionsMet (r : GRef) (s : State) : Out :=
  match s.team r.team, s.group r with
  | some t, some g =>
    match g.park with
    | some (.fence scope settle) =>
      .next (if fenceReady s t.core r scope then completeHeld (fenceEffect s t.core scope) r 4 settle else s)
    | _ => .next s
  | _, _ => .next s

/-! ### Page operations (R206 to R209) -/

/-- The pages of a range. -/
def pagesOf (va len : Nat) : List Nat := runOf (va / 65536) ((va + len + 65535) / 65536 - va / 65536)

/-- DISCARD: operands, the checks of R190 page by page, the drain, then the group parks until every page is dead
(R206, R207). -/
def execDiscard (x : USrc2) (s : State) : Out :=
  issue s (readsU (x.b.toNat :: runOf x.a.toNat 2)) 4 x.s false fun c =>
    let va := (c.g.uniPair x.a.toNat).toNat
    let v := (c.g.readUni x.b.toNat).toNat
    let len := bitsOf v 0 24
    if va % 65536 ≠ 0 ∨ len % 65536 ≠ 0 ∨ len = 0 ∨ bitsOf v 24 8 ≠ 0 then
      .trap (c.mkTrap cMisalign (BitVec.ofNat 64 va) (infoGlobal 5 0 8))
    else
      let accs : List Acc := (List.range (len / 65536)).map fun i => { lane := 0, va := va + 65536 * i, n := 1, use := .discard }
      withStore c 5 (accFault c.s c.t.pasid) accs fun _ =>
        if !(coreDrained c.s c.r) then .park .drain c.s else .park (.discard va (len / 65536) x.s) c.s

/-- Make the entry of a chain that points at entry i point past it, at most n entries from entry j on. -/
def relink (b : Build) (m : Mem) (c i : Nat) (nextv : Bool) (next : Nat) : Nat → Nat → Mem
  | 0, _ => m
  | n + 1, j =>
    let p := invEntry b m c j
    if p.nextv ∧ p.next = i then setInvEntry b m c j { p with nextv, next }
    else if p.nextv then relink b m c i nextv next n p.next else m
/-- Take an entry out of its chain and clear VALID (R329, R386). -/
def unlinkEntry (b : Build) (m : Mem) (c i : Nat) : Mem :=
  let e := invEntry b m c i
  let h := anchorAddr b c (anchorOf e.pasid e.vpn)
  let head := readLE m h 4
  let next := if e.nextv then e.next else 0
  let m' := setInvEntry b m c i { e with valid := false, nextv := false, next := 0 }
  if bitsOf head 31 1 = 1 ∧ bitsOf head 0 20 = i then
    writeLE m' h 4 (if e.nextv then 2 ^ 31 + next else 0)
  else
    relink b m' c i e.nextv next (2 ^ 20) (bitsOf head 0 20)

/-- Drop every cached copy of a frame (R207, R386). -/
def dropFrame (s : State) (base : Nat) : State :=
  let inside := fun (line : Nat) => decide (base ≤ line * 128) && decide (line * 128 < base + 65536)
  let s := s.mapCores fun _ c => { c with l1 := c.l1.filter fun l => !(inside l.line) }
  { s with
    dir := { s.dir with
      lines := s.dir.lines.filter fun e => !(inside e.1)
      owners := s.dir.owners.filter fun e => !(inside (4 * e.1)) } }

/-- One write of zeros over each registered pair of a frame, whose page leaves it (R181). -/
def zeroMirrors (s : State) (base : Nat) : State :=
  let hit := fun (h : SubHome) => match h.pa with | some a => decide (base ≤ a) && decide (a < base + 65536) | none => false
  let news := (s.subHomes.filter hit).flatMap fun h =>
    h.members.map fun m =>
      ({ team := m.1, handle := m.2, off := 0, data := List.replicate h.len 0, seq := h.count + 1 } : Delivery)
  let bump := fun (h : SubHome) => if hit h then { h with count := h.count + 1, pa := none } else h
  { s with subHomes := s.subHomes.map bump, deliveries := s.deliveries ++ news }

/-- Waiters of a frame wake, with a status by the re-read (R205). -/
def wakeFrame (s : State) (base : Nat) : State :=
  wakeWaiters s (fun w => decide (base ≤ w.pa) && decide (w.pa < base + 65536)) false

/-- Registered signals of a frame lose their word: the signal unit posts for their page (R401; log 28). -/
def unmapSignals (s : State) (base : Nat) : State :=
  let inside := fun (r : SigReg) => match r.pa with | some p => decide (base ≤ p) && decide (p < base + 65536) | none => false
  let hit := s.queues.regs.filter inside
  let regs := s.queues.regs.map fun r => if inside r then { r with pa := none } else r
  hit.foldl (fun s r => postSignal s r false) { s with queues := { s.queues with regs } }

/-- Free the frame a page lies in: its copies, its mirrors, its lost map and its entry go (R207). -/
def freeFrame (s : State) (pa : Nat) : State :=
  let c := stackOf s.build pa
  let i := frameIdx s.build pa
  let s := (zeroMirrors (dropFrame s pa) pa).mended pa 65536
  let m := writeLE (clearRange s.mem pa 65536) (lostAddr s.build c i) 16 0
  unmapSignals (wakeFrame { s with mem := unlinkEntry s.build m c i } pa) pa
/-- What a DISCARD makes of one page (R207): dead, or not yet. -/
inductive Dead where
  | done (s : State)
  | later (s : State)
  deriving DecidableEq, Repr
/-- Make one page dead (R207): a resident frame is freed once no engine owns a grain of it; a page that is not
resident, and the Lode's record of a REMOTE page, go to a server as a discard entry, which waits for room in its turn
(R229, R337, R343, R346). -/
def discardPage (s : State) (r : GRef) (pasid va : Nat) (turn : Bool) : Dead :=
  let vpn := va / 65536
  let post := fun (s : State) (remote chain : Bool) (pa : Option Nat) =>
    match postFault s pasid vpn 16 remote chain { turn } [] with
    | .done s => Dead.done (match pa with | some pa => freeFrame s pa | none => s)
    | .full =>
      .later (s.adjFq (fqKey (homeOfPage s.build vpn) remote) fun q => { q with starved := addOnce q.starved (.discard r vpn) })
  match translate s pasid va .discard with
  | .at pa kind =>
    if s.copies.any fun c => c.grains.any fun g => g / 128 == pa / 65536 then .later s
    else if kind = 3 then post s true false (some pa)
    else .done (freeFrame s pa)
  | .miss _ remote chain => post s remote chain none
  | _ => .done s
/-- Make the pages of a DISCARD dead, in order, as far as they can be now: the state, and the pages that are left. -/
def discardPages (r : GRef) (pasid : Nat) : Nat → Nat → State → State × Nat
  | 0, _, s => (s, 0)
  | n + 1, va, s =>
    match discardPage s r pasid va false with
    | .done s => discardPages r pasid n (va + 65536) s
    | .later s => (s, n + 1)

/-- The pages of a DISCARD are made dead; once every page is, its release at package scope is performed (R207). -/
def execDiscardComplete (r : GRef) (s : State) : Out :=
  match s.team r.team, s.group r with
  | some t, some g =>
    match g.park with
    | some (.discard va pages settle) =>
      if (s.core t.core).reqs.isEmpty && copiesHold s r then
        let x := discardPages r t.pasid pages va s
        if x.2 = 0 then .next (completeHeld (releaseAt x.1 t.core 5) r 4 settle)
        else .next (x.1.adjGroup r fun g => { g with park := some (.discard (va + 65536 * (pages - x.2)) x.2 settle) })
      else .next s
    | _ => .next s
  | _, _ => .next s
/-- A DISCARD that waited for room to post has its turn (R346). -/
def discardTurn (s : State) (r : GRef) (vpn : Nat) : State :=
  match s.team r.team, s.group r with
  | some t, some g =>
    match g.park with
    | some (.discard va pages settle) =>
      if va / 65536 = vpn ∧ 0 < pages then
        match discardPage s r t.pasid va true with
        | .done s => s.adjGroup r fun g => { g with park := some (.discard (va + 65536) (pages - 1) settle) }
        | .later s => s
      else s
    | _ => s
  | _, _ => s

/-- Load the lines of a prefetched run into the caches of its target: the chiplet's RDC, or the L1 too (R209; log 44).
-/
def prefLines (s : State) (core pasid target : Nat) (pa va n : Nat) : State :=
  if target = 0 ∨ uncached s pasid va then s
  else
    (linesOf pa n).foldl (fun s l =>
      if s.engineOwned (l * 128) || lineBusy s l || !(regionReady s (l * 128)) || pageWaits s pasid (va / 65536) then s
      else if target = 2 then fillL1 s core (l * 128) else s.readBy (chipletOfCore core) (l * 128)) s
/-- Ask for the bytes of one page: a missing page posts a prefetch entry unless its queue is more than three-quarters
full, and a resident one is loaded as the target says; the Ridge page is ignored (R20, R209). -/
def prefPage (s : State) (core pasid target va len vpn : Nat) : State :=
  if (pasidEntry s pasid).state ≠ 1 ∨ s.trn.normal = false ∨ vpn = 0xFFFFFFFFFF then s
  else
    let lo := max va (vpn * 65536)
    let hi := min (va + len) ((vpn + 1) * 65536)
    let load := fun (s : State) =>
      match place s pasid lo (.read 1) with
      | .at pa kind => prefLines (noteAccess s pa kind) core pasid target pa lo (hi - lo)
      | _ => s
    match rangeLookup s pasid vpn with
    | none => s
    | some r =>
      if r.kind = 1 ∨ r.kind = 4 then load s
      else if r.kind = 2 ∨ r.kind = 3 then
        match invLookup s.build s.mem pasid vpn with
        | some (some _) => load s
        | o =>
          let remote := r.kind == 3
          if 768 < (s.fq (fqKey (homeOfPage s.build vpn) remote)).entries.length then s
          else match postFault s pasid vpn 32 remote (o == none) {} [] with | .done s => s | .full => s
      else s

/-- PREF: never traps, never parks; what lies beyond the address space is ignored (R209). -/
def execPref (x : USrc2) (s : State) : Out :=
  issue s (readsU (x.b.toNat :: runOf x.a.toNat 2)) 4 x.s false fun c =>
    let va := (c.g.uniPair x.a.toNat).toNat
    let v := (c.g.readUni x.b.toNat).toNat
    let len := bitsOf v 0 24
    if len = 0 ∨ bitsOf v 26 6 ≠ 0 then .ok c.s
    else
      let t := if bitsOf v 24 2 = 3 then 1 else bitsOf v 24 2
      .ok (((pagesOf va len).filter fun p => decide (p < 2 ^ 40)).foldl
        (fun s p => prefPage s c.t.core c.t.pasid t va len p) c.s)

/-- CLAIM: one full-grain store of zeros per grain (R208). -/
def execClaim (x : USrc2) (s : State) : Out :=
  issue s (readsU (x.b.toNat :: runOf x.a.toNat 2)) 4 x.s false fun c =>
    let va := (c.g.uniPair x.a.toNat).toNat
    let v := (c.g.readUni x.b.toNat).toNat
    let len := bitsOf v 0 24
    if va % 512 ≠ 0 ∨ len % 512 ≠ 0 ∨ len = 0 ∨ bitsOf v 24 8 ≠ 0 ∨ 65536 < va % 65536 + len then
      .trap (c.mkTrap cMisalign (BitVec.ofNat 64 va) (infoGlobal 5 0 8))
    else
      withAccess s c 5 (accFault c.s c.t.pasid) [{ lane := 0, va, n := 512, use := .claim }] fun _ =>
        enqueueOr c ((List.range (len / 512)).map fun i =>
          globalEntry c .claim (va + 512 * i) 0 0 false (List.replicate 512 0)) c.s

end Sys2Proof.Machine
end

