-- ==== Sys2Proof/Machine/Stores.lean ====
section
/-! DEFINITION. What becomes of queued stores: leaving the store queue (R211, R352), the Gutter (R225, R351 to R357),
requests at their homes (R187, R199, R233), refusals (R188, R236 to R239), evictions and lost grains (R233, R235), and
host regions (R338, R339, R417). -/

namespace Sys2Proof.Machine

/-! ### Refused stores (R188, R236, R357) -/

/-- A store is refused: it is dropped and its group's queue stops until the handler resumes the group; after the
group's exit the refusal is fatal. A PASID in teardown drops it (R341). -/
def refuseStore (s : State) (r : GRef) (pasid : Nat) (e : SqEntry) (unit : List SqEntry) (cause : Cause)
    (logseq : Nat) (pend : Bool) : State :=
  match s.group r with
  | none => s
  | some g =>
    if cause = cPasidGone then s
    else if g.exited then fatalEnd s r.team cause
    else
      let t := entryTrap s r.team r.grp pasid e unit cause logseq pend
      s.adjGroup r fun g => { g with
        blocked := true, refusedAt := if g.blocked then g.refusedAt else e.stamp, refused := if g.refused.isNone then some t else g.refused }

/-- The result a refused atomic will not bring (R236). -/
def dropResult (s : State) (q : HomeReq) : State :=
  match q.result with
  | none => s
  | some (id, _, _) => s.adjGroup ⟨q.team, q.grp⟩ fun g => { g with deferred := g.deferred.filter fun d => d.id ≠ id }

/-- A request is refused at its home: it is gone, with its result, and its line in the core's L1 (R188, R236, R239). -/
def refuseReq (s : State) (core : Nat) (q : HomeReq) (unit : List HomeReq) (cause : Cause) : State :=
  let s := (dropResult s q).dropLine core (q.pa / 128)
  refuseStore s ⟨q.team, q.grp⟩ q.pasid q.e (unit.map (·.e)) cause 0 false

/-- The refusal reaches the core and the group takes it (R188, R446). -/
def execGrainRefusal (r : GRef) (s : State) : Out :=
  match s.group r with
  | none => .next s
  | some g =>
    match g.refused with
    | none => .next s
    | some t =>
      if g.pending.isSome then .next s
      else .next (takeImprecise (s.adjGroup r fun g => { g with refused := none }) r t)

/-! ### Requests at their homes (R187, R199, R233) -/

/-- Perform one request of a core when its kind is among those given. -/
def homeStep (s : State) (x : ReqRef) (p : SqEntry → Bool) : State :=
  match (s.core x.core).reqs[x.idx]? with
  | none => s
  | some q =>
    if p q.e && !(regionReady s q.pa) then wantRegion s q.pa
    else if p q.e then
      match performReq s x.core x.idx with
      | .wait => s
      | .done s => s
      | .refused s q unit cause => refuseReq s x.core q unit cause
    else s
/-- A partial store at its home (R187). -/
def execHomePartialStore (x : ReqRef) (s : State) : Out :=
  .next (homeStep s x fun e => e.kind == .st || e.kind == .sto)
/-- A full-grain write at its home (R233). -/
def execHomeFullGrainWrite (x : ReqRef) (s : State) : Out :=
  .next (homeStep s x fun e => e.kind == .stog || e.kind == .claim)
/-- An atomic or reduction at its home (R199). -/
def execHomeAtomic (x : ReqRef) (s : State) : Out := .next (homeStep s x fun e => e.kind == .att || e.kind == .red)
/-- Whether a node that came back has not reached a home since (R238). -/
def firstReach (s : State) (n home : Nat) : Bool := s.dir.returned.contains (n, home)
/-- It reaches the home: LOST is raised there, and it drops every copy it holds (R238). -/
def reachHome (s : State) (n home : Nat) : State :=
  { s with dir := { s.dir with returned := s.dir.returned.filter fun m => m ≠ (n, home) } }
/-- A read of a line by a remote-data cache (R233); it waits behind an engine and behind a write that waits for
acknowledgements (R229, R234). A dead peer is not served; the first read of a home by one that came back raises LOST
there (R238). -/
def execHomeRead (x : LineRef) (s : State) : Out :=
  let read := fun (_ : Unit) =>
    Host.Outcome.next (if s.engineOwned (x.line * 128) || lineBusy s x.line then s else s.readLine x.line x.holder)
  match x.holder with
  | .node n =>
    let home := homeOf s.build (x.line * 128)
    if s.fabric.dead.contains n then .next s
    else if firstReach s n home then .next (send (reachHome s n home) (.lost n x.line))
    else read ()
  | .chiplet _ => read ()
/-- The F holder evicts its copy; the next reader takes F from the home (R233). -/
def execFCopyEviction (x : LineRef) (s : State) : Out :=
  let d := s.lineDir x.line
  .next (if d.fwd = some x.holder then s.setLineDir x.line { d with fwd := none } else s)
/-- A grain in M is evicted: it is written back and has no owner (R233). -/
def execMGrainEviction (grain : Nat) (s : State) : Out := .next (s.dropOwner grain)

/-- Requests that the death of a grain's owner refuses: those that wait for its engine, and those that recall an RDC;
CLAIM repairs the grain and stands (R236). -/
def lostReq (engine : Bool) (grain : Nat) (q : HomeReq) : Bool :=
  q.pa / 512 == grain && q.e.kind != .claim && (engine || q.e.kind != .st && q.e.kind != .sto)

/-- Addresses the data accesses of a waiting instruction name (R335). -/
def namedAddrs (g : Group) (I : List Nat) : Instr → List Nat
  | .ld x => I.map fun L => (g.globalAddr L x.sb x.a).toNat
  | .ldo x => I.map fun L => (g.globalAddr L x.sb x.a).toNat
  | .lduW x => [(g.uniAddr x.a x.imm).toNat]
  | .lduD x => [(g.uniAddr x.a x.imm).toNat]
  | .atom x => I.map fun L => (g.globalAddr L x.sb x.a).toNat
  | .waita x => I.map fun L => (g.lanePair L x.a.toNat).toNat
  | .wakea x => I.map fun L => (g.lanePair L x.a.toNat).toNat
  | .claim x => [(g.uniPair x.a.toNat).toNat]
  | .shareSub x => [(g.uniPair x.a.toNat).toNat]
  | .copy x => (g.uniPair x.a.toNat).toNat :: (if x.c = 0 then [] else [(g.uniPair x.c.toNat).toNat])
  | _ => []
/-- Whether an instruction waits at a home for the grains it reads: a load, an atomic or a wait (R236). -/
def waitsAtHome : Instr → Bool
  | .ld _ => true
  | .ldo _ => true
  | .lduW _ => true
  | .lduD _ => true
  | .atom _ => true
  | .waita _ => true
  | _ => false
/-- A group whose load, atomic or wait stands at its home for a grain that has become LOST: it does not land, the
group goes on past it, and takes LOST at its next instruction boundary (R236). -/
def refuseWaiting (s : State) (grain : Nat) (t : Team) (r : GRef) (g : Group) : State :=
  let pc := (g.lane (g.held.headD 0)).pc
  let i := fetchInstr s t r.grp g pc
  let hits := (namedAddrs g g.held i).filter fun va =>
    match translate s t.pasid va .claim with | .at pa _ => pa / 512 == grain | _ => false
  if g.park = some .recall ∧ waitsAtHome i = true ∧ hits ≠ [] ∧ acquirePending s t.core r g = false then
    let w := wordAt s t r.grp pc
    let len := if isTwoWord w then 8 else 4
    let s := s.adjGroup r fun g =>
      { (g.held.foldl (fun g L => g.adjLane L fun l => { l with pc := l.pc + BitVec.ofNat 64 len }) g) with
        park := none, held := [], half := none }
    takeImprecise s r { cause := cLost, addr := BitVec.ofNat 64 (hits.foldl min (hits.headD 0)), inst := w
                        info := infoGlobal 0 (g.held.headD 0) 15, block := 0 }
  else s
/-- The groups that wait at a home for a grain an engine owned (R236). -/
def refuseWaiters (s : State) (grain : Nat) : State :=
  s.teams.foldl (fun s t => t.groups.zipIdx.foldl (fun s gi =>
    match s.group ⟨t.id, gi.2⟩ with | some g => refuseWaiting s grain t ⟨t.id, gi.2⟩ g | none => s) s) s
/-- The only modified copy of a grain is gone with its holder: the mark, where local HBM4 holds the grain, and LOST
for what waits on it (R235, R236). -/
def markGrain (s : State) (grain : Nat) : State :=
  let pa := grain * 512
  let dead := s.copies.filter fun c => c.grains.contains grain
  let s := if dead.isEmpty then s else refuseWaiters s grain
  let free := fun (c : CopyJob) => { c with grains := c.grains.filter fun g => g ≠ grain }
  let s := s.dropOwner grain
  let s := { s with mem := markLost s.build s.mem pa, copies := s.copies.map free }
  s.cores.foldl (fun s kc =>
    let hit := kc.2.reqs.filter (lostReq (!dead.isEmpty) grain)
    let s := s.adjCore kc.1 fun c => { c with reqs := c.reqs.filter fun q => !(lostReq (!dead.isEmpty) grain q) }
    hit.foldl (fun s q => refuseReq s kc.1 q (q.unit hit) cLost) s) s
/-- A copy engine stops with an uncorrectable error: every grain it owns is marked LOST, and the copy ends (R235,
R242). -/
def softCopy (s : State) (id : Nat) : State :=
  let own := (s.copies.filter fun c => c.id == id).flatMap fun c => c.grains
  failCopy (own.foldl markGrain s) id cSoft
/-- An owner dies with an uncorrectable error (R235). -/
def execGrainLostMark (grain : Nat) (s : State) : Out :=
  match s.copies.find? fun c => c.grains.contains grain with
  | some c => .next (softCopy s c.id)
  | none => .next (if (s.owner grain).isSome then markGrain s grain else s)

/-- An invalidation of a request's line cannot be delivered to a holder of it (R238). -/
def execInvalidationDeliveryFailure (x : FanoutFail) (s : State) : Out :=
  match (s.core x.core).reqs[x.idx]? with
  | none => .next s
  | some q =>
    let lines := if q.e.kind = .stog ∨ q.e.kind = .claim then runOf (q.pa / 512 * 4) 4 else linesOf q.pa q.e.len
    let holds := lines.any fun l => (s.lineDir l).fwd == some x.holder || (s.lineDir l).shared.contains x.holder
    if holds then
      .next (s.adjCore x.core fun c => { c with reqs := adjAt (fun q =>
        { q with unreached := addOnce q.unreached x.holder
                 since := if q.unreached.isEmpty then s.clock else q.since }) c.reqs x.idx })
    else .next s

/-- Cycles of the 2 ms of R238. -/
def declareCycles : Nat := 3600000
/-- The declaration does not complete in time: the writes of a core that wait for it are refused with GRAIN, each with
what is one store with it (R239). -/
def execDeclarationTimeout (core : Nat) (s : State) : Out :=
  let late := fun (q : HomeReq) => !q.unreached.isEmpty && decide (q.since + declareCycles < s.clock)
  let all := (s.core core).reqs
  let gone := fun (q : HomeReq) => all.any fun p => late p && (p == q || p.mate q)
  let hit := all.filter gone
  let s' := s.adjCore core fun c => { c with reqs := c.reqs.filter fun q => !(gone q) }
  .next (hit.foldl (fun s q => refuseReq s core q (q.unit hit) cGrain) s')

/-! ### Performing at core scope (R212) -/

/-- A store, reduction or page claim is performed at core scope and goes to its home; a DEVICE store writes its
register (R189, R212). -/
def performAtCore (s : State) (core : Nat) (r : GRef) (pasid vif : Nat) (e : SqEntry) (pa kind : Nat)
    (logged : Bool) : State :=
  if kind = 6 then regWrite s vif (pa - devBase) (e.len == 8) (BitVec.ofNat 64 (leNat e.data))
  else
    let s := noteAccess (if e.isPlain then updateL1 s core pa e.data else s) pa kind
    let q : HomeReq := { team := r.team, grp := r.grp, pasid, pa, e, result := none, order := .rlx, unreached := []
                         since := s.clock, logged }
    s.adjCore core fun c => { c with reqs := c.reqs ++ [q] }

/-! ### Logging into the Gutter (R351, R352) -/

/-- Whether an entry is a whole grain, which takes 16 Gutter entries. -/
def SqEntry.isGrain (e : SqEntry) : Bool := e.kind == .stog || e.kind == .claim
/-- Gutter entries a list takes: lanes of one instruction that share a block share an entry. -/
def gutterUse (l : List GutterEntry) : Nat :=
  16 * (l.filter fun e => e.e.isGrain).length + (((l.filter fun e => !e.e.isGrain).map fun e => e.logged).eraseDups).length

/-- Log the entries of one instruction after those already logged of it, numbering from `n`. -/
def logRun (s : State) (r : GRef) (pasid : Nat) : Nat → List GutterEntry → List SqEntry → Nat × List GutterEntry
  | n, acc, [] => (n, acc)
  | n, acc, e :: rest =>
    let pend := match place s pasid e.va e.use with | .miss _ _ _ => true | _ => false
    let mk := fun (k : Nat) => ({ team := r.team, grp := r.grp, pasid, e, logged := k, pend, since := s.clock } : GutterEntry)
    let same := acc.reverse.find? fun x => !e.isGrain && !x.e.isGrain && x.e.va / 32 == e.va / 32
    let fits := fun (x : GutterEntry) =>
      e.kind != .red || !(acc.any fun y => y.logged == x.logged && overlaps y.e.va y.e.len e.va e.len)
    match same with
    | some x =>
      if fits x then logRun s r pasid n (acc ++ [mk x.logged]) rest
      else logRun s r pasid (n + 1) (acc ++ [mk n]) rest
    | none => logRun s r pasid (n + (if e.isGrain then 16 else 1)) (acc ++ [mk n]) rest

/-- Post for a logged entry whose page is not resident; with no room the post waits (R343, R346). -/
def postGutter (s : State) (core : Nat) (g : GutterEntry) : State :=
  match place s g.pasid g.e.va g.e.use with
  | .miss need remote chain =>
    let vpn := g.e.va / 65536
    match postFault s g.pasid vpn need remote chain { core } [] with
    | .done s => s
    | .full =>
      s.adjFq (fqKey (homeOfPage s.build vpn) remote) fun q =>
        { q with starved := addOnce q.starved (.gutter core g.pasid vpn g.since) }
  | _ => s

/-- The entries of the instruction at the head of a queue. -/
def headRun (q : List SqEntry) : List SqEntry :=
  match q with
  | [] => []
  | e :: _ => q.takeWhile fun x => x.stamp == e.stamp && x.isGlobal
/-- What the head instruction would log. -/
def headLog (s : State) (t : Team) (r : GRef) (run : List SqEntry) : Nat × List GutterEntry :=
  logRun s r t.pasid (s.core t.core).logSeq [] run
/-- Whether the head instruction finds its entries free (R351). -/
def gutterRoom (s : State) (t : Team) (r : GRef) (run : List SqEntry) : Bool :=
  decide (gutterUse (s.core t.core).gutter + gutterUse (headLog s t r run).2 ≤ 1024)
/-- Log the head instruction: its entries leave the queue, and each missing page posts once. -/
def logHead (s : State) (t : Team) (r : GRef) (run : List SqEntry) : State :=
  let (n, news) := headLog s t r run
  let s := s.adjCore t.core fun c => { c with gutter := c.gutter ++ news, logSeq := n % 2 ^ 32 }
  let s := s.adjGroup r fun g => { g with storeQ := g.storeQ.filter fun e => !(run.contains e) }
  (news.filter fun g => g.pend).foldl (fun s g => postGutter s t.core g) s

/-! ### Leaving the store queue (R211, R225, R352) -/

/-- The entries of a group's queue that may leave: all but those a refusal holds back (R188). -/
def Group.leaving (g : Group) : List SqEntry := if g.blocked then [] else g.storeQ.filter fun e => decide (g.hold < e.stamp)

/-- Take several entries off the queue. -/
def popEntries (s : State) (r : GRef) (es : List SqEntry) : State :=
  s.adjGroup r fun g => { g with storeQ := g.storeQ.filter fun x => !(es.contains x) }
/-- Take the first such entry off the queue. -/
def popEntry (s : State) (r : GRef) (e : SqEntry) : State :=
  s.adjGroup r fun g => { g with storeQ := match indexOf (fun x => x == e) g.storeQ with
    | some i => dropAt g.storeQ i
    | none => g.storeQ }

/-- Whether some group of a core waits for room in its Gutter (R354). -/
def overflowWaits (s : State) (core : Nat) : List (Nat × GRef) :=
  (s.teams.filter fun t => t.core == core).flatMap fun t => t.groups.zipIdx.filterMap fun gi =>
    match gi.1.park with | some (.overflow since) => some (since, ⟨t.id, gi.2⟩) | _ => none

/-- The head goes to the Gutter, or its group waits for room there from its next boundary on (R354). -/
def toGutter (s : State) (t : Team) (r : GRef) (g : Group) (run : List SqEntry) : State :=
  if gutterRoom s t r run && (overflowWaits s t.core).isEmpty then logHead s t r run
  else if g.park.isNone && !g.exited then s.adjGroup r fun g => { g with park := some (.overflow s.clock) }
  else s

/-- The head entry of a group's store queue: what becomes of it now. -/
def leaveHead (s : State) (r : GRef) : State :=
  match s.team r.team, s.group r with
  | some t, some g =>
    match g.leaving with
    | [] => s
    | e :: rest =>
      let clear := (ownGutter s t.core r).isEmpty
      let reached := (s.core t.core).reqs.isEmpty
      match e.kind with
      | .team => if clear && !(packEarlier t r.grp e) then teamStore (popEntry s r e) t.id e.va e.data else s
      | .clt =>
        if !e.rel then teamStore (popEntry s r e) e.target e.va e.data
        else if clear && reached && copiesHold s r then
          teamStore ((popEntry s r e).dropStale t.core) e.target e.va e.data
        else s
      | .att =>
        if clear && copiesHold s r && !(packEarlier t r.grp e) then
          (teamRmw (popEntry s r e) t.id e.va e.op e.wide (BitVec.ofNat 64 (leNat e.data)) e.cmp).2
        else s
      | .bar => if clear && copiesHold s r then (popEntry s r e).adjTeam r.team fun t => arriveHeld t r.grp e.target else s
      | _ =>
        let run := headRun (e :: rest)
        if !clear then toGutter s t r g run
        else
          match place s t.pasid e.va e.use with
          | .miss _ _ _ => toGutter s t r g run
          | .trap cause _ =>
            let unit := e.unit g.leaving
            refuseStore (popEntries s r unit) r t.pasid e unit cause 0 false
          | .window _ _ => popEntry s r e
          | .at pa kind =>
            let wide := e.rel && decide (2 ≤ foldScope s.build e.scope)
            let mine := (s.core t.core).reqs.all fun q => !(q.team == r.team && q.grp == r.grp)
            if pageWaits s t.pasid (e.va / 65536) || (e.rel && !(copiesHold s r)) then s
            else if !(regionReady s pa) then wantRegion s pa
            else if kind = 6 ∧ !(if wide then reached else mine) then s
            else performAtCore (popEntry s r e) t.core r t.pasid t.vif e pa kind false
  | _, _ => s
/-- Whether an entry is a relaxed CLT store. -/
def SqEntry.isFree (e : SqEntry) : Bool := e.kind == .clt && !e.rel
/-- Whether a later entry may leave before an earlier one: one of them is a relaxed CLT store, the other neither a
release nor another store to the same target, and they do not meet in one window (R178). -/
def SqEntry.passes (later earlier : SqEntry) : Bool :=
  let apart := fun (x y : SqEntry) =>
    x.isFree && !(y.kind == .clt && y.target == x.target)
      && !(y.kind == .team && y.target == x.target && overlaps x.va x.len y.va y.len)
  apart later earlier || (apart earlier later && !later.rel && later.kind != .att && later.kind != .bar)
/-- An entry of a group's store queue leaves before those it passes (R178). -/
def leaveEarly (s : State) (r : GRef) (i : Nat) : State :=
  match s.group r with
  | none => s
  | some g =>
    match g.storeQ[i]? with
    | none => s
    | some e =>
      if g.leaving.contains e && (g.storeQ.take i).all e.passes then
        leaveHead (s.adjGroup r fun g => { g with storeQ := e :: dropAt g.storeQ i }) r
      else s
/-- The head entry is performed at core scope or logged (R352). -/
def execStoreQueueLeave (r : GRef) (s : State) : Out := .next (leaveHead s r)

/-! ### Replay (R356, R357) -/

/-- The list a replay number names: a core's Gutter, or from 256 on a chiplet's spill list (R370). -/
def replayList (s : State) (n : Nat) : List GutterEntry :=
  if n < 256 then (s.core n).gutter else Sparse.get [] s.faults.spill (n - 256)
/-- The core that performs its replays. -/
def replayCore (n : Nat) : Nat := if n < 256 then n else 32 * (n - 256)
/-- Take one entry out of the list. -/
def unlog (s : State) (n : Nat) (e : GutterEntry) : State :=
  let drop := fun (l : List GutterEntry) => match indexOf (fun x => x == e) l with | some i => dropAt l i | none => l
  if n < 256 then s.adjCore n fun c => { c with gutter := drop c.gutter }
  else { s with faults := { s.faults with spill := Sparse.set [] s.faults.spill (n - 256) (drop (Sparse.get [] s.faults.spill (n - 256))) } }

/-- The lanes of one logged entry: they replay together. -/
def lanesOf (s : State) (n : Nat) (e : GutterEntry) : List GutterEntry :=
  (replayList s n).filter fun x => x.team == e.team && x.grp == e.grp && x.logged == e.logged
/-- Replay one entry whose page is resident: performed as the original access, or refused (R357). -/
def replayEntry (s : State) (n : Nat) (e : GutterEntry) : State :=
  let r : GRef := ⟨e.team, e.grp⟩
  let unit := lanesOf s n e
  let gone := fun (s : State) => unit.foldl (fun s x => unlog s n x) s
  match translate s e.pasid e.e.va e.e.use with
  | .at pa kind =>
    if !(regionReady s pa) then wantRegion s pa
    else
      let vif := (pasidEntry s e.pasid).vif
      unit.foldl (fun s x => performAtCore s (replayCore n) r e.pasid vif x.e (pa + x.e.va - e.e.va) kind x.pend) (gone s)
  | .trap cause _ => refuseStore (gone s) r e.pasid e.e (e.unit unit) cause e.logged e.pend
  | .window _ _ => gone s
  | .miss _ _ _ => s

/-- Whether an entry's page is resident, or its translation ends otherwise. -/
def residentFor (s : State) (e : GutterEntry) : Bool :=
  match translate s e.pasid e.e.va e.e.use with | .miss _ _ _ => false | _ => true

/-- The first ready entry of a list: first of its group, not held back, its page resident and not under a handle
(R356). -/
def nextReady (s : State) (n : Nat) : Option GutterEntry :=
  (groupFirsts [] (replayList s n)).find? fun e =>
    !(gutterHeld s e) && residentFor s e && !(pageHeld s e.pasid (e.e.va / 65536))
/-- The next ready entry of a core's Gutter or of a spill list replays (R356). -/
def execGutterReplay (n : Nat) (s : State) : Out :=
  .next (match nextReady s n with | some e => replayEntry s n e | none => s)

/-- Replay the entries of a page in one list, first of each group first, at most k of them; the count and the
state. -/
def replayPageList (n pasid vpn : Nat) : Nat → Nat × State → Nat × State
  | 0, x => x
  | k + 1, (done, s) =>
    match (groupFirsts [] (replayList s n)).find? fun e =>
        e.pend && e.pasid == pasid && e.e.va / 65536 == vpn && !(gutterHeld s e) && residentFor s e with
    | none => (done, s)
    | some e => replayPageList n pasid vpn k (done + gutterUse (lanesOf s n e), replayEntry s n e)
/-- Step 1 of R356 for a page: every entry with PEND for it, on every core and spill list. -/
def replayPage (s : State) (pasid vpn : Nat) : Nat × State :=
  let names := s.cores.map (·.1) ++ s.faults.spill.map fun k => 256 + k.1
  names.foldl (fun x n => replayPageList n pasid vpn (replayList x.2 n).length x) (0, s)

/-- Room frees in a core's Gutter: the group that has waited longest logs and goes on (R354). -/
def execGutterOverflowRelease (core : Nat) (s : State) : Out :=
  let w := overflowWaits s core
  match w.find? fun x => w.all fun y => decide (x.1 ≤ y.1) with
  | none => .next s
  | some (_, r) =>
    match s.team r.team, s.group r with
    | some t, some g =>
      let run := headRun g.leaving
      if gutterRoom s t r run then
        .next (afterLanding ((logHead s t r run).adjGroup r fun g => { g with park := none }) r)
      else .next s
    | _, _ => .next s

/-! ### Room in a fault queue (R346) -/

/-- Post for the first access that waits for room: it parks on its page, or its engine or entry is recorded. -/
def postStarved (s : State) (key : Nat) (w : Waiter) : State :=
  let drop := fun (s : State) => s.adjFq key fun q => { q with starved := q.starved.drop 1 }
  match w with
  | .group r _ =>
    match s.team r.team, s.group r with
    | some t, some g =>
      match g.park with
      | some (.queueFull remote vpn va need chain info) =>
        match postFault (drop s) t.pasid vpn need remote chain { core := t.core, turn := true } [w] with
        | .done s => s.adjGroup r fun g => { g with park := some (.fault t.pasid vpn va info) }
        | .full => s
      | _ => drop s
    | _, _ => drop s
  | .engine id need =>
    match s.copies.find? fun c => c.id == id with
    | some c =>
      match c.waiting with
      | some (pasid, vpn) =>
        match postFault (drop s) pasid vpn need (key % 2 == 1) (chainBroken s pasid vpn) { engno := some c.engine, turn := true } [w] with
        | .done s => s
        | .full => s
      | none => drop s
    | none => drop s
  | .gutter core pasid vpn since =>
    let stands := (gutterLists s).any fun l => l.any fun e => e.pend && e.pasid == pasid && e.e.va / 65536 == vpn
    if stands then
      match postFault (drop s) pasid vpn 2 (key % 2 == 1) (chainBroken s pasid vpn) { core, since := some since, turn := true } [] with
      | .done s => s
      | .full => s
    else drop s
  | .signal v q =>
    match s.queues.regs.find? fun r => r.vif == v && r.q == q with
    | some r => postSignal (drop s) r true
    | none => drop s
  | .queue n pasid vpn need =>
    match postFault (drop s) pasid vpn need (key % 2 == 1) (chainBroken s pasid vpn) { qslot := some n, turn := true } [w] with
    | .done s => s
    | .full => s
  | .discard r vpn => discardTurn (drop s) r vpn
  | .window id pasid vpn need =>
    if (s.fabric.ops.any fun o => o.id == id) || s.fabric.waiting.any fun x => x.id == id then
      match postFault (drop s) pasid vpn need (key % 2 == 1) (chainBroken s pasid vpn) { turn := true } [w] with
      | .done s => s
      | .full => s
    else drop s
/-- An entry of a fault queue frees: the earliest waiting access posts (R346). -/
def execFaultQueueFree (key : Nat) (s : State) : Out :=
  let q := s.fq key
  match q.starved with
  | [] => .next s
  | w :: _ => .next (if q.entries.length < 1024 then postStarved s key w else s)

/-! ### Host regions (R338, R339, R417) -/

/-- The transfer to ACCEL ends: the processor's copies are written back and dropped (R338). -/
def execHostsharedToAccelDone (q : Nat) (s : State) : Out :=
  let r := s.region q
  .next (if r.state = 2 then s.setRegion q { r with state := 1, since := s.clock } else s)

/-- Drop every L1 and RDC copy of a region (R338). -/
def dropRegion (s : State) (q : Nat) : State :=
  let inside := fun (pa : Nat) => decide (hostBase ≤ pa) && regionOf pa == q
  let s := s.mapCores fun _ c => { c with l1 := c.l1.filter fun l => !(inside (l.line * 128)) }
  { s with
    dir := { s.dir with
      lines := s.dir.lines.filter fun e => !(inside (e.1 * 128))
      owners := s.dir.owners.filter fun e => !(inside (e.1 * 512)) } }
/-- A transfer to HOST begins: the region's modified lines are written back and its copies go (R338). -/
def startToHost (s : State) (q : Nat) : State := s.setRegion q { s.region q with state := 3, since := s.clock }
/-- A transfer to HOST ends: a snooped line that was asked for is returned first, modified lines have been written
back, every copy is dropped, and the snoops are answered (R338, R417). -/
def toHost (s : State) (q : Nat) : State :=
  let l := (s.region q).snoops
  let s := (l.filter fun x => x.2).foldl (fun s x => send s (.snoopData x.1 (homeBytes s x.1 64))) s
  let s := (dropRegion s q).setRegion q { state := 0, since := s.clock, snoops := [] }
  l.foldl (fun s x => send s (.snoopReply x.1)) s

/-- The end of a transfer to HOST under way. -/
def endToHost (s : State) (q : Nat) : State := if (s.region q).state = 3 then toHost s q else s

/-- A host snoop of a line of an ACCEL region: SnpData and SnpCur have the line returned first; the region goes to the
host once it has been ACCEL for 8,192 cycles, and the snoop is answered at the end of that transfer. A snoop of a
region on its way waits (R338, R339, R417). -/
def execHostSnoop (x : Snoop) (s : State) : Out :=
  if x.pa < hostBase ∨ hostBase + hostBytes ≤ x.pa then .next s
  else
    let q := regionOf x.pa
    let r := s.region q
    let line := x.pa / 64 * 64
    if r.state = 1 then
      let u := s.setRegion q { r with snoops := r.snoops ++ [(line, false)] }
      let u := if x.kind = .inv then u else send u (.snoopData line (homeBytes s line 64))
      .next (if r.since + 8192 ≤ s.clock then startToHost u q else u)
    else .next (if r.state = 2 ∨ r.state = 3 then s.setRegion q { r with snoops := r.snoops ++ [(line, x.kind != .inv)] } else s)
/-- A region has been ACCEL for 8,192 cycles and the host waits for it (R339). -/
def execHostsharedAccelHoldExpiry (q : Nat) (s : State) : Out :=
  let r := s.region q
  .next (if r.state = 1 ∧ r.snoops ≠ [] ∧ r.since + 8192 ≤ s.clock then startToHost s q else s)

/-- Teams with an access that has waited on a region for longer than their interface's deadline (R339). -/
def lateOnRegion (s : State) (q : Nat) : List Nat :=
  let late := fun (t : Team) (since : Nat) => decide (since + faultDeadline s t.vif < s.clock)
  let onQ := fun (t : Team) (since : Nat) (e : SqEntry) =>
    e.isGlobal && late t (max since (s.region q).since) &&
      (match translate s t.pasid e.va e.use with | .at pa _ => decide (hostBase ≤ pa) && regionOf pa == q | _ => false)
  (s.teams.filter fun t =>
    (t.groups.any fun g =>
      (match g.park with | some (.hostWait q' since) => q' == q && late t since | _ => false)
        || g.storeQ.any (fun e => onQ t e.stamp e)
        || (s.core t.core).reqs.any fun r => r.team == t.id && onQ t r.since r.e)
      || (gutterLists s).any fun l => l.any fun e => e.team == t.id && onQ t e.since e.e).map fun t => t.id
/-- Accesses still waiting on a transfer at the fault deadline end as fatal faults (R339): teams end, copies with
ERROR, and window operations as an engine's (R242, R409). -/
def execHostsharedTransferDeadline (q : Nat) (s : State) : Out :=
  if (s.region q).state = 1 then .next s
  else
    let copies := s.copies.filter fun c => regionLate s q c.since (faultDeadline s c.vif)
    let ops := s.fabric.ops.filter fun o => regionLate s q o.since (faultDeadline s o.vif)
    let waits := s.fabric.waiting.filter fun w => regionLate s q w.since (faultDeadline s w.req.vif)
    let s := (lateOnRegion s q).foldl (fun s t => fatalEnd s t cTranslation) s
    let s := copies.foldl (fun s c => failCopy s c.id cTranslation) s
    .next ((ops.map (fun o => o.id) ++ waits.map fun w => w.id).foldl (fun s id => refuseWindow s id cTranslation) s)

end Sys2Proof.Machine
end

