-- ==== Sys2Proof/Machine/Matrix.lean ====
section
/-! DEFINITION. Matrix arrays: the arithmetic of a round (R61 to R66, R75 to R77, R278 to R280), the matrix queue (R266,
R267, R279), signing (R268 to R271), WLOAD, ZCTL, ZRD and ZWR (R272 to R276, R281), and the slot table (R285 to R287). -/

namespace Sys2Proof.Machine

/-! ### Elements (R57 to R64) -/

/-- Whether a format is INT8, UINT8 or INT4 (R75). -/
def Fmt.isInt (f : Fmt) : Bool := f == .int8 || f == .uint8 || f == .int4
/-- K of an activation format (R68). -/
def kOf (f : Fmt) : Nat := 1024 / f.bits
/-- The depth of a WLOAD code (R272). -/
def depthOf (c : BitVec 2) : Nat := 32 * 2 ^ c.toNat
/-- The group size of a G code (R44). -/
def groupSize (g : BitVec 2) : Nat := 32 * 2 ^ g.toNat

/-- The value of an element code; an integer zero counts as +0 (R58, R62, R76). -/
def elemVal (f : Fmt) (code : Nat) : FVal :=
  match f with
  | .mxint8 => .fin (Dy.ofInt (intOf .int8 code) (-6) false)
  | .int8 => .fin (Dy.ofInt (intOf .int8 code) 0 false)
  | .uint8 => .fin (Dy.ofInt (intOf .uint8 code) 0 false)
  | .int4 => .fin (Dy.ofInt (intOf .int4 code) 0 false)
  | f => (layoutOf f).decode code
/-- An element under its E8M0 scale (R63, R64). -/
def scaleBy (v : FVal) (s : Nat) : FVal :=
  if s = 255 then .nan else match v with | .fin x => .fin (x.scale ((s : Int) - 127)) | v => v

/-- Element k of a run of bytes that begins at `base`, in the storage of R61. -/
def storedElem (m : Mem) (base : Nat) (f : Fmt) (k : Nat) : Nat :=
  readLE m (base + k * f.bits / 8) (max 1 (f.bits / 8)) / 2 ^ (k * f.bits % 8) % 2 ^ elemBitsOf f

/-! ### Operands of a round (R273, R278) -/

/-- Activation word j of set lane m (R278). -/
def Latch.word (a : Latch) (m j : Nat) : Nat := (Sparse.get 0 a.rows (8 * m + j)).toNat
/-- Code of element k of activation row i (R278). -/
def Latch.code (a : Latch) (i k : Nat) : Nat :=
  a.word (32 * (i % 2) + k * a.fmt.bits / 32) (i / 2) / 2 ^ (k * a.fmt.bits % 32) % 2 ^ elemBitsOf a.fmt
/-- The scale of block j of row i: a byte of set lane i's scale registers (R278). -/
def Latch.scale (a : Latch) (i j : Nat) : Nat := (Sparse.get 0 a.scales (2 * i + j / 4)).toNat / 2 ^ (8 * (j % 4)) % 256
/-- The values of activation row i. -/
def Latch.row (a : Latch) (i : Nat) : List FVal :=
  (List.range (kOf a.fmt)).map fun k =>
    let v := elemVal a.fmt (a.code i k)
    if a.fmt.isMx then scaleBy v (a.scale i (k / 32)) else v
/-- The integers of activation row i. -/
def Latch.ints (a : Latch) (i : Nat) : List Int := (List.range (kOf a.fmt)).map fun k => intOf a.fmt (a.code i k)
/-- What the signers of a round captured. -/
def captured (fmt : Fmt) (ss : List Signer) : Latch :=
  let put := fun (n : Nat) (m : Sparse Word) (x : Nat × Word) => Sparse.set 0 m (n + x.1) x.2
  let num := fun (l : List Word) => (List.range l.length).zip l
  { fmt
    rows := ss.foldl (fun m x => (num x.regs).foldl (put (8 * x.m)) m) []
    scales := ss.foldl (fun m x => (num x.scales).foldl (put (2 * x.m)) m) [] }

/-- A loaded weight buffer (R264). -/
structure Weights where
  fmt : Fmt
  depth : Nat
  group : Nat
  elems : Mem
  side : Mem
  badE : List Nat
  badS : List Nat
  deriving DecidableEq, Repr

/-- Code of element k of column c (R273). -/
def Weights.code (w : Weights) (c k : Nat) : Nat := storedElem w.elems (c * (w.depth * w.fmt.bits / 8)) w.fmt k
/-- The values of column c under its MX scales (R273). -/
def Weights.col (w : Weights) (c : Nat) : List FVal :=
  (List.range w.depth).map fun k =>
    let v := elemVal w.fmt (w.code c k)
    if w.fmt.isMx then scaleBy v (readByte w.side (c * w.depth / 32 + k / 32)).toNat else v
/-- The integers of column c. -/
def Weights.ints (w : Weights) (c : Nat) : List Int := (List.range w.depth).map fun k => intOf w.fmt (w.code c k)
/-- Groups of a column. -/
def Weights.groups (w : Weights) : Nat := (w.depth + w.group - 1) / w.group

/-- Whether a word of column c's elements, scales or zero points holds an uncorrectable error (R273, R283). -/
def Weights.badCol (w : Weights) (c : Nat) : Bool :=
  w.badE.any (fun e => 4 * e / (w.depth * w.fmt.bits / 8) == c)
    || w.badS.any fun e =>
      if w.fmt.isMx then decide (4 * e / (w.depth / 32) ≤ c) && decide (c ≤ (4 * e + 3) / (w.depth / 32))
      else w.fmt.isQa && e / w.groups == c

/-! ### Accumulation (R66, R76, R77) -/

/-- An exact sum or product as an addend. -/
def FRes.addend : FRes → FVal
  | .val x => .fin x
  | .inf n => .inf n
  | .nan _ => .nan
/-- The exact sum of a list of products (R66). -/
def exactSum : List FVal → FVal
  | [] => .fin Dy.zero
  | [x] => x
  | x :: r => (fAdd x (exactSum r)).addend
/-- The group terms of a QA column against a row (R66). -/
def qaTerms (w : Weights) (c : Nat) (row : List FVal) : List FVal :=
  (List.range w.groups).map fun g =>
    let at4 := 4 * (c * w.groups + g)
    let sc := fp16.decode (readLE w.side at4 2)
    let zp : Int := ((readByte w.side (at4 + 2)).toNat : Nat)
    let ks := (runOf (g * w.group) w.group).filter fun k => k < w.depth
    let ps := ks.map fun k => (fMul (row.getD k .nan) (.fin (Dy.ofInt ((w.code c k : Int) - zp) 0 false))).addend
    (fMul sc (exactSum ps)).addend
/-- The terms of one output element (R76). -/
def floatTerms (w : Weights) (c : Nat) (row : List FVal) : List FVal :=
  if w.fmt.isQa then qaTerms w c row else (row.zip (w.col c)).map fun p => (fMul p.1 p.2).addend

/-- Status bits a float result sets: NAN and INF (R282). -/
def floatStatus (v : Word) : BitVec 4 :=
  match f32 v with | .nan => 2 | .inf _ => 4 | .fin _ => 0
/-- IntAccumulate (R77): the word and IOV. -/
def intAccumulate (acc : Int) (a w : List Int) : Word × BitVec 4 :=
  let s := ((a.zip w).map fun p => p.1 * p.2).foldl (· + ·) acc
  (BitVec.ofInt 32 s, if s < -2147483648 ∨ 2147483647 < s then 1 else 0)

/-- One output element of a round: word and status bits (R279). -/
def roundElem (a : Latch) (w : Weights) (acc : Bool) (old : Word) (row : List FVal) (ints : List Int) (c : Nat) :
    Word × BitVec 4 :=
  if Fmt.isInt a.fmt && Fmt.isInt w.fmt then intAccumulate (if acc then old.toInt else 0) ints (w.ints c)
  else
    let v := (floatAccumulate (floatTerms w c row ++ [if acc then f32 old else .fin Dy.zero])).1
    (v, floatStatus v)
/-- Whether an output word of a round is computed from a word with an uncorrectable error (R283). -/
def outBad (w : Weights) (acc : Bool) (t : Tile) (i c : Nat) : Bool := w.badCol c || (acc && t.bad.contains (128 * i + c))
/-- Whether a round meets an uncorrectable error (R283). -/
def roundBad (w : Weights) (acc : Bool) (t : Tile) : Bool :=
  (List.range 16).any fun i => (List.range 128).any fun c => outBad w acc t i c
/-- An output word computed from a bad word: a free value, the status bits it sets, and ERR (R283). -/
def freeElem (a : Latch) (w : Weights) (free n : Nat) : Word × BitVec 4 :=
  let v := Config.freeWord (free + 2 * n)
  (v, 8 ||| if Fmt.isInt a.fmt && Fmt.isInt w.fmt then (Config.freeWord (free + 2 * n + 1)).setWidth 4 &&& 1 else floatStatus v)
/-- A round over a whole tile (R279, R283); `free` numbers the first free value. -/
def roundTile (a : Latch) (w : Weights) (acc : Bool) (free : Nat) (t : Tile) : Tile :=
  let out := (List.range 16).flatMap fun i =>
    let row := a.row i
    let ints := a.ints i
    (List.range 128).map fun c =>
      (128 * i + c,
       if outBad w acc t i c then freeElem a w free (128 * i + c)
       else roundElem a w acc (Sparse.get 0 t.words (128 * i + c)) row ints c)
  { words := (out.filter fun e => e.2.1 ≠ 0).map fun e => (e.1, e.2.1)
    status := out.foldl (fun b e => b ||| e.2.2) t.status, bad := [] }

/-! ### The team's context (R263, R264) -/

/-- An EMPTY buffer. -/
def WBuf.empty : WBuf := { loaded := none, elems := [], side := [], badE := [], badS := [] }
/-- Weight buffer 0 or 1 of a team. -/
def Team.buf (t : Team) (n : Nat) : WBuf := Sparse.get WBuf.empty t.bufs n
/-- The active buffer, when LOADED. -/
def Team.weights (t : Team) : Option Weights :=
  let b := t.buf t.activeBuf
  b.loaded.map fun l => { fmt := l.1, depth := l.2.1, group := l.2.2, elems := b.elems, side := b.side, badE := b.badE, badS := b.badS }
/-- Store the shadow buffer. -/
def Team.setShadow (t : Team) (b : WBuf) : Team := { t with bufs := Sparse.set WBuf.empty t.bufs (1 - t.activeBuf) b }
/-- A cleared tile. -/
def Tile.empty : Tile := { words := [], status := 0, bad := [] }
/-- Tile n of a team. -/
def Team.tile (t : Team) (n : Nat) : Tile := Sparse.get Tile.empty t.tiles n
/-- Store tile n. -/
def Team.setTile (t : Team) (n : Nat) (v : Tile) : Team := { t with tiles := Sparse.set Tile.empty t.tiles n v }

/-! ### The checks of a round (R265, R279) -/

/-- Whether an activation and a weight format form a pair (R265). -/
def pairOk (a w : Fmt) : Bool :=
  let narrow := fun (f : Fmt) => f == .e4m3 || f == .e5m2 || f == .e3m2 || f == .e2m3 || f == .e2m1
  if a == .fp32 then w == .fp32
  else if a == .bf16 then w == .bf16 || w.isQa
  else if a == .fp16 then w == .fp16 || w.isQa
  else if a.isMx then w.isMx
  else if Fmt.isInt a then Fmt.isInt w || w.isQa
  else narrow a && (narrow w || w.isQa)
/-- The first check of R279 a round fails. -/
def roundFault (t : Team) (fmt : Fmt) : Option Nat :=
  match t.weights with
  | none => some 1
  | some w =>
    if !(pairOk fmt w.fmt) then some 2
    else if w.depth ≠ kOf fmt then some 3
    else match t.latch with | some l => if l.fmt = fmt then none else some 4 | none => none

/-! ### The queue head (R267, R279) -/

/-- A signer of an accepted round goes on past its MMA, in the group or in its saved context (R270). -/
def releaseSigner (s : State) (team : Nat) (x : Signer) : State :=
  let r : GRef := ⟨team, x.grp⟩
  s.adjGroup r fun g =>
    match g.frame with
    | some f =>
      { g with frame := some { f with pcs := f.pcs.map fun e => if e.1 = x.lane ∧ e.2 = x.pc then (e.1, x.pc + 8) else e } }
    | none =>
      g.adjLane x.lane fun l => if !l.exited ∧ l.pc = x.pc then { l with pc := x.pc + 8, park := none } else l
/-- Groups with a signer. -/
def signerGroups (ss : List Signer) : List Nat := (ss.map fun x => x.grp).eraseDups
/-- The shadow buffer is EMPTY while a WLOAD that may start has not completed (R267, R274). -/
def startLoad (t : Team) : Team :=
  match t.mq.find? fun e => match e.kind with | .wload _ _ _ _ => true | .wact => true | _ => false with
  | some { kind := .wload _ _ _ _, .. } => t.setShadow WBuf.empty
  | _ => t
/-- A round at the queue head is checked: accepted, or discarded with MATRIX_FORMAT for its groups, at most n rounds in
a row (R279). -/
def checkHeads (team : Nat) : Nat → State → State
  | 0, s => s
  | n + 1, s =>
    match s.team team with
    | none => s
    | some t =>
      match t.mq with
      | { kind := .mma x ss, passed := false, entered } :: rest =>
        match roundFault t x.fmt with
        | none =>
          let e : MqEntry := { kind := .mma x ss, passed := true, entered }
          let s := s.adjTeam team fun t => { t with mq := e :: rest }
          ss.foldl (fun s y => releaseSigner s team y) s
        | some code =>
          let s := s.adjTeam team fun t => { t with mq := rest }
          checkHeads team n ((signerGroups ss).foldl
            (fun s g => roundTrap s team x.k.toNat ss cMatrixFormat (infoMatrix x.z.toNat 0 0 code) g) s)
      | _ => s
/-- The queue has changed: what may start and what stands at its head. -/
def queueMoved (s : State) (team : Nat) : State := checkHeads team 8 (s.adjTeam team startLoad)
/-- Put an entry into a team's queue. -/
def enterQueue (s : State) (team : Nat) (k : MqKind) : State :=
  queueMoved (s.adjTeam team fun t => { t with mq := t.mq ++ [{ kind := k, entered := s.clock, passed := false }] }) team
/-- Whether a queue of eight is full (R266). -/
def mqFull (t : Team) : Bool := decide (8 ≤ t.mq.length)

/-! ### Signing (R268 to R271, R277, R278) -/

/-- A convergence register of a team. -/
def Team.kreg (t : Team) (k : Nat) : KReg := Sparse.get .idle t.kregState k
/-- Store a convergence register. -/
def Team.setKreg (t : Team) (k : Nat) (v : KReg) : Team := { t with kregState := Sparse.set .idle t.kregState k v }

/-- The lane registers an MMA captures: eight rows, and its scales (R277). -/
def scaleRegs (x : Mma) : List Nat := if x.fmt.isMx then runOf x.b.toNat (if x.fmt = .mxe2m1 then 2 else 1) else []
/-- The two words of an MMA but for its S bit (R270). -/
def mmaWords (x : Mma) : Word × Word :=
  let w := encode (.mma { x with s := false })
  (w.getD 0 0, w.getD 1 0)
/-- The set lane index of a lane, when it lies in the set (R268). -/
def setLane (t : Team) (grp L g0 : Nat) : Option Nat :=
  let n := grp * t.width + L
  if g0 * t.width ≤ n ∧ n < g0 * t.width + 64 then some (n - g0 * t.width) else none
/-- The checks of R270 in one lane: LANE and CODE. -/
def signFault (t : Team) (grp L : Nat) (x : Mma) : Option (Nat × Nat) :=
  match t.kreg x.k.toNat with
  | .idle => some (L, 6)
  | .armed g0 => if (setLane t grp L g0).isNone then some (L, 7) else none
  | .opened g0 w u _ =>
    match setLane t grp L g0 with
    | none => some (L, 7)
    | some m => if (w, u) = mmaWords x then none else some (m, 8)
/-- The signatures of the active lanes. -/
def signatures (c : Ctx) (x : Mma) (g0 : Nat) : List Signer :=
  c.I.map fun L =>
    { m := (setLane c.t c.r.grp L g0).getD 0, grp := c.r.grp, lane := L, pc := c.pc
      regs := (runOf x.a.toNat 8).map fun v => c.g.readLane L v
      scales := (scaleRegs x).map fun v => c.g.readLane L v }
/-- Park the issuing lanes at an MMA. -/
def parkSigners (c : Ctx) (k : Nat) (s : State) : State :=
  s.adjGroup c.r fun g => c.I.foldl (fun g L => g.adjLane L fun l => { l with park := some (.mma k) }) g
/-- Signatures with those of an issue added: a lane that signs again, from a handler or after its PC was changed, counts
once (R270; log 88). -/
def addSignatures (before new : List Signer) : List Signer :=
  before.filter (fun x => !(new.any fun y => y.grp == x.grp && y.lane == x.lane)) ++ new
/-- The lanes sign: the round stays open, or closes and enters the queue (R270). -/
def signRound (c : Ctx) (x : Mma) (g0 : Nat) (before : List Signer) : Res :=
  let k := x.k.toNat
  let ss := addSignatures before (signatures c x g0)
  if ss.length < 64 then
    .moved (parkSigners c k (c.s.adjTeam c.r.team fun t => t.setKreg k (.opened g0 (mmaWords x).1 (mmaWords x).2 ss)))
  else if mqFull c.t then .park .matrixQueue c.s
  else
    let s := parkSigners c k (c.s.adjTeam c.r.team fun t => t.setKreg k (.armed g0))
    .moved (enterQueue s c.r.team (.mma x ss))
/-- Registers, tile and convergence register an MMA names. -/
def Mma.names (x : Mma) : Names :=
  Names.add (readsV (runOf x.a.toNat 8 ++ scaleRegs x)) { z := [x.z.toNat], k := [x.k.toNat] }

/-- The trap of a discarded round that issuing lanes still have to take (R271, R279). -/
def owedHere (c : Ctx) : Option Owed := c.g.owed.find? fun o => o.pc == c.pc && o.lanes.any c.I.contains
/-- MMA: each active lane signs; a lane that may not traps for its group (R270). Lanes whose round was discarded while
they were away take its trap instead (R271, R279). -/
def execMma (x : Mma) (s : State) : Out :=
  issue s (Mma.names x) 8 x.s false fun c =>
    match owedHere c with
    | some o =>
      .moved (takeTrap (c.s.adjGroup c.r fun g => { g with owed := g.owed.filter fun p => p ≠ o }) c.r
        (c.mkTrap o.cause 0 o.info) c.I [])
    | none =>
    match firstFault c.I fun L => signFault c.t c.r.grp L x with
    | some (_, lane, code) => .trap (c.mkTrap cConvergence 0 (infoMatrix x.k.toNat 0 lane code))
    | none =>
      match c.t.kreg x.k.toNat with
      | .armed g0 => signRound c x g0 []
      | .opened g0 _ _ ss => signRound c x g0 ss
      | .idle => .ok c.s

/-- The first lane of a set that has exited, by set index (R269). -/
def exitedLane (t : Team) (g0 : Nat) : Option Nat :=
  (List.range 64).find? fun m =>
    match t.groups[g0 + m / t.width]? with | some g => (g.lane (m % t.width)).exited | none => true
/-- KSET (R269). -/
def execKset (x : KSet) (s : State) : Out :=
  issue s (Names.add (readsU [x.a.toNat]) { z := [0], k := [x.k.toNat] }) 4 x.s false fun c =>
    let k := x.k.toNat
    let v := (c.g.readUni x.a.toNat).toNat
    let trap := fun (lane code : Nat) => Res.trap (c.mkTrap cConvergence 0 (infoMatrix k 3 lane code))
    let isOpen : Bool := match c.t.kreg k with | .opened _ _ _ _ => true | _ => false
    if isOpen then trap 0 9
    else if 16 ≤ v ∨ c.t.groups.length < v + 64 / c.t.width then trap 0 10
    else
      match exitedLane c.t v with
      | some m => trap m 11
      | none => .ok (c.s.adjTeam c.r.team fun t => t.setKreg k (.armed v))

/-! ### WLOAD, ZCTL (R272 to R276) -/

/-- Element bytes of a WLOAD (R272). -/
def WLoad.elemBytes (x : WLoad) : Nat := depthOf x.depth * 128 * x.fmt.bits / 8
/-- Block or group bytes of a WLOAD (R272). -/
def WLoad.sideBytes (x : WLoad) : Nat :=
  if x.fmt.isMx then 128 * depthOf x.depth / 32
  else if x.fmt.isQa then 512 * ((depthOf x.depth + groupSize x.g - 1) / groupSize x.g) else 0
/-- The checks of R166 on a range with an alignment. -/
def rangeTrap (c : Ctx) (align n off : Nat) : Option TrapRec :=
  let at_ := fun (cause : Cause) (code : Nat) => some (c.mkTrap cause (BitVec.ofNat 64 off) (infoTeam 0 code))
  if off % align ≠ 0 then at_ cMisalign 7 else if c.t.window < off + n then at_ cTeamBounds 1 else none

/-- WLOAD: checked, then it enters the queue and its group parks (R273, R274). -/
def execWload (x : WLoad) (s : State) : Out :=
  issue s (Names.add (readsU [x.a.toNat, x.b.toNat]) { z := [0] }) 8 x.s false fun c =>
    let elems := (c.g.readUni x.a.toNat).toNat
    let side := (c.g.readUni x.b.toNat).toNat
    let bad := match rangeTrap c 128 (WLoad.elemBytes x) elems with
      | some t => some t
      | none => if WLoad.sideBytes x = 0 then none else rangeTrap c 16 (WLoad.sideBytes x) side
    match bad with
    | some t => .trap t
    | none =>
      if acquirePending c.s c.t.core c.r c.g then .park .recall c.s
      else if mqFull c.t then .park .matrixQueue c.s
      else
        let s := c.s.adjTeam c.r.team fun t => { t with wloads := t.wloads + 1 }
        .park .wload (enterQueue s c.r.team (.wload x c.r.grp elems side))

/-- Enter the queue and go on. -/
def queueOp (c : Ctx) (k : MqKind) : Res :=
  if mqFull c.t then .park .matrixQueue c.s else .ok (enterQueue c.s c.r.team k)
/-- ZCLR (R275). -/
def execZclr (x : ZTile) (s : State) : Out :=
  issue s { z := [x.z.toNat] } 4 x.s false fun c => queueOp c (.zclr x.z.toNat)
/-- WACT; CODE 5 when no WLOAD has been issued since the last one (R275). -/
def execWact (settle : Bool) (s : State) : Out :=
  issue s { z := [0] } 4 settle false fun c =>
    if c.t.wloads = 0 then .trap (c.mkTrap cMatrixFormat 0 (infoMatrix 0 2 0 5))
    else if mqFull c.t then .park .matrixQueue c.s
    else .ok (enterQueue (c.s.adjTeam c.r.team fun t => { t with wloads := 0 }) c.r.team .wact)
/-- ZSTT and ZLDT: checked at issue; the group parks past the instruction until the transfer is done (R276). -/
def tileMove (x : ZMem) (s : State) (k : Nat → Nat → MqKind) : Out :=
  issue s (Names.add (readsU [x.a.toNat]) { z := [x.z.toNat] }) 4 x.s false fun c =>
    let off := (c.g.readUni x.a.toNat).toNat
    match rangeTrap c 16 8192 off with
    | some t => .trap t
    | none =>
      if acquirePending c.s c.t.core c.r c.g then .park .recall c.s
      else if mqFull c.t then .park .matrixQueue c.s
      else
        .ok ((enterQueue c.s c.r.team (k c.r.grp off)).adjGroup c.r fun g => { g with park := some .ztransfer })
/-- ZSTT (R276). -/
def execZstt (x : ZMem) (s : State) : Out := tileMove x s fun g off => .zstt x.z.toNat g off
/-- ZLDT (R276). -/
def execZldt (x : ZMem) (s : State) : Out := tileMove x s fun g off => .zldt x.z.toNat g off

/-! ### ZRD and ZWR (R281) -/

/-- The set position of a lane: %teamlane mod 64. -/
def tileLane (c : Ctx) (L : Nat) : Nat := (c.r.grp * c.t.width + L) % 64
/-- ZRD: its result is outstanding until its entry is performed (R281). -/
def execZrd (x : ZMove) (s : State) : Out :=
  issue s (Names.add (writesV (runOf x.d.toNat 2)) (Names.add (Src.names x.b) { z := [x.z.toNat] })) 4 x.s false fun c =>
    if mqFull c.t then .park .matrixQueue c.s
    else
      let id := c.s.fresh
      let s := addDeferred c.s c.r (runOf x.d.toNat 2) [] [] [] 0 1
      let lanes := c.I.map fun L => (L, tileLane c L, c.g.src L x.b)
      .ok (enterQueue s c.r.team (.zrd x.z.toNat c.r.grp id lanes x.d.toNat))
/-- ZWR: its data is read at issue (R281). -/
def execZwr (x : ZMove) (s : State) : Out :=
  issue s (Names.add (readsV (runOf x.d.toNat 2)) (Names.add (Src.names x.b) { z := [x.z.toNat] })) 4 x.s false fun c =>
    let lanes := c.I.map fun L =>
      (tileLane c L, c.g.src L x.b, c.g.readLane L x.d.toNat, c.g.readLane L (x.d.toNat + 1))
    queueOp c (.zwr x.z.toNat (c.g.readLane (c.I.headD 0) x.d.toNat) lanes)

/-- The pair a lane of a ZRD receives (R281). -/
def zrdPair (t : Tile) (m : Nat) (b : Word) : Word × Word :=
  let at_ := fun (c : Nat) => Sparse.get 0 t.words (128 * bvGet b 0 4 + c)
  if b.getLsbD 4 then (t.status.setWidth 32, 0) else (at_ m, at_ (64 + m))
/-- What one lane of a ZWR does to a tile (R281, R282). -/
def zwrLane (clr : Word) (t : Tile) (x : Nat × Word × Word × Word) : Tile :=
  let j := bvGet x.2.1 0 4
  if x.2.1.getLsbD 4 then { t with status := t.status &&& ~~~ (clr.setWidth 4) }
  else { t with words := Sparse.set 0 (Sparse.set 0 t.words (128 * j + x.1) x.2.2.1) (128 * j + 64 + x.1) x.2.2.2,
                  bad := t.bad.filter fun n => n ≠ 128 * j + x.1 ∧ n ≠ 128 * j + 64 + x.1 }

/-! ### Performing entries (R267, R275, R276, R279 to R281) -/

/-- Array cycles of an entry (R284). -/
def MqKind.cycles : MqKind → Nat
  | .mma x _ => if x.fmt = .fp32 then 64 else 16
  | .zclr _ => 16
  | .zstt _ _ _ => 32
  | .zldt _ _ _ => 32
  | _ => 1
/-- A round executes (R279, R280, R283). -/
def performRound (t : Team) (free : Nat) (x : Mma) (ss : List Signer) : Team :=
  match t.weights with
  | none => t
  | some w =>
    let a := match t.latch with | some l => l | none => captured x.fmt ss
    { t.setTile x.z.toNat (roundTile a w x.acc free (t.tile x.z.toNat)) with latch := if x.reuse then some a else none }
/-- Whether a round of a team meets an uncorrectable error (R283). -/
def Team.roundBad (t : Team) (x : Mma) : Bool :=
  match t.weights with | some w => Machine.roundBad w x.acc (t.tile x.z.toNat) | none => false
/-- SOFT for a group with a lane in a round that met an uncorrectable error (R283, R288). -/
def softTrap (z : Nat) : TrapRec := { cause := cSoft, addr := 0, inst := 0, info := infoMatrix z 6 0 12, block := 0 }
/-- What a round comes to for its team and for the groups that signed it (R279, R283). -/
def roundEffect (s : State) (t : Team) (x : Mma) (ss : List Signer) : State :=
  let s' := s.adjTeam t.id fun u => performRound u s.free x ss
  if t.roundBad x then
    (signerGroups ss).foldl (fun s g => takeImprecise s ⟨t.id, g⟩ (softTrap x.z.toNat)) { s' with free := s.free + 4096 }
  else s'
/-- The words of a tile as the bytes of R276. -/
def tileBytes (t : Tile) : Mem := t.words.foldl (fun m e => writeLE m (4 * e.1) 4 e.2.toNat) []
/-- The tile of 8,192 bytes (R276). -/
def tileOfBytes (m : Mem) (st : BitVec 4) : Tile :=
  { words := ((m.map fun c => c.1 / 4).eraseDups).foldl (fun ws i => Sparse.set 0 ws i (BitVec.ofNat 32 (readLE m (4 * i) 4))) []
    status := st &&& 7, bad := [] }

/-- A group parked on a tile transfer goes on (R276). -/
def endTransfer (s : State) (r : GRef) : State :=
  afterLanding (s.adjGroup r fun g => if g.park = some .ztransfer then g.unpark else g) r
/-- What an entry does once it starts. -/
def performEntry (s : State) (t : Team) (k : MqKind) : State :=
  match k with
  | .mma x ss => roundEffect s t x ss
  | .wload _ _ _ _ => s
  | .wact => s.adjTeam t.id fun t =>
      ({ t with activeBuf := 1 - t.activeBuf } : Team).setShadow WBuf.empty
  | .zclr z => s.adjTeam t.id fun t => t.setTile z Tile.empty
  | .zstt z g off =>
    let s := s.adjTeam t.id fun t => { t with
      tmem := pasteMem t.tmem off 8192 (tileBytes (t.tile z))
      badT := t.badT.filter fun w => !(decide (off ≤ 4 * w) && decide (4 * w + 4 ≤ off + 8192)) }
    endTransfer s ⟨t.id, g⟩
  | .zldt z g off =>
    let s := s.adjTeam t.id fun t => t.setTile z (tileOfBytes (sliceMem t.tmem off 8192) (t.tile z).status)
    endTransfer s ⟨t.id, g⟩
  | .zrd z g res lanes d =>
    let words := lanes.flatMap fun x =>
      let p := zrdPair (t.tile z) x.2.1 x.2.2
      [(x.1, d, p.1), (x.1, d + 1, p.2)]
    s.adjGroup ⟨t.id, g⟩ fun g => { g with
      deferred := g.deferred.map fun x => if x.id = res then { x with lanes := words, wait := 0 } else x }
  | .zwr z clr lanes => s.adjTeam t.id fun t => t.setTile z (lanes.foldl (zwrLane clr) (t.tile z))

/-- Whether every store a group issued to team memory has taken effect (R168, R274, R276). -/
def teamDrained (g : Group) : Bool := g.storeQ.all fun e => e.isGlobal || e.kind == .bar
/-- Whether an entry at a queue head is ready: a round accepted, a transfer's earlier stores done. -/
def entryReady (t : Team) (e : MqEntry) : Bool :=
  let drained := fun (g : Nat) => match t.groups[g]? with | some g => teamDrained g | none => true
  match e.kind with
  | .mma _ _ => e.passed
  | .wload _ _ _ _ => false
  | .zstt _ g _ => drained g
  | .zldt _ g _ => drained g
  | _ => true

/-- Whether a team's context stands on a core with its queue running: it runs, or has exited and not been released. -/
def Team.queueRuns (t : Team) (core : Nat) : Bool := t.core == core && t.place != .saved
/-- The heads that could start on a core now: their entries end inside the slot (R285). -/
def readyHeads (s : State) (core : Nat) : List (Team × MqEntry) :=
  (s.teams.filter fun t => t.queueRuns core).filterMap fun t =>
    match t.mq with
    | e :: _ => if entryReady t e && decide (s.clock % 4096 + e.kind.cycles ≤ 4096) then some (t, e) else none
    | [] => none
/-- The entry the array starts, by the slot table of the core (R287). -/
def chosenHead (s : State) (core : Nat) : Option (Team × MqEntry) :=
  let c := s.core core
  let slot := Sparse.get 0 (c.table s.clock) (s.clock / 4096 % 16)
  let all := readyHeads s core
  let own := all.filter fun h => h.1.vif == bvGet slot 0 6
  let el := if slot.getLsbD 31 then (if own.isEmpty && slot.getLsbD 30 then all else own) else all
  let before := fun (a b : Team × MqEntry) => decide (a.2.entered < b.2.entered)
    || (a.2.entered == b.2.entered && decide (a.1.slot ≤ b.1.slot))
  el.find? fun h => el.all fun k => before h k
/-- The array of a core starts the entry it chooses, when it is free and the entry passes a test. -/
def arrayStart (s : State) (core : Nat) (p : MqKind → Bool) : State :=
  if s.clock < (s.core core).arrayFree then s
  else
    match chosenHead s core with
    | none => s
    | some (t, e) =>
      if p e.kind then
        let s := s.adjTeam t.id fun t => { t with mq := t.mq.drop 1 }
        let s := performEntry s t e.kind
        queueMoved (s.adjCore core fun c => { c with arrayFree := s.clock + e.kind.cycles }) t.id
      else s

/-- Whether an entry is a round. -/
def MqKind.isRound : MqKind → Bool
  | .mma _ _ => true
  | _ => false
/-- The array starts an entry other than a round (R267, R287). -/
def execMatrixEntryPerform (core : Nat) (s : State) : Out := .next (arrayStart s core fun k => !k.isRound)
/-- The array starts a round (R279, R287). -/
def execMmaRoundExecute (core : Nat) (s : State) : Out := .next (arrayStart s core MqKind.isRound)

/-- The array has read a WLOAD's source: the shadow buffer is LOADED and the group goes on; it may run before earlier
entries other than a WACT or a WLOAD (R267, R274). -/
def execWloadComplete (r : GRef) (s : State) : Out :=
  match s.team r.team, s.group r with
  | some t, some g =>
    match t.mq.find? fun e => match e.kind with | .wload _ _ _ _ => true | .wact => true | _ => false with
    | some { kind := .wload x grp elems side, .. } =>
      if grp = r.grp ∧ g.park = some .wload ∧ teamDrained g then
        let group := if x.fmt.isQa then groupSize x.g else 32
        let b : WBuf := { loaded := some (x.fmt, depthOf x.depth, group)
                          elems := sliceMem t.tmem elems (WLoad.elemBytes x), side := sliceMem t.tmem side (WLoad.sideBytes x)
                          badE := [], badS := [] }
        let mine := fun (e : MqEntry) => match e.kind with | .wload _ h _ _ => h == r.grp | _ => false
        let s := s.adjTeam r.team fun t => { t.setShadow b with mq := t.mq.filter fun e => !(mine e) }
        .next (completeHeld (queueMoved s r.team) r 8 x.s)
      else .next s
    | _ => .next s
  | _, _ => .next s

/-- A queue has room: the groups that wait for it issue again (R266). -/
def execMatrixQueueFree (team : Nat) (s : State) : Out :=
  match s.team team with
  | none => .next s
  | some t =>
    if mqFull t then .next s
    else
      let rs := (t.groups.zipIdx.filter fun gi => gi.1.park == some .matrixQueue).map (·.2)
      .next (rs.foldl (fun s i => afterLanding (s.adjGroup ⟨team, i⟩ fun g => { g with park := none }) ⟨team, i⟩) s)

end Sys2Proof.Machine
end

