-- ==== Sys2Proof/Machine/Copy.lean ====
section
/-! DEFINITION. Copy engines: layout records, addressing and their checks (R245 to R251), chain programs (R252 to R255),
COPY and the engines' queues (R240, R241, R256), and how a copy moves and ends (R228, R229, R242, R243). -/

namespace Sys2Proof.Machine

/-! ### Layout records (R245) -/

/-- A layout record. -/
structure BoxRec where
  bits : BitVec 512
  base : Nat
  code : Nat
  rank : Nat
  pack6 : Bool
  oobz : Bool
  swz : Nat
  deriving DecidableEq, Repr

/-- The fields of a record. -/
def BoxRec.ofBits (v : BitVec 512) : BoxRec :=
  { bits := v, base := bvGet v 0 64, code := bvGet v 64 5, rank := bvGet v 72 3, pack6 := bvGet v 75 1 == 1
    oobz := bvGet v 76 1 == 1, swz := bvGet v 80 2 }
/-- DIMk. -/
def BoxRec.dim (r : BoxRec) (k : Nat) : Nat := bvGet r.bits (128 + 32 * k) 32
/-- STRIDEk in bytes; dimension 0 has none. -/
def BoxRec.stride (r : BoxRec) (k : Nat) : Nat := if k = 0 then 0 else 16 * bvGet r.bits (256 + 32 * k) 32
/-- BOXk as written. -/
def BoxRec.box (r : BoxRec) (k : Nat) : Nat := bvGet r.bits (416 + 16 * k) 16
/-- The five extents of the box; 1 at or above RANK. -/
def BoxRec.ext (r : BoxRec) : List Nat := (List.range 5).map fun k => if k < r.rank then r.box k else 1
/-- The format; a code above 0x17 never passes the checks. -/
def BoxRec.fmt (r : BoxRec) : Fmt := (Fmt.ofCode (BitVec.ofNat 5 r.code)).getD .fp32
/-- Bits an element takes in memory (R61). -/
def BoxRec.ebits (r : BoxRec) : Nat := if r.pack6 then 6 else r.fmt.bits
/-- Elements from one byte boundary to the next (R246). -/
def BoxRec.per (r : BoxRec) : Nat := if r.pack6 then 4 else max 1 (8 / r.ebits)
/-- Elements of a box. -/
def boxCount (ext : List Nat) : Nat := ext.foldl (· * ·) 1
/-- Bytes of the whole box in a record's format. -/
def BoxRec.bytes (r : BoxRec) : Nat := (boxCount r.ext * r.ebits + 7) / 8

/-- Reserved fields of a record: first bit and width. -/
def reservedFields : List (Nat × Nat) := [(69, 3), (77, 3), (82, 46), (496, 16)]

/-- A refusal of a copy: WHICH, ITEM and CODE (R251). -/
abbrev Refuse := Nat × Nat × Nat

/-- The checks of R246 on one record before the extents are compared: record w, a global side or not. -/
def recFaultA (r : BoxRec) (w : Nat) (global : Bool) : Option Refuse :=
  match reservedFields.find? fun f => bvGet r.bits f.1 f.2 ≠ 0 with
  | some f => some (w, f.1 / 8, 3)
  | none =>
    if r.rank = 0 ∨ 5 < r.rank then some (w, 9, 2)
    else if 0x17 < r.code then some (w, 8, 1)
    else if r.pack6 ∧ elemBitsOf r.fmt ≠ 6 then some (w, 9, 1)
    else if r.swz ≠ 0 ∧ global then some (w, 10, 8)
    else if r.base % (if r.swz = 0 then 16 else 128) ≠ 0 then some (w, 0, 9)
    else
      match (List.range r.rank).find? fun k => r.dim k = 0 ∨ r.box k = 0 with
      | some k => some (w, if r.dim k = 0 then 16 + 4 * k else 52 + 2 * k, 2)
      | none =>
        match (runOf r.rank (5 - r.rank)).find? fun k => r.dim k ≠ 0 ∨ r.box k ≠ 0 ∨ r.stride k ≠ 0 with
        | some k => some (w, if r.dim k ≠ 0 then 16 + 4 * k else if r.box k ≠ 0 then 52 + 2 * k else 32 + 4 * k, 2)
        | none => none
/-- The last checks of R246 on one record: the element count, named as BOX0 with CODE 2, and whole bytes (log 57);
`org` is the dimension-0 origin of the indexed record. -/
def recFaultB (r : BoxRec) (w : Nat) (org : Option Int) : Option Refuse :=
  if 2 ^ 24 < boxCount r.ext then some (w, 52, 2)
  else if r.box 0 % r.per ≠ 0 then some (w, 52, 9)
  else match org with
    | some o => if o % (r.per : Int) ≠ 0 then some (2, 0, 9) else none
    | none => none
/-- The first dimension in which two records differ in their box (R246). -/
def boxFault (a b : BoxRec) : Option Refuse :=
  ((List.range 5).find? fun k => a.ext.getD k 1 ≠ b.ext.getD k 1).map fun k => (1, 52 + 2 * k, 6)
/-- The destination overlaps itself (R246). -/
def selfFault (r : BoxRec) : Option Refuse :=
  let need := fun (k : Nat) => if k = 1 then (r.box 0 * r.ebits + 7) / 8 else r.stride (k - 1) * r.box (k - 1)
  ((runOf 1 (r.rank - 1)).find? fun k => r.stride k < need k).map fun k => (1, 32 + 4 * k, 6)

/-! ### Coordinates and addresses (R247, R248) -/

/-- The coordinates of linear index i, dimension 0 fastest. -/
def coordsOf : List Nat → Nat → List Nat
  | [], _ => []
  | n :: r, i => i % n :: coordsOf r (i / n)
/-- Offset of R248: byte address and the bit within it. Four packed 6-bit elements have one offset, and lie in the three
bytes from there. -/
def BoxRec.place (r : BoxRec) (c : List Nat) (org : Nat) : Nat × Nat :=
  let c0 := c.getD 0 0
  let first := if r.pack6 then c0 / 4 * 3 else c0 * r.ebits / 8
  let bit := if r.pack6 then c0 % 4 * 6 else c0 * r.ebits % 8
  let o := (runOf 1 4).foldl (fun o k => o + c.getD k 0 * r.stride k) (org + first)
  let o := if r.swz = 0 then o else o ^^^ ((o / 128 % 2 ^ r.swz) * 16)
  (r.base + o + bit / 8, bit % 8)

/-- A copy's two records with its coordinate block: side 0 is the source. -/
structure CopySpec where
  dir : CopyDir
  src : BoxRec
  dst : BoxRec
  coords : List Word
  deriving DecidableEq, Repr

/-- What an accepted copy captured. -/
def CopyJob.spec (c : CopyJob) : CopySpec :=
  { dir := c.dir, src := BoxRec.ofBits c.src, dst := BoxRec.ofBits c.dst, coords := c.coords }
/-- Record of a side. -/
def CopySpec.record (p : CopySpec) (w : Nat) : BoxRec := if w = 0 then p.src else p.dst
/-- The indexed side: the destination of t2g, else the source (R247). -/
def CopySpec.indexed (p : CopySpec) : Nat := if p.dir = .t2g then 1 else 0
/-- Whether a side is global memory. -/
def CopySpec.global (p : CopySpec) (w : Nat) : Bool :=
  match p.dir with | .g2t => w == 0 | .t2g => w == 1 | .g2g => true | .t2t => false
/-- Origin k. -/
def CopySpec.origin (p : CopySpec) (k : Nat) : Int := (p.coords.getD k 0).toInt
/-- Elements of the box. -/
def CopySpec.count (p : CopySpec) : Nat := boxCount p.src.ext
/-- Where element i lies on a side; none where it is out of bounds (R248). -/
def CopySpec.pos (p : CopySpec) (w i : Nat) : Option (Nat × Nat) :=
  let r := p.record w
  let j := coordsOf r.ext i
  if w = p.indexed then
    let c := (List.range 5).map fun k => p.origin k + (j.getD k 0 : Nat)
    if (List.range r.rank).all fun k => decide (0 ≤ c.getD k 0) && decide (c.getD k 0 < (r.dim k : Nat)) then
      some (r.place (c.map Int.toNat) 0)
    else none
  else some (r.place j (p.coords.getD 5 0).toNat)
/-- Bytes element i touches on a side: first address and count. -/
def CopySpec.run (p : CopySpec) (w i : Nat) : Option (Nat × Nat) :=
  (p.pos w i).map fun x => (x.1, (x.2 + (p.record w).ebits + 7) / 8)
/-- The bounding bytes of a side: lowest and one past the highest address; none when nothing is addressed (R250). -/
def CopySpec.span (p : CopySpec) (w : Nat) : Option (Nat × Nat) :=
  (List.range p.count).foldl (fun acc i =>
    match p.run w i, acc with
    | none, acc => acc
    | some (a, n), none => some (a, a + n)
    | some (a, n), some (lo, hi) => some (min lo a, max hi (a + n))) none
/-- A raw copy: no chain and equal formats (R249). -/
def rawCopy (p : CopySpec) (chain : Option (BitVec 512)) : Bool := chain.isNone && p.src.code == p.dst.code

/-- The coordinate block: an origin at or above RANK is zero; CODE 2 (R247; log 57). -/
def coordFault (p : CopySpec) : Option Refuse :=
  let r := p.record p.indexed
  ((runOf r.rank (5 - r.rank)).find? fun k => p.origin k ≠ 0).map fun k => (2, k, 2)
/-- Bounds of a side against its own record and the window; bytes outside the window name BASE (R248; log 57). -/
def boundsFault (p : CopySpec) (window w : Nat) : Option Refuse :=
  let r := p.record w
  let out := (List.range r.rank).find? fun k =>
    p.origin k < 0 ∨ (r.dim k : Int) < p.origin k + (r.box k : Nat)
  let big := (List.range r.rank).find? fun k => r.dim k < r.box k
  let far : Bool := !(p.global w) && (match p.span w with | some (_, hi) => decide (window < hi) | none => false)
  match (if w = p.indexed then (if w = 0 ∧ !r.oobz then out.map fun k => ((2, k, 4) : Refuse) else none)
         else big.map fun k => ((w, 52 + 2 * k, 2) : Refuse)) with
  | some x => some x
  | none => if far then some (w, 0, 5) else none

/-- Steps 2 to 4 of R190 on one byte of a global side: cause and CODE (R248). -/
def sideByteFault (s : State) (pasid w va : Nat) : Option (Cause × Nat) :=
  match translate s pasid va (if w = 0 then .copyRead else .copyWrite) with
  | .trap cause code => if cause = cLost then none else some (cause, code)
  | .window _ _ => some (cWindow, 13)
  | .at _ kind => if kind = 6 then some (cProtection, 13) else none
  | .miss _ _ _ => none
/-- The first and last bytes of a global side: address, cause and CODE. -/
def sideFault (s : State) (pasid : Nat) (p : CopySpec) (w : Nat) : Option (Nat × Cause × Nat) :=
  match p.global w, p.span w with
  | true, some (lo, hi) =>
    match sideByteFault s pasid w lo with
    | some (c, code) => some (lo, c, code)
    | none => (sideByteFault s pasid w (hi - 1)).map fun x => (hi - 1, x.1, x.2)
  | _, _ => none

/-! ### Chain programs (R252 to R255) -/

/-- An operation of a chain. -/
inductive ChainOp where
  | cvt (f : Fmt) (rnd : Rnd) (sat : Bool) (seed : Word)
  | scale (f : Word)
  | bias (b : Word)
  | clampLo (v : Word)
  | clampHi (v : Word)
  | quant (f : Fmt) (g : Nat) (rnd : Rnd) (off : Nat)
  | resid (addr : Nat)
  | mxcvt (f : Fmt) (rnd : Rnd) (sat : Bool) (off : Nat)
  deriving DecidableEq, Repr

/-- Formats CVT of a chain takes (R252). -/
def chainCvtOk (c : Nat) : Bool :=
  decide (c ≤ 0x07) || (decide (0x0E ≤ c) && decide (c ≤ 0x10)) || (decide (0x14 ≤ c) && decide (c ≤ 0x17))
/-- One slot of eight bytes; none when a field value lies outside the table. -/
def ChainOp.parse (v : Nat) : Option ChainOp :=
  let b := fun (k : Nat) => bitsOf v (8 * k) 8
  let hi : Word := BitVec.ofNat 32 (bitsOf v 32 32)
  let flat : Bool := bitsOf v 8 24 == 0
  let rnd := Rnd.ofCode (BitVec.ofNat 3 (b 2))
  match b 0 with
  | 1 =>
    match Fmt.ofCode (BitVec.ofNat 5 (b 1)), rnd with
    | some f, some r => if chainCvtOk (b 1) ∧ b 2 ≤ 4 ∧ b 3 ≤ 1 then some (.cvt f r (b 3 == 1) hi) else none
    | _, _ => none
  | 2 => if flat then some (.scale hi) else none
  | 3 => if flat then some (.bias hi) else none
  | 4 => if flat then some (.clampLo hi) else none
  | 5 => if flat then some (.clampHi hi) else none
  | 6 =>
    match Fmt.ofCode (BitVec.ofNat 5 (b 1)), Rnd.ofCode (BitVec.ofNat 3 (b 3)) with
    | some f, some r =>
      if 0x11 ≤ b 1 ∧ b 1 ≤ 0x13 ∧ b 2 ≤ 2 ∧ b 3 ≤ 3 then some (.quant f (32 * 2 ^ b 2) r hi.toNat) else none
    | _, _ => none
  | 7 => some (.resid (v / 256))
  | 8 =>
    match Fmt.ofCode (BitVec.ofNat 5 (b 1)), rnd with
    | some f, some r => if 8 ≤ b 1 ∧ b 1 ≤ 0x0D ∧ b 2 ≤ 3 ∧ b 3 ≤ 1 then some (.mxcvt f r (b 3 == 1) hi.toNat) else none
    | _, _ => none
  | _ => none
/-- The eight slots of a program. -/
def chainSlots (v : BitVec 512) : List Nat := (List.range 8).map fun i => bvGet v (64 * i) 64
/-- The slots up to the end of the program. -/
def liveSlots (v : BitVec 512) : List Nat := (chainSlots v).takeWhile fun x => x % 256 ≠ 0
/-- The operations of a program. -/
def chainOps (v : BitVec 512) : List ChainOp := (liveSlots v).filterMap ChainOp.parse
/-- Whether a slot holds a CVT, QUANT or MXCVT, which a RESID may stand before (R252). -/
def lossySlot (v : Nat) : Bool := v % 256 == 1 || v % 256 == 6 || v % 256 == 8
/-- The range that covers a page; none covers the Ridge page (R20, R324). -/
def pageRange (s : State) (pasid vpn : Nat) : Option Range := if vpn = 0xFFFFFFFFFF then none else rangeLookup s pasid vpn
/-- Whether a page lies in local HBM4, in an OFFSET or PAGED range (R255). -/
def pageLocal (s : State) (pasid vpn : Nat) : Bool :=
  decide (vpn < 2 ^ 40) && match pageRange s pasid vpn with
    | some r => r.kind == 2 || (r.kind == 1 && decide ((vpn * 65536 + r.offset) % 2 ^ 52 < localBytes s.build))
    | none => false
/-- Whether a residual buffer keeps R255: aligned, every page of it in local HBM4, and apart from both sides. -/
def residOk (s : State) (pasid : Nat) (p : CopySpec) (addr : Nat) : Bool :=
  let n := 4 * p.count
  let apart := fun (w : Nat) => match p.global w, p.span w with
    | true, some (lo, hi) => !(overlaps addr n lo (hi - lo))
    | _, _ => true
  addr % 128 == 0 && ((runOf (addr / 65536) ((addr + n + 65535) / 65536 - addr / 65536)).all fun v => pageLocal s pasid v)
    && apart 0 && apart 1
/-- Whether bytes a chain adds at the destination stay inside the window of a team-memory side. -/
def sideBytesOk (p : CopySpec) (window off n : Nat) : Bool := p.global 1 || decide (p.dst.base + off + n ≤ window)

/-- The first operation of a chain that is refused, in slot order, and its CODE (R252 to R255). -/
def chainFault (s : State) (pasid window : Nat) (p : CopySpec) (v : BitVec 512) : Option Refuse :=
  let live := liveSlots v
  let n := live.length
  let bad := fun (i : Nat) =>
    match ChainOp.parse (live.getD i 0) with
    | none => some 7
    | some (.quant f g _ off) =>
      if i + 1 ≠ n ∨ f ≠ p.dst.fmt ∨ p.dst.box 0 % g ≠ 0 then some 7
      else if sideBytesOk p window off (4 * (p.count / g)) then none else some 5
    | some (.mxcvt f _ _ off) =>
      if i + 1 ≠ n ∨ f ≠ p.dst.fmt ∨ p.dst.box 0 % 32 ≠ 0 then some 7
      else if sideBytesOk p window off (p.count / 32) then none else some 5
    | some (.resid addr) =>
      if !(lossySlot (live.getD (i + 1) 0)) || (live.take i).any (fun x => x % 256 == 7) || !(residOk s pasid p addr) then some 7 else none
    | some _ => none
  match (List.range n).findSome? fun i => (bad i).map fun code => ((3, i, code) : Refuse) with
  | some x => some x
  | none => ((runOf n (8 - n)).drop 1).findSome? fun i => if (chainSlots v).getD i 0 = 0 then none else some (3, i, 7)

/-- Format conditions of R249 before the slots: an MX or QA source. -/
def srcFmtFault (p : CopySpec) (raw : Bool) : Option Refuse :=
  if !raw && (p.src.fmt.isMx || p.src.fmt.isQa) then some (0, 8, 1) else none
/-- After them: an MX or QA destination that its operation does not produce. -/
def dstFmtFault (p : CopySpec) (raw : Bool) (ops : List ChainOp) : Option Refuse :=
  let made : Bool := match ops.getLast? with
    | some (.quant _ _ _ _) => p.dst.fmt.isQa
    | some (.mxcvt _ _ _ _) => p.dst.fmt.isMx
    | _ => false
  if !raw && (p.dst.fmt.isMx || p.dst.fmt.isQa) && !made then some (1, 8, 1) else none

/-! ### Chain arithmetic -/

/-- a / b with a sticky bit, for finite a and b ≠ 0: enough bits for every rounding to come. -/
def divDy (a b : Dy) : Dy :=
  let num := a.m * 2 ^ 128
  let q := num / b.m
  ⟨a.neg ^^ b.neg, 2 * q + (if num % b.m = 0 then 0 else 1), a.e - b.e - 129⟩
/-- The number of an FP32 word that is finite; zero otherwise. -/
def dyOf (v : FVal) : Dy := match v with | .fin x => x | _ => Dy.zero
/-- Whether a value is a NaN or an infinity. -/
def FVal.bad : FVal → Bool
  | .fin _ => false
  | _ => true
/-- Round an exact value to FP32 by RNE (R69). -/
def toF32 (x : Dy) : Word := (w32 (rne fp32 x)).1
/-- The state of element i in a CVT with rnd = RS (R252). -/
def seedState (seed : Word) (i : Nat) : Word :=
  let x := seed ^^^ BitVec.ofNat 32 (i * 0x9E3779B9)
  stochNext (if x = 0 then 0x6A09E667 else x)
/-- A CVT: the new x and the value it took (R252). -/
def chainCvt (f : Fmt) (rnd : Rnd) (sat : Bool) (seed : Word) (i : Nat) (x : Word) : Word × FVal :=
  let code := (convElem f .fp32 rnd sat (seedState seed i) x.toNat).1
  let y : FVal := match intRangeOf f with
    | some _ => .fin (Dy.ofInt (intOf f code) 0 false)
    | none => (layoutOf f).decode code
  (BitVec.ofNat 32 (convElem .fp32 f .rne false 0 code).1, y)
/-- Exponent of the largest finite element (R253). -/
def mxTop : Fmt → Int
  | .mxe4m3 => 8
  | .mxe5m2 => 15
  | .mxe3m2 => 4
  | .mxe2m3 => 2
  | .mxe2m1 => 2
  | _ => 0
/-- The scale code of a block (R253). -/
def mxScale (f : Fmt) (xs : List Word) : Nat :=
  if xs.any fun x => (f32 x).bad then 0xFF
  else
    match (xs.map fun x => dyOf (f32 x)).filter fun d => d.m ≠ 0 with
    | [] => 0
    | d :: r =>
      let e := r.foldl (fun e y => max e y.log2) d.log2 - mxTop f + 127
      if e < 0 then 0 else min e.toNat 254
/-- One element of MXCVT under a scale code (R253). -/
def mxElem (f : Fmt) (rnd : Rnd) (sat : Bool) (sc : Nat) (x : Word) : Nat :=
  if sc = 0xFF then 0
  else
    let v := (dyOf (f32 x)).scale (127 - (sc : Int))
    if f = .mxint8 then
      let k := (roundInt rnd 0 0 (v.scale 6)).1
      intCode .int8 (max (-128) (min 127 k))
    else (roundTo (layoutOf f) rnd sat 0 0 v).1
/-- Scale and zero point of a group, as FP16 code and number (R254). -/
def quantParams (n : Nat) (xs : List Word) : Nat × Nat :=
  if xs.any fun x => (f32 x).bad then (0x7E00, 0)
  else
    let ds := xs.map fun x => dyOf (f32 x)
    let mn := ds.foldl (fun a d => if d.lt a then d else a) Dy.zero
    let mx := ds.foldl (fun a d => if a.lt d then d else a) Dy.zero
    if mn.eq mx then (0x3C00, 0)
    else
      let r := (rne fp16 (divDy (mx.add mn.negate) ⟨false, 2 ^ n - 1, 0⟩)).1
      let sc := if r = 0 then 1 else min r 0x7BFF
      let z := (roundInt .rne 0 0 (divDy mn.negate (dyOf (fp16.decode sc)))).1
      (sc, (max 0 (min (2 ^ n - 1) z)).toNat)
/-- Whether a group's codes are all zero (R254). -/
def quantFlat (xs : List Word) : Bool :=
  (xs.any fun x => (f32 x).bad) || xs.all fun x => (dyOf (f32 x)).m = 0
/-- One code of QUANT (R254). -/
def quantElem (n : Nat) (rnd : Rnd) (flat : Bool) (sc zp : Nat) (x : Word) : Nat :=
  if flat then 0
  else
    let k := (roundInt rnd 0 0 (divDy (dyOf (f32 x)) (dyOf (fp16.decode sc)))).1 + (zp : Int)
    (max 0 (min (2 ^ n - 1) k)).toNat
/-- The residual of an element: x − y, or +0 where either is NaN (R255). -/
def residOf (x : Word) (y : FVal) : Word :=
  if f32 x = .nan ∨ y = .nan then 0 else (w32 (deliver fp32 (fAdd (f32 x) y.negate))).1

/-- A chain under way: the working values, the residuals read and to be written, destination codes once the last
operation has made them, and bytes added at the destination. -/
structure ChainRun where
  xs : List Word
  resid : Option Nat
  residOut : List Word
  codes : Option (List Nat)
  extra : List (Nat × List Byte)
  deriving DecidableEq, Repr

/-- Cut a list into pieces of n. -/
def chunks {α : Type} (n : Nat) (l : List α) : List (List α) :=
  (List.range ((l.length + n - 1) / n)).map fun i => (l.drop (i * n)).take n
/-- Record the residuals of a lossy operation that follows a RESID (R255). -/
def ChainRun.note (r : ChainRun) (ys : List FVal) : ChainRun :=
  if r.resid.isSome ∧ r.residOut = [] then { r with residOut := (r.xs.zip ys).map fun p => residOf p.1 p.2 } else r
/-- One operation over the whole box; `old` reads a residual. -/
def ChainOp.step (old : Nat → Nat → Word) (r : ChainRun) : ChainOp → ChainRun
  | .cvt f rnd sat seed =>
    let out := r.xs.zipIdx.map fun xi => chainCvt f rnd sat seed xi.2 xi.1
    { r.note (out.map (·.2)) with xs := out.map (·.1) }
  | .scale f => { r with xs := r.xs.map fun x => (opFmul x f).1 }
  | .bias b => { r with xs := r.xs.map fun x => (opFadd x b).1 }
  | .clampLo v => { r with xs := r.xs.map fun x => if fLess false (f32 x) (f32 v) then v else x }
  | .clampHi v => { r with xs := r.xs.map fun x => if fLess false (f32 v) (f32 x) then v else x }
  | .resid addr => { r with resid := some addr, xs := r.xs.zipIdx.map fun xi => (opFadd xi.1 (old addr xi.2)).1 }
  | .quant f g rnd off =>
    let n := f.bits
    let gs := (chunks g r.xs).map fun xs => (xs, quantFlat xs, quantParams n xs)
    let qs := gs.flatMap fun e => e.1.map fun x => (quantElem n rnd e.2.1 e.2.2.1 e.2.2.2 x, e.2.2)
    let ys := qs.map fun q => match fMul (fp16.decode q.2.1) (.fin (Dy.ofInt ((q.1 : Int) - q.2.2) 0 false)) with
      | .val d => f32 (toF32 d)
      | .inf n => .inf n
      | .nan _ => .nan
    { r.note ys with
      codes := some (qs.map (·.1))
      extra := [(off, gs.flatMap fun e => leBytes 2 e.2.2.1 ++ leBytes 1 e.2.2.2 ++ [0])] }
  | .mxcvt f rnd sat off =>
    let bs := (chunks 32 r.xs).map fun xs => (xs, mxScale f xs)
    let es := bs.flatMap fun e => e.1.map fun x => (mxElem f rnd sat e.2 x, e.2)
    { r.note (es.map fun e => scaleBy (elemVal f e.1) e.2) with
      codes := some (es.map (·.1)), extra := [(off, bs.flatMap fun e => leBytes 1 e.2)] }

/-- A whole chain over the source codes: destination codes, residuals and added bytes (R252). -/
def runChain (fs fd : Fmt) (ops : List ChainOp) (old : Nat → Nat → Word) (codes : List Nat) : ChainRun :=
  let xs := codes.map fun c => BitVec.ofNat 32 (convElem .fp32 fs .rne false 0 c).1
  let r := ops.foldl (ChainOp.step old) { xs, resid := none, residOut := [], codes := none, extra := [] }
  match r.codes with
  | some _ => r
  | none => { r with codes := some (r.xs.map fun x => (convElem fd .fp32 .rne false 0 x.toNat).1) }

/-! ### Capture (R241, R256) -/

/-- The first refusal of steps 3 and 4 at capture, as a trap; the record pair stands at `pair`. -/
def captureTrap (c : Ctx) (p : CopySpec) (chain : Option (BitVec 512)) (pair : Nat) : Option TrapRec :=
  let raw := rawCopy p chain
  let ops := match chain with | some v => chainOps v | none => []
  let mk := fun (cause : Cause) (x : Refuse) =>
    c.mkTrap cause (BitVec.ofNat 64 (if x.1 = 2 then 0 else pair)) (BitVec.ofNat 32 (x.1 * 4096 + x.2.1 % 256 * 16 + x.2.2))
  let orgOf := fun (w : Nat) => if w = p.indexed then some (p.origin 0) else none
  let first : List (Option Refuse) :=
    [recFaultA p.src 0 (p.global 0), recFaultB p.src 0 (orgOf 0), recFaultA p.dst 1 (p.global 1), recFaultB p.dst 1 (orgOf 1)]
  let second : List (Unit → Option TrapRec) :=
    [fun (_ : Unit) => (boxFault p.src p.dst).map (mk cCopyBounds), fun (_ : Unit) => (selfFault p.dst).map (mk cCopyBounds),
     fun (_ : Unit) => (coordFault p).map (mk cCopyBounds)] ++
    ([0, 1].flatMap fun w =>
      [fun (_ : Unit) => (boundsFault p c.t.window w).map (mk cCopyBounds),
       fun (_ : Unit) => (sideFault c.s c.t.pasid p w).map fun x =>
         c.mkTrap x.2.1 (BitVec.ofNat 64 x.1) (infoGlobal 6 0 x.2.2)]) ++
    [fun (_ : Unit) => (srcFmtFault p raw).map (mk cCopyBounds),
     fun (_ : Unit) => (match chain with | some v => chainFault c.s c.t.pasid c.t.window p v | none => none).map (mk cCopyBounds),
     fun (_ : Unit) => (dstFmtFault p raw ops).map (mk cCopyBounds),
     fun _ =>
       let both : Bool := match p.span 0, p.span 1 with
         | some (a, b), some (x, y) => overlaps a (b - a) x (y - x)
         | _, _ => false
       let move : Bool := raw && p.src.ebits == p.dst.ebits
       if both && (p.dir == .g2g || (p.dir == .t2t && !move)) then some (mk cCopyOverlap (1, 0, 11)) else none]
  match first.findSome? id with
  | some x => some (mk cCopyBounds x)
  | none => second.findSome? fun f => f ()

/-- Whether a copy with a team-memory side is saved with its team, and holds no place in an engine (R243). -/
def CopyJob.away (s : State) (c : CopyJob) : Bool :=
  c.dir != .g2g && (match s.team c.g.team with | some t => t.place == .saved | none => false)
/-- Copies an engine holds, in the order it accepted them. -/
def engineJobs (s : State) (e : Nat) : List CopyJob := s.copies.filter fun c => c.engine == e && !(c.away s)
/-- The engine R240 chooses: the hinted one, else the lowest-numbered with a free entry. -/
def pickEngine (s : State) (chiplet hint : Nat) : Option Nat :=
  ((8 * chiplet + hint) :: runOf (8 * chiplet) 8).find? fun e => decide ((engineJobs s e).length < 32)
/-- A group parked for a place in a queue: since when, its core, and its name. -/
abbrev Parked := Nat × Nat × GRef
/-- Whether a parked group goes before one that parked at a time on a core: it parked earlier, or in the same cycle on a
lower core (R25, R240). -/
def Parked.before (w : Parked) (since core : Nat) : Bool := decide (w.1 < since) || (w.1 == since && decide (w.2.1 < core))
/-- The parked group that goes first. -/
def firstParked (l : List Parked) : Option GRef := (l.find? fun x => l.all fun y => !(y.before x.1 x.2.1)).map fun x => x.2.2
/-- Groups of a chiplet parked for a queue entry. -/
def copyParked (s : State) (chiplet : Nat) : List Parked :=
  (s.teams.filter fun t => chipletOfCore t.core == chiplet).flatMap fun t => t.groups.zipIdx.filterMap fun gi =>
    match gi.1.park with | some (.copyQueue since) => some (since, t.core, ⟨t.id, gi.2⟩) | _ => none

/-! ### What a copy touches (R228, R242, R243) -/

/-- Elements of a piece: 128 bytes of destination elements, or 384 packed ones; a block of QUANT or MXCVT lies in one
(R243; log 24). -/
def CopySpec.pieceSize (p : CopySpec) : Nat := if p.dst.pack6 then 512 else 1024 / max 1 p.dst.ebits
/-- Pieces of a copy. -/
def CopySpec.pieces (p : CopySpec) : Nat := (p.count + p.pieceSize - 1) / p.pieceSize
/-- Elements of piece n. -/
def CopySpec.piece (p : CopySpec) (n : Nat) : List Nat := runOf (n * p.pieceSize) (min p.pieceSize (p.count - n * p.pieceSize))
/-- Pieces that are still to be written. -/
def CopyJob.left (c : CopyJob) : List Nat := (List.range c.spec.pieces).filter fun n => !(c.done.contains n)
/-- Grains some elements lie in on a side, by virtual number. -/
def CopySpec.grains (p : CopySpec) (w : Nat) (els : List Nat) : List Nat :=
  (els.flatMap fun i => match p.run w i with | some (a, n) => grainsOf a n | none => []).eraseDups
/-- The runs of global bytes a chain adds: at the destination, and its residual buffer. -/
def chainRuns (c : CopyJob) : List (Nat × Nat) :=
  let p := c.spec
  let ops := match c.chain with | some v => chainOps v | none => []
  ops.flatMap fun o => match o with
    | .quant _ g _ off => if p.global 1 then [(p.dst.base + off, 4 * (p.count / g))] else []
    | .mxcvt _ _ _ off => if p.global 1 then [(p.dst.base + off, p.count / 32)] else []
    | .resid a => [(a, 4 * p.count)]
    | _ => []
/-- Grains a copy still writes: of its destination, of what its chain adds there, and of its residual buffer. -/
def CopyJob.targets (c : CopyJob) : List Nat :=
  ((if c.spec.global 1 then c.spec.grains 1 (c.left.flatMap c.spec.piece) else [])
    ++ (chainRuns c).flatMap fun x => grainsOf x.1 x.2).eraseDups
/-- Where grains lead. -/
def grainPlaces (s : State) (c : CopyJob) (grains : List Nat) (u : Use) : List (Nat × Tr) :=
  grains.map fun g => (g, place s c.pasid (512 * g) u)
/-- Every grain a copy still touches, with where it leads. -/
def copyPlaces (s : State) (c : CopyJob) : List (Nat × Tr) :=
  (if c.spec.global 0 then grainPlaces s c (c.spec.grains 0 (c.left.flatMap c.spec.piece)) .copyRead else [])
    ++ grainPlaces s c c.targets .copyWrite
/-- An engine takes the destination grains whose pages are resident; with all of them the copy holds its grains
(R186, R228). -/
def takeGrains (s : State) (id : Nat) : State :=
  match s.copies.find? fun c => c.id == id with
  | none => s
  | some c =>
    if c.held then s
    else
      let ps := (grainPlaces s c c.targets .copyWrite).map fun x => x.2
      let pas := ps.filterMap fun x => match x with | .at pa _ => some (pa / 512) | _ => none
      let all : Bool := ps.all fun x => match x with | .miss _ _ _ => false | _ => true
      let s := pas.foldl (fun s g => if c.grains.contains g then s else (s.dropOwner g).invalidateGrain g) s
      let upd := fun (x : CopyJob) => if x.id = id then { x with grains := (x.grains ++ pas).eraseDups, held := all } else x
      { s with copies := s.copies.map upd }

/-- The number of a record pair read as two records of 512 bits. -/
def wideOf (bs : List Byte) : BitVec 512 := BitVec.ofNat 512 (leNat bs)

/-- COPY: the checks of R256 in order, the release of R228, and a place in an engine's queue (R240). -/
def execCopy (x : CopyOp) (s : State) : Out :=
  issue s (Names.add (readsU (x.d.toNat :: runOf x.a.toNat 2 ++ runOf x.b.toNat 6))
      (if x.c = 0 then {} else readsU (runOf x.c.toNat 2))) 8 x.s false fun c =>
    let aw : Option Nat := if x.d = 0 then none else some (c.g.readUni x.d.toNat).toNat
    let pair := (c.g.uniPair x.a.toNat).toNat
    let prog := (c.g.uniPair x.c.toNat).toNat
    let accs : List Acc := { lane := 0, va := pair, n := 128, use := .read 16 } ::
      (if x.c = 0 then [] else [{ lane := 0, va := prog, n := 64, use := .read 16 }])
    match aw.bind fun off => uniTeamTrap c 16 off false with
    | some t => .trap t
    | none =>
      withAccess s c 6 (accFault c.s c.t.pasid) accs fun ps =>
        if !(drainedAt c.s c.t.core c.r 3) then .park .drain c.s
        else
          let pa := fun (i : Nat) => ((ps[i]?).bind Placed.pa).getD 0
          let src := wideOf (homeBytes c.s (pa 0) 64)
          let dst := wideOf (homeBytes c.s (pa 0 + 64) 64)
          let chain : Option (BitVec 512) := if x.c = 0 then none else some (wideOf (homeBytes c.s (pa 1) 64))
          let coords := (List.range 6).map fun k => c.g.readUni (x.b.toNat + k)
          let p : CopySpec := { dir := x.dir, src := BoxRec.ofBits src, dst := BoxRec.ofBits dst, coords }
          match captureTrap c p chain pair with
          | some t => .trap t
          | none =>
            let chiplet := chipletOfCore c.t.core
            let since := match s.parkNow with | some (.copyQueue n) => n | _ => c.s.clock
            let before := (copyParked c.s chiplet).any fun w => w.2.2 != c.r && w.before since c.t.core
            match pickEngine c.s chiplet x.hint.toNat with
            | none => .park (.copyQueue since) c.s
            | some e =>
              if before then .park (.copyQueue since) c.s
              else
                let id := c.s.fresh
                let job : CopyJob :=
                  { id, g := c.r, engine := e, pasid := c.t.pasid, vif := c.t.vif, dir := x.dir, src, dst, coords, chain, aw
                    waiting := none, grains := [], held := false, done := [], since := none }
                .ok (takeGrains { c.s with copies := c.s.copies ++ [job], fresh := id + 1 } id)

/-- Issue a parked group's instruction again, as an event that makes room does. -/
def reissue (s : State) (r : GRef) (run : Instr → State → Out) : Out :=
  match s.team r.team, s.group r with
  | some t, some g =>
    match run (fetchInstr s t r.grp g g.issueSet.2) { s with actor := .group r } with
    | .next s' => .next { s' with actor := s.actor }
    | o => o
  | _, _ => .next s

/-- An engine queue entry of a chiplet frees: the COPY of the group that parked first is accepted (R240). -/
def execCopyQueueFree (chiplet : Nat) (s : State) : Out :=
  match firstParked (copyParked s chiplet) with
  | some r =>
    if (pickEngine s chiplet 0).isSome then reissue s r fun i s => match i with | .copy x => execCopy x s | _ => .next s
    else .next s
  | none => .next s

/-! ### The move (R228 to R230, R242, R243, R248) -/

/-- The first place that ends or stops a copy. -/
def firstStop : List (Nat × Tr) → Option (Nat × Tr)
  | [] => none
  | (_, .at _ _) :: r => firstStop r
  | x :: _ => some x
/-- The physical address of a virtual one among places. -/
def paAmong (l : List (Nat × Tr)) (va : Nat) : Nat :=
  match l.find? fun x => x.1 == va / 512 with
  | some (_, .at pa _) => pa + va % 512
  | _ => 0

/-- Replace `w` bits from bit `b` up in the bytes at an address of a memory. -/
def putBits (m : Mem) (a b w v : Nat) : Mem :=
  let n := (b + w + 7) / 8
  let old := readLE m a n
  writeLE m a n (old % 2 ^ b + v % 2 ^ w * 2 ^ b + old / 2 ^ (b + w) * 2 ^ (b + w))
/-- Runs of consecutive addresses that stay in one grain. -/
def joinRuns : List Nat → List (Nat × Nat)
  | [] => []
  | a :: r =>
    match joinRuns r with
    | (b, n) :: l => if b = a + 1 ∧ b / 512 = a / 512 then (a, n + 1) :: l else if b = a then (b, n) :: l else (a, 1) :: (b, n) :: l
    | [] => [(a, 1)]

/-- The source codes of a box: an element out of bounds is the all-zero code (R248). -/
def sourceCodes (s : State) (p : CopySpec) (t : Team) (l : List (Nat × Tr)) : List Nat :=
  (List.range p.count).map fun i =>
    match p.pos 0 i with
    | none => 0
    | some (a, bit) =>
      let n := (bit + p.src.ebits + 7) / 8
      let v := if p.global 0 then leNat ((List.range n).flatMap fun k => homeBytes s (paAmong l (a + k)) 1)
        else readLE t.tmem a n
      v / 2 ^ bit % 2 ^ elemBitsOf p.src.fmt
/-- Write bytes at global addresses, one write for each run inside a grain. -/
def writeGlobal (s : State) (l : List (Nat × Tr)) (va : Nat) (bs : List Byte) : State :=
  (joinRuns ((List.range bs.length).map fun i => va + i)).foldl
    (fun s r => homeStore s (paAmong l r.1) ((bs.drop (r.1 - va)).take r.2)) s
/-- Bytes a list of addresses holds now, on the destination side. -/
def sideBytes (s : State) (p : CopySpec) (t : Team) (l : List (Nat × Tr)) (as : List Nat) : Mem :=
  if p.global 1 then as.foldl (fun m a => writeByte m a (homeByte s (paAmong l a))) [] else t.tmem
/-- Write some elements at their destination (R248). -/
def writeCodes (s : State) (p : CopySpec) (team : Nat) (l : List (Nat × Tr)) (codes : List (Nat × Nat)) : State :=
  match s.team team with
  | none => s
  | some t =>
    let ps := codes.filterMap fun ic => (p.pos 1 ic.1).map fun x => (x, ic.2)
    let bytes := ps.flatMap fun e => runOf e.1.1 ((e.1.2 + p.dst.ebits + 7) / 8)
    let m := ps.foldl (fun m e => putBits m e.1.1 e.1.2 p.dst.ebits e.2) (sideBytes s p t l bytes)
    (joinRuns bytes).foldl (fun s r =>
      let bs := readBytes m r.1 r.2
      if p.global 1 then homeStore s (paAmong l r.1) bs else teamStore s team r.1 bs) s

/-- What a copy computes for its whole box: a raw copy has the source codes alone (R249, R252). -/
def copyResult (s : State) (c : CopyJob) (t : Team) (l : List (Nat × Tr)) : ChainRun :=
  let p := c.spec
  let codes := sourceCodes s p t l
  if rawCopy p c.chain then { xs := [], resid := none, residOut := [], codes := some codes, extra := [] }
  else
    let old := fun (addr i : Nat) => BitVec.ofNat 32 (leNat (homeBytes s (paAmong l (addr + 4 * i)) 4))
    runChain p.src.fmt p.dst.fmt (match c.chain with | some v => chainOps v | none => []) old codes
/-- Write one piece of a copy: its elements, the bytes its chain adds for their blocks, and their residuals. -/
def writePiece (s : State) (c : CopyJob) (l : List (Nat × Tr)) (r : ChainRun) (n : Nat) : State :=
  let p := c.spec
  let els := p.piece n
  let lo := n * p.pieceSize
  let s := writeCodes s p c.g.team l (els.map fun i => (i, (r.codes.getD []).getD i 0))
  let s := r.extra.foldl (fun s e =>
    let per := fun (i : Nat) => i * e.2.length / p.count
    let bs := (e.2.drop (per lo)).take (per (lo + els.length) - per lo)
    let off := p.dst.base + e.1 + per lo
    if p.global 1 then writeGlobal s l off bs else teamStore s c.g.team off bs) s
  match r.resid with
  | some a => writeGlobal s l (a + 4 * lo) (((r.residOut.drop lo).take els.length).flatMap fun w => leBytes 4 w.toNat)
  | none => s
/-- The engine's reads recall the owners of the source grains (R186, R228). -/
def recallSource (s : State) (c : CopyJob) (l : List (Nat × Tr)) : State :=
  if c.spec.global 0 then
    (c.spec.grains 0 (c.left.flatMap c.spec.piece)).foldl (fun s g => s.recall (paAmong l (512 * g) / 512)) s
  else s
/-- A piece is written before the others: it is done, and the engine keeps the grains of the rest (R229, R242). -/
def movePiece (s : State) (c : CopyJob) (t : Team) (l : List (Nat × Tr)) (n : Nat) : State :=
  let s := writePiece (recallSource s c l) c l (copyResult s c t l) n
  let c' : CopyJob := { c with done := c.done ++ [n], since := none }
  let keep := (c'.targets).map fun g => paAmong l (512 * g) / 512
  { s with copies := s.copies.map fun x =>
      if x.id = c.id then { x with done := c'.done, since := none, grains := x.grains.filter keep.contains } else x }
/-- What is left of a copy moves, its arrival last (R230, R256). -/
def moveCopy (s : State) (c : CopyJob) (t : Team) (l : List (Nat × Tr)) : State :=
  let r := copyResult s c t l
  let s := c.left.foldl (fun s n => writePiece s c l r n) (recallSource s c l)
  let s := dropCopy s c.id
  match c.aw with
  | some off => adjArrival s t.id off (Arrival.arrive · (BitVec.ofNat 32 c.spec.dst.bytes))
  | none => s

/-- Whether some elements of a copy read a word with an error that cannot be corrected: in team memory, or in HBM4, the
residual buffer's included (R169, R242). -/
def copySoft (s : State) (c : CopyJob) (t : Team) (l : List (Nat × Tr)) (els : List Nat) : Bool :=
  let p := c.spec
  let hbm := fun (va n : Nat) => (runOf va n).any fun a => s.badMem.contains (paAmong l a / 4)
  let resids := (match c.chain with | some v => chainOps v | none => []).filterMap fun o => match o with | ChainOp.resid a => some a | _ => none
  !(s.badMem.isEmpty && t.badT.isEmpty) && els.any fun i =>
    (match p.run 0 i with | some (a, n) => if p.global 0 then hbm a n else softHit t a n | none => false)
      || resids.any fun a => hbm (a + 4 * i) 4
/-- A copy with a team-memory side stands still while its team is not on its core (R243). -/
def copyMoves (p : CopySpec) (t : Team) : Bool := p.dir == .g2g || t.place == .running || t.place == .ended
/-- The engine meets a page that is not resident: it posts for the PASID and waits (R242). -/
def copyPost (s : State) (c : CopyJob) (vpn : Nat) (need : BitVec 6) (remote chain : Bool) : State :=
  let w : Waiter := .engine c.id need
  let s := { s with copies := s.copies.map fun x => if x.id = c.id then { x with waiting := some (c.pasid, vpn), since := none } else x }
  match postFault s c.pasid vpn need remote chain { engno := some c.engine } [w] with
  | .done s => s
  | .full => s.adjFq (fqKey (homeOfPage s.build vpn) remote) fun q => { q with starved := addOnce q.starved w }
/-- A copy waits for a host region from now on, or still (R338, R339). -/
def copyRegion (s : State) (id pa : Nat) : State :=
  let upd := fun (x : CopyJob) => if x.id = id then { x with since := waitSince s pa x.since } else x
  wantRegion { s with copies := s.copies.map upd } pa

/-- A copy goes on as far as it can: it takes its grains, posts for a page it misses, ends with ERROR, waits, or does
what `k` says with the elements `els` picks, once it has all it needs (R228, R242). -/
def copyGo (s : State) (id : Nat) (els : CopyJob → List Nat) (k : State → CopyJob → Team → List (Nat × Tr) → State) : State :=
  match s.copies.find? fun c => c.id == id with
  | none => s
  | some c =>
    match s.team c.g.team with
    | none => s
    | some t =>
      let turn : Bool := ((engineJobs s c.engine).take 4).any fun x => x.id == id
      if !turn || c.waiting.isSome || !(copyMoves c.spec t) then s
      else
        let s := takeGrains s id
        let l := copyPlaces s c
        match firstStop l with
        | some (_, .trap cause _) => failCopy s id cause
        | some (g, .miss need remote chain) => copyPost s c (g / 128) need remote chain
        | some _ => failCopy s id cWindow
        | none =>
          let pas := l.filterMap fun x => match x.2 with | .at pa _ => some pa | _ => none
          match pas.find? fun pa => !(regionReady s pa) with
          | some pa => copyRegion s id pa
          | none =>
            if l.any fun x => pageWaits s c.pasid (x.1 / 128) then s
            else if copySoft s c t l (els c) then softCopy s id
            else k (notePlaces s (l.map fun x => x.2)) c t l
/-- A copy moves what is left of it, and arrives (R228, R242, R258). -/
def execCopyArrival (id : Nat) (s : State) : Out := .next (copyGo s id (fun c => c.left.flatMap c.spec.piece) moveCopy)
/-- Whether the sides of a copy within team memory overlap: such a copy reads all of its source first (R250). -/
def sidesMeet (p : CopySpec) : Bool :=
  p.dir == .t2t && match p.span 0, p.span 1 with | some (a, b), some (x, y) => overlaps a (b - a) x (y - x) | _, _ => false
/-- A copy writes one of its pieces before the others (R242, R243, R256). -/
def copyPiece (s : State) (id n : Nat) : State :=
  match s.copies.find? fun c => c.id == id with
  | none => s
  | some c =>
    if c.left.contains n && !(sidesMeet c.spec) then copyGo s id (fun c => c.spec.piece n) fun s c t l => movePiece s c t l n else s

/-- Whether the entry a copy waits on has passed its deadline, so that the copy ends with a cause (R242, R349). -/
def copyLate (s : State) (c : CopyJob) (cause : Cause) : Bool :=
  let late := fun (e : FEntry) => (e.waiters.any (Waiter.isCopy c.id)) && decide (e.time + faultDeadline s e.vif < s.clock)
    && (if e.declined = 0 then cTranslation else e.declined) == cause
  (s.faults.queues.any fun q => q.2.entries.any late) || (s.faults.served.any fun v => late v.entry)
    || s.faults.host.any late || s.faults.popped.any late
/-- A copy ends with ERROR while its reason stands: an uncorrectable error in what it reads, a place that is refused, or
a page that has not come by its deadline (R242). -/
def execCopyError (x : CopyFail) (s : State) : Out :=
  match s.copies.find? fun c => c.id == x.id with
  | none => .next s
  | some c =>
    let l := copyPlaces s c
    let met := l.any fun e => match e.2 with | .trap cause _ => cause == x.cause | _ => false
    let soft := match s.team c.g.team with | some t => copySoft s c t l (c.left.flatMap c.spec.piece) | none => false
    if x.cause = cSoft ∧ soft = true then .next (softCopy s x.id)
    else if met || copyLate s c x.cause then .next (failCopy s x.id x.cause) else .next s

end Sys2Proof.Machine
end

