-- ==== Sys2Proof/Machine/Records.lean ====
section
/-! DEFINITION. Record arenas, posting, bins and sheaves, launches, stalls and completion of instances, and NODEQ
(R294 to R314). -/

namespace Sys2Proof.Machine

/-! ### The arena (R294, R295) -/

/-- Where an address of a PASID lies, whatever may be done there: by its OFFSET range, or in the frame of its page. -/
def rawPA (s : State) (pasid va : Nat) : Option Nat :=
  (rangeLookup s pasid (va / 65536)).bind fun r =>
    if r.kind = 1 then some ((va + r.offset) % 2 ^ 52)
    else match invLookup s.build s.mem pasid (va / 65536) with
      | some (some f) => some (framePA s.build (colour s.build (va / 65536)) f + va % 65536)
      | _ => none
/-- Where an address of an instance's arena lies; the arena is pinned, so its pages are resident (R292). -/
def arenaPA (s : State) (i : Inst) (va : Nat) : Option Nat := rawPA s i.pasid va
/-- Write bytes at a 16-byte aligned arena address. -/
def arenaWrite (s : State) (i : Inst) (va : Nat) (bs : List Byte) : State :=
  (List.range ((bs.length + 15) / 16)).foldl (fun s k =>
    match arenaPA s i (va + 16 * k) with
    | some pa => homeWrite s pa ((bs.drop (16 * k)).take 16)
    | none => s) s
/-- Read `n` blocks of 16 bytes at an arena address. -/
def arenaRead (s : State) (i : Inst) (va n : Nat) : List Byte :=
  (List.range n).flatMap fun k =>
    match arenaPA s i (va + 16 * k) with
    | some pa => homeBytes s pa 16
    | none => List.replicate 16 0
/-- Address of a slot. -/
def slotVA (i : Inst) (n : Nat) : Nat := i.slotBase + i.slotBytes * n
/-- The header of a record (R295). -/
def headerBits (node label depth : Nat) (key : Option DWord) : Nat :=
  (match key with | some k => k.toNat * 2 ^ 64 + 2 ^ 15 | none => 0) + depth % 64 * 512 + label % 8 * 64 + node % 64

/-! ### Node descriptors -/

/-- ENTRYn of a label when it is VALID (R290). -/
def NodeDesc.entry (n : NodeDesc) (label : Nat) : Option Word :=
  (n.entries[label]?).bind fun e => if e.getLsbD 0 then some e else none
/-- The offset T of the sheaf region (R163). -/
def NodeDesc.sheafBase (n : NodeDesc) : Nat := (n.tmem + 255) / 256 * 256
/-- The window M (R163). -/
def NodeDesc.window (n : NodeDesc) : Nat := (n.sheafBase + n.recBytes * n.target + 2047) / 2048 * 2048
/-- What a team of the node asks of its core. -/
def NodeDesc.shape (n : NodeDesc) : Shape :=
  { groups := n.groups, width := n.width, vregs := n.vregs, ztiles := n.ztiles, window := n.window }
/-- Teams of one cluster. -/
def NodeDesc.teams (n : NodeDesc) : Nat := n.clw * n.clh

/-! ### Posting (R297 to R302) -/

/-- %trapinfo of R314. -/
def infoPost (label node lane code : Nat) : Word :=
  BitVec.ofNat 32 (label % 8 * 2 ^ 22 + node % 64 * 2 ^ 16 + lane % 256 * 16 + code)

/-- The payload of a lane; a byte of a word with a double-bit error is unspecified. -/
def payload (s : State) (t : Team) (off n : Nat) : List Byte :=
  (readBytes t.tmem off n).zipIdx.map fun (bi : Byte × Nat) =>
    if softHit t (off + bi.2) 1 then Config.freeByte (s.free + bi.2) else bi.1

/-- Write a lane's record to the lowest free slot: it is in flight to its home launcher (R299, R303). -/
def writeRecord (s : State) (w : PostWaiter) : State :=
  match s.team w.g.team with
  | none => s
  | some t =>
    match s.inst t.inst with
    | none => s
    | some i =>
      let n := (i.nodes[w.node]?).map (·.recBytes) |>.getD 0
      let slot := lowestFree i.used
      let home := match w.key with
        | some k => colour s.build (bvGet k 16 40) / 2
        | none => chipletOfCore t.core
      let bytes := leBytes 16 (headerBits w.node w.label (t.depth + 1) w.key) ++ payload s t w.off n
      let s := { arenaWrite s i (slotVA i slot) bytes with free := s.free + n }
      s.adjInst i.id fun i => { i with
        used := i.used ++ [slot]
        flights := i.flights ++ [{ g := w.g, slot, launcher := home, node := w.node, label := w.label }] }

/-- Draw a slot from the team's reservation, else, where there is room, from FREE (R296, R299). -/
def drawSlot (s : State) (team : Nat) (room : Inst → Bool) : Option State :=
  (s.team team).bind fun t => (s.inst t.inst).bind fun i =>
    if 0 < t.res then
      some ((s.adjTeam team fun t => { t with res := t.res - 1 }).adjInst i.id fun i => { i with res := i.res - 1 })
    else if room i then some s
    else none

/-- The lanes of a POST in order: the status each has, the lanes left unserved, and the state (R299); lanes that wait
already go first (R300). -/
def postLanes (free tries : Bool) : State → List PostWaiter → List (Nat × Word) × List PostWaiter × State
  | s, [] => ([], [], s)
  | s, w :: r =>
    match drawSlot s w.g.team fun i => free && decide (0 < i.spare) with
    | some s =>
      let (a, b, s) := postLanes free tries (writeRecord s w) r
      ((w.lane, 1) :: a, b, s)
    | none =>
      if tries then
        let (a, b, s) := postLanes free tries s r
        ((w.lane, 0) :: a, b, s)
      else ([], w :: r, s)

/-- The checks of R298 in their order. -/
def postTrap (c : Ctx) (plain : Bool) (x : Post) : Option TrapRec :=
  let node := x.node.toNat
  let label := x.label.toNat
  let mk := fun (cause : Cause) (code : Nat) => some (c.mkTrap cause 0 (infoPost label node (c.I.headD 0) code))
  let nodes := match c.s.inst c.t.inst with | some i => i.nodes | none => []
  match nodes[node]? with
  | none => mk cIllegal 1
  | some n =>
    if n.range then mk cIllegal 1
    else if (n.entry label).isNone then mk cIllegal 2
    else
      let off := fun L => (c.g.readLane L x.a.toNat).toNat
      let bad := fun L =>
        if off L % 16 ≠ 0 then some (cMisalign, 7)
        else if c.t.window < off L + n.recBytes then some (cTeamBounds, 1) else none
      match firstFault c.I bad with
      | some (L, cause, code) => some (c.mkTrap cause (BitVec.ofNat 64 (off L)) (infoTeam L code))
      | none =>
        if n.depthLim < c.t.depth + 1 then mk cDepth 3
        else if plain && decide (c.t.res < c.I.length) then mk cArenaFull 4
        else none

/-- POST: the checks, the release of R302, then one slot per lane (R298 to R302). -/
def postOp (free tries : Bool) (x : Post) (s : State) : Out :=
  issue s (Names.add (writesV [x.d.toNat]) (readsV (x.a.toNat :: if x.b = 0 then [] else runOf x.b.toNat 2))) 8 x.s false
    fun c =>
      match postTrap c (!free) x with
      | some t => .trap t
      | none =>
        if acquirePending c.s c.t.core c.r c.g then .park .recall c.s
        else if !(drainedAt c.s c.t.core c.r 5) then .park .drain c.s
        else
          let recs := c.I.map fun L =>
            ({ g := c.r, lane := L, d := x.d.toNat, node := x.node.toNat, label := x.label.toNat
               off := (c.g.readLane L x.a.toNat).toNat
               key := if x.b = 0 then none else some (c.g.lanePair L x.b.toNat) } : PostWaiter)
          let (done, left, s) := postLanes free tries c.s recs
          let s := if done.isEmpty then s
            else addDeferred s c.r [x.d.toNat] [] (done.map fun p => (p.1, x.d.toNat, p.2)) [] 0 0
          if left.isEmpty then .ok s
          else
            let s := setPcs s c.r (done.map fun p => (p.1, c.pc + 8))
            let s := s.adjInst c.t.inst fun i => { i with waiters := i.waiters ++ left }
            .moved (s.adjGroup c.r fun g => { g with park := some .postWait })

/-- POST (R298). -/
def execPost (x : Post) (s : State) : Out := postOp false false x s
/-- POST.try (R299). -/
def execPostTry (x : Post) (s : State) : Out := postOp true true x s
/-- POST.wait (R300). -/
def execPostWait (x : Post) (s : State) : Out := postOp true false x s

/-- A waiting lane of a POST.wait has its status: it goes on, and with the last one its group (R300). -/
def answerPost (s : State) (inst : Nat) (w : PostWaiter) (status : Word) : State :=
  let s := s.adjInst inst fun i => { i with waiters := i.waiters.filter fun v => v ≠ w }
  let s := addDeferred s w.g [w.d] [] [(w.lane, w.d, status)] [] 0 0
  let s := s.adjLane w.g w.lane fun l => { l with pc := l.pc + 8 }
  let more : Bool := match s.inst inst with | some i => i.waiters.any fun v => v.g == w.g | none => false
  if more then s else afterLanding (s.adjGroup w.g Group.unpark) w.g

/-- A slot is free for the lane that has waited longest (R300). -/
def execPostWaitServe (inst : Nat) (s : State) : Out :=
  match s.inst inst with
  | none => .next s
  | some i =>
    match i.waiters with
    | [] => .next s
    | w :: _ =>
      match drawSlot s w.g.team fun i => decide (0 < i.free) with
      | some s => .next (answerPost (writeRecord s w) inst w 1)
      | none => .next s

/-! ### Bins (R303 to R306) -/

/-- DEPTH in the header of a slot. -/
def slotDepth (s : State) (i : Inst) (n : Nat) : Nat := bitsOf (leNat (arenaRead s i (slotVA i n) 1)) 9 6
/-- Cut records as a sheaf, which joins its launcher's ready list (R304). -/
def cutSheaf (s : State) (inst launcher node label : Nat) (recs : List Nat) : State :=
  match s.inst inst with
  | none => s
  | some i =>
    let depth := recs.foldl (fun m n => max m (slotDepth s i n)) 0
    let h : Sheaf := { launcher, node, label, recs, depth, cluster := 0, seq := s.fresh }
    { (s.adjInst inst fun i => { i with ready := i.ready ++ [h] }) with fresh := s.fresh + 1 }
/-- Whether two bins are one. -/
def Bin.isAt (b : Bin) (launcher node label : Nat) : Bool := b.launcher == launcher && b.node == node && b.label == label
/-- Cut every record of a bin. -/
def cutBin (s : State) (inst : Nat) (b : Bin) : State :=
  let s := cutSheaf s inst b.launcher b.node b.label b.recs
  s.adjInst inst fun i => { i with bins := i.bins.filter fun x => !(x.isAt b.launcher b.node b.label) }

/-- A record enters its bin; one group's records to one launcher arrive in order (R303, R304). -/
def execRecordArrival (x : InstIdx) (s : State) : Out :=
  match s.inst x.inst with
  | none => .next s
  | some i =>
    match i.flights[x.i]? with
    | none => .next s
    | some f =>
      if (i.flights.take x.i).any fun e => e.g == f.g && e.launcher == f.launcher then .next s
      else
        let old := i.bins.find? fun b => b.isAt f.launcher f.node f.label
        let b : Bin := match old with
          | some b => { b with recs := b.recs ++ [f.slot] }
          | none => { launcher := f.launcher, node := f.node, label := f.label, recs := [f.slot], since := s.clock }
        let s := s.adjInst x.inst fun i => { i with
          flights := dropAt i.flights x.i
          bins := (i.bins.filter fun e => !(e.isAt f.launcher f.node f.label)) ++ [b] }
        let target := ((i.nodes[f.node]?).map (·.target)).getD 1
        .next (if target ≤ b.recs.length then cutBin s x.inst b else s)

/-- The timer of a bin has run out: a partial sheaf is cut (R304). -/
def execBinTimerExpiry (x : BinRef) (s : State) : Out :=
  match s.inst x.inst with
  | none => .next s
  | some i =>
    match i.bins.find? fun b => b.isAt x.launcher x.node x.label with
    | none => .next s
    | some b =>
      let timer := ((i.nodes[x.node]?).map (·.timer)).getD 0
      .next (if timer ≠ 0 ∧ b.since + timer ≤ s.clock then cutBin s x.inst b else s)

/-- The drain condition (R305). -/
def drains (s : State) (i : Inst) : Bool := (runningTeams s i.id).isEmpty && i.flights.isEmpty
/-- While it holds every bin is cut (R305). -/
def execDrainCut (inst : Nat) (s : State) : Out :=
  match s.inst inst with
  | none => .next s
  | some i => .next (if drains s i then i.bins.foldl (fun s b => cutBin s inst b) s else s)

/-! ### Launching (R306, R307) -/

/-- The first condition of R307. -/
def sheafFits (i : Inst) (h : Sheaf) : Bool :=
  match i.nodes[h.node]? with
  | none => false
  | some n => decide (n.reserve * n.teams ≤ i.spare + h.recs.length)
/-- The place of a sheaf's cluster on its launcher's chiplet (R15). -/
def sheafRect (s : State) (i : Inst) (h : Sheaf) : Option (List Nat) :=
  (i.nodes[h.node]?).bind fun n => findRect h.launcher n.clw n.clh fun core _ => coreFits s core n.shape
/-- Whether a sheaf can launch now (R307). -/
def canLaunch (s : State) (i : Inst) (h : Sheaf) : Bool := sheafFits i h && (sheafRect s i h).isSome

/-- A team of a cluster as it starts: place, numbers and sheaf (R84, R132, R163, R164, R307). -/
def newTeam (s : State) (i : Inst) (n : NodeDesc) (h : Sheaf) (core ct cid key : Nat) (sheaf : List Byte) : Team :=
  let slots := takeSlots s core n.groups
  let pc : DWord := i.codeBase + (((n.entry h.label).getD 0) &&& 0xFFFFFFFC).setWidth 64
  { id := s.fresh, inst := i.id, place := .running, core, slot := slots.1, pasid := i.pasid, vif := i.vif, width := n.width
    vregs := n.vregs, ztiles := n.ztiles, kregs := n.kregs
    groups := slots.2.zipIdx.map fun sg => Group.start pc n.width sg.1 sg.2
    teamId := BitVec.ofNat 32 (cid * n.teams + ct), clusterId := BitVec.ofNat 32 cid, clusterTeam := ct
    clusterW := n.clw, clusterH := n.clh, clusterKey := key, node := h.node, label := h.label, sheafBase := n.sheafBase
    sheafN := h.recs.length, depth := h.depth, params := BitVec.ofNat 64 i.arena, handler := i.handler
    window := n.window, tmem := writeBytes [] n.sheafBase sheaf, badT := [], tiles := [], kregState := [], barriers := []
    bufs := [], activeBuf := 0, wloads := 0, latch := none, mq := [], share := none, shareSeen := [], subs := [], hang := 0
    res := n.reserve, codeFrom := s.codeLog.length }

/-- Launch a sheaf on a rectangle: every team takes the whole sheaf, and the counts change in one step (R296, R307).
The start of each team is an acquire at package scope (R302). -/
def launchSheaf (s : State) (i : Inst) (n : NodeDesc) (h : Sheaf) (rect : List Nat) : State :=
  let sheaf := h.recs.flatMap fun k => arenaRead s i (slotVA i k + 16) (n.recBytes / 16)
  let cid := if n.range then h.cluster else Sparse.get 0 i.counters h.node
  let key := s.fresh
  let s := { s with fresh := s.fresh + 1 }
  let s := rect.zipIdx.foldl (fun s ci =>
    let t := newTeam s i n h ci.1 ci.2 cid key sheaf
    ({ s with teams := s.teams ++ [t], fresh := s.fresh + 1 } : State).dropL1 ci.1) s
  s.adjInst i.id fun i => { i with
    used := i.used.filter fun k => !(h.recs.contains k)
    res := i.res + n.reserve * n.teams, launched := i.launched + n.teams
    ready := i.ready.filter fun x => x.seq ≠ h.seq
    counters := if n.range then i.counters else Sparse.set 0 i.counters h.node ((cid + 1) % 2 ^ 32) }

/-- The oldest sheaf of a launcher that can launch, with its instance (R307). -/
def nextSheaf (s : State) (launcher : Nat) : Option (Inst × Sheaf) :=
  let all := s.insts.flatMap fun i => (i.ready.filter fun h => h.launcher == launcher && canLaunch s i h).map fun h => (i, h)
  all.find? fun x => all.all fun y => decide (x.2.seq ≤ y.2.seq)
/-- Whether a lower launcher asks for the same free slots and both do not fit (R25). -/
def yieldsTo (s : State) (launcher : Nat) (i : Inst) (h : Sheaf) : Bool :=
  let asks := fun (h : Sheaf) => match i.nodes[h.node]? with | some n => n.reserve * n.teams - h.recs.length | none => 0
  (List.range launcher).any fun l =>
    match nextSheaf s l with
    | some (j, k) => j.id == i.id && decide (0 < asks k) && decide (0 < asks h) && decide (i.spare < asks k + asks h)
    | none => false
/-- A launcher starts the oldest of its sheaves that can launch (R25, R307). -/
def execSheafLaunch (launcher : Nat) (s : State) : Out :=
  match nextSheaf s launcher with
  | none => .next s
  | some (i, h) =>
    if yieldsTo s launcher i h then .next s else
    match i.nodes[h.node]?, sheafRect s i h with
    | some n, some rect => .next (launchSheaf s i n h rect)
    | _, _ => .next s

/-! ### Stalls and completion (R300, R308, R309) -/

/-- The stall of R300: every group that runs waits in POST.wait, and no sheaf can launch. -/
def postStalled (s : State) (i : Inst) : Bool :=
  ((runningTeams s i.id).all fun t => t.groups.all fun g => g.exited || g.park == some .postWait)
    && i.ready.all fun h => !(canLaunch s i h)
/-- An instance stalls: every waiting lane takes ARENA_FULL as its status (R300); a lane that finds a slot free is
served instead. -/
def execPostWaitStall (inst : Nat) (s : State) : Out :=
  match s.inst inst with
  | none => .next s
  | some i =>
    .next (if postStalled s i && i.free == 0 then i.waiters.foldl (fun s w => answerPost s inst w 0x0A) s else s)

/-- Whether every store of an instance's teams has been performed (R309). -/
def instQuiet (s : State) (id : Nat) : Bool := (s.teams.filter fun t => t.inst == id).all fun t => t.place == .ended && teamQuiet s t

/-- An instance stalls at drain: it ends with ARENA_FULL and its sheaves are dropped (R308). -/
def execInstanceStallDrain (inst : Nat) (s : State) : Out :=
  match s.inst inst with
  | none => .next s
  | some i =>
    match i.ready.find? fun h => i.ready.all fun x => decide (h.seq ≤ x.seq) with
    | none => .next s
    | some h =>
      .next (if drains s i && i.bins.isEmpty && (i.ready.all fun h => !(sheafFits i h)) && instQuiet s inst then
        finishInst s i h.node cArenaFull i.recsLeft else s)

/-- An instance is complete: its completion word is a release at package scope (R309); an end that had to wait is
tried again. -/
def execInstanceComplete (inst : Nat) (s : State) : Out :=
  match s.inst inst with
  | none => .next s
  | some i =>
    .next (if i.ended.isSome || (drains s i && i.bins.isEmpty && i.ready.isEmpty && instQuiet s inst) then finishInst s i 0 0 0 else s)

/-! ### NODEQ (R313) -/

/-- The value a query gives (R313). -/
def nodeqValue (s : State) (t : Team) (q : Word) : Word :=
  match s.inst t.inst with
  | none => 0xFFFFFFFF
  | some i =>
    let v := q.toNat
    let node := bitsOf v 0 6
    let label := bitsOf v 6 3
    let query := bitsOf v 9 3
    let perNode : Bool := query == 0 || query == 1 || query == 4
    if bitsOf v 12 20 ≠ 0 ∨ 6 ≤ query ∨ (perNode ∧ i.nodes.length ≤ node) then 0xFFFFFFFF
    else
      BitVec.ofNat 32 <|
        match query with
        | 0 => ((i.bins.filter fun b => b.isAt (chipletOfCore t.core) node label).map fun b => b.recs.length).sum
        | 1 => ((i.bins.filter fun b => b.node == node).map fun b => b.recs.length).sum
            + ((i.ready.filter fun h => h.node == node).map fun h => h.recs.length).sum
        | 2 => i.free
        | 3 => t.res
        | 4 => ((runningTeams s i.id).filter fun u => u.node == node).length
        | _ => i.slots

/-- NODEQ: the group parks until the answer comes (R313). -/
def execNodeq (x : UU) (s : State) : Out :=
  issue s (Names.add (writesU [x.d.toNat]) (readsU [x.a.toNat])) 4 x.s false fun c =>
    .ok (c.s.adjGroup c.r fun g => { g with park := some (.nodeq x.d.toNat (c.g.readUni x.a.toNat)) })
/-- The answer of a NODEQ, at the instant it is written. -/
def execNodeqAnswer (r : GRef) (s : State) : Out :=
  match s.team r.team, s.group r with
  | some t, some g =>
    match g.park with
    | some (.nodeq d q) =>
      .next (afterLanding (s.adjGroup r fun g => (g.writeUni d (nodeqValue s t q)).unpark) r)
    | _ => .next s
  | _, _ => .next s

end Sys2Proof.Machine
end

