-- ==== Sys2Proof/Machine/Traps.lean ====
section
/-! DEFINITION. The handler's instructions (R361 to R364), the fault deadline (R349), and pre-emption (R368 to R370). -/

namespace Sys2Proof.Machine

/-! ### TRAP and RTE (R363, R364) -/

/-- TRAP: outside the handler a software trap whose resume PC is the next instruction; in it, a fatal end. -/
def execTrap (x : UTrap) (s : State) : Out :=
  issue s {} 4 x.s false fun c =>
    if x.n = 0 ∨ (!c.g.inHandler ∧ x.n < 0x20) then .trap (c.mkTrap cIllegal 0 0)
    else if c.g.inHandler then .moved (fatalEnd c.s c.r.team x.n)
    else .moved (takeTrap c.s c.r (c.mkTrap x.n 0 0) c.I (c.I.map fun L => (L, c.pc + 4)))

/-- RTE (R363). -/
def execRte (settle : Bool) (s : State) : Out := issue s {} 4 settle true fun c => .moved (returnFromTrap c.s c.r)

/-! ### Frame items (R361) -/

/-- Whether a group has stopped: asked to, with nothing left to land (R360, R362). -/
def Group.isStopped (g : Group) : Bool := g.stop.isSome && g.park.isNone && g.deferred.isEmpty
/-- The group s(sa) names. -/
def targetOf (c : Ctx) (v : Word) : Option (Nat × Group) :=
  if 16 ≤ v.toNat then none else (c.t.groups[v.toNat]?).map fun g => (v.toNat, g)

/-- A frame item by its selector. -/
inductive Item where
  | uni (r : Nat)
  | reg (L v : Nat)
  | pc (L : Nat)
  | word (k : Nat)
  | block (k : Nat)
  deriving DecidableEq, Repr

/-- The item of a selector; a bit that must be zero, or a lane or register the group lacks, names none. -/
def itemOf (t : Team) (sel : Word) : Option Item :=
  let v := sel.toNat
  let L := bitsOf v 8 6
  match bitsOf v 28 4 with
  | 0 => if bitsOf v 6 22 = 0 then some (.uni (bitsOf v 0 6)) else none
  | 1 =>
    if bitsOf v 14 14 = 0 ∧ bitsOf v 7 1 = 0 ∧ L < t.width ∧ bitsOf v 0 7 < t.vregs then some (.reg L (bitsOf v 0 7))
    else none
  | 2 => if bitsOf v 14 14 = 0 ∧ bitsOf v 0 8 = 0 ∧ L < t.width then some (.pc L) else none
  | 3 => if bitsOf v 4 24 = 0 ∧ bitsOf v 0 4 ≤ 8 then some (.word (bitsOf v 0 4)) else none
  | 4 => if bitsOf v 4 24 = 0 then some (.block (bitsOf v 0 4)) else none
  | _ => none

/-- A frame word. -/
def Frame.word (f : Frame) (k : Nat) : DWord :=
  match k with
  | 0 => f.trap.cause.setWidth 64
  | 1 => f.trap.addr
  | 2 => f.trap.inst.setWidth 64
  | 3 => f.trap.info.setWidth 64
  | 5 => f.issuing
  | 6 => f.live
  | 7 => BitVec.ofNat 64 f.tile
  | _ => f.pc

/-- The value of an item of a group; `own` for the handler's own group, whose saved registers stand in the frame. -/
def readItem (g : Group) (own : Bool) : Item → Option DWord
  | .uni r =>
    match own && decide (48 ≤ r), g.frame with
    | true, some f => some ((Sparse.get 0 f.uregs r).setWidth 64)
    | _, _ => some ((g.readUni r).setWidth 64)
  | .reg L v =>
    match own && decide (120 ≤ v), g.frame with
    | true, some f => some ((Sparse.get 0 (Sparse.get [] f.vregs L) v).setWidth 64)
    | _, _ => some ((g.readLane L v).setWidth 64)
  | .pc L =>
    match g.frame with
    | some f => some (Sparse.get (g.lane L).pc f.pcs L)
    | none => some (g.lane L).pc
  | .word k => g.frame.map fun f => f.word k
  | .block k =>
    match g.frame with
    | some f =>
      if (f.trap.cause = cGrain ∨ f.trap.cause = cLost) ∧ f.trap.block ≠ 0 then
        some (BitVec.ofNat 64 (bvGet f.trap.block (32 * k) 32))
      else none
    | none => none

/-- Write an item; frame words 0 to 7 and the refused block are read-only. -/
def writeItem (g : Group) (own : Bool) (v : DWord) : Item → Group
  | .uni r =>
    match own && decide (48 ≤ r), g.frame with
    | true, some f => { g with frame := some { f with uregs := Sparse.set 0 f.uregs r (v.setWidth 32) } }
    | _, _ => g.writeUni r (v.setWidth 32)
  | .reg L r =>
    match own && decide (120 ≤ r), g.frame with
    | true, some f =>
      let m := Sparse.set 0 (Sparse.get [] f.vregs L) r (v.setWidth 32)
      { g with frame := some { f with vregs := Sparse.set [] f.vregs L m } }
    | _, _ => g.writeLane L r (v.setWidth 32)
  | .pc L =>
    match g.frame with
    | some f => { g with frame := some { f with pcs := f.pcs.map fun e => if e.1 = L then (L, v) else e } }
    | none => g.adjLane L fun l => { l with pc := v }
  | .word k =>
    match g.frame with
    | some f =>
      if k = 8 then
        { g with frame := some { f with pcs := f.pcs.map fun e => if f.issuing.getLsbD e.1 then (e.1, v) else e } }
      else g
    | none => g
  | .block _ => g

/-- The group and item GRPRD and GRPWR reach: the handler's own group, or a stopped one; a group in the handler counts
as stopped (R360). -/
def reach (c : Ctx) (who sel : Word) : Option (Nat × Group × Item) :=
  (targetOf c who).bind fun ig =>
    if ig.1 = c.r.grp ∨ ig.2.inHandler ∨ ig.2.isStopped then (itemOf c.t sel).map fun i => (ig.1, ig.2, i) else none

/-- GRPRD (R362). -/
def execGrprd (x : UR) (s : State) : Out :=
  issue s (Names.add (writesU (runOf x.d.toNat 2)) (readsU [x.a.toNat, x.b.toNat])) 4 x.s true fun c =>
    let v := (reach c (c.g.readUni x.a.toNat) (c.g.readUni x.b.toNat)).bind fun p => readItem p.2.1 (p.1 == c.r.grp) p.2.2
    .ok (writeUPair c x.d.toNat (v.getD 0xFFFFFFFFFFFFFFFF) c.s)
/-- GRPWR (R362). -/
def execGrpwr (x : UR) (s : State) : Out :=
  issue s (readsU (x.a.toNat :: x.b.toNat :: runOf x.d.toNat 2)) 4 x.s true fun c =>
    match reach c (c.g.readUni x.a.toNat) (c.g.readUni x.b.toNat) with
    | none => .ok c.s
    | some p =>
      .ok (c.s.adjGroup ⟨c.r.team, p.1⟩ fun g => writeItem g (p.1 == c.r.grp) (c.g.uniPair x.d.toNat) p.2.2)

/-! ### GRPRES, GRPSTOP, GRPLIST (R362) -/

/-- Lanes issue again from their PCs; a lane whose signature stands at its PC waits for its round (R271, R362). -/
def resumeLanes (t : Team) (grp : Nat) (g : Group) : Group :=
  Group.keepOwed { g with lanes := (List.range g.lanes.length).map fun L =>
      let l := g.lane L
      if l.exited then l else { l with park := (t.signedAt grp L l.pc).map LanePark.mma } }
/-- Every live lane has age 0. -/
def zeroAges (g : Group) : Group := { g with lanes := g.lanes.map fun l => { l with age := 0 } }

/-- GRPRES (R362). -/
def execGrpres (x : UU) (s : State) : Out :=
  issue s (Names.add (writesU [x.d.toNat]) (readsU [x.a.toNat])) 4 x.s true fun c =>
    match targetOf c (c.g.readUni x.a.toNat) with
    | some (i, g) =>
      if g.isStopped && (g.stop == some .grpstop || g.stop == some .hang) then
        let s := c.s.adjGroup ⟨c.r.team, i⟩ fun g => resumeLanes c.t i (zeroAges { g with stop := none })
        .ok (writeU c x.d.toNat 0 s)
      else .ok (writeU c x.d.toNat 2 c.s)
    | none => .ok (writeU c x.d.toNat 2 c.s)

/-- Whether the GRPSTOP that executes again made the stop it waits for. -/
def madeStop (s : State) : Bool := match s.parkNow with | some (.grpstop mine) => mine | _ => false

/-- GRPSTOP: it parks until its target has stopped (R362); a target on its way into the handler gets there first. -/
def execGrpstop (x : UU) (s : State) : Out :=
  issue s (Names.add (writesU [x.d.toNat]) (readsU [x.a.toNat])) 4 x.s true fun c =>
    let done := fun (v : Word) => Res.ok (writeU c x.d.toNat v c.s)
    match targetOf c (c.g.readUni x.a.toNat) with
    | none => done 2
    | some (i, g) =>
      if i = c.r.grp then done 3
      else if g.exited ∨ g.inHandler then done 2
      else if g.pending.isSome && g.stop.isNone then .park (.grpstop false) c.s
      else if g.stop.isSome then
        if g.isStopped then done (if madeStop s then 0 else 1) else .park (.grpstop (madeStop s)) c.s
      else
        let s := stopGroup c.s ⟨c.r.team, i⟩ .grpstop
        match s.group ⟨c.r.team, i⟩ with
        | some h => if h.isStopped then .ok (writeU c x.d.toNat 0 s) else .park (.grpstop true) s
        | none => done 2

/-- The state of a group as GRPLIST tells it (R133, R362). -/
def Group.code (g : Group) : Nat :=
  if g.exited then 5
  else if g.inHandler then 6
  else if g.isStopped || g.park == some .stopping then 4
  else if g.park.isSome then 2
  else if g.cands.isEmpty then 3 else 1
/-- GRPLIST (R362). -/
def execGrplist (x : UDst) (s : State) : Out :=
  issue s (writesU (runOf x.d.toNat 2)) 4 x.s true fun c =>
    let v := c.t.groups.zipIdx.foldl (fun n gi => n + gi.1.code * 2 ^ (4 * gi.2)) 0
    .ok (writeUPair c x.d.toNat (BitVec.ofNat 64 v) c.s)

/-! ### The fault deadline (R349) -/

/-- Whether an entry has passed its interface's deadline. -/
def isLate (s : State) (e : FEntry) : Bool := decide (e.time + faultDeadline s e.vif < s.clock)
/-- The entry for a Gutter post that waits for room, as the deadline counts it (R346). -/
def unpostedEntry (s : State) (pasid vpn since : Nat) : FEntry :=
  { pasid, vpn, vif := (pasidEntry s pasid).vif, needs := 2, chain := false, stage := 0, tries := 0, signal := false
    engine := false, merges := 0, time := since, core := 0, engno := 0, qslot := 0, seq := 0, waiters := [], declined := 0 }

/-- An entry, or an access that waits to post, passes the deadline. -/
def execFaultDeadline (x : EntryRef) (s : State) : Out :=
  match x with
  | .fifo chiplet remote idx =>
    let k := fqKey chiplet remote
    let q := s.fq k
    match q.entries[idx]? with
    | some e =>
      .next (if isLate s e then expireEntry (takeEntry s k idx) e else s)
    | none =>
      match q.starved[idx - q.entries.length]? with
      | some (.gutter core pasid vpn since) =>
        let e := unpostedEntry s pasid vpn since
        let drop := fun (s : State) => s.adjFq k fun q => { q with starved := q.starved.filter fun w => w ≠ .gutter core pasid vpn since }
        .next (if isLate s e then expireEntry (drop s) e else s)
      | _ => .next s
  | .served idx =>
    match s.faults.served[idx]? with
    | some v =>
      let drop := fun (s : State) => { s with faults := { s.faults with served := dropAt s.faults.served idx } }
      .next (if isLate s v.entry then expireEntry (drop s) v.entry else s)
    | none => .next s
  | .host idx =>
    match (s.faults.host ++ s.faults.popped)[idx]? with
    | some e => .next (if isLate s e then expireEntry (dropHost s e.seq) e else s)
    | none => .next s

/-! ### Pre-emption (R368 to R370) -/

/-- The request: no group of the team issues again, and every wait that can end ends (R368). -/
def preemptTeam (s : State) (id : Nat) : State :=
  match s.team id with
  | none => s
  | some t =>
    if t.place ≠ .running then s
    else
      let s := (List.range t.groups.length).foldl (fun s i => freezeGroup s ⟨id, i⟩) s
      let s := s.adjCore t.core fun c => c.dropHeld id
      s.adjTeam id fun t => { t with place := .preempting }

/-- Gutter entries a list takes in a spill ring. -/
def spillUse (l : List GutterEntry) : Nat :=
  16 * (l.filter fun e => e.e.isGrain).length
    + (((l.filter fun e => !e.e.isGrain).map fun e => (e.team, e.logged)).eraseDups).length
/-- The 64-byte records of Gutter entries: one of the lanes that were logged together, 16 of a grain (R351). -/
def spillRecords (s : State) (l : List GutterEntry) : List (BitVec 512) :=
  let bits := fun (e : GutterEntry) (es : List SqEntry) =>
    gutterBits es e.pasid e.grp (match s.team e.team with | some t => t.slot | none => 0) e.logged e.pend
  let firsts := l.foldl (fun acc e =>
    if !e.e.isGrain && acc.any fun x => !x.e.isGrain && x.team == e.team && x.logged == e.logged then acc else acc ++ [e]) []
  firsts.flatMap fun e => if e.e.isGrain then e.e.blocks.map fun b => bits e [b] else [bits e (e.unit l)]
/-- Append the records of Gutter entries to the spill ring of a chiplet (R370, log 21). -/
def writeSpill (s : State) (chiplet : Nat) (l : List GutterEntry) : State :=
  let base := (Sparse.get 0 s.faults.gspBase chiplet).toNat
  let size := (Sparse.get 0 s.faults.gspSize chiplet).toNat
  let next := Sparse.get 0 s.faults.spillNext chiplet
  let rs := spillRecords s l
  let s := rs.zipIdx.foldl (fun s r =>
    let pa := base + 64 * ((next + r.2) % size)
    if pa + 64 ≤ localBytes s.build then homeWrite s pa (leBytes 64 r.1.toNat) else s) s
  if l.isEmpty then s
  else { s with faults := { s.faults with spillNext := Sparse.set 0 s.faults.spillNext chiplet ((next + rs.length) % size) } }
/-- Not parked, or parked in a GRPSTOP, which executes again when its team runs. -/
def Group.parkedOff (g : Group) : Bool := match g.park with | none => true | some (.grpstop _) => true | _ => false
/-- Whether every group of a team has stopped at a boundary, with nothing on its way but what a refusal holds back
(R188, R368). -/
def readyToSave (s : State) (t : Team) : Bool :=
  t.place == .preempting
    && (t.groups.all fun g => g.parkedOff && g.deferred.isEmpty && g.leaving.isEmpty)
    && (s.core t.core).reqs.all fun q => q.team ≠ t.id || reqHeld s q
/-- Bytes the context of a team takes (R369). -/
def Team.contextBytes (t : Team) : Nat :=
  4096 + 4096 * t.groups.length + 256 * unitsOf t.groups.length t.width t.vregs t.ztiles + t.window
    + (if 1 ≤ t.ztiles then 75776 else 0)
/-- The area a team of a queue is saved to: CTXAREA of its slot, behind the teams of the queue that are saved already
(R369, R403; log 62). -/
def saveArea (s : State) (t : Team) : Option Nat :=
  (s.inst t.inst).bind fun i =>
    let mine := fun (u : Team) => u.place == .saved && match s.inst u.inst with | some j => j.queue == i.queue | none => false
    (s.queues.slots.find? fun e => e.2.preempting && qcbKey e.2.qcb == i.queue).map fun e =>
      bvGet e.2.qcb 448 64 + ((s.teams.filter mine).map Team.contextBytes).sum
/-- The save: the context goes to its area, in a form of the part's own; the Gutter entries go to the chiplet's spill
list and their records to its ring, and the core is free of the team (R369, R370). -/
def execPreemptSave (id : Nat) (s : State) : Out :=
  match s.team id with
  | none => .next s
  | some t =>
    let chiplet := chipletOfCore t.core
    let mine := (s.core t.core).gutter.filter fun e => e.team == id
    let old := Sparse.get [] s.faults.spill chiplet
    let room := decide (spillUse (old ++ mine) ≤ (Sparse.get 0 s.faults.gspSize chiplet).toNat)
    if !(readyToSave s t) || !(mine.isEmpty || room) then .next s
    else
      let s := s.adjCore t.core fun c => { c with gutter := c.gutter.filter fun e => e.team ≠ id }
      let s := { s with faults := { s.faults with spill := Sparse.set [] s.faults.spill chiplet (old ++ mine) } }
      let s := writeSpill s chiplet mine
      let out := fun (g : Group) => if g.exited then g.release else g
      let s := match saveArea s t with | some a => scrambleBytes s a t.contextBytes | none => s
      .next (s.adjTeam id fun t => { t with place := .saved, groups := t.groups.map out })

/-- Whether a queue runs in some slot. -/
def queueRunning (s : State) (q : Nat) : Bool :=
  s.queues.slots.any fun e => (e.2.state == .running || e.2.state == .stopping) && !e.2.preempting && qcbKey e.2.qcb == q
/-- The shape of a saved team: its groups that have not exited (R89). -/
def Team.shape (t : Team) : Shape :=
  { groups := t.slotGroups.length, width := t.width, vregs := t.vregs, ztiles := t.ztiles, window := t.window }

/-- A subscription starts again: the mirror is copied anew and RESYNC set (R181, R182). -/
def resyncSub (s : State) (team : Nat) (u : Sub) : State :=
  match s.subHomes.find? fun h => h.members.contains (team, u.handle) with
  | none => s
  | some h =>
    let bytes := match h.pa with | some pa => homeBytes s pa h.len | none => List.replicate h.len 0
    let s := teamStore s team u.loc bytes
    let s := teamStore s team (u.block + 8) (leBytes 4 h.count.toNat)
    let s := s.adjTeam team fun t => { t with
      subs := t.subs.map fun x => if x.handle = u.handle then { x with resync := true } else x }
    teamStore { s with deliveries := s.deliveries.filter fun d => !(d.team == team && d.handle == u.handle) } team
      (u.block + 12) (leBytes 4 3)

/-- The copies saved with a team go on behind those of an engine of the chiplet: the one R240 chooses, with the engine
they had as the hint (R243; log 24). -/
def seatCopies (s : State) (t : Team) (chiplet : Nat) : State :=
  let mine := s.copies.filter fun c => c.g.team == t.id && c.dir != .g2g
  let s := { s with copies := s.copies.filter fun c => !(mine.contains c) }
  mine.foldl (fun s c =>
    let e := (pickEngine s chiplet (c.engine % 8)).getD (8 * chiplet + c.engine % 8)
    { s with copies := s.copies ++ [{ c with engine := e }] }) s
/-- A team takes its place on a core again (R16, R132, R370). Requests a refusal holds back follow it. -/
def seatTeam (s : State) (t : Team) (core : Nat) : State :=
  let slots := takeSlots s core t.slotGroups.length
  let keep := s.cores.flatMap fun kc => kc.2.reqs.filter fun q => q.team == t.id
  let s := s.mapCores fun _ c => { c with reqs := c.reqs.filter fun q => q.team ≠ t.id }
  let s := (s.adjCore core fun c => { c with reqs := c.reqs ++ keep }).dropL1 core
  let held := (t.groups.zipIdx.filter fun gi => !gi.1.exited).map (·.2)
  let seat := fun (gi : Group × Nat) =>
    match indexOf (fun i => i == gi.2) held with
    | some k => resumeLanes t gi.2 { gi.1 with slot := slots.2.getD k 0, lastIssue := 0 }
    | none => gi.1
  let s := s.adjTeam t.id fun t => { t with core, slot := slots.1, place := .running, groups := t.groups.zipIdx.map seat }
  let s := seatCopies s t (chipletOfCore core)
  t.subs.foldl (fun s u => resyncSub s t.id u) s

/-- Teams of a cluster that have not ended. -/
def clusterLive (s : State) (key : Nat) : List Team := s.teams.filter fun t => t.clusterKey == key && t.place != .ended
/-- Whether nothing of a cluster keeps it from resuming: every team saved, its queue running, its spilled entries
replayed, and no copy engine owning a line it subscribes to (R181, R370). -/
def canResume (s : State) (ts : List Team) : Bool :=
  ts.all fun t =>
    t.place == .saved
      && (match s.inst t.inst with | some i => queueRunning s i.queue | none => false)
      && (s.faults.spill.all fun kl => kl.2.all fun e => e.team ≠ t.id)
      && (s.cores.all fun kc => kc.2.reqs.all fun q => q.team ≠ t.id || reqHeld s q)
      && t.subs.all fun u => (s.subHomes.all fun h =>
          !(h.members.contains (t.id, u.handle)) ||
            match h.pa with | some pa => !((grainsOf pa h.len).any fun q => s.engineOwned (q * 512)) | none => true)

/-- A pre-empted cluster resumes as a whole on a rectangle of its chiplet (R16, R370). -/
def execTeamResume (id : Nat) (s : State) : Out :=
  match s.team id with
  | none => .next s
  | some t =>
    let ts := clusterLive s t.clusterKey
    if t.place ≠ .saved ∨ !(canResume s ts) then .next s
    else
      let fits := fun core i =>
        match ts.find? fun u => u.clusterTeam == i with | some u => coreFits s core u.shape | none => true
      match findRect (chipletOfCore t.core) t.clusterW t.clusterH fits with
      | none => .next s
      | some rect => .next (ts.foldl (fun s u => seatTeam s u (rect.getD u.clusterTeam 0)) s)

end Sys2Proof.Machine
end

