-- ==== Sys2Proof/Machine/Hart.lean ====
section
/-! DEFINITION. Service cores (R371 to R381): registers and CSRs, traps, addresses and memory, the shape of an Xkrov
instruction, BFX, LODEH, SWAIT, FENCE, the A extension and writes of the Xkrov CSRs. What R372 takes from the RISC-V
privileged architecture 1.12 (traps, Sv48) follows that standard (log 17). -/

namespace Sys2Proof.Machine

/-! ### Registers and CSRs -/

/-- An integer register; x0 reads as zero. -/
def Hart.reg (k : Hart) (r : BitVec 5) : DWord := if r = 0 then 0 else Sparse.get 0 k.x r.toNat
/-- Write an integer register; a write of x0 is discarded (R378). -/
def Hart.setReg (k : Hart) (r : BitVec 5) (v : DWord) : Hart :=
  if r = 0 then k else { k with x := Sparse.set 0 k.x r.toNat v }
/-- A CSR as stored. -/
def Hart.csr (k : Hart) (n : Nat) : DWord := Sparse.get 0 k.csrs n
/-- Store a CSR. -/
def Hart.setCsr (k : Hart) (n : Nat) (v : DWord) : Hart := { k with csrs := Sparse.set 0 k.csrs n v }
/-- The chiplet a core is an agent of (R371, R373). -/
def Hart.chiplet (k : Hart) : Nat := if k.role = 0 then k.num / 2 else if k.role = 1 then k.num else 0
/-- mxkid (R376). -/
def Hart.mxkid (k : Hart) : DWord := BitVec.ofNat 64 (k.chiplet * 1024 + k.role * 256 + k.num)

/-- mstatus. -/
def csrMstatus : Nat := 0x300
/-- A bit of mstatus. -/
def Hart.status (k : Hart) (i : Nat) : Bool := (k.csr csrMstatus).getLsbD i
/-- The mode of loads and stores: MPP under MPRV. -/
def Hart.memMode (k : Hart) : Nat := if k.mode = 3 ∧ k.status 17 then bvGet (k.csr 0x300) 11 2 else k.mode
/-- A pending interrupt that is enabled, whatever the global enables say. -/
def Hart.interruptPends (k : Hart) : Bool := k.csr 0x344 &&& k.csr 0x304 ≠ 0

/-! ### Traps (R377; log 17) -/

/-- Enter the supervisor's handler. -/
def Hart.trapS (k : Hart) (cause tval target : DWord) : Hart :=
  let m := k.csr csrMstatus
  let m := bvSet m 5 1 (bvGet m 1 1)
  let m := bvSet (bvSet m 1 1 0) 8 1 (if k.mode = 1 then 1 else 0)
  { ((((k.setCsr 0x141 k.pc).setCsr 0x142 cause).setCsr 0x143 tval).setCsr csrMstatus m) with mode := 1, pc := target }
/-- Enter the machine's handler. -/
def Hart.trapM (k : Hart) (cause tval target : DWord) : Hart :=
  let m := k.csr csrMstatus
  let m := bvSet m 7 1 (bvGet m 3 1)
  let m := bvSet (bvSet m 3 1 0) 11 2 k.mode
  { ((((k.setCsr 0x341 k.pc).setCsr 0x342 cause).setCsr 0x343 tval).setCsr csrMstatus m) with mode := 3, pc := target }
/-- A trap vector: BASE, or BASE + 4 × code for an interrupt in vectored mode. -/
def vectorOf (tvec : DWord) (intr : Bool) (code : Nat) : DWord :=
  let base := tvec &&& ~~~ 3
  if intr && bvGet tvec 0 2 == 1 then base + BitVec.ofNat 64 (4 * code) else base
/-- An exception or interrupt, by its code: delegated ones of S- and U-mode go to the supervisor. -/
def Hart.trap (k : Hart) (intr : Bool) (code : Nat) (tval : DWord) : Hart :=
  let cause : DWord := BitVec.ofNat 64 (code + if intr then 2 ^ 63 else 0)
  let deleg := k.csr (if intr then 0x303 else 0x302)
  if k.mode ≤ 1 ∧ deleg.getLsbD code then k.trapS cause tval (vectorOf (k.csr 0x105) intr code)
  else k.trapM cause tval (vectorOf (k.csr 0x305) intr code)

/-! ### Addresses (R372, R378; log 17) -/

/-- What a core does at an address. -/
inductive HartUse where
  | fetch | load | store
  deriving DecidableEq, Repr

/-- The page fault of a use. -/
def HartUse.pageFault : HartUse → Nat
  | .fetch => 12
  | .load => 13
  | .store => 15
/-- The access fault of a use. -/
def HartUse.accessFault : HartUse → Nat
  | .fetch => 1
  | .load => 5
  | .store => 7

/-- Whether a leaf entry lets a use through. -/
def pteAllows (k : Hart) (mode : Nat) (u : HartUse) (pte : Nat) : Bool :=
  let bit := fun (i : Nat) => bitsOf pte i 1 == 1
  let user := bit 4
  let priv := if mode = 0 then user else !user || (u != .fetch && k.status 18)
  let perm := match u with
    | .fetch => bit 3
    | .load => bit 1 || (k.status 19 && bit 3)
    | .store => bit 2
  priv && perm && bit 6 && (u != .store || bit 7)

/-- The Sv48 walk from a table of level n − 1 down. -/
def svWalk (m : Mem) (k : Hart) (mode : Nat) (u : HartUse) (va : Nat) : Nat → Nat → Option Nat
  | 0, _ => none
  | l + 1, base =>
    let pte := readLE m (base + 8 * bitsOf va (12 + 9 * l) 9) 8
    let r := bitsOf pte 1 1
    let w := bitsOf pte 2 1
    let x := bitsOf pte 3 1
    if bitsOf pte 0 1 = 0 ∨ (r = 0 ∧ w = 1) ∨ bitsOf pte 54 10 ≠ 0 then none
    else if r = 0 ∧ x = 0 then svWalk m k mode u va l (bitsOf pte 10 44 * 4096)
    else if bitsOf pte 10 (9 * l) ≠ 0 ∨ !(pteAllows k mode u pte) then none
    else some (bitsOf pte 10 44 * 4096 + va % 2 ^ (12 + 9 * l))

/-- Where an address leads: a physical address, or an exception. -/
inductive HartAddr where
  | pa (n : Nat)
  | fault (cause : Nat)
  deriving DecidableEq, Repr

/-- Translate an address as a mode does: physical in M-mode and with satp bare, by Sv48 otherwise. -/
def hartAddr (s : State) (k : Hart) (mode va : Nat) (u : HartUse) : HartAddr :=
  let satp := k.csr 0x180
  if mode = 3 ∨ bvGet satp 60 4 ≠ 9 then .pa va
  else if bitsOf va 47 17 ≠ 0 ∧ bitsOf va 47 17 ≠ 2 ^ 17 - 1 then .fault u.pageFault
  else match svWalk s.mem k mode u va 4 (bvGet satp 0 44 * 4096) with
    | some pa => .pa pa
    | none => .fault u.pageFault

/-- Whether memory answers a physical address: local HBM4 and host memory (R318). -/
def hartMemory (s : State) (pa n : Nat) : Bool :=
  decide (pa + n ≤ localBytes s.build) || (decide (hostBase ≤ pa) && decide (pa + n ≤ hostBase + hostBytes))
/-- Whether a store of a core reaches a stack's own tables in a mode that does not write them (R327). -/
def tableGuard (s : State) (mode pa : Nat) : Bool := decide (mode < 3) && inTables s.build pa
/-- Whether an access of a core is performed now: no copy engine owns the grain and the host region is ACCEL (R186,
R338). -/
def hartReady (s : State) (pa : Nat) : Bool := !(s.engineOwned pa) && regionReady s pa

/-! ### The shape of an instruction -/

/-- What an instruction of a core comes to. -/
inductive HRes where
  /-- done: rd takes the value, and the core goes on -/
  | done (s : State) (v : DWord)
  | trap (cause : Nat) (tval : DWord)
  /-- not yet: the instruction executes again -/
  | again (s : State)
  deriving DecidableEq, Repr

/-- A core's result is written and it goes to the next instruction. -/
def hartRetire (s : State) (h : Nat) (rd : BitVec 5) (v : DWord) (len : Nat) : State :=
  s.adjHart h fun k => { k.setReg rd v with pc := k.pc + BitVec.ofNat 64 len }
/-- A core takes an exception. -/
def hartTrap (s : State) (h cause : Nat) (tval : DWord) : State := s.adjHart h fun k => k.trap false cause tval
/-- What an answer comes to. -/
def HRes.run (s : State) (h : Nat) (rd : BitVec 5) (len : Nat) : HRes → State
  | .done t v => hartRetire t h rd v len
  | .trap cause tval => hartTrap s h cause tval
  | .again t => t

/-- An instruction of the acting core. -/
def hartOp (s : State) (rd : BitVec 5) (body : Nat → Hart → HRes) : Out :=
  match s.actor with
  | .hart h =>
    match s.harts[h]? with
    | none => .fault .noAgent
    | some k => .next ((body h k).run s h rd 4)
  | _ => .fault .noAgent

/-- Xkrov instruction i: the privilege and the role of R375, then its body. -/
def xkrov (i : Nat) (roles : List Nat) (s : State) (rd : BitVec 5) (body : Nat → Hart → HRes) : Out :=
  hartOp s rd fun h k =>
    if k.mode = 0 ∨ (k.mode = 1 ∧ k.mxkenable.getLsbD i = false) then .trap 31 0
    else if !(roles.contains k.role) then .trap 25 0
    else body h k

/-- An operand block at an aligned address: cause 24 for another address, a RISC-V exception where it cannot be
reached (R377, R378). -/
def operandAt (s : State) (k : Hart) (va : DWord) (align : Nat) (u : HartUse) (body : Nat → HRes) : HRes :=
  if va.toNat % align ≠ 0 then .trap 24 va
  else match hartAddr s k k.mode va.toNat u with
    | .fault c => .trap c va
    | .pa pa =>
      if !(hartMemory s pa align) || (u == .store && tableGuard s k.mode pa) then .trap u.accessFault va
      else if !(hartReady s pa) then .again (wantRegion s pa)
      else body pa
/-- The first word of n bytes at an address that holds an uncorrectable error. -/
def badWordIn (s : State) (pa n : Nat) : Option Nat :=
  if s.badMem.isEmpty then none
  else ((runOf (pa / 4) ((pa + n + 3) / 4 - pa / 4)).find? fun w => s.badMem.contains w).map fun w => 4 * w
/-- The first such word of the runs an instruction reads, in their order. -/
def badAmong (s : State) (l : List (Nat × Nat)) : Option Nat := l.findSome? fun r => badWordIn s r.1 r.2
/-- XKMEM for a table, queue or descriptor word that holds an uncorrectable error (R377, R422). -/
def readsGood (s : State) (l : List (Nat × Nat)) (body : HRes) : HRes :=
  match badAmong s l with
  | some a => .trap 28 (BitVec.ofNat 64 a)
  | none => body
/-- The value of a block of n bytes. -/
def blockAt (s : State) (pa n : Nat) : Nat := leNat (homeBytes s pa n)

/-! ### BFX and LODEH (R379, R380) -/

/-- The field BFX extracts (R379). -/
def bfxValue (a b : DWord) : DWord :=
  let p := min (bvGet b 0 8) 64
  let n := min (bvGet b 8 8) (64 - p)
  (a >>> p) &&& BitVec.ofNat 64 (2 ^ n - 1)
/-- BFX (R379). -/
def execBfx (x : XR3) (s : State) : Out :=
  xkrov 0 [0, 1, 2, 3] s x.rd fun _ k => .done s (bfxValue (k.reg x.rs1) (k.reg x.rs2))

/-- One bit of CRC-32C. -/
def crcBit (c : Word) : Word := (c >>> 1) ^^^ (if c.getLsbD 0 then 0x82F63B78 else 0)
/-- CRC-32C: reflected Castagnoli polynomial, initial value and final xor all ones (R380). -/
def crc32c (bs : List Byte) : Word :=
  ~~~ bs.foldl (fun (c : Word) b => (List.range 8).foldl (fun c _ => crcBit c) (c ^^^ b.setWidth 32)) 0xFFFFFFFF
/-- The hash of a Lode key (R380). -/
def lodeHash (space vpn nshard : Nat) : DWord :=
  let c := crc32c (leBytes 4 space ++ leBytes 8 vpn)
  BitVec.ofNat 64 (c.toNat * 2 ^ 32 + c.toNat % nshard)
/-- LODEH (R380). -/
def execLodeh (x : XR3) (s : State) : Out :=
  xkrov 1 [0, 1, 3] s x.rd fun _ k =>
    let a := k.reg x.rs1
    let b := k.reg x.rs2
    if bvGet a 32 32 ≠ 0 then .trap 24 a
    else if bvGet b 40 24 ≠ 0 then .trap 24 b
    else if k.mxklode = 0 then .trap 27 0
    else .done s (lodeHash a.toNat b.toNat k.mxklode.toNat)

/-! ### SWAIT (R381) -/

/-- The entries of a queue a core may pop: those of its colour for a slice core, all for a Headframe core (R382). -/
def mayPop (s : State) (k : Hart) (e : FEntry) : Bool := k.role != 0 || colour s.build e.vpn == k.num
/-- The queue a core serves (R382). -/
def Hart.queue (k : Hart) : Nat := fqKey k.chiplet (k.role == 1)

/-- The pending events of R381. -/
def pendingEvents (s : State) (k : Hart) : DWord :=
  let bit := fun (c : Bool) (i : Nat) => if c then (1 : DWord) <<< i else 0
  bit (k.role == 0 && !s.lode.hold && (s.fq k.queue).entries.any (mayPop s k)) 0
    ||| bit (k.role == 1 && !(s.fq k.queue).entries.isEmpty) 1
    ||| bit (k.xack != 0) 2
    ||| bit (!s.queues.agg.isEmpty) 3
    ||| bit (!s.queues.rmap.isEmpty) 4
    ||| bit (!s.queues.slotEv.isEmpty) 5
    ||| bit ((s.ring k.chiplet).count != 0) 6
    ||| bit (s.lode.hold != k.ctrlAck) 7

/-- A return with CTRL acknowledges HOLD as it stands. -/
def ackCtrl (s : State) (h : Nat) (v : DWord) : State :=
  s.adjHart h fun k => { k with wait := none, ctrlAck := if v.getLsbD 7 then s.lode.hold else k.ctrlAck }
/-- SWAIT (R381). -/
def execSwait (x : XR3) (s : State) : Out :=
  xkrov 2 [0, 1, 2, 3] s x.rd fun h k =>
    let mask := k.reg x.rs1
    let limit := k.reg x.rs2
    let v := pendingEvents s k &&& mask
    if bvGet mask 8 56 ≠ 0 then .trap 24 mask
    else if v ≠ 0 ∨ limit = 0 ∨ k.interruptPends then .done (ackCtrl s h v) v
    else
      let deadline := if limit = 0xFFFFFFFFFFFFFFFF then none else some (s.clock + limit.toNat)
      .again (s.adjHart h fun k => { k with wait := some { rd := x.rd.toNat, mask, deadline } })
/-- A waiting SWAIT returns: an event under its mask, its timeout, or an interrupt (R381). -/
def execSwaitReturn (h : Nat) (s : State) : Out :=
  match s.harts[h]? with
  | none => .next s
  | some k =>
    match k.wait with
    | none => .next s
    | some w =>
      let v := pendingEvents s k &&& w.mask
      let late : Bool := match w.deadline with | some d => decide (d ≤ s.clock) | none => false
      if v ≠ 0 ∨ late ∨ k.interruptPends then .next (hartRetire (ackCtrl s h v) h (BitVec.ofNat 5 w.rd) v 4)
      else .next s

/-! ### FENCE and the A extension (R373) -/

/-- FENCE: a core's accesses are performed at their homes as it executes them, so nothing of its own is left to order.
-/
def execServiceCoreFence (x : HartFence) (s : State) : Out := let _ := x; hartOp s 0 fun _ _ => .done s 0

/-- The operation of R198 that an AMO is. -/
def HartAmoOp.op : HartAmoOp → AtomOp
  | .swap => .xchg
  | .add => .add
  | .xor => .xor
  | .and => .and
  | .or => .or
  | .min => .min
  | .max => .max
  | .minu => .minu
  | .maxu => .maxu
  | _ => .xchg
/-- A loaded value as a register holds it. -/
def amoValue (wide : Bool) (v : DWord) : DWord := if wide then v else (v.setWidth 32).signExtend 64
/-- LR, SC and AMOs, each one step at the home; aq and rl have nothing left to order (R373). -/
def execServiceCoreAmo (x : HartAmo) (s : State) : Out :=
  hartOp s x.rd fun h k =>
    let va := k.reg x.rs1
    let n := if x.wide then 8 else 4
    let u : HartUse := if x.op = .lr then .load else .store
    if va.toNat % n ≠ 0 then .trap (if x.op = .lr then 4 else 6) va
    else match hartAddr s k k.memMode va.toNat u with
      | .fault c => .trap c va
      | .pa pa =>
        if !(hartMemory s pa n) || (u == .store && tableGuard s k.memMode pa) then .trap u.accessFault va
        else if !(hartReady s pa) then .again (wantRegion s pa)
        else
          match x.op with
          | .lr =>
            let v : DWord := BitVec.ofNat 64 (blockAt s pa n)
            .done ((s.readBy k.chiplet pa).adjHart h fun k => { k with reserved := some (pa / 8 * 8) }) (amoValue x.wide v)
          | .sc =>
            if k.reserved = some (pa / 8 * 8) then
              .done ((homeWrite s pa (leBytes n (k.reg x.rs2).toNat)).adjHart h fun k => { k with reserved := none }) 0
            else .done (s.adjHart h fun k => { k with reserved := none }) 1
          | op =>
            let r := homeRmw s pa (HartAmoOp.op op) x.wide (k.reg x.rs2) 0
            .done r.2 (amoValue x.wide r.1)

/-! ### The Xkrov CSRs (R376) -/

/-- Set mxkenable or mxklode; a reserved bit ignores the write. -/
def Hart.setXkrov (k : Hart) (csr : BitVec 12) (v : DWord) : Hart :=
  if csr = 0x7C0 then { k with mxkenable := v.setWidth 16 }
  else if csr = 0x7C1 then { k with mxklode := v.setWidth 17 } else k
/-- A write of an Xkrov CSR: the machine's alone, and mxkid is read-only. -/
def execXkrovCsrWrite (x : CsrWrite) (s : State) : Out :=
  hartOp s 0 fun h k =>
    if k.mode ≠ 3 ∨ (x.csr ≠ 0x7C0 ∧ x.csr ≠ 0x7C1) then .trap 2 0
    else .done (s.adjHart h fun k => k.setXkrov x.csr x.v) 0

end Sys2Proof.Machine
end

