-- ==== Sys2Proof/Machine/Serve.lean ====
section
/-! DEFINITION. Serving fault entries: FQPOP, WAKEG and GLREPLAY (R382 to R384); installing and evicting pages: PGINST
and PGEVICT (R334, R335, R385, R386). -/

namespace Sys2Proof.Machine

/-! ### Entries in service (R382) -/

/-- The entry a core holds under a handle. -/
def servedOf (s : State) (h handle : Nat) : Option Served := s.faults.served.find? fun v => v.hart == h && v.handle == handle
/-- Change an entry in service. -/
def State.adjServed (s : State) (h handle : Nat) (f : Served → Served) : State :=
  { s with faults := { s.faults with served := s.faults.served.map fun v => if v.hart = h ∧ v.handle = handle then f v else v } }
/-- Free a handle. -/
def freeHandle (s : State) (h handle : Nat) : State :=
  { s with faults := { s.faults with served := s.faults.served.filter fun v => !(v.hart == h && v.handle == handle) } }
/-- The entry of a handle operand; cause 24 for a handle that names none. -/
def withHandle (s : State) (h : Nat) (v : DWord) (body : Served → HRes) : HRes :=
  match servedOf s h v.toNat with
  | none => .trap 24 v
  | some e => body e

/-- FQPOP (R382). -/
def execFqpop (x : XR2) (s : State) : Out :=
  xkrov 3 [0, 1] s x.rd fun h k =>
    operandAt s k (k.reg x.rs1) 32 .store fun pa =>
      let taken := (s.faults.served.filter fun v => v.hart == h).map fun v => v.handle
      match indexOf (mayPop s k) (s.fq k.queue).entries with
      | none => .done s 0
      | some i =>
        match (s.fq k.queue).entries[i]?, (runOf 1 64).find? fun n => !(taken.contains n) with
        | some e, some n =>
          if s.lode.hold then .done s 0
          else
            let s := takeEntry s k.queue i
            let v : Served := { hart := h, handle := n, chiplet := k.chiplet, remote := k.role == 1, entry := e
                                installed := false, hold := false, replayed := false, replays := 0 }
            let s := { s with faults := { s.faults with served := s.faults.served ++ [v] } }
            .done (homeWrite s pa (leBytes 32 e.bits)) (BitVec.ofNat 64 n)
        | _, _ => .done s (if s.lode.hold then 0 else 0x41)

/-! ### Replay (R356, R384) -/

/-- Replay a handle's page: what is ready replays now, and the core waits until each replay has reached its home. -/
def replayHandle (s : State) (h : Nat) (v : Served) (body : State → HRes) : HRes :=
  if v.replayed then body s
  else
    let r := replayPage s v.entry.pasid v.entry.vpn
    let s := r.2.adjServed h v.handle fun u => { u with replays := u.replays + r.1 }
    if pageWaits s v.entry.pasid v.entry.vpn then .again s
    else body (s.adjServed h v.handle fun u => { u with replayed := true })

/-- GLREPLAY (R384). -/
def execGlreplay (x : XR2) (s : State) : Out :=
  xkrov 5 [0, 1] s x.rd fun h k =>
    withHandle s h (k.reg x.rs1) fun v =>
      if !v.installed then .trap 30 (k.reg x.rs1)
      else if v.replayed then .done s 0
      else replayHandle s h v fun s => .done s (BitVec.ofNat 64 (((servedOf s h v.handle).map (·.replays)).getD 0))

/-! ### WAKEG (R383) -/

/-- MET, CAUSE and TRIES of an action word. -/
def actMet (a : DWord) : BitVec 6 := a.extractLsb' 2 6
def actCause (a : DWord) : Cause := a.extractLsb' 8 8
def actTries (a : DWord) : Nat := bvGet a 16 2

/-- The checks every action shares, then its effect on the entry. -/
def wakegOp (x : XR3) (s : State) (body : Nat → Hart → Served → DWord → HRes) : Out :=
  xkrov 4 [0, 1] s x.rd fun h k =>
    let a := k.reg x.rs2
    if bvGet a 18 46 ≠ 0 then .trap 24 a else withHandle s h (k.reg x.rs1) fun v => body h k v a

/-- What is left of a waiter once some of its needs are met. -/
def Waiter.rest (met : BitVec 6) : Waiter → Waiter
  | .group g n => .group g (n &&& ~~~ met)
  | .engine c n => .engine c (n &&& ~~~ met)
  | .queue q p v n => .queue q p v (n &&& ~~~ met)
  | .window i p v n => .window i p v (n &&& ~~~ met)
  | w => w
/-- Whether MET covers a waiter. -/
def Waiter.within (met : BitVec 6) (w : Waiter) : Bool := w.need &&& ~~~ met = 0
/-- The queue slot of the first waiter that is a queue's (R342). -/
def slotNo (s : State) (ws : List Waiter) : Option Nat :=
  ws.findSome? fun w => match w with
    | .queue n _ _ _ => some n
    | .signal v q => (s.queues.regs.find? fun r => r.vif == v && r.q == q).map fun r => r.slot
    | _ => none

/-- The fresh entry for what a completion left unmet, at the tail of the same queue (R344). -/
def repost (s : State) (v : Served) (met : BitVec 6) : State :=
  let e := v.entry
  let rest := (e.waiters.filter fun w => !(w.within met)).map (Waiter.rest met)
  let left := mergeNeed (e.needs &&& ~~~ met) 0
  if left = 0 ∧ rest = [] then s
  else
    let k := fqKey v.chiplet v.remote
    s.adjFq k fun q => { q with
      entries := q.entries ++ [{ e.withWaiters s rest with
        needs := left, chain := false, tries := 0, merges := 0, time := s.clock, seq := q.seq, declined := 0
        signal := (slotNo s rest).isSome, qslot := (slotNo s rest).getD 0 }]
      seq := (q.seq + 1) % 2 ^ 32 }

/-- Whether MET asks for no page: only bit 4 or bit 5. -/
def metNoPage (met : BitVec 6) : Bool := met != 0 && met &&& 15 == 0
/-- COMPLETE once replay has run: the hold goes, waiters within MET wake in order, the rest moves on (R383). -/
def completeEntry (s : State) (h : Nat) (v : Served) (met : BitVec 6) : HRes :=
  let woken := v.entry.waiters.filter fun w => w.within met
  let s := repost (freeHandle s h v.handle) v met
  .done (woken.foldl wakeWaiter s) (BitVec.ofNat 64 woken.length)

/-- WAKEG COMPLETE (R383). -/
def execWakegComplete (x : XR3) (s : State) : Out :=
  wakegOp x s fun h k v a =>
    if v.installed then replayHandle s h v fun s => completeEntry s h v (actMet a)
    else if metNoPage (actMet a) then completeEntry s h v (actMet a)
    else .trap 30 (k.reg x.rs1)

/-- WAKEG REFUSE (R383, R350). -/
def execWakegRefuse (x : XR3) (s : State) : Out :=
  wakegOp x s fun h _ v a =>
    let cause := actCause a
    if !([cTranslation, cProtection, cLost, cOutOfFrames, cRemoteDeclined].contains cause) then .trap 24 a
    else .done (refuseEntry (freeHandle s h v.handle) v.entry cause) (BitVec.ofNat 64 v.entry.waiters.length)

/-- An entry as a decline leaves it. -/
def FEntry.decline (e : FEntry) (stage seq : Nat) (a : DWord) : FEntry :=
  { e with stage, seq, tries := actTries a, declined := if actCause a = 0 then e.declined else actCause a }
/-- WAKEG DECLINE (R367, R383). -/
def execWakegDecline (x : XR3) (s : State) : Out :=
  wakegOp x s fun h k v a =>
    let cause := actCause a
    if !([0, cOutOfFrames, cRemoteDeclined].contains cause) then .trap 24 a
    else if k.role = 1 then
      let q := fqKey v.chiplet false
      if 1024 ≤ (s.fq q).entries.length then .done s 1
      else
        .done ((freeHandle s h v.handle).adjFq q fun f =>
          { f with entries := f.entries ++ [v.entry.decline 1 f.seq a], seq := (f.seq + 1) % 2 ^ 32 }) 0
    else if cause = cOutOfFrames ∨ v.entry.stage = 2 then .trap 24 a
    else if 256 ≤ s.faults.host.length then .done s 1
    else
      let t := freeHandle s h v.handle
      .done { t with faults := { t.faults with
        host := t.faults.host ++ [v.entry.decline 2 t.faults.hostSeq a], hostSeq := (t.faults.hostSeq + 1) % 2 ^ 32 } } 0

/-- WAKEG REQUEUE (R383). -/
def execWakegRequeue (x : XR3) (s : State) : Out :=
  wakegOp x s fun h _ v a =>
    .done ((freeHandle s h v.handle).adjFq (fqKey v.chiplet v.remote) fun f =>
      { f with entries := f.entries ++ [{ v.entry with seq := f.seq, tries := actTries a }], seq := (f.seq + 1) % 2 ^ 32 }) 0

/-! ### The end of an invalidation (R333) -/

/-- Whether a copy holds grains it translated through what a request covers. -/
def invCopy (s : State) (map : Nat) (c : CopyJob) : Bool :=
  !c.grains.isEmpty && c.targets.any fun g => invPage s map c.pasid (g / 128)
/-- What stands at a home by a covered page is placed anew, and a waiter whose page is not there looks again (R333). -/
def replaceCovered (s : State) (map : Nat) : State :=
  let at? := fun (pasid va : Nat) (u : Use) => match translate s pasid va u with | .at pa _ => some pa | _ => none
  let home := fun (h : SubHome) => if invPage s map h.pasid (h.va / 65536) then { h with pa := at? h.pasid h.va .subscribe } else h
  let lost := s.queues.regs.filter fun r => invPage s map r.pasid (r.va / 65536) && (at? r.pasid r.va (.read 8)).isNone && r.pa.isSome
  let reg := fun (r : SigReg) => if invPage s map r.pasid (r.va / 65536) then { r with pa := at? r.pasid r.va (.read 8) } else r
  let pasidOf := fun (w : WaitReg) => match s.team w.g.team with | some t => t.pasid | none => 0
  let mine := s.waits.filter fun w => invPage s map (pasidOf w) (w.va.toNat / 65536)
  let s := { s with subHomes := s.subHomes.map home, queues := { s.queues with regs := s.queues.regs.map reg } }
  lost.foldl (fun s r => postSignal s r false) (mine.foldl replaceWoken s)
/-- BUSY clears once every access that translated through a covered entry has been performed (R333). -/
def execInvalidationComplete (map : Nat) (s : State) : Out :=
  if (s.inva map).getLsbD 63 && (s.cores.all fun kc => kc.2.reqs.all fun q => !(invCovers s map q))
      && s.copies.all fun c => !(invCopy s map c) then
    .next ((replaceCovered s map).setInva map (s.inva map &&& 0x7FFFFFFFFFFFFFFF))
  else .next s

/-! ### PGINST (R385) -/

/-- Whether an access that translated to a frame is on its way to its home (R334). -/
def frameBusy (s : State) (base : Nat) : Bool :=
  s.cores.any fun kc => kc.2.reqs.any fun q => decide (base ≤ q.pa) && decide (q.pa < base + 65536)

/-- The first frame a stack's tables may not map. -/
def poolFrames : Nat := 0xFFDC0

/-- Mark the page of a handle as installed, and held when it was mapped anew. -/
def markInstalled (s : State) (h : Nat) (handle : DWord) (hold : Bool) : State :=
  if handle = 0 then s
  else s.adjServed h handle.toNat fun v => { v with installed := true, hold := v.hold || hold }

/-- Subscriptions of a page that a DISCARD has left without a frame: they pin the next one (R180, R335). -/
def subscribers (s : State) (pasid vpn : Nat) : Nat :=
  ((s.subHomes.filter fun h => h.pa == none && h.pasid == pasid && h.va / 65536 == vpn).map fun h => h.members.length).sum
/-- The steps of an install of frame i of stack c (R385). -/
def installFrame (s : State) (c i : Nat) (img : InvEntry) : State :=
  let base := framePA s.build c i
  let s := if img.zero then (dropFrame { s with mem := clearRange s.mem base 65536 } base).mended base 65536 else s
  let m := writeLE s.mem (lostAddr s.build c i) 16 0
  let head := anchorAddr s.build c (anchorOf img.pasid img.vpn)
  let old := readLE m head 4
  let e : InvEntry :=
    { vpn := img.vpn, pasid := img.pasid, next := if bitsOf old 31 1 = 1 then bitsOf old 0 20 else 0
      nextv := bitsOf old 31 1 == 1, valid := true, lost := false, zero := img.zero, dirty := img.dirty && !img.zero
      accessed := false, lode := img.lode, pin := min (img.pin + subscribers s img.pasid img.vpn) 4095 }
  { s with
    mem := writeLE (setInvEntry s.build m c i e) head 4 (2 ^ 31 + i)
    subHomes := s.subHomes.map fun h =>
      if h.pa = none ∧ h.pasid = img.pasid ∧ h.va / 65536 = img.vpn then { h with pa := some (base + h.va % 65536) } else h }

/-- The entries of a chain that a walk reads from entry i on (R329). -/
def chainReads (b : Build) (m : Mem) (c pasid vpn : Nat) : Nat → Nat → List (Nat × Nat)
  | 0, _ => []
  | n + 1, i =>
    let e := invEntry b m c i
    (entryAddr b c i, 16) ::
      if (e.valid ∧ e.pasid = pasid ∧ e.vpn = vpn) ∨ !e.nextv then [] else chainReads b m c pasid vpn n e.next
/-- What a lookup of a page reads of its stack's tables: the anchor and the chain (R329). -/
def lookupReads (s : State) (pasid vpn : Nat) : List (Nat × Nat) :=
  let c := colour s.build vpn
  let a := anchorAddr s.build c (anchorOf pasid vpn)
  let v := readLE s.mem a 4
  (a, 4) :: if bitsOf v 31 1 = 0 then [] else chainReads s.build s.mem c pasid vpn 64 (bitsOf v 0 20)
/-- What PGINST reads of the tables, in its order: the PASID's entry, the frame's, and for a frame that is free the
chain of the page (R385). -/
def installReads (s : State) (c i : Nat) (img : InvEntry) : List (Nat × Nat) :=
  (pasidAddr s img.pasid, 16) ::
    if (pasidEntry s img.pasid).state ≠ 1 then []
    else (entryAddr s.build c i, 16) :: if (invEntry s.build s.mem c i).valid then [] else lookupReads s img.pasid img.vpn
/-- The mapping part of PGINST, for an image that passed the checks of its block (R377, R385). -/
def installPage (s : State) (h : Nat) (handle : DWord) (c i : Nat) (img : InvEntry) : HRes :=
  let old := invEntry s.build s.mem c i
  let base := framePA s.build c i
  readsGood s (installReads s c i img) <|
  if (pasidEntry s img.pasid).state ≠ 1 then .done s 1
  else if old.valid ∧ old.pasid = img.pasid ∧ old.vpn = img.vpn then
    if frameBusy s base then .again s
    else
      let s := { s with mem := setInvEntry s.build s.mem c i { old with lode := img.lode, pin := img.pin } }
      .done (markInstalled s h handle false) 0
  else if old.valid ∨ invLookup s.build s.mem img.pasid img.vpn ≠ some none then .trap 26 (BitVec.ofNat 64 i)
  else if frameBusy s base then .again s
  else .done (markInstalled (installFrame s c i img) h handle true) 0

/-- PGINST (R377, R385). -/
def execPginst (x : XR3) (s : State) : Out :=
  xkrov 6 [0, 1] s x.rd fun h k =>
    let handle := k.reg x.rs1
    operandAt s k (k.reg x.rs2) 32 .load fun pa =>
      let s := s.readBy k.chiplet pa
      let v := blockAt s pa 32
      readsGood s [(pa, 32)] <|
      let i := bitsOf v 128 20
      let c := bitsOf v 148 4
      let img := InvEntry.ofBits (bitsOf v 0 128)
      if bitsOf v 152 104 ≠ 0 then .trap 24 (k.reg x.rs2)
      else if poolFrames ≤ i then .trap 24 (BitVec.ofNat 64 i)
      else if c ≠ colour s.build img.vpn then .trap 24 (BitVec.ofNat 64 c)
      else if handle = 0 then installPage s h handle c i img
      else withHandle s h handle fun e =>
        if e.entry.isFor img.pasid img.vpn then installPage s h handle c i img else .trap 24 handle

/-! ### PGEVICT (R335, R386) -/

/-- Every page the instruction of a group parked on a fault needs: its words' and its accesses'. -/
def waiterPages (s : State) (r : GRef) : List (Nat × Nat) :=
  match s.team r.team, s.group r with
  | some t, some g =>
    let pc := (g.lane (g.held.headD 0)).pc
    let code := pc.toNat :: (if isTwoWord (wordAt s t r.grp pc) then [pc.toNat + 4] else [])
    (code ++ namedAddrs g g.held (fetchInstr s t r.grp g pc)).map fun a => (t.pasid, a / 65536)
  | _, _ => []
/-- Every fault entry: in a queue, in service, and with the host. -/
def allEntries (s : State) : List FEntry :=
  s.faults.queues.flatMap (fun (kq : Nat × FQueue) => kq.2.entries) ++ s.faults.served.map (fun v => v.entry)
    ++ s.faults.host ++ s.faults.popped
/-- Pages that fault entries need, and groups an entry has woken, until their instruction completes (R335). -/
def neededPages (s : State) : List (Nat × Nat) :=
  ((allEntries s).flatMap fun e => (e.pasid, e.vpn) :: e.waiters.flatMap fun w => match w with | .group r _ => waiterPages s r | _ => [])
    ++ s.teams.flatMap fun t => t.groups.zipIdx.flatMap fun gi => if gi.1.needs then waiterPages s ⟨t.id, gi.2⟩ else []

/-- Whether a subscription has its range in a frame: its page is pinned (R180). -/
def subscribed (s : State) (base : Nat) : Bool :=
  s.subHomes.any fun h => !h.members.isEmpty &&
    match h.pa with | some a => decide (base ≤ a) && decide (a < base + 65536) | none => false
/-- The outcome of R386 for a frame; 0 when it may be evicted. -/
def evictOutcome (s : State) (c i : Nat) : Nat :=
  let e := invEntry s.build s.mem c i
  let base := framePA s.build c i
  let pinned : Bool := match rangeLookup s e.pasid e.vpn with | some r => r.pinned | none => false
  if 2 * chipletsOf s.build ≤ c ∨ !e.valid then 6
  else if e.pin ≠ 0 ∨ pinned ∨ subscribed s base then 1
  else if s.copies.any fun j => j.grains.any fun g => g / 128 == base / 65536 then 2
  else if (neededPages s).contains (e.pasid, e.vpn) then 3
  else if e.lode = 3 then 4
  else if e.lost then 5
  else 0

/-- The eviction itself: unlinked, every copy dropped, and what waits on its words woken or posted
(R205, R386, R401). -/
def evictFrame (s : State) (c i : Nat) : State :=
  let base := framePA s.build c i
  unmapSignals (wakeFrame (dropFrame { s with mem := unlinkEntry s.build s.mem c i } base) base) base

/-- The nodes a walk of a range tree reads from a node of a level down (R324). -/
def treeReads (m : Mem) (vpn : Nat) : Nat → Nat → List (Nat × Nat)
  | 0, a => [(a, 32 + 32 * bitsOf (readLE m a 32) 4 4)]
  | level + 1, a =>
    (a, 32 + 32 * bitsOf (readLE m a 32) 4 4) ::
      match (nodeSlots m a (level + 1)).bind fun es => es.reverse.find? fun v => bitsOf v 216 40 ≤ vpn with
      | some v => treeReads m vpn level (bitsOf v 0 52)
      | none => []
/-- What a lookup of a page's range reads: the PASID's entry and the tree (R316, R324). -/
def rangeReads (s : State) (pasid vpn : Nat) : List (Nat × Nat) :=
  let p := pasidEntry s pasid
  (pasidAddr s pasid, 16) :: if p.tdepth = 0 ∨ 4 < p.tdepth then [] else treeReads s.mem vpn (p.tdepth - 1) p.root
/-- What PGEVICT reads of the tables: the frame's entry, the range of its page, and the chain it is unlinked from
(R386). -/
def evictReads (s : State) (c i : Nat) : List (Nat × Nat) :=
  if 2 * chipletsOf s.build ≤ c then []
  else
    let e := invEntry s.build s.mem c i
    (entryAddr s.build c i, 16) :: if e.valid then rangeReads s e.pasid e.vpn ++ lookupReads s e.pasid e.vpn else []

/-- PGEVICT (R377, R386). -/
def execPgevict (x : XR2) (s : State) : Out :=
  xkrov 7 [0, 1] s x.rd fun _ k =>
    let a := k.reg x.rs1
    let i := bvGet a 0 20
    let c := bvGet a 20 4
    let e := invEntry s.build s.mem c i
    let o := evictOutcome s c i
    if bvGet a 24 40 ≠ 0 then .trap 24 a
    else
      readsGood s (evictReads s c i) <|
      if o ≠ 0 then .done s (BitVec.ofNat 64 o)
      else if frameBusy s (framePA s.build c i) then .again s
      else .done (evictFrame s c i) (BitVec.ofNat 64 (e.dirty.toNat * 2 ^ 8 + e.zero.toNat * 2 ^ 9 + e.lode * 2 ^ 10))

end Sys2Proof.Machine
end

