-- ==== Sys2Proof/Machine/Lode.lean ====
section
/-! DEFINITION. Transfers and the Lode: RFETCH, UEREAD, UEWRITE and LODEQ, how they end, the transfers and Lode requests
this package serves, and the invalidation rings (R387 to R397). -/

namespace Sys2Proof.Machine

/-! ### Posting (R387, R388, R392) -/

/-- The lowest free credit. -/
def freeCredit (k : Hart) : Option Nat := (List.range 64).find? fun j => !(k.taken.getLsbD j)
/-- Whether bytes lie in local HBM4 within pool frames. -/
def inPool (s : State) (pa n : Nat) : Bool :=
  decide (pa + n ≤ localBytes s.build) &&
    (runOf (pa / 65536) ((pa + n + 65535) / 65536 - pa / 65536)).all fun f => decide (frameIdx s.build (f * 65536) < poolFrames)
/-- Post under a credit: the core goes on at once with the credit's number. -/
def postXfer (s : State) (h j : Nat) (x : Xfer) (m : Msg) : HRes :=
  let s := s.adjHart h fun k => { k with taken := k.taken ||| ((1 : BitVec 64) <<< j) }
  .done (send { s with xfers := s.xfers ++ [x], fresh := s.fresh + 1 } m) (BitVec.ofNat 64 j)

/-- A credit, and the descriptor at rs1 (R377, R388). -/
def withDescriptor (s : State) (k : Hart) (va : DWord) (body : Nat → Nat → HRes) : HRes :=
  if va.toNat % 64 ≠ 0 then .trap 24 va
  else match freeCredit k with
    | none => .done s 0x40
    | some j => operandAt s k va 64 .load fun pa => readsGood s [(pa, 64)] (body j pa)

/-- The field of a transfer descriptor that lies outside its limits (R387). -/
def xferFault (s : State) (v : Nat) (link : Bool) : Option Nat :=
  let len := bitsOf v 160 32
  let loc := bitsOf v 0 64
  let remote := bitsOf v 64 64
  let path := bitsOf v 152 2
  if len % 128 ≠ 0 ∨ len = 0 ∨ 2 ^ 20 < len then some len
  else if link ≠ decide (path < 2) then some path
  else if remote % 128 ≠ 0 then some remote
  else if loc % 128 ≠ 0 ∨ !(inPool s loc len) then some loc
  else none

/-- RFETCH, UEREAD and UEWRITE (R387, R388). -/
def transferOp (i : Nat) (roles : List Nat) (kind : XferKind) (x : XR2) (s : State) : Out :=
  xkrov i roles s x.rd fun h k =>
    withDescriptor s k (k.reg x.rs1) fun j pa =>
      let v := blockAt s pa 64
      match xferFault s v (kind == .rfetch) with
      | some bad => .trap 24 (BitVec.ofNat 64 bad)
      | none =>
        let len := bitsOf v 160 32
        let loc := bitsOf v 0 64
        let node := bitsOf v 128 16
        let write := kind == .uewrite
        postXfer (s.readBy k.chiplet pa) h j
          { hart := h, credit := j, kind, desc := pa, loc, len, node, path := bitsOf v 152 2, tag := BitVec.ofNat 32 s.fresh
            posted := s.clock }
          (.xfer h j node write (bitsOf v 320 32) (bitsOf v 64 64) len (if write then homeBytes s loc len else []))

/-- RFETCH (R387). -/
def execRfetch (x : XR2) (s : State) : Out := transferOp 8 [1, 3] .rfetch x s
/-- UEREAD (R387). -/
def execUeread (x : XR2) (s : State) : Out := transferOp 9 [0, 1] .ueread x s
/-- UEWRITE (R387). -/
def execUewrite (x : XR2) (s : State) : Out := transferOp 10 [0, 1] .uewrite x s

/-- LODEQ (R392). -/
def execLodeq (x : XR2) (s : State) : Out :=
  xkrov 11 [1, 3] s x.rd fun h k =>
    let va := k.reg x.rs1
    if va.toNat % 64 ≠ 0 then .trap 24 va
    else if k.mxklode = 0 then .trap 27 0
    else withDescriptor s k va fun j pa =>
      let v := blockAt s pa 64
      let op := bitsOf v 384 8
      let node := bitsOf v 416 16
      let tag : Word := BitVec.ofNat 32 s.fresh
      if 8 ≤ op then .trap 24 (BitVec.ofNat 64 op)
      else
        postXfer (s.readBy k.chiplet pa) h j
          { hart := h, credit := j, kind := .lode op, desc := pa, loc := 0, len := 0, node, path := bitsOf v 410 2, tag
            posted := s.clock }
          (.lode h j node op (BitVec.ofNat 256 (bitsOf v 0 256)) (BitVec.ofNat 32 (bitsOf v 352 32)) tag)

/-! ### Ends (R388, R389, R392) -/

/-- Whether a kind reads into the local frame. -/
def XferKind.reads : XferKind → Bool
  | .rfetch => true
  | .ueread => true
  | _ => false
/-- Whether a kind is a Lode request. -/
def XferKind.isLode : XferKind → Bool
  | .lode _ => true
  | _ => false
/-- The end of a transfer or Lode request: the data, then CODE and DONE in the descriptor and the HFR_XACK bit in one
step (R388, R389). -/
def endXfer (s : State) (x : Xfer) (code : Nat) (data : List Byte) : State :=
  let s :=
    if x.kind.reads then (if code = 0 then homeWrite s x.loc data else scrambleBytes s x.loc x.len)
    else if x.kind.isLode then homeWrite s x.desc data else s
  let s := if x.kind.isLode then homeWrite s (x.desc + 40) (leBytes 4 code) else homeWrite s (x.desc + 39) [BitVec.ofNat 8 code]
  let s := homeWrite s (x.desc + 32) [readByte s.mem (x.desc + 32) ||| 1]
  let s := s.adjHart x.hart fun k => { k with xack := k.xack ||| ((1 : BitVec 64) <<< x.credit) }
  { s with xfers := s.xfers.filter fun y => !(y.hart == x.hart && y.credit == x.credit) }

/-- A posted request by its credit. -/
def xferOf (s : State) (h j : Nat) : Option Xfer := s.xfers.find? fun x => x.hart == h && x.credit == j
/-- Whether a path reaches a node: Krovgil Link reaches the pod alone (R406). -/
def reaches (s : State) (path node : Nat) : Bool := decide (2 ≤ path) || node / 512 == s.fabric.nodeId.toNat / 512
/-- Codes a request may end with. -/
def endCodeOk (lode : Bool) (code : Nat) : Bool :=
  if lode then [0, 3, 5, 6, 7, 8].contains code else decide (code ≤ 4) && decide (code ≠ 1)
/-- The data an end must bring: a read's bytes, or a Lode entry or nothing. -/
def endDataOk (x : Xfer) (code : Nat) (data : List Byte) : Bool :=
  if x.kind.isLode then data.length == 32 || data.isEmpty
  else if x.kind.reads && code == 0 then data.length == x.len
  else data.isEmpty

/-- A transfer or Lode request ends with what its remote answered; a path that does not reach its node ends it with
CODE 3 (R388, R406). A declared-dead node's answer is refused (R416). -/
def execTransferDone (x : XferEnd) (s : State) : Out :=
  match xferOf s x.hart x.credit with
  | none => .next s
  | some t =>
    let code := if reaches s t.path t.node then x.code.toNat else 3
    let data := if reaches s t.path t.node then x.data else []
    if endCodeOk t.kind.isLode code && endDataOk t code data && !(code == 0 && s.fabric.dead.contains t.node) then
      .next (endXfer s t code data)
    else .next s

/-- 500 µs in cycles (R388). -/
def xferCycles : Nat := 900000
/-- A request that has not ended 500 µs after posting ends with CODE 1 (R388). -/
def execTransferTimeout (x : CreditRef) (s : State) : Out :=
  match xferOf s x.hart x.credit with
  | none => .next s
  | some t => .next (if t.posted + xferCycles ≤ s.clock then endXfer s t 1 [] else s)

/-! ### Transfers served (R390) -/

/-- The PASID of a Lode space on this package. -/
def spacePasid (s : State) (space : Nat) : Option Nat :=
  let e := leNat (homeBytes s (s.lode.spBase.toNat + 16 * space) 8)
  if space < s.lode.spCount.toNat ∧ bitsOf e 63 1 = 1 ∧ bitsOf e 0 32 = space then some (bitsOf e 32 20) else none
/-- The frame a transfer reaches, when nothing refuses it. -/
def servedFrame (s : State) (x : XferServe) : Option Nat :=
  let va := x.remote.toNat
  (spacePasid s x.space.toNat).bind fun pasid =>
    if 2 ^ 56 ≤ va ∨ 65536 < va % 65536 + x.len then none
    else match invLookup s.build s.mem pasid (va / 65536) with
      | some (some i) =>
        let c := colour s.build (va / 65536)
        let e := invEntry s.build s.mem c i
        let lost := e.lost && ((grainsOf (va % 65536) x.len).any fun g => lostBit s.build s.mem c i g)
        if (if x.write then e.lode = 2 else e.lode = 1 ∨ e.lode = 2) ∧ !lost then
          some (framePA s.build c i + va % 65536)
        else none
      | _ => none
/-- A transfer addressed to this package is served in Headframe hardware, after any copy engine that owns a grain of it;
CODE 2 refuses it (R390). -/
def execTransferServe (x : XferServe) (s : State) : Out :=
  if s.fabric.dead.contains x.src then .next s
  else match servedFrame s x with
    | none => .next (send s (.xferReply x.src x.tag 2 []))
    | some pa =>
      if (grainsOf pa x.len).any fun g => s.engineOwned (512 * g) then .next s
      else if x.write then .next (send (homeWrite s pa (x.data.take x.len)) (.xferReply x.src x.tag 0 []))
      else
        let s := (linesOf pa x.len).foldl (fun s l => s.readBy (homeOf s.build pa) (128 * l)) s
        let s := { s with mem := markAccessed s.build s.mem pa }
        .next (send s (.xferReply x.src x.tag 0 (homeBytes s pa x.len)))

/-! ### The Lode at its holder (R391, R392, R394) -/

/-- The key of an entry: VPN and SPACE. -/
def lodeKey (e : BitVec 256) : Nat := bvGet e 184 72
/-- The entry of a key. -/
def lodeFind (s : State) (key : Nat) : Option (BitVec 256) := s.lode.entries.find? fun e => lodeKey e == key
/-- Replace the entry of a key. -/
def lodePut (s : State) (e : BitVec 256) : State :=
  { s with lode := { s.lode with entries := s.lode.entries.map fun x => if lodeKey x = lodeKey e then e else x } }
/-- The listed holders. -/
def holdersOf (e : BitVec 256) : List Nat := (List.range (min (bvGet e 144 4) 4)).map fun i => bvGet e (16 * i) 16
/-- Set the listed holders. -/
def setHolders (e : BitVec 256) (l : List Nat) : BitVec 256 :=
  bvSet (bvSet e 0 64 ((l.take 4).zipIdx.foldl (fun v ni => v + ni.1 % 2 ^ 16 * 2 ^ (16 * ni.2)) 0)) 144 4 (min l.length 4)

/-- The holder's answer to a request, with the entry as it last held it: to a node, or to this package's own core. -/
def lodeAnswer (s : State) (op : Nat) (x : LodeReq) (code : Nat) (entry : Option (BitVec 256)) : State :=
  if x.src = s.fabric.nodeId.toNat then
    match xferOf s x.hart x.credit with
    | some t => endXfer s t code (match entry with | some e => leBytes 32 e.toNat | none => [])
    | none => s
  else let _ := op; send s (.lodeReply x.src x.tag (BitVec.ofNat 8 code) (entry.getD x.entry))
/-- Whether a request stands: from a live node, and when from this package under a credit that posted it. -/
def lodeStands (s : State) (op : Nat) (x : LodeReq) : Bool :=
  if x.src = s.fabric.nodeId.toNat then
    match xferOf s x.hart x.credit with | some t => t.kind == .lode op | none => false
  else !(s.fabric.dead.contains x.src)
/-- A request on the entry of its key: CODE 6 when there is none. -/
def lodeOp (s : State) (op : Nat) (x : LodeReq) (f : BitVec 256 → Nat × BitVec 256) : Out :=
  if !(lodeStands s op x) then .next s
  else match lodeFind s (lodeKey x.entry) with
    | none => .next (lodeAnswer s op x 6 none)
    | some e => .next (lodeAnswer (lodePut s (f e).2) op x (f e).1 (some (f e).2))

/-- LOOKUP (R392). -/
def execLodeLookup (x : LodeReq) (s : State) : Out := lodeOp s 0 x fun e => (0, e)
/-- CAS: every field but VERSION, which advances, when VERSION = EXPECT (R392, R394). -/
def execLodeCas (x : LodeReq) (s : State) : Out :=
  lodeOp s 1 x fun e =>
    if bvGet e 112 32 = x.expect.toNat then (0, bvSet x.entry 112 32 (x.expect.toNat + 1)) else (5, e)
/-- ADDHOLD: in shared or dead the requester joins the holders, or OVERFLOW is set (R392). -/
def execLodeAddhold (x : LodeReq) (s : State) : Out :=
  lodeOp s 2 x fun e =>
    let l := holdersOf e
    if bvGet e 182 2 ≠ 0 ∧ bvGet e 182 2 ≠ 3 then (5, e)
    else if l.contains x.src then (0, e)
    else if l.length < 4 then (0, setHolders e (l ++ [x.src]))
    else (0, bvSet e 181 1 1)
/-- DROPHOLD (R392). -/
def execLodeDrophold (x : LodeReq) (s : State) : Out :=
  lodeOp s 3 x fun e => (0, setHolders e ((holdersOf e).filter fun n => n ≠ x.src))
/-- INSERT: an entry of VERSION 1, or CODE 7 (R392). -/
def execLodeInsert (x : LodeReq) (s : State) : Out :=
  if !(lodeStands s 4 x) then .next s
  else match lodeFind s (lodeKey x.entry) with
    | some e => .next (lodeAnswer s 4 x 7 (some e))
    | none =>
      let e := bvSet x.entry 112 32 1
      .next (lodeAnswer { s with lode := { s.lode with entries := s.lode.entries ++ [e] } } 4 x 0 (some e))

/-! ### Invalidations and read requests (R392, R393) -/

/-- The end of a posted INVAL or RDREQ: CODE 8 when its target is declared dead, else the ACK's ENTRY<32> comes back in
the ENTRY. -/
def endAck (s : State) (t : Xfer) (ack : BitVec 256) : State :=
  if s.fabric.dead.contains t.node then endXfer s t 8 []
  else
    let old := BitVec.ofNat 256 (blockAt s t.desc 32)
    endXfer s t 0 (leBytes 32 (bvSet old 32 1 (bvGet ack 32 1)).toNat)
/-- A posted request of one kind under the credit an event names. -/
def endPosted (s : State) (x : LodeReq) (op : Nat) : State :=
  match xferOf s x.hart x.credit with
  | some t => if t.kind = .lode op then endAck s t x.entry else s
  | none => s
/-- An INVAL ends (R392). -/
def execLodeInval (x : LodeReq) (s : State) : Out := .next (endPosted s x 5)
/-- An RDREQ ends (R392). -/
def execLodeRdreq (x : LodeReq) (s : State) : Out := .next (endPosted s x 7)
/-- An ACK arrives: it ends the INVAL or RDREQ of this package whose tag it carries (R392). -/
def execLodeAck (x : LodeReq) (s : State) : Out :=
  match s.xfers.find? fun t => (t.kind == .lode 5 || t.kind == .lode 7) && t.node == x.src && t.tag == x.entry.extractLsb' 0 32 with
  | some t => .next (endAck s t x.entry)
  | none => .next s
/-- An invalidation or read request enters the ring of its page's home chiplet (R393). -/
def execInvalRingArrival (m : RingMsg) (s : State) : Out :=
  .next (if s.fabric.dead.contains m.req.toNat then s else ringPush s (colour s.build m.vpn.toNat / 2) m)

end Sys2Proof.Machine
end

