-- ==== Sys2Proof/Machine/Queue.lean ====
section
/-! DEFINITION. Hardware queue slots: QLOAD, DISPATCH and QSAVE (R402 to R404), the turn of a slot with its packets
(R400), WAIT with the signal unit (R401), and START (R289 to R294, R306, R310, R358). -/

namespace Sys2Proof.Machine

/-! ### QLOAD, DISPATCH, QSAVE (R402 to R404) -/

/-- A field of a QCB (R399). -/
def qcbRptr (q : BitVec 1024) : Nat := bvGet q 256 32
def qcbWptr (q : BitVec 1024) : Nat := bvGet q 288 32
def qcbRlog (q : BitVec 1024) : Nat := bvGet q 192 5
def qcbRing (q : BitVec 1024) : Nat := bvGet q 0 64
def qcbQstate (q : BitVec 1024) : Nat := bvGet q 244 3
/-- Instances of a queue that run. -/
def queueInsts (s : State) (q : Nat) : List Inst := s.insts.filter fun i => i.queue == q
/-- Write the hardware's half of a QCB to its address. -/
def writeQcb (s : State) (pa : Nat) (q : BitVec 1024) : State := homeWrite s pa (leBytes 64 (bvGet q 0 512))

/-- QLOAD (R402): the QCB's limits, the slot's state, the PASID; the queue's registration is dropped. What it reads of
the QCB and of the PASID table must be good (R377). -/
def execQload (x : XR3) (s : State) : Out :=
  xkrov 14 [2] s x.rd fun _ k =>
    let n := (k.reg x.rs1).toNat
    if 128 ≤ n then .trap 24 (k.reg x.rs1)
    else operandAt s k (k.reg x.rs2) 128 .load fun pa =>
      let q : BitVec 1024 := BitVec.ofNat 1024 (blockAt s pa 64)
      readsGood s [(pa, 64)] <|
      if qcbRlog q < 4 ∨ 16 < qcbRlog q then .trap 24 (BitVec.ofNat 64 (qcbRlog q))
      else if qcbRing q % 4096 ≠ 0 then .trap 24 (BitVec.ofNat 64 (qcbRing q))
      else if 3 < qcbQstate q then .trap 24 (BitVec.ofNat 64 (qcbQstate q))
      else if (s.slot n).state ≠ .idle then .trap 29 (BitVec.ofNat 64 n)
      else
        readsGood s [(pasidAddr s (qcbPasid q), 16)] <|
        if (pasidEntry s (qcbPasid q)).state ≠ 1 ∨ (pasidEntry s (qcbPasid q)).vif ≠ qcbVif q then .done s 1
        else
          let q := match Sparse.get none s.queues.notify (qcbKey q) with | some w => bvSet q 288 32 w.toNat | none => q
          let s := dropReg (s.readBy k.chiplet pa) (qcbVif q) (qcbQueue q)
          let s := dropWaiter s fun w => w == .signal (qcbVif q) (qcbQueue q)
          .done (s.adjSlot n fun _ => { QSlot.reset with state := .loaded, qcb := q, save := pa }) 0

/-- The checks DISPATCH shares: the slot, the operation, and the states it may come from (R403). -/
def dispatchOp (x : XR3) (s : State) (allowed : List SlotState) (f : Nat → QSlot → QSlot) : Out :=
  xkrov 12 [2] s x.rd fun _ k =>
    let n := (k.reg x.rs1).toNat
    if 128 ≤ n then .trap 24 (k.reg x.rs1)
    else if 3 ≤ (k.reg x.rs2).toNat then .trap 24 (k.reg x.rs2)
    else if !(allowed.contains (s.slot n).state) then .trap 29 (BitVec.ofNat 64 n)
    else .done (s.adjSlot n (f n)) 0
/-- DISPATCH RUN (R403). -/
def execDispatchRun (x : XR3) (s : State) : Out :=
  dispatchOp x s [.loaded, .stopped] fun _ q => { q with state := .running, emptySeen := false }
/-- DISPATCH STOP: the slot stops at its next packet boundary (R403). -/
def execDispatchStop (x : XR3) (s : State) : Out := dispatchOp x s [.running] fun _ q => { q with state := .stopping }
/-- DISPATCH PREEMPT: as STOP, then every team of the queue's instances is pre-empted (R403). -/
def execDispatchPreempt (x : XR3) (s : State) : Out :=
  dispatchOp x s [.running, .stopped] fun _ q => { q with state := .stopping, preempting := true }

/-- QSAVE: a stopped slot's QCB goes to memory with the count of running instances, and the slot is IDLE (R404). -/
def execQsave (x : XR3) (s : State) : Out :=
  xkrov 13 [2] s x.rd fun _ k =>
    let n := (k.reg x.rs1).toNat
    if 128 ≤ n then .trap 24 (k.reg x.rs1)
    else operandAt s k (k.reg x.rs2) 128 .store fun pa =>
      if (s.slot n).state ≠ .stopped then .trap 29 (BitVec.ofNat 64 n)
      else
        let q := (s.slot n).qcb
        let q := bvSet q 250 6 (min 63 (queueInsts s (qcbKey q)).length)
        let s := dropWaiter (writeQcb s pa q) fun w => match w with | .queue m _ _ _ => m == n | _ => false
        .done (s.adjSlot n fun y => { QSlot.reset with event := y.event, qcb := q, save := pa }) 0

/-! ### Addresses of a packet (R293, R400) -/

/-- Where an address of a packet leads. -/
inductive SlotAddr where
  | pa (n kind : Nat)
  | bad
  | miss (va : Nat) (need : BitVec 6) (remote chain : Bool)
  | later (s : State)
  deriving DecidableEq, Repr

/-- Translate one address for the uses a packet makes of it: a refusal, a WINDOW or a DEVICE range is an error; the page
may have to come first; and a copy engine, a replay or a host region may stand before the access. -/
def slotAddr (s : State) (pasid va : Nat) (uses : List Use) : SlotAddr :=
  let ts := uses.map fun u => place s pasid va u
  let need := uses.foldl (fun (m : BitVec 6) u => m ||| u.need) 0
  let bad := ts.any fun t => match t with | .trap _ _ => true | .window _ _ => true | .at _ kind => kind == 6 | .miss _ _ _ => false
  if bad then .bad
  else match ts.findSome? fun t => match t with | .miss n remote chain => some (n, remote, chain) | _ => none with
    | some (n, remote, chain) => .miss va (need ||| n) remote chain
    | none =>
      match ts with
      | .at pa kind :: _ =>
        if s.engineOwned pa || pageWaits s pasid (va / 65536) then .later s
        else if !(regionReady s pa) then .later (wantRegion s pa)
        else .pa pa kind
      | _ => .bad

/-- The first of n grains from an address on that does not simply translate for reading. -/
def rangeAddr (s : State) (pasid : Nat) : Nat → Nat → SlotAddr
  | _, 0 => .pa 0 0
  | va, n + 1 =>
    match slotAddr s pasid va [.read 1] with
    | .pa _ _ => rangeAddr s pasid ((va / 512 + 1) * 512) n
    | r => r
/-- The pages n bytes at an address touch. -/
def pageCount (va n : Nat) : Nat := if n = 0 then 0 else (va + n - 1) / 65536 - va / 65536 + 1

/-- The grains n bytes at an address touch. -/
def grainCount (va n : Nat) : Nat := if n = 0 then 0 else (va + n - 1) / 512 - va / 512 + 1

/-- The slot holds at its packet and the signal unit posts for the page (R400, R401). -/
def holdSlot (s : State) (n pasid va : Nat) (need : BitVec 6) (remote chain : Bool) (reason : Nat) : State :=
  let s := s.adjSlot n fun q => { q with held := some reason }
  match postFault s pasid (va / 65536) need remote chain { qslot := some n } [.queue n pasid (va / 65536) need] with
  | .done s => s
  | .full =>
    s.adjFq (fqKey (homeOfPage s.build (va / 65536)) remote) fun q => { q with starved := addOnce q.starved (.queue n pasid (va / 65536) need) }

/-! ### The turn of a slot (R398, R400 to R404) -/

/-- What a packet comes to: done, so that the next packet proceeds, or still to do. -/
inductive PktRes where
  | next (s : State)
  | stay (s : State)
  deriving DecidableEq, Repr

/-- The packet is consumed (R404). -/
def advanceSlot (s : State) (n : Nat) : State :=
  s.adjSlot n fun q => { q with
    qcb := qcbState (bvSet q.qcb 256 32 (qcbRptr q.qcb + 1)) 0, emptySeen := false, failed := none, poll := none }
/-- What a packet comes to, as a state. -/
def PktRes.run (n : Nat) : PktRes → State
  | .next s => advanceSlot s n
  | .stay s => s

/-- Payload bytes of a TYPE that are not reserved, from byte 8 on. -/
def payloadBytes : Nat → Nat
  | 1 => 48
  | 2 => 16
  | 3 => 16
  | 6 => 8
  | _ => 0
/-- Whether a packet keeps its form: a known TYPE, an OP below 3, reserved bits zero (R400). -/
def packetOk (v : Nat) : Bool :=
  let ty := bitsOf v 0 8
  let n := payloadBytes ty
  decide (ty ≤ 6) && bitsOf v 16 2 != 3 && bitsOf v 11 1 == 0 && bitsOf v 15 1 == 0 && bitsOf v 18 46 == 0
    && bitsOf v (64 + 8 * n) (448 - 8 * n) == 0
/-- A 64-bit payload value of a packet. -/
def pktField (v b : Nat) : Nat := bitsOf v (8 * b) 64

/-- A stopping slot is at a packet boundary: STOPPED with EVENT 3, for a pre-emption once every team of the queue's
instances is saved (R403). -/
def stopSlot (s : State) (n : Nat) : State :=
  let q := s.slot n
  let s := dropWaiter s fun w => match w with | .queue m _ _ _ => m == n | _ => false
  let s := s.adjSlot n fun q => { q with held := none, poll := none }
  let fin := fun (s : State) => raiseSlot (s.adjSlot n fun q => { q with state := .stopped, preempting := false }) n 3
  if !q.preempting then fin s
  else
    let mine := (s.teams.filter fun t => (queueInsts s (qcbKey q.qcb)).any fun i => i.id == t.inst)
    let left := mine.filter fun t => t.place != .saved && t.place != .ended
    if left.isEmpty then fin s else left.foldl (fun s t => preemptTeam s t.id) s

/-- A slot's turn. It stops, or finds no packet and says so once, or reads its packet: a packet that cannot be had or
breaks its form stops the slot, one on a page that is not resident holds it, and one of the given TYPE is executed. -/
def slotTurn (s : State) (n ty : Nat) (body : State → Nat → PktRes) : State :=
  let q := s.slot n
  let pasid := qcbPasid q.qcb
  if q.state = .stopping then stopSlot s n
  else if q.state ≠ .running ∨ q.held.isSome ∨ q.poll.isSome then s
  else if qcbQstate q.qcb = 3 then slotError s n
  else if qcbQstate q.qcb = 1 then s
  else if qcbRptr q.qcb = qcbWptr q.qcb then
    if q.emptySeen then s
    else raiseSlot (s.adjSlot n fun q => { q with emptySeen := true, qcb := qcbState q.qcb 2 }) n 2
  else
    let va := (qcbRing q.qcb + 64 * (qcbRptr q.qcb % 2 ^ qcbRlog q.qcb)) % 2 ^ 64
    match slotAddr s pasid va [.read 16] with
    | .bad => slotError s n
    | .later s => s
    | .miss va need remote chain => holdSlot s n pasid va need remote chain 0
    | .pa pa kind =>
      let s := noteAccess s pa kind
      let v := blockAt s pa 64
      if !(packetOk v) then slotError s n
      else if bitsOf v 0 8 = ty then (body s v).run n else s

/-- The word of a packet: an error for a misaligned or refused address, and the wait for its page. -/
def withWord (s : State) (n va align : Nat) (uses : List Use) (body : State → Nat → PktRes) : PktRes :=
  let pasid := qcbPasid (s.slot n).qcb
  if va % align ≠ 0 then .stay (slotError s n)
  else match slotAddr s pasid va uses with
    | .bad => .stay (slotError s n)
    | .later s => .stay s
    | .miss va need remote chain => .stay (holdSlot s n pasid va need remote chain 0)
    | .pa pa kind => body (noteAccess s pa kind) pa

/-- NOP (R400). -/
def execQpktNop (n : Nat) (s : State) : Out := .next (slotTurn s n 0 fun s _ => .next s)
/-- FENCE: packets take effect one after another, so nothing is left to order (R400). -/
def execQpktFence (n : Nat) (s : State) : Out := .next (slotTurn s n 4 fun s _ => .next s)
/-- BARRIER (R400, R404). -/
def execQpktBarrier (n : Nat) (s : State) : Out :=
  .next (slotTurn s n 5 fun s _ => if (queueInsts s (qcbKey (s.slot n).qcb)).isEmpty then .next s else .stay s)
/-- TIMESTAMP (R400). -/
def execQpktTimestamp (n : Nat) (s : State) : Out :=
  .next (slotTurn s n 6 fun s v =>
    withWord s n (pktField v 8) 8 [.write 8] fun s pa => .next (homeWrite s pa (leBytes 8 s.clock)))
/-- SIGNAL: one 64-bit access, a store, an addition or a subtraction (R400). -/
def execQpktSignal (n : Nat) (s : State) : Out :=
  .next (slotTurn s n 3 fun s v =>
    withWord s n (pktField v 8) 8 [.read 8, .write 8] fun s pa =>
      let x : DWord := BitVec.ofNat 64 (pktField v 16)
      .next (match bitsOf v 16 2 with
        | 0 => homeWrite s pa (leBytes 8 x.toNat)
        | 1 => (homeRmw s pa .add true x 0).2
        | _ => (homeRmw s pa .add true (0 - x) 0).2))

/-! ### WAIT and the signal unit (R401) -/

/-- The condition of three bits. -/
def condOf (c : Nat) : WaitCond := (WaitCond.ofCode (BitVec.ofNat 5 (c % 8))).getD .eq
/-- Registrations the signal unit holds. -/
def maxRegs : Nat := 4096
/-- The queue parks: the QCB is written back with its WAIT fields and the packet consumed, the slot is IDLE with EVENT
1, and the word is registered. -/
def parkQueue (s : State) (n : Nat) (fresh : Bool) (sig val cond : Nat) (pa : Option Nat) : State :=
  let q := s.slot n
  let b := if fresh then bvSet q.qcb 256 32 (qcbRptr q.qcb + 1) else q.qcb
  let b := bvSet (bvSet (bvSet (qcbState b 1) 320 64 sig) 384 64 val) 247 3 cond
  let s := writeQcb s q.save b
  let s := s.adjSlot n fun q => { QSlot.reset with event := q.event, qcb := b, save := q.save }
  let r : SigReg := { pasid := qcbPasid b, va := sig, pa, cond := condOf cond, val := BitVec.ofNat 64 val, vif := qcbVif b
                      q := qcbQueue b, save := q.save, slot := n, hit := false }
  let s := { s with queues := { s.queues with regs := s.queues.regs ++ [r] } }
  let s := raiseSlot s n 1
  if pa.isNone then postSignal s r false else s
/-- The WAIT of a slot, from its packet or from the fields it parked with: it holds, the queue parks, or, with every
registration in use, the slot keeps its place and reads again after 16,384 cycles. -/
def waitSlot (s : State) (n : Nat) (fresh : Bool) (sig val cond : Nat) : PktRes :=
  let pasid := qcbPasid (s.slot n).qcb
  let full := decide (maxRegs ≤ s.queues.regs.length)
  if sig % 8 ≠ 0 then .stay (slotError s n)
  else match slotAddr s pasid sig [.read 8] with
    | .bad => .stay (slotError s n)
    | .later s => .stay s
    | .miss va need remote chain =>
      .stay (if full then holdSlot s n pasid va need remote chain 0 else parkQueue s n fresh sig val cond none)
    | .pa pa kind =>
      let s := noteAccess s pa kind
      let x : DWord := BitVec.ofNat 64 (blockAt s pa 8)
      if condHolds (condOf cond) x (BitVec.ofNat 64 val) then .next s
      else if full then .stay (s.adjSlot n fun q => { q with poll := some (s.clock + 16384) })
      else .stay (parkQueue s n fresh sig val cond (some pa))
/-- The WAIT a slot was loaded with holds: the queue is READY again and its next packet proceeds. -/
def unparkSlot (s : State) (n : Nat) : State := s.adjSlot n fun q => { q with qcb := qcbState q.qcb 0, poll := none }
/-- The WAIT fields a queue parked with, evaluated again (R402). -/
def waitAgain (s : State) (n : Nat) : State :=
  let q := (s.slot n).qcb
  match waitSlot s n false (bvGet q 320 64) (bvGet q 384 64) (bvGet q 247 3) with
  | .next s => unparkSlot s n
  | .stay s => s
/-- The WAIT packet at the head of a slot. -/
def waitPacket (s : State) (n : Nat) : State :=
  slotTurn s n 2 fun s v => waitSlot s n true (pktField v 8) (pktField v 16) (bitsOf v 12 3)
/-- WAIT (R401, R402). -/
def execQpktWait (n : Nat) (s : State) : Out :=
  let q := s.slot n
  .next (if q.state = .running ∧ q.held = none ∧ q.poll = none ∧ qcbQstate q.qcb = 1 then waitAgain s n else waitPacket s n)
/-- The slot that keeps its WAIT reads the word again (R401). -/
def execSignalPollTimer (n : Nat) (s : State) : Out :=
  match (s.slot n).poll with
  | none => .next s
  | some c =>
    if c ≤ s.clock then
      let s := s.adjSlot n fun q => { q with poll := none }
      .next (if qcbQstate (s.slot n).qcb = 1 then waitAgain s n else waitPacket s n)
    else .next s
/-- A registered WAIT whose condition a write made hold: its queue may run again (R401). -/
def execSignalReevaluate (i : Nat) (s : State) : Out :=
  match s.queues.regs[i]? with
  | none => .next s
  | some r => .next (if r.hit then setRemap (dropReg s r.vif r.q) r.vif r.q else s)

/-! ### START: the descriptor (R289 to R292) -/

/-- A node descriptor of 64 bytes (R290). -/
def nodeOf (v : Nat) : NodeDesc :=
  { clh := bitsOf v 404 3, clw := bitsOf v 401 3, kregs := bitsOf v 397 4, ztiles := bitsOf v 393 4, tmem := bitsOf v 373 20
    vregs := 8 * bitsOf v 368 5, width := 8 * 2 ^ bitsOf v 366 2, groups := bitsOf v 361 5, range := bitsOf v 360 1 == 1
    depthLim := bitsOf v 354 6, target := bitsOf v 341 13, recBytes := 16 * bitsOf v 336 5, reserve := bitsOf v 320 16
    count := bitsOf v 288 32, timer := bitsOf v 256 32
    entries := (List.range 8).map fun i => BitVec.ofNat 32 (bitsOf v (32 * i) 32) }
/-- REASON 2: a field outside its range, a field of the other kind of node, or bad entries. -/
def nodeFields (n : NodeDesc) : Bool :=
  let within := fun (lo x hi : Nat) => decide (lo ≤ x) && decide (x ≤ hi)
  within 1 n.clh 4 && within 1 n.clw 4 && within 0 n.kregs 8 && within 0 n.ztiles 8 && within 0 n.tmem 524288
    && within 8 n.vregs 128 && within 1 n.groups 16
    && (if n.range then n.depthLim == 0 && n.target == 0 && n.recBytes == 0 && n.timer == 0
        else within 1 n.target 4096 && within 16 n.recBytes 256 && n.count == 0)
    && (n.entry 0).isSome && n.entries.all fun e => !(e.getLsbD 1)
/-- REASON 3: the limits of R14. -/
def nodeShape (n : NodeDesc) : Bool := decide (n.teams ≤ 12) && decide (n.groups * n.width ≤ 1024)
/-- Whether a node breaks the check of a REASON from 2 to 6. -/
def nodeBreaks (reason : Nat) (n : NodeDesc) : Bool :=
  match reason with
  | 2 => !(nodeFields n)
  | 3 => !(nodeShape n)
  | 4 => decide (2048 < unitsOf n.groups n.width n.vregs n.ztiles)
  | 5 => decide (524288 < n.window)
  | 6 => n.range && n.count % n.teams != 0
  | _ => false

/-- The operands of a START packet (R400). -/
structure Start where
  desc : Nat
  arena : Nat
  size : Nat
  params : Nat
  completion : Nat
  signal : Nat
  deriving DecidableEq, Repr
/-- The operands in a packet. -/
def startOf (v : Nat) : Start :=
  { desc := pktField v 8, arena := pktField v 16, size := pktField v 24, params := pktField v 32, completion := pktField v 40
    signal := pktField v 48 }

/-- Whether a page may hold part of an arena: an OFFSET range of local HBM4, or a pinned PAGED range (R292). -/
def arenaPageOk (s : State) (pasid vpn : Nat) : Bool :=
  match pageRange s pasid vpn with
  | some r => if r.kind = 1 then partOk s.build 1 ((vpn * 65536 + r.offset) % 2 ^ 52) else r.kind == 2 && r.pinned && s.trn.normal
  | none => false
/-- Whether every page from `vpn` on, n of them, may hold part of an arena. -/
def arenaOk (s : State) (pasid : Nat) : Nat → Nat → Bool
  | _, 0 => true
  | vpn, n + 1 => arenaPageOk s pasid vpn && arenaOk s pasid (vpn + 1) n
/-- Whether a page lies in a pinned PAGED range and is not resident. -/
def pagedOut (s : State) (pasid vpn : Nat) : Bool :=
  match pageRange s pasid vpn with
  | some r => r.kind == 2 && r.pinned && s.trn.normal
      && (match invLookup s.build s.mem pasid vpn with | some (some _) => pageHeld s pasid vpn | _ => true)
  | none => false
/-- The first page of an arena that is PAGED and not resident (R293). -/
def arenaMiss (s : State) (pasid : Nat) : Nat → Nat → Option Nat
  | _, 0 => none
  | vpn, n + 1 => if pagedOut s pasid vpn then some vpn else arenaMiss s pasid (vpn + 1) n

/-- Slots and slot size of an arena: bytes of the parameter copy, of a slot, and the number of slots (R294). -/
def arenaLayout (size paramb : Nat) (nodes : List NodeDesc) : Nat × Nat × Nat :=
  let pad := (paramb + 255) / 256 * 256
  let sz := 16 + nodes.foldl (fun m n => max m n.recBytes) 0
  (pad, sz, (size - pad) / sz)
/-- REASON 7 (R292). -/
def arenaBreaks (s : State) (pasid : Nat) (a : Start) (paramb : Nat) (nodes : List NodeDesc) : Bool :=
  let (pad, _, slots) := arenaLayout a.size paramb nodes
  let most := nodes.foldl (fun m n => max m (n.reserve * n.teams)) 0
  a.arena % 256 != 0 || decide (2 ^ 56 < a.arena + a.size) || decide (a.size < pad) || decide (slots < most)
    || !(arenaOk s pasid (a.arena / 65536) (pageCount a.arena a.size))

/-- The header's own part of REASON 1. -/
def headerBad (v : Nat) : Bool :=
  bitsOf v 88 424 != 0 || bitsOf v 80 7 == 0 || decide (64 < bitsOf v 80 7) || bitsOf v 64 16 % 16 != 0
    || decide (4096 < bitsOf v 64 16) || bitsOf v 0 2 != 0
/-- The first reason of R292 from 1 to 6, in the order of the table and then of the nodes: reason and node. -/
def startReason (hdr : Nat) (raw : List Nat) : Option (Nat × Nat) :=
  let nodes := raw.map nodeOf
  if headerBad hdr then some (1, 0)
  else match indexOf (fun v => bitsOf v 407 105 != 0) raw with
    | some i => some (1, i)
    | none => [2, 3, 4, 5, 6].findSome? fun r => (indexOf (nodeBreaks r) nodes).map fun i => (r, i)

/-! ### START: running (R293, R294, R306, R310, R358) -/

/-- Memory of a PASID as runs of physical addresses within its pages. -/
def pageRuns (s : State) (pasid : Nat) : Nat → Nat → Nat → List (Nat × Nat)
  | 0, _, _ => []
  | k + 1, va, n =>
    if n = 0 then []
    else
      let m := min n (65536 - va % 65536)
      (match translate s pasid va (.read 1) with | .at pa _ => [(pa, m)] | _ => []) ++ pageRuns s pasid k (va + m) (n - m)
/-- Bytes of a PASID's memory, once the pages are known to be resident. -/
def agentRead (s : State) (pasid va n : Nat) : List Byte :=
  (pageRuns s pasid (pageCount va n) va n).flatMap fun r => homeBytes s r.1 r.2
/-- The pages of bytes that were read count as accessed (R328). -/
def notePages (s : State) (pasid va n : Nat) : State :=
  notePlaces s ((runOf (va / 65536) (pageCount va n)).map fun p => translate s pasid (65536 * p) (.read 1))
/-- One word of a PASID's memory, where it translates. -/
def agentWord (s : State) (pasid va : Nat) : Option Nat :=
  match translate s pasid va (.read 4) with
  | .at pa _ => some (blockAt s pa 4)
  | _ => none

/-- The handler pointer below the code; 0 when it is misaligned or not to be read (R358). -/
def handlerOf (s : State) (pasid codeBase : Nat) : DWord :=
  let lo := (codeBase + 2 ^ 64 - 8) % 2 ^ 64
  let hi := (codeBase + 2 ^ 64 - 4) % 2 ^ 64
  match agentWord s pasid lo, agentWord s pasid hi with
  | some l, some h => if l % 4 = 0 then BitVec.ofNat 64 (h * 2 ^ 32 + l) else 0
  | _, _ => 0

/-- The ready-list entries of range nodes, ascending by node and cluster (R306). -/
def rangeEntries (s : State) (nodes : List NodeDesc) : List Sheaf :=
  let all := nodes.zipIdx.flatMap fun ni =>
    if ni.1.range then (List.range (ni.1.count / ni.1.teams)).map fun c => (ni.2, c) else []
  all.zipIdx.map fun (x : (Nat × Nat) × Nat) =>
    { launcher := x.1.2 % chipletsOf s.build, node := x.1.1, label := 0, recs := [], depth := 0, cluster := x.1.2
      seq := s.fresh + 1 + x.2 }

/-- The physical runs of an arena, within its pages. -/
def rawRuns (s : State) (pasid : Nat) : Nat → Nat → Nat → List (Nat × Nat)
  | 0, _, _ => []
  | k + 1, va, n =>
    if n = 0 then []
    else
      let m := min n (65536 - va % 65536)
      (match rawPA s pasid va with | some pa => [(pa, m)] | none => []) ++ rawRuns s pasid k (va + m) (n - m)
/-- The physical runs of an arena. -/
def arenaRuns (s : State) (pasid base size : Nat) : List (Nat × Nat) := rawRuns s pasid (pageCount base size) base size
/-- Whether two arenas share a byte, by their addresses or in memory (R310). -/
def arenasMeet (s : State) (pasid : Nat) (a : Start) (i : Inst) : Bool :=
  (pasid == i.pasid && overlaps a.arena a.size i.arena (i.arenaEnd - i.arena)) || (arenaRuns s pasid a.arena a.size).any fun x =>
    (arenaRuns s i.pasid i.arena (i.arenaEnd - i.arena)).any fun y => overlaps x.1 x.2 y.1 y.2
/-- Whether a START of a header waits in its queue (R310). -/
def startWaits (s : State) (pasid : Nat) (a : Start) (hdr : Nat) : Bool :=
  let conc := bitsOf hdr 87 1 == 1
  decide (32 ≤ s.insts.length)
    || ((s.insts.any fun i => i.desc == a.desc && i.pasid == pasid) && !(conc && s.insts.all fun i => !(arenasMeet s pasid a i)))

/-- The addresses at which a START writes its end: the completion word and the signal, found at START. -/
abbrev Ends := Nat × Option Nat
/-- A refused START: the completion word carries the REASON, then the signal (R292, R312, R400). -/
def refuseStart (s : State) (e : Ends) (reason node : Nat) : State :=
  signalDown (homeWrite s e.1 (leBytes 16 (completionBits 0 0 reason node 0xFF))) e.2

/-- The instance that starts: the parameter copy is written and the range entries are ready (R294, R306). -/
def beginInst (s : State) (q : BitVec 1024) (a : Start) (hdr : Nat) (nodes : List NodeDesc) (handler : DWord) : State :=
  let pasid := qcbPasid q
  let paramb := bitsOf hdr 64 16
  let (pad, sz, slots) := arenaLayout a.size paramb nodes
  let i : Inst :=
    { id := s.fresh, desc := a.desc, conc := bitsOf hdr 87 1 == 1, pasid, vif := qcbVif q, queue := qcbKey q
      codeBase := BitVec.ofNat 64 (bitsOf hdr 0 64), handler, nodes, arena := a.arena, params := paramb
      slotBase := a.arena + pad, slotBytes := sz, arenaEnd := a.arena + a.size, slots, used := [], res := 0
      flights := [], bins := [], ready := rangeEntries s nodes, waiters := [], counters := [], launched := 0
      completion := a.completion, signal := if a.signal = 0 then none else some a.signal, ended := none }
  let copy := agentRead s pasid a.params paramb ++ List.replicate (pad - paramb) 0
  let s := { s with insts := s.insts ++ [i], fresh := s.fresh + 1 + i.ready.length }
  arenaWrite s i a.arena copy

/-- Step 3 of R293, the reasons of R292, and the start; `hold` waits for a page with the outcome of its refusal. -/
def startChecked (s : State) (n : Nat) (a : Start) (e : Ends) (hdr : Nat) (hold : SlotAddr → Nat → PktRes) : PktRes :=
  let q := (s.slot n).qcb
  let pasid := qcbPasid q
  let failed := (s.slot n).failed
  let refuse := fun (r node : Nat) => PktRes.next (refuseStart s e r node)
  let raw := (List.range (bitsOf hdr 80 7)).map fun i => leNat (agentRead s pasid (a.desc + 64 * (i + 1)) 64)
  let code := (bitsOf hdr 0 64 + 2 ^ 64 - 8) % 2 ^ 64
  match arenaMiss s pasid (a.arena / 65536) (pageCount a.arena (min a.size (2 ^ 56))) with
  | some vpn => hold (.miss (vpn * 65536) 1 false (chainBroken s pasid vpn)) 7
  | none =>
    match startReason hdr raw with
    | some (r, node) => refuse r node
    | none =>
      let nodes := raw.map nodeOf
      if arenaBreaks s pasid a (bitsOf hdr 64 16) nodes then refuse 7 0
      else
        match (if failed = some 9 then .bad else rangeAddr s pasid code (grainCount code 8)) with
        | .miss va need remote chain => hold (.miss va need remote chain) 9
        | .later s => .stay s
        | .bad => .next (beginInst s q a hdr nodes 0)
        | .pa _ _ => .next (beginInst (notePages s pasid code 8) q a hdr nodes (handlerOf s pasid (bitsOf hdr 0 64)))

/-- Step 2 of R293: the descriptor and the parameter source; the wait of R310 comes once the header is read. -/
def startRead (s : State) (n : Nat) (a : Start) (e : Ends) (hold : SlotAddr → Nat → PktRes) : PktRes :=
  let pasid := qcbPasid (s.slot n).qcb
  let refuse := fun (s : State) (reason : Nat) => PktRes.next (refuseStart s e reason 0)
  let reading := fun (va len : Nat) (s : State) (k : State → PktRes) =>
    match rangeAddr s pasid va (grainCount va len) with
    | .pa _ _ => k (notePages s pasid va len)
    | .bad => refuse s 8
    | r => hold r 8
  if (s.slot n).failed = some 7 then refuse s 7
  else if (s.slot n).failed = some 8 ∨ a.desc % 64 ≠ 0 then refuse s 8
  else reading a.desc 64 s fun s =>
    let hdr := leNat (agentRead s pasid a.desc 64)
    if startWaits s pasid a hdr then .stay s
    else reading (a.desc + 64) (64 * bitsOf hdr 80 7) s fun s =>
      reading a.params (bitsOf hdr 64 16) s fun s => startChecked s n a e hdr hold

/-- START: the ends first, an error of the slot; then the wait of R310; then the checks that refuse the instance
(R293). -/
def execQpktStart (n : Nat) (s : State) : Out :=
  .next (slotTurn s n 1 fun s v =>
    let a := startOf v
    let pasid := qcbPasid (s.slot n).qcb
    let hold := fun (r : SlotAddr) (reason : Nat) =>
      PktRes.stay (match r with
        | .miss va need remote chain => holdSlot s n pasid va need remote chain reason
        | .later s => s
        | _ => s)
    let go := fun (s : State) (e : Ends) => startRead s n a e hold
    withWord s n a.completion 16 [.write 16] fun s comp =>
      if a.signal = 0 then go s (comp, none)
      else withWord s n a.signal 8 [.read 8, .write 8] fun s sig => go s (comp, some sig))

end Sys2Proof.Machine
end

