-- ==== Sys2Proof/Machine/Fabric.lean ====
section
/-! DEFINITION. The fabric (R406 to R416): PUT and GET with their port queues, window counters, window requests that
arrive, the link codec, paths that fail, and the declaration of dead nodes with the directory's part of it (R238). -/

namespace Sys2Proof.Machine

/-! ### Window entries (R408) -/

/-- Fields an import and an export entry share. -/
def winValid (e : BitVec 256) : Bool := bvGet e 0 1 == 1
def winPasid (e : BitVec 256) : Nat := bvGet e 172 20
def winKeyOf (e : BitVec 256) : BitVec 16 := BitVec.ofNat 16 (bvGet e 144 16)
/-- The counter of an entry: ICNT or TCNT. -/
def winCount (e : BitVec 256) : Word := BitVec.ofNat 32 (bvGet e 224 32)
/-- Set the counter. -/
def winSetCount (e : BitVec 256) (n : Word) : BitVec 256 := bvSet e 224 32 n.toNat
/-- PATH, NODE and EXPIDX of an import. -/
def impPath (e : BitVec 256) : Nat := bvGet e 110 2
def impNode (e : BitVec 256) : Nat := bvGet e 112 16
def impExp (e : BitVec 256) : Nat := bvGet e 136 8
/-- ERR of an import. -/
def impErr (e : BitVec 256) : Bool := bvGet e 215 1 == 1
/-- BASE and the bytes of an export. -/
def expBase (e : BitVec 256) : Nat := bvGet e 72 56
def expBytes (e : BitVec 256) : Nat := bvGet e 40 32 * 65536

/-! ### Paths (R406, R416) -/

/-- Whether every path of a carrier is down: both planes, or both ports. -/
def carrierDown (s : State) (path : Nat) : Bool :=
  let l := if path < 2 then s.fabric.planesDown else s.fabric.uesDown
  l.contains 0 && l.contains 1
/-- Whether an operation's PATH cannot carry it to its node: it does not reach it, every path is down, or the node is
declared dead. -/
def pathFails (s : State) (path node : Nat) : Bool :=
  !(reaches s path node) || carrierDown s path || s.fabric.dead.contains node

/-! ### PUT and GET (R410 to R412) -/

/-- %trapinfo of WINDOW (R411). -/
def infoWindow (code : Nat) : Word := BitVec.ofNat 32 (code % 16)
/-- The addresses that stand for a local range: its first byte and each grain after it. -/
def rangeHeads (va len : Nat) : List Nat := va :: ((grainsOf va len).drop 1).map fun g => 512 * g
/-- Step 3 of R411 on one address: cause and %trapinfo. -/
def localFault (s : State) (pasid va : Nat) (u : Use) : Option (Cause × Word) :=
  match translate s pasid va u with
  | .trap cause code => some (cause, infoGlobal 6 0 code)
  | .window _ _ => some (cWindow, infoWindow 1)
  | .at _ kind => if kind = 6 then some (cProtection, infoGlobal 6 0 13) else none
  | .miss _ _ _ => none
/-- The first failing address of a local range. -/
def localRangeFault (s : State) (pasid va len : Nat) (u : Use) : Option (Nat × Cause × Word) :=
  (rangeHeads va len).findSome? fun a => (localFault s pasid a u).map fun x => (a, x.1, x.2)

/-- The WINDOW range that covers an address (R411). -/
def windowRange (s : State) (pasid va : Nat) : Option Range :=
  if 2 ^ 56 ≤ va then none else (rangeLookup s pasid (va / 65536)).filter fun r => r.kind == 5

/-- Use of the local side: PUT reads it, GET writes it. -/
def putUse (put : Bool) : Use := if put then .copyRead else .copyWrite
/-- The first check of R411 that fails: cause, %trapaddr and %trapinfo. -/
def putGetFault (s : State) (vif pasid : Nat) (put : Bool) (loc win len : Nat) : Option (Cause × Nat × Word) :=
  if loc % 4 ≠ 0 then some (cMisalign, loc, infoGlobal 6 0 7)
  else if win % 4 ≠ 0 then some (cMisalign, win, infoGlobal 6 0 7)
  else if len % 4 ≠ 0 ∨ len = 0 ∨ 16777216 < len then some (cWindow, win, infoWindow 4)
  else match localRangeFault s pasid loc len (putUse put) with
    | some (a, cause, info) => some (cause, a, info)
    | none =>
      match windowRange s pasid win with
      | none => some (cWindow, win, infoWindow 1)
      | some r =>
        if s.trn.normal = false then some (cTranslation, win, infoGlobal 6 0 15)
        else if !(importOk s vif pasid r.space) then some (cWindow, win, infoWindow 2)
        else if (r.limit + 1) * 65536 < win + len then some (cWindow, win, infoWindow 3)
        else none

/-- PUTs and GETs in a chiplet's port queue. -/
def portOps (s : State) (chiplet : Nat) : List FabOp := s.fabric.ops.filter fun o => o.chiplet == chiplet && o.atom.isNone
/-- Groups of a chiplet parked for a port queue entry. -/
def portParked (s : State) (chiplet : Nat) : List Parked :=
  (s.teams.filter fun t => chipletOfCore t.core == chiplet).flatMap fun t => t.groups.zipIdx.filterMap fun gi =>
    match gi.1.park with | some (.portQueue since) => some (since, t.core, ⟨t.id, gi.2⟩) | _ => none

/-- The operation of a PUT or GET that passed its checks. -/
def newFabOp (c : Ctx) (put notify : Bool) (loc win len : Nat) (r : Range) : FabOp :=
  { id := c.s.fresh, team := c.r.team, chiplet := chipletOfCore c.t.core, put, va := loc, len, vif := c.t.vif
    imp := r.space, off := win - r.base * 65536, pasid := c.t.pasid, notify, entry := c.s.win (impKey c.t.vif r.space)
    dropped := none, atom := none, since := none }
/-- An operation joins the port queue; a GET's request leaves with it. -/
def admitFabOp (s : State) (o : FabOp) : State :=
  let s := { s with fresh := s.fresh + 1, fabric := { s.fabric with ops := s.fabric.ops ++ [o] } }
  if o.put then s else send s (.get o.id (impNode o.entry) (winKeyOf o.entry) (impExp o.entry) o.off o.len)

/-- PUT and GET: the checks of R411, the release of a PUT, and a place in the port queue (R410 to R412). -/
def putGetOp (put : Bool) (x : PutGet) (s : State) : Out :=
  issue s (readsU (x.d.toNat :: runOf x.a.toNat 2 ++ runOf x.b.toNat 2)) 8 x.s false fun c =>
    let loc := (c.g.uniPair x.a.toNat).toNat
    let win := (c.g.uniPair x.b.toNat).toNat
    let len := (c.g.readUni x.d.toNat).toNat
    match putGetFault c.s c.t.vif c.t.pasid put loc win len with
    | some (cause, addr, info) => .trap (c.mkTrap cause (BitVec.ofNat 64 addr) info)
    | none =>
      if acquirePending c.s c.t.core c.r c.g then .park .recall c.s
      else if put && !(drainedAt c.s c.t.core c.r 5) then .park .drain c.s
      else
        let chiplet := chipletOfCore c.t.core
        let since := match s.parkNow with | some (.portQueue n) => n | _ => c.s.clock
        let before := (portParked c.s chiplet).any fun w => w.2.2 != c.r && w.before since c.t.core
        if before || decide (256 ≤ (portOps c.s chiplet).length) then .park (.portQueue since) c.s
        else match windowRange c.s c.t.pasid win with
          | none => .ok c.s
          | some r => .ok (admitFabOp c.s (newFabOp c put x.notify loc win len r))
/-- PUT (R412). -/
def execPut (x : PutGet) (s : State) : Out := putGetOp true x s
/-- GET (R412). -/
def execGet (x : PutGet) (s : State) : Out := putGetOp false x s

/-- A port queue entry of a chiplet frees: the group that parked first goes on (R412). -/
def execFabricPortFree (chiplet : Nat) (s : State) : Out :=
  match firstParked (portParked s chiplet) with
  | some r =>
    if (portOps s chiplet).length < 256 then
      reissue s r fun i s => match i with | .put x => execPut x s | .get x => execGet x s | _ => .next s
    else .next s
  | none => .next s

/-! ### The link codec (R414, R415) -/

/-- The sixteen words of a line of 64 bytes. -/
def lineWords (l : List Byte) : List Nat := (List.range 16).map fun i => leNat ((l.drop (4 * i)).take 4)
/-- The tag of a line: the first of R414's table whose condition holds. -/
def lineTag (l : List Byte) : Nat :=
  let ws := lineWords l
  let w := ws.headD 0
  if ws.all fun x => x == 0 then 0
  else if ws.all fun x => x == w then 1
  else if ws.all fun x => x / 65536 == w / 65536 then 2
  else 3
/-- The coded bytes of a line under its tag. -/
def lineCode (l : List Byte) : List Byte :=
  let ws := lineWords l
  match lineTag l with
  | 0 => []
  | 1 => leBytes 4 (ws.headD 0)
  | 2 => leBytes 2 (ws.headD 0 / 65536) ++ ws.flatMap fun x => leBytes 2 x
  | _ => l
/-- A coded block: the tag vector of 16 bytes, then the lines in order. -/
def blockCode (ls : List (List Byte)) : List Byte :=
  leBytes 16 (ls.zipIdx.foldl (fun v x => v + lineTag x.1 * 4 ^ x.2) 0) ++ ls.flatMap lineCode
/-- A payload as Krovgil Link carries it: blocks of 4,096 bytes, from 128 bytes on. -/
def linkPayload (path : Nat) (bs : List Byte) : List Byte :=
  if path < 2 ∧ 128 ≤ bs.length then (chunks 4096 bs).flatMap fun b => blockCode (chunks 64 b) else bs

/-! ### The ends of operations (R231, R412) -/

/-- Pages of the local side an operation still misses, with where each of its grains leads. -/
def fabPlaces (s : State) (o : FabOp) : List (Nat × Tr) :=
  (grainsOf o.va o.len).map fun g => (g, place s o.pasid (512 * g) (putUse o.put))
/-- Bytes of a local range among its places. -/
def placedBytes (s : State) (l : List (Nat × Tr)) (va n : Nat) : List Byte :=
  (joinRuns ((List.range n).map fun i => va + i)).flatMap fun r => homeBytes s (paAmong l r.1) r.2
/-- A read of places recalls the owners of their grains (R186). -/
def recallPlaces (s : State) (l : List (Nat × Tr)) : State :=
  l.foldl (fun s x => match x.2 with | .at pa _ => s.recall (pa / 512) | _ => s) s
/-- Write bytes at a local range among its places, one write for each run inside a grain. -/
def placedWrite (s : State) (l : List (Nat × Tr)) (va : Nat) (bs : List Byte) : State :=
  (joinRuns ((List.range bs.length).map fun i => va + i)).foldl
    (fun s r => homeWrite s (paAmong l r.1) ((bs.drop (r.1 - va)).take r.2)) s

/-- Whether a waiter of a name stands in an entry or in a list of those waiting for room. -/
def windowPosted (s : State) (id : Nat) : Bool :=
  let mine := fun (l : List Waiter) => l.any fun w => match w with | .window j _ _ _ => j == id | _ => false
  let held := fun (es : List FEntry) => es.any fun e => mine e.waiters
  (s.faults.queues.any fun q => held q.2.entries || mine q.2.starved) || s.faults.served.any (fun v => mine v.entry.waiters)
    || held s.faults.host || held s.faults.popped
/-- Post for a page an operation or a request waits for, once (R242, R409). -/
def postWindow (s : State) (id pasid vpn : Nat) (need : BitVec 6) (remote chain : Bool) : State :=
  if windowPosted s id then s
  else
    let w : Waiter := .window id pasid vpn need
    match postFault s pasid vpn need remote chain {} [w] with
    | .done s => s
    | .full => s.adjFq (fqKey (homeOfPage s.build vpn) remote) fun q => { q with starved := addOnce q.starved w }

/-- The bytes an end reports as moved: all of a success, a leading part of a failure. -/
def movedBytes (o : FabOp) (x : FabricEnd) : Nat := if x.cause = 0 then o.len else min x.done o.len
/-- An operation that never left this package's side: what is unsent is dropped, and the counters advance (R412). -/
def dropFabOp (s : State) (o : FabOp) (cause : Cause) : State := endFabOp s o cause
/-- The move of a PUT or GET and its end, counters last: the target's with the message, then this one's (R231). -/
def finishFabOp (s : State) (o : FabOp) (l : List (Nat × Tr)) (n : Nat) (cause : Cause) (data : List Byte) : State :=
  let s := notePlaces s (l.map fun x => x.2)
  let s :=
    if o.put then
      let bs := linkPayload (impPath o.entry) (placedBytes s l o.va n)
      if n = 0 then s
      else send (recallPlaces s l) (.put o.id (impNode o.entry) (winKeyOf o.entry) (impExp o.entry) o.off (o.notify && cause == 0) n bs)
    else placedWrite s l o.va (data.take n)
  endFabOp s o cause
/-- An operation or a request waits for a host region from now on, or still (R338, R339). -/
def windowRegion (s : State) (id pa : Nat) : State :=
  let op := fun (o : FabOp) => if o.id = id then { o with since := waitSince s pa o.since } else o
  let req := fun (w : WinWait) => if w.id = id then { w with since := waitSince s pa w.since } else w
  wantRegion { s with fabric := { s.fabric with ops := s.fabric.ops.map op, waiting := s.fabric.waiting.map req } } pa
/-- What stops the local side of an operation. -/
inductive FabStop where
  | go
  | fail (cause : Cause)
  | wait (s : State)
  deriving DecidableEq, Repr
/-- Whether the local side of an operation can move now: a refusal ends it; a page that is missing, a copy engine, a
replay, a host region, or a write that waits for acknowledgements makes it wait (R229, R234, R242, R338). -/
def fabReady (s : State) (o : FabOp) (l : List (Nat × Tr)) : FabStop :=
  match firstStop l with
  | some (_, .trap cause _) => .fail cause
  | some (g, .miss need remote chain) => .wait (postWindow s o.id o.pasid (g / 128) need remote chain)
  | some _ => .fail cWindow
  | none =>
    let pas := l.filterMap fun x => match x.2 with | .at pa _ => some pa | _ => none
    match pas.find? fun pa => !(regionReady s pa) with
    | some pa => .wait (windowRegion s o.id pa)
    | none =>
      if (pas.any fun pa => s.engineOwned pa) || (l.any fun x => pageWaits s o.pasid (x.1 / 128))
        || (linesOf o.va o.len).any fun n => lineBusy s (paAmong l (128 * n) / 128) then .wait s
      else .go

/-- The end of a PUT or GET (R412): a cause recorded on this side or a path that fails comes first, then the local side,
then what the target answered. -/
def endPutGet (s : State) (o : FabOp) (x : FabricEnd) : State :=
  match o.dropped with
  | some cause => dropFabOp s o cause
  | none =>
    if pathFails s (impPath o.entry) (impNode o.entry) then dropFabOp s o cRemoteDeclined
    else if x.cause = cRemoteDeclined ∨ x.cause = cPasidGone then s
    else if !o.put && decide (x.data.length ≠ movedBytes o x) then s
    else
      let l := fabPlaces s o
      if movedBytes o x = 0 then finishFabOp s o [] 0 x.cause []
      else match fabReady s o l with
        | .fail cause => dropFabOp s o cause
        | .wait s => s
        | .go => finishFabOp s o l (movedBytes o x) x.cause x.data

/-- Operations of a group's window atomic that are still unanswered. -/
def atomOps (s : State) (r : GRef) : List FabOp :=
  s.fabric.ops.filter fun o => match o.atom with | some a => a.1 == r | none => false
/-- A window atomic's answer reaches its group: the value is kept until every lane has its own, a failure refuses the
instruction precisely (R201, R412). -/
def endWinAtom (s : State) (o : FabOp) (a : GRef × Nat × DWord) (x : FabricEnd) : State :=
  let r := a.1
  let gone := fun (s : State) (p : FabOp → Bool) => { s with fabric := { s.fabric with ops := s.fabric.ops.filter fun y => !(p y) } }
  let cause : Cause :=
    match o.dropped with
    | some c => c
    | none => if pathFails s (impPath o.entry) (impNode o.entry) then cAtomicPath else x.cause
  match s.group r with
  | none => gone s fun y => y.id == o.id
  | some g =>
    if cause ≠ 0 then
      let s := gone s fun y => (atomOps s r).contains y
      let s := s.adjGroup r fun g => { g with winRes := g.winRes.filter fun w => w.1 ≠ a.2.2 }
      let c : Cause := if cause = cAtomicPath ∨ cause = cRemoteDeclined then cAtomicPath else cWindow
      let info := if c = cAtomicPath then infoGlobal 2 a.2.1 13 else infoWindow 0
      takeTrap s r { cause := c, addr := BitVec.ofNat 64 o.va, inst := ((s.team r.team).map fun t => wordAt s t r.grp a.2.2).getD 0, info, block := 0 } g.held []
    else
      let s := gone s fun y => y.id == o.id
      let s := s.adjGroup r fun g => { g with winRes := g.winRes ++ [(a.2.2, a.2.1, BitVec.ofNat 64 (leNat x.data))] }
      if (atomOps s r).isEmpty then
        afterLanding (s.adjGroup r fun g => if g.park = some .winAtom then { g with park := none } else g) r
      else s

/-- A port operation ends, or a window atomic is answered (R201, R412). -/
def execPutGetComplete (x : FabricEnd) (s : State) : Out :=
  match s.fabric.ops.find? fun o => o.id == x.id with
  | none => .next s
  | some o =>
    match o.atom with
    | none => .next (endPutGet s o x)
    | some a => .next (endWinAtom s o a x)

/-! ### Requests that arrive (R408, R409) -/

/-- The permission bits a request needs: a returning atomic reads as well. -/
def winAllows (e : BitVec 256) (x : WindowReq) : Bool :=
  let put := bvGet e 1 1 == 1
  let get := bvGet e 2 1 == 1
  match x.kind with
  | .put => put
  | .get => get
  | .atomic => put && (!x.notify || get)
/-- The admission of R409. -/
def winAdmits (e : BitVec 256) (x : WindowReq) : Bool :=
  winValid e && winKeyOf e == x.key && winAllows e x && decide (x.off + x.len ≤ expBytes e)
/-- Whether a request has its form: lengths as R410 and R201 give them, with its data. -/
def winForm (x : WindowReq) : Bool :=
  match x.kind with
  | .put => decide (0 < x.len) && x.data.length == x.len
  | .get => decide (0 < x.len) && x.data.isEmpty
  | .atomic => (x.len == 4 || x.len == 8) && x.off % x.len == 0 && x.data.length == 2 * x.len
/-- The use a request makes of the exporting PASID's memory. -/
def winUse (x : WindowReq) : Use :=
  match x.kind with
  | .put => .copyWrite
  | .get => .copyRead
  | .atomic => .atomic x.op (x.len == 8) 5
/-- The target counter advances by one (R412). -/
def bumpTarget (s : State) (vif exp : Nat) : State :=
  let k := expKey vif exp
  s.setWin k (winSetCount (s.win k) (winCount (s.win k) + 1))
/-- A request is performed: every byte first, then the counter of a PUT with NOTIFY, then the answer (R231, R412). -/
def performWindow (s : State) (x : WindowReq) (va : Nat) (l : List (Nat × Tr)) : State :=
  let s := notePlaces s (l.map fun e => e.2)
  let reply := fun (s : State) (bs : List Byte) => send s (.windowReply x.src x.tag 0 bs)
  match x.kind with
  | .put =>
    let s := placedWrite s l va x.data
    reply (if x.notify then bumpTarget s x.vif x.exp else s) []
  | .get => reply (recallPlaces s l) (placedBytes s l va x.len)
  | .atomic =>
    let b : DWord := BitVec.ofNat 64 (leNat (x.data.take x.len))
    let c : DWord := BitVec.ofNat 64 (leNat (x.data.drop x.len))
    let r := homeRmw s (paAmong l va) x.op (x.len == 8) b c
    reply r.2 (if x.notify then leBytes x.len r.1.toNat else [])
/-- A request under the entry it was admitted by: refused by the engine rule of R242, kept while it must wait, or
performed; the first request of a node that came back raises LOST at each home (R238). -/
def serveWindow (s : State) (id : Nat) (e : BitVec 256) (x : WindowReq) : State :=
  let va := expBase e + x.off
  let pasid := winPasid e
  let l := (grainsOf va x.len).map fun g => (g, place s pasid (512 * g) (winUse x))
  let o : FabOp := { id, team := 0, chiplet := 0, put := false, va, len := x.len, vif := x.vif, imp := x.exp, off := x.off
                     pasid, notify := false, entry := e, dropped := none, atom := none, since := none }
  match fabReady s o l with
  | .fail cause => refuseWindow s id cause
  | .wait s => s
  | .go =>
    let homes := l.filterMap fun e => match e.2 with | .at pa _ => some (homeOf s.build pa) | _ => none
    let first := homes.filter fun h => firstReach s x.src h
    if first.isEmpty then
      performWindow { s with fabric := { s.fabric with waiting := s.fabric.waiting.filter fun w => w.id ≠ id } } x va l
    else refuseWindow (first.foldl (fun s h => reachHome s x.src h) s) id cLost
/-- A window request arrives, or one that was admitted tries again (R409). A declared node's traffic is refused
(R416). -/
def execWindowRequestArrival (x : WindowReq) (s : State) : Out :=
  if s.fabric.dead.contains x.src || !(winForm x) then .next s
  else match s.fabric.waiting.find? fun w => w.req == x with
    | some w => .next (serveWindow s w.id w.entry x)
    | none =>
      let e := s.win (expKey x.vif x.exp)
      if !(winAdmits e x) then .next (send s (.windowReply x.src x.tag cWindow []))
      else
        let id := s.fresh
        let s := { s with fresh := id + 1, fabric := { s.fabric with waiting := s.fabric.waiting ++ [{ id, req := x, entry := e, since := none }] } }
        .next (serveWindow s id e x)

/-! ### Window counters (R413) -/

/-- The entry a counter selector names. -/
def selKey (vif : Nat) (sel : Word) : Nat := if sel.getLsbD 31 then expKey vif (bvGet sel 0 8) else impKey vif (bvGet sel 0 8)
/-- The checks of a selector: the CODE of WINDOW. -/
def selFault (s : State) (vif pasid : Nat) (sel : Word) : Option Nat :=
  let e := s.win (selKey vif sel)
  if bvGet sel 8 23 ≠ 0 then some 5 else if winValid e && winPasid e == pasid then none else some 6
/-- Whether a counter has reached v. -/
def winReached (e : BitVec 256) (v : Word) : Bool := (0 : Word).sle (winCount e - v)
/-- The status word of a counter. -/
def winStatus (e : BitVec 256) (sel : Word) : Word := if sel.getLsbD 31 then 0 else BitVec.ofNat 32 (bvGet e 192 32)

/-- A counter instruction on a selector that passes its checks. -/
def counterOp (n : Names) (a : BitVec 6) (settle : Bool) (s : State) (body : Ctx → Word → BitVec 256 → Res) : Out :=
  issue s n 4 settle false fun c =>
    let sel := c.g.readUni a.toNat
    match selFault c.s c.t.vif c.t.pasid sel with
    | some code => .trap (c.mkTrap cWindow 0 (infoWindow code))
    | none => body c sel (c.s.win (selKey c.t.vif sel))
/-- WCWAIT: its return is an acquire at fabric scope (R413). -/
def execWcwait (x : UR) (s : State) : Out :=
  counterOp (UR.names x false) x.a x.s s fun c sel e =>
    if winReached e (c.g.readUni x.b.toNat) || (!(sel.getLsbD 31) && impErr e) then
      .ok ((writeU c x.d.toNat (winStatus e sel) c.s).dropL1 c.t.core)
    else .park .wcwait c.s
/-- WCRD: the group parks until the counter's value arrives (R413). -/
def execWcrd (x : UU) (s : State) : Out :=
  counterOp (Names.add (writesU [x.d.toNat]) (readsU [x.a.toNat])) x.a x.s s fun c sel _ =>
    .ok (c.s.adjGroup c.r fun g => { g with park := some (.wcrd x.d.toNat sel) })
/-- The counter's value reaches the group (R413). -/
def execWcrdAnswer (r : GRef) (s : State) : Out :=
  match s.team r.team, s.group r with
  | some t, some g =>
    match g.park with
    | some (.wcrd d sel) =>
      .next (afterLanding (s.adjGroup r fun g => (g.writeUni d (winCount (s.win (selKey t.vif sel)))).unpark) r)
    | _ => .next s
  | _, _ => .next s
/-- WCRESET: the counter, and for an import ERR and ECAUSE (R413). -/
def execWcreset (x : USrc) (s : State) : Out :=
  counterOp (readsU [x.a.toNat]) x.a x.s s fun c sel e =>
    let e := winSetCount e 0
    .ok (c.s.setWin (selKey c.t.vif sel) (if sel.getLsbD 31 then e else bvSet e 215 9 0))

/-! ### Paths and nodes that fail (R416, R238) -/

/-- A Krovgil Link plane is down: traffic moves to the other one. -/
def execPlaneDown (n : Nat) (s : State) : Out :=
  .next (if n < 2 then { s with fabric := { s.fabric with planesDown := addOnce s.fabric.planesDown n } } else s)
/-- An Ultra Ethernet path is down: traffic moves to the other port. -/
def execUePathDown (n : Nat) (s : State) : Out :=
  .next (if n < 2 then { s with fabric := { s.fabric with uesDown := addOnce s.fabric.uesDown n } } else s)
/-- Whether a node is a live peer of this package's pod. -/
def livePeer (s : State) (n : Nat) : Bool :=
  n != 0 && n != s.fabric.nodeId.toNat && reaches s 0 n && !(s.fabric.dead.contains n)
/-- No path to a node has delivered for 1 ms: the coordinator is asked to declare it, once in the 2 ms of R238. -/
def execNodeSilentTimeout (n : Nat) (s : State) : Out :=
  let asked := Sparse.get 0 s.fabric.silent n
  if livePeer s n ∧ (asked = 0 ∨ asked + declareCycles ≤ s.clock) then
    .next (send { s with fabric := { s.fabric with silent := Sparse.set 0 s.fabric.silent n (s.clock + 1) } } (.declare n))
  else .next s
/-- A lifetime counter advances (R423); they never reset. -/
def countEvent (s : State) (i : Nat) : State :=
  { s with mgt := { s.mgt with counters := Sparse.set 0 s.mgt.counters i (Sparse.get 0 s.mgt.counters i + 1) } }
/-- The lifetime counters are numbered in the order of R423's list: 0 power-on hours, 3 parity events, 4 link retries,
5 codec fallbacks, 6 declarations. 16 + n and 32 + n count corrected and uncorrected errors of HBM4 stack n, 48 + b
corrected errors of SRAM block b (log 33). -/
def ctrParity : Nat := 3
/-- Declarations (R423). -/
def ctrDeclarations : Nat := 6
/-- Uncorrected errors of HBM4 stack n (R423). -/
def ctrHbmLost (n : Nat) : Nat := 32 + n
/-- A node takes a new membership epoch. -/
def newEpoch (f : Fabric) (n : Nat) : Fabric := { f with epochs := Sparse.set 0 f.epochs n (Sparse.get 0 f.epochs n + 1) }
/-- The homes drop a dead holder: its copies and pending invalidations go, and the grains it held in M are lost
(R238). -/
def dropHolder (s : State) (h : Holder) : State :=
  let lost := (s.dir.owners.filter fun e => e.2 == some h).map fun e => e.1
  let lines := Sparse.mapKey LineDir.empty (fun _ (d : LineDir) =>
    { shared := d.shared.filter fun x => x ≠ h, fwd := if d.fwd = some h then none else d.fwd }) s.dir.lines
  let s := { s with dir := { s.dir with lines } }
  let s := s.mapCores fun _ c => { c with reqs := c.reqs.map fun q => { q with unreached := q.unreached.filter fun x => x ≠ h } }
  lost.foldl markGrain (lost.foldl State.dropOwner s)
/-- The coordinator declares a node dead: its epoch advances, its traffic is refused, and the homes apply R238. -/
def execDeclarationConfirm (n : Nat) (s : State) : Out :=
  if livePeer s n then
    let f := newEpoch { s.fabric with dead := addOnce s.fabric.dead n, silent := Sparse.set 0 s.fabric.silent n 0 } n
    .next (countEvent (dropHolder { s with fabric := f } (.node n)) ctrDeclarations)
  else .next s
/-- A declared node rejoins after its reset, under a new epoch; its first access to a home raises LOST (R238, R416). -/
def execNodeRejoin (n : Nat) (s : State) : Out :=
  if s.fabric.dead.contains n then
    let f := newEpoch { s.fabric with dead := s.fabric.dead.filter fun m => m ≠ n } n
    let homes := (List.range (chipletsOf s.build)).map fun c => (n, c)
    .next { s with fabric := f, dir := { s.dir with returned := homes.foldl addOnce s.dir.returned } }
  else .next s

end Sys2Proof.Machine
end

