-- ==== Sys2Proof/Machine/FloatOps.lean ====
section
/-! DEFINITION. Floating point, packed, dot, special-function, conversion and random instructions (R110 to R131). -/

namespace Sys2Proof.Machine

/-! ### FP32 (R114 to R118) -/

/-- FADD (R114). -/
def execFadd (x : LR) (s : State) : Out := lrFlagOp false x s fun a b _ => opFadd a b
/-- FSUB (R114). -/
def execFsub (x : LR) (s : State) : Out := lrFlagOp false x s fun a b _ => opFsub a b
/-- FMUL (R114). -/
def execFmul (x : LR) (s : State) : Out := lrFlagOp false x s fun a b _ => opFmul a b
/-- FSCALE (R118). -/
def execFscale (x : LR) (s : State) : Out := lrFlagOp false x s fun a b _ => opFscale a b
/-- HADD2 (R119). -/
def execHadd2 (x : LR) (s : State) : Out := lrFlagOp false x s fun a b _ => opAdd2 fp16 a b
/-- HMUL2 (R119). -/
def execHmul2 (x : LR) (s : State) : Out := lrFlagOp false x s fun a b _ => opMul2 fp16 a b
/-- HMAX2 (R119). -/
def execHmax2 (x : LR) (s : State) : Out := lrFlagOp false x s fun a b _ => opMax2 fp16 a b
/-- BADD2 (R119). -/
def execBadd2 (x : LR) (s : State) : Out := lrFlagOp false x s fun a b _ => opAdd2 bf16 a b
/-- BMUL2 (R119). -/
def execBmul2 (x : LR) (s : State) : Out := lrFlagOp false x s fun a b _ => opMul2 bf16 a b
/-- BMAX2 (R119). -/
def execBmax2 (x : LR) (s : State) : Out := lrFlagOp false x s fun a b _ => opMax2 bf16 a b
/-- FFMA (R116; log 81). -/
def execFfma (x : LR) (s : State) : Out := lrFlagOp true x s fun a b d => opFma false false a b d
/-- FFMS (R116). -/
def execFfms (x : LR) (s : State) : Out := lrFlagOp true x s fun a b d => opFma false true a b d
/-- FNMA (R116). -/
def execFnma (x : LR) (s : State) : Out := lrFlagOp true x s fun a b d => opFma true true a b d
/-- FNMS (R116). -/
def execFnms (x : LR) (s : State) : Out := lrFlagOp true x s fun a b d => opFma true false a b d
/-- HFMA2 (R119). -/
def execHfma2 (x : LR) (s : State) : Out := lrFlagOp true x s fun a b d => opFma2 fp16 a b d
/-- BFMA2 (R119). -/
def execBfma2 (x : LR) (s : State) : Out := lrFlagOp true x s fun a b d => opFma2 bf16 a b d
/-- HDOT2 (R120). -/
def execHdot2 (x : LR) (s : State) : Out := lrFlagOp true x s fun a b d => opDot2 fp16 a b d
/-- BDOT2 (R120). -/
def execBdot2 (x : LR) (s : State) : Out := lrFlagOp true x s fun a b d => opDot2 bf16 a b d
/-- I8DOT4 (R120). -/
def execI8dot4 (x : LR) (s : State) : Out := lrOp3 true x s fun a b d => opDot4 true a b d
/-- U8DOT4 (R120). -/
def execU8dot4 (x : LR) (s : State) : Out := lrOp3 true x s fun a b d => opDot4 false a b d
/-- FMIN (R114). -/
def execFmin (x : LR) (s : State) : Out := lrOp x s fun a b => opFmin a b
/-- FMAX (R114). -/
def execFmax (x : LR) (s : State) : Out := lrOp x s fun a b => opFmax a b
/-- FCPSGN (R114). -/
def execFcpsgn (x : LR) (s : State) : Out := lrOp x s fun a b => opFcpsgn a b
/-- FEQ (R117). -/
def execFeq (x : LR) (s : State) : Out := lrOp x s fun a b => boolWord (fEqual (f32 a) (f32 b))
/-- FLT (R117). -/
def execFlt (x : LR) (s : State) : Out := lrOp x s fun a b => boolWord (fLess false (f32 a) (f32 b))
/-- FLE (R117). -/
def execFle (x : LR) (s : State) : Out := lrOp x s fun a b => boolWord (fLess false (f32 a) (f32 b) || fEqual (f32 a) (f32 b))
/-- FUN (R117). -/
def execFUn (x : LR) (s : State) : Out := lrOp x s fun a b => boolWord (f32 a == .nan || f32 b == .nan)
/-- FABS (R115). -/
def execFabs (x : LU) (s : State) : Out := luOp x s fun a => opFabs a
/-- FNEG (R115). -/
def execFneg (x : LU) (s : State) : Out := luOp x s fun a => opFneg a
/-- FCLASS (R118). -/
def execFclass (x : LU) (s : State) : Out := luOp x s fun a => opFclass a
/-- FGETEXP (R118). -/
def execFgetexp (x : LU) (s : State) : Out := luOp x s fun a => opFgetexp a

/-! ### Special functions (R112, R113, R121, R122) -/

/-- Lanes of the groups of a pack, each with its full width (R112, R137). -/
def packLanes (s : State) (l : List GRef) : Nat := (l.map fun r => match s.team r.team with | some t => t.width | none => 0).sum
/-- Cycles the special-function pipe takes for the groups of a pack (R112). -/
def sfuCycles (s : State) (l : List GRef) : Nat := (packLanes s l + 15) / 16
/-- The pack that issues: a group that issues alone is a pack of lane pipe 0. -/
def Core.packNow (k : Core) (r : GRef) : Pack := k.pack.getD ⟨0, [r], false⟩
/-- The pack of an instruction is presented to the special-function pipe: it enters when the pipe is free and lane
pipe 0 holds none before it, else its lane pipe holds it (R113). -/
def enterSfu (c : Ctx) (s : State) : State :=
  s.adjCore c.t.core fun k =>
    let p := k.packNow c.r
    if p.shown then k
    else
      let k : Core := { k with pack := k.pack.map fun q => { q with shown := true } }
      if k.sfuUntil ≤ s.clock ∧ (p.pipe = 0 ∨ Sparse.get [] k.sfuHeld 0 = []) then
        { k with sfuUntil := s.clock + sfuCycles s p.groups }
      else { k with sfuHeld := Sparse.set [] k.sfuHeld p.pipe p.groups }

/-- An SFU instruction: a deferred result whose flags are set when it lands (R111, R121). -/
def sfuOp (x : LU) (s : State) (f : Word → Word × FFlags) : Out :=
  issue s (LU.names x) 4 x.s false fun c =>
    let val := fun L => f (c.g.readLane L x.a.toNat)
    .ok (enterSfu c (deferLanes c x.d.toNat 1 (fun L => [(val L).1]) (orFlags (c.I.map fun L => (val L).2)) c.s))

/-- RCP (R122). -/
def execRcp (x : LU) (s : State) : Out := sfuOp x s sfuRcp
/-- RSQ (R122). -/
def execRsq (x : LU) (s : State) : Out := sfuOp x s sfuRsq
/-- SQRT (R122). -/
def execSqrt (x : LU) (s : State) : Out := sfuOp x s sfuSqrt
/-- EXP2 (R122). -/
def execExp2 (x : LU) (s : State) : Out := sfuOp x s sfuExp2
/-- LOG2 (R122). -/
def execLog2 (x : LU) (s : State) : Out := sfuOp x s sfuLog2
/-- SIN (R122). -/
def execSin (x : LU) (s : State) : Out := sfuOp x s (sfuTrig false)
/-- COS (R122). -/
def execCos (x : LU) (s : State) : Out := sfuOp x s (sfuTrig true)
/-- TANH (R122). -/
def execTanh (x : LU) (s : State) : Out := sfuOp x s sfuTanh

/-- A held pack enters the pipe once it is free, that of lane pipe 0 first (R113). -/
def execSfuEnter (core : Nat) (s : State) : Out :=
  match (s.core core).sfuHeld with
  | [] => .next s
  | (_, l) :: rest =>
    if (s.core core).sfuUntil ≤ s.clock then
      .next (s.adjCore core fun k => { k with sfuHeld := rest, sfuUntil := s.clock + sfuCycles s l })
    else .next s

/-! ### The fused exponent-sum sequence (R123 to R125) -/

/-- A trap of word k of a fused sequence (R125). -/
def fusedTrap (c : Ctx) (cause : Cause) (k : Nat) : Res := .trap (c.mkTrap cause 0 (BitVec.ofNat 32 (2 ^ 31 + k * 2 ^ 29)))

/-- The sources of the four words that no earlier word writes, and all they name. -/
def fusedNames (x : Fused) : List Names :=
  [Names.add (writesV [x.vm.toNat]) (readsV [x.vm.toNat, x.vx.toNat]),
   Names.add (writesV [x.vt.toNat, x.vm.toNat]) (readsV [x.vx.toNat]), writesV [x.vt.toNat],
   Names.add (writesV [x.vs.toNat, x.vt.toNat]) (readsV [x.vs.toNat])]

/-- One lane of the sequence: m, t and the new sum, with the flags of the four words. -/
def fusedLane (m x y : Word) : Word × Word × Word × FFlags :=
  let m' := opFmax m x
  let d := opFsub x m'
  let e := sfuExp2 d.1
  let a := opFadd y e.1
  (m', e.1, a.1, d.2 ||| e.2 ||| a.2)

/-- FMAX, FSUB, EXP2 and FADD as one unit, with EXP2 landed; its pack takes the special-function pipe (R112, R124). -/
def execFusedExpSum (x : Fused) (s : State) : Out :=
  issue s {} 16 x.s false fun c =>
    match indexOf (unsettled c.g) (fusedNames x), indexOf (sourceBad c.g c.I) (fusedNames x) with
    | some k, some j => if k ≤ j then fusedTrap c cUnsettled k else fusedTrap c cSoft j
    | some k, none => fusedTrap c cUnsettled k
    | none, some j => fusedTrap c cSoft j
    | none, none =>
      let val := fun L => fusedLane (c.g.readLane L x.vm.toNat) (c.g.readLane L x.vx.toNat) (c.g.readLane L x.vs.toNat)
      let s := writeLanes c x.vm.toNat (fun L => (val L).1) c.s
      let s := writeLanes c x.vt.toNat (fun L => (val L).2.1) s
      let s := writeLanes c x.vs.toNat (fun L => (val L).2.2.1) s
      .ok (enterSfu c (raiseFlags c (orFlags (c.I.map fun L => (val L).2.2.2)) s))

/-! ### Conversion (R126 to R130) -/

/-- Convert elements in ascending order, advancing the stochastic state once each under RS (R70, R130). -/
def convRun (x : Conv) : Word → List Nat → List Nat × FFlags × Word
  | st, [] => ([], 0, st)
  | st, e :: es =>
    let st := if x.rnd = .rs then stochNext st else st
    let r := convElem x.fmtD x.fmtS x.rnd x.sat st e
    let rest := convRun x st es
    (r.1 :: rest.1, r.2 ||| rest.2.1, rest.2.2)

/-- Write n registers from d on, the flags and the stochastic states of the active lanes. -/
def convWrite (c : Ctx) (d : Nat) (f : Nat → List Word × FFlags × Word) (s : State) : State :=
  let s := s.adjGroup c.r fun g => c.I.foldl (fun g L =>
    let g := (f L).1.zipIdx.foldl (fun g wi => g.writeLane L (d + wi.2) wi.1) g
    g.adjLane L fun l => { l with rng := (f L).2.2 }) g
  raiseFlags c (orFlags (c.I.map fun L => (f L).2.1)) s

/-- CVT (R128). -/
def execCvt (x : Conv) (s : State) : Out :=
  issue s (Names.add (writesV [x.d.toNat]) (readsV [x.a.toNat])) 8 x.s false fun c =>
    .ok (convWrite c x.d.toNat (fun L =>
      let r := convRun x (c.g.lane L).rng [elemOf x.fmtS [c.g.readLane L x.a.toNat] 0]
      ([placeElem x.fmtD (r.1.headD 0)], r.2)) c.s)

/-- PCVT (R129). -/
def execPcvt (x : Conv) (s : State) : Out :=
  issue s (Names.add (writesV (runOf x.d.toNat x.runD)) (readsV (runOf x.a.toNat x.runS))) 8 x.s false fun c =>
    .ok (convWrite c x.d.toNat (fun L =>
      let src := (runOf x.a.toNat x.runS).map fun v => c.g.readLane L v
      let r := convRun x (c.g.lane L).rng ((List.range x.count).map (elemOf x.fmtS src))
      let packed := packElems x.fmtD.bits r.1
      ((List.range x.runD).map fun k => BitVec.ofNat 32 (packed / 2 ^ (32 * k)), r.2)) c.s)

/-! ### Random numbers (R131) -/

/-- SEED: a result of 0 is stored as 0x6A09_E667 (R70). -/
def execSeed (x : LSeed) (s : State) : Out :=
  issue s (Names.add (readsV [x.a.toNat]) (Src.names x.b)) 4 x.s false fun c =>
    .ok (c.s.adjGroup c.r fun g => c.I.foldl (fun g L =>
      let v := c.g.readLane L x.a.toNat ^^^ c.g.src L x.b
      g.adjLane L fun l => { l with rng := if v = 0 then 0x6A09E667 else v }) g)

/-- RAND: advance the state, then write it (R131). -/
def execRand (x : LDst) (s : State) : Out :=
  issue s (writesV [x.d.toNat]) 4 x.s false fun c =>
    .ok (c.s.adjGroup c.r fun g => c.I.foldl (fun g L =>
      let v := stochNext (c.g.lane L).rng
      (g.adjLane L fun l => { l with rng := v }).writeLane L x.d.toNat v) g)

end Sys2Proof.Machine
end

