-- ==== Sys2Proof/Machine/Integer.lean ====
section
/-! DEFINITION. Integer, address and move instructions of both sets (R92 to R109). -/

namespace Sys2Proof.Machine

/-! ### Lane arithmetic, logic, compare and move (R94 to R98) -/

/-- ADD (R94). -/
def execAdd (x : LR) (s : State) : Out := lrOp x s fun a b => a + b
/-- SUB (R94). -/
def execSub (x : LR) (s : State) : Out := lrOp x s fun a b => a - b
/-- MIN (R94). -/
def execMin (x : LR) (s : State) : Out := lrOp x s fun a b => fMin a b
/-- MAX (R94). -/
def execMax (x : LR) (s : State) : Out := lrOp x s fun a b => fMax a b
/-- MINU (R94). -/
def execMinu (x : LR) (s : State) : Out := lrOp x s fun a b => fMinU a b
/-- MAXU (R94). -/
def execMaxu (x : LR) (s : State) : Out := lrOp x s fun a b => fMaxU a b
/-- AND (R94). -/
def execAnd (x : LR) (s : State) : Out := lrOp x s fun a b => a &&& b
/-- OR (R94). -/
def execOr (x : LR) (s : State) : Out := lrOp x s fun a b => a ||| b
/-- XOR (R94). -/
def execXor (x : LR) (s : State) : Out := lrOp x s fun a b => a ^^^ b
/-- ANDN (R94). -/
def execAndn (x : LR) (s : State) : Out := lrOp x s fun a b => a &&& ~~~ b
/-- SEQ (R94). -/
def execSeq (x : LR) (s : State) : Out := lrOp x s fun a b => boolWord (a == b)
/-- SNE (R94). -/
def execSne (x : LR) (s : State) : Out := lrOp x s fun a b => boolWord (a != b)
/-- SLT (R94). -/
def execSlt (x : LR) (s : State) : Out := lrOp x s fun a b => boolWord (a.slt b)
/-- SLTU (R94). -/
def execSltu (x : LR) (s : State) : Out := lrOp x s fun a b => boolWord (a.ult b)
/-- MUL (R95). -/
def execMul (x : LR) (s : State) : Out := lrOp x s fun a b => a * b
/-- MULHI (R95). -/
def execMulhi (x : LR) (s : State) : Out := lrOp x s fun a b => fMulHi a b
/-- MULHIU (R95). -/
def execMulhiu (x : LR) (s : State) : Out := lrOp x s fun a b => fMulHiU a b
/-- SHL (R96). -/
def execShl (x : LR) (s : State) : Out := lrOp x s fun a b => fShl a (shAmt b)
/-- SHR (R96). -/
def execShr (x : LR) (s : State) : Out := lrOp x s fun a b => fShr a (shAmt b)
/-- SAR (R96). -/
def execSar (x : LR) (s : State) : Out := lrOp x s fun a b => fSar a (shAmt b)
/-- ROL (R96). -/
def execRol (x : LR) (s : State) : Out := lrOp x s fun a b => fRol a (shAmt b)
/-- BFEU (R98). -/
def execBfeu (x : LR) (s : State) : Out := lrOp x s fun a b => fBfeu a b
/-- BFES (R98). -/
def execBfes (x : LR) (s : State) : Out := lrOp x s fun a b => fBfes a b
/-- MAD (R95). -/
def execMad (x : LR) (s : State) : Out := lrOp3 true x s fun a b d => d + a * b
/-- SEL (R94). -/
def execSel (x : LR) (s : State) : Out := lrOp3 true x s fun a b d => if d ≠ 0 then a else b
/-- BFI (R98). -/
def execBfi (x : LR) (s : State) : Out := lrOp3 true x s fun a b d => fBfi a b d
/-- PRMT (R98). -/
def execPrmt (x : LR) (s : State) : Out := lrOp3 true x s fun a b d => fPrmt a b d
/-- ABS (R94). -/
def execAbs (x : LU) (s : State) : Out := luOp x s fun a => fAbs a
/-- NEG (R94). -/
def execNeg (x : LU) (s : State) : Out := luOp x s fun a => 0 - a
/-- MOV (R94). -/
def execMov (x : LU) (s : State) : Out := luOp x s fun a => a
/-- POPC (R97). -/
def execPopc (x : LU) (s : State) : Out := luOp x s fun a => fPopc a
/-- CLZ (R97). -/
def execClz (x : LU) (s : State) : Out := luOp x s fun a => fClz a
/-- CTZ (R97). -/
def execCtz (x : LU) (s : State) : Out := luOp x s fun a => fCtz a
/-- BREV (R97). -/
def execBrev (x : LU) (s : State) : Out := luOp x s fun a => fBrev a

/-! ### Pairs (R99) -/

/-- ADD64 (R99). -/
def execAdd64 (x : LR) (s : State) : Out := lrPairOp x s fun a b => a + b
/-- SUB64 (R99). -/
def execSub64 (x : LR) (s : State) : Out := lrPairOp x s fun a b => a - b
/-- SHL64 (R99). -/
def execShl64 (x : LR) (s : State) : Out := lrShift64 x s fun a k => a <<< k
/-- SHR64 (R99). -/
def execShr64 (x : LR) (s : State) : Out := lrShift64 x s fun a k => a >>> k

/-! ### Immediates and constants (R100 to R102) -/

/-- ADDI (R100). -/
def execAddi (x : LImm10) (s : State) : Out := limmOp x.s x.d x.a s fun a => a + x.imm.signExtend 32
/-- SHLI (R100). -/
def execShli (x : LShift) (s : State) : Out := limmOp x.s x.d x.a s fun a => fShl a x.n.toNat
/-- SHRI (R100). -/
def execShri (x : LShift) (s : State) : Out := limmOp x.s x.d x.a s fun a => fShr a x.n.toNat
/-- SARI (R100). -/
def execSari (x : LShift) (s : State) : Out := limmOp x.s x.d x.a s fun a => fSar a x.n.toNat
/-- ROLI (R100). -/
def execRoli (x : LShift) (s : State) : Out := limmOp x.s x.d x.a s fun a => fRol a x.n.toNat
/-- ANDI (R100). -/
def execAndi (x : LImm8) (s : State) : Out := limmOp x.s x.d x.a s fun a => a &&& x.imm.setWidth 32
/-- ORI (R100). -/
def execOri (x : LImm8) (s : State) : Out := limmOp x.s x.d x.a s fun a => a ||| x.imm.setWidth 32
/-- XORI (R100). -/
def execXori (x : LImm8) (s : State) : Out := limmOp x.s x.d x.a s fun a => a ^^^ x.imm.setWidth 32
/-- ANDNI (R100). -/
def execAndni (x : LImm8) (s : State) : Out := limmOp x.s x.d x.a s fun a => a &&& ~~~ (x.imm.setWidth 32)

/-- Write one constant per active lane. -/
def lconst (settle : Bool) (len : Nat) (d : BitVec 7) (s : State) (f : Ctx → Nat → Word) : Out :=
  issue s (writesV [d.toNat]) len settle false fun c => .ok (writeLanes c d.toNat (f c) c.s)

/-- MOVI (R101). -/
def execMovi (x : LImm17) (s : State) : Out := lconst x.s 4 x.d s fun _ _ => x.imm.signExtend 32
/-- MOVW (R101). -/
def execMovw (x : LMovw) (s : State) : Out := lconst x.s 8 x.d s fun _ _ => x.imm

/-- The lane-variant special registers (R38, R102). -/
def laneSpecial (c : Ctx) (n : Nat) (L : Nat) : Word :=
  match n with
  | 0 => BitVec.ofNat 32 L
  | 1 => BitVec.ofNat 32 (L % c.g.tile)
  | 2 => BitVec.ofNat 32 (c.r.grp * c.t.width + L)
  | 3 => BitVec.ofNat 32 (2 ^ L - 1)
  | _ => BitVec.ofNat 32 ((2 ^ L - 1) / 2 ^ 32)
/-- LSRD (R102). -/
def execLsrd (x : LSrd) (s : State) : Out := lconst x.s 4 x.d s fun c L => laneSpecial c x.n.toNat L

/-! ### Cross-lane reads into uniform registers (R103) -/

/-- The lowest active lane. -/
def Ctx.first (c : Ctx) : Nat := c.I.headD 0

/-- Whether the second source of RDLANE has wrong parity where it is read, in the first lane (R91, R103). -/
def Ctx.firstBad (c : Ctx) : Src → Bool
  | .lane r => lanesBad c.g [c.first] r.toNat
  | .uni _ => false
/-- RDLANE (R103); it reads one lane's registers (R91). -/
def execRdlane (x : XRead) (s : State) : Out :=
  issue s (Names.add (writesU [x.d.toNat]) (Names.add (writesV [x.a.toNat]) (Src.named x.b))) 4 x.s false fun c =>
    let idx := (c.g.src c.first x.b).toNat % 64 % c.t.width
    if c.firstBad x.b || lanesBad c.g [idx] x.a.toNat then .trap (c.mkTrap cSoft 0 0)
    else .ok (writeU c x.d.toNat (c.g.readLane idx x.a.toNat) c.s)
/-- FIRSTLANE (R103); it reads one lane's register (R91). -/
def execFirstlane (x : XFirst) (s : State) : Out :=
  issue s (Names.add (writesU [x.d.toNat]) (writesV [x.a.toNat])) 4 x.s false fun c =>
    if lanesBad c.g [c.first] x.a.toNat then .trap (c.mkTrap cSoft 0 0)
    else .ok (writeU c x.d.toNat (c.g.readLane c.first x.a.toNat) c.s)

/-! ### The uniform set (R104 to R108) -/

/-- SALU ADD (R105). -/
def execSaluAdd (x : UR) (s : State) : Out := urOp x s fun a b => a + b
/-- SALU SUB (R105). -/
def execSaluSub (x : UR) (s : State) : Out := urOp x s fun a b => a - b
/-- SALU MIN (R105). -/
def execSaluMin (x : UR) (s : State) : Out := urOp x s fun a b => fMin a b
/-- SALU MAX (R105). -/
def execSaluMax (x : UR) (s : State) : Out := urOp x s fun a b => fMax a b
/-- SALU MINU (R105). -/
def execSaluMinu (x : UR) (s : State) : Out := urOp x s fun a b => fMinU a b
/-- SALU MAXU (R105). -/
def execSaluMaxu (x : UR) (s : State) : Out := urOp x s fun a b => fMaxU a b
/-- SALU AND (R105). -/
def execSaluAnd (x : UR) (s : State) : Out := urOp x s fun a b => a &&& b
/-- SALU OR (R105). -/
def execSaluOr (x : UR) (s : State) : Out := urOp x s fun a b => a ||| b
/-- SALU XOR (R105). -/
def execSaluXor (x : UR) (s : State) : Out := urOp x s fun a b => a ^^^ b
/-- SALU ANDN (R105). -/
def execSaluAndn (x : UR) (s : State) : Out := urOp x s fun a b => a &&& ~~~ b
/-- SALU SEQ (R105). -/
def execSaluSeq (x : UR) (s : State) : Out := urOp x s fun a b => boolWord (a == b)
/-- SALU SNE (R105). -/
def execSaluSne (x : UR) (s : State) : Out := urOp x s fun a b => boolWord (a != b)
/-- SALU SLT (R105). -/
def execSaluSlt (x : UR) (s : State) : Out := urOp x s fun a b => boolWord (a.slt b)
/-- SALU SLTU (R105). -/
def execSaluSltu (x : UR) (s : State) : Out := urOp x s fun a b => boolWord (a.ult b)
/-- SALU MUL (R105). -/
def execSaluMul (x : UR) (s : State) : Out := urOp x s fun a b => a * b
/-- SALU MULHI (R105). -/
def execSaluMulhi (x : UR) (s : State) : Out := urOp x s fun a b => fMulHi a b
/-- SALU MULHIU (R105). -/
def execSaluMulhiu (x : UR) (s : State) : Out := urOp x s fun a b => fMulHiU a b
/-- SALU SHL (R105). -/
def execSaluShl (x : UR) (s : State) : Out := urOp x s fun a b => fShl a (shAmt b)
/-- SALU SHR (R105). -/
def execSaluShr (x : UR) (s : State) : Out := urOp x s fun a b => fShr a (shAmt b)
/-- SALU SAR (R105). -/
def execSaluSar (x : UR) (s : State) : Out := urOp x s fun a b => fSar a (shAmt b)
/-- SALU ROL (R105). -/
def execSaluRol (x : UR) (s : State) : Out := urOp x s fun a b => fRol a (shAmt b)
/-- SALU BFEU (R105). -/
def execSaluBfeu (x : UR) (s : State) : Out := urOp x s fun a b => fBfeu a b
/-- SALU BFES (R105). -/
def execSaluBfes (x : UR) (s : State) : Out := urOp x s fun a b => fBfes a b
/-- SALU MAD (R105). -/
def execSaluMad (x : UR) (s : State) : Out := urOp3 true x s fun a b d => d + a * b
/-- SALU SEL (R105). -/
def execSaluSel (x : UR) (s : State) : Out := urOp3 true x s fun a b d => if d ≠ 0 then a else b
/-- SALU BFI (R105). -/
def execSaluBfi (x : UR) (s : State) : Out := urOp3 true x s fun a b d => fBfi a b d
/-- SALU PRMT (R105). -/
def execSaluPrmt (x : UR) (s : State) : Out := urOp3 true x s fun a b d => fPrmt a b d
/-- SALU ABS (R105). -/
def execSaluAbs (x : UU) (s : State) : Out := uuOp x s fun a => fAbs a
/-- SALU NEG (R105). -/
def execSaluNeg (x : UU) (s : State) : Out := uuOp x s fun a => 0 - a
/-- SALU MOV (R105). -/
def execSaluMov (x : UU) (s : State) : Out := uuOp x s fun a => a
/-- SALU POPC (R105). -/
def execSaluPopc (x : UU) (s : State) : Out := uuOp x s fun a => fPopc a
/-- SALU CLZ (R105). -/
def execSaluClz (x : UU) (s : State) : Out := uuOp x s fun a => fClz a
/-- SALU CTZ (R105). -/
def execSaluCtz (x : UU) (s : State) : Out := uuOp x s fun a => fCtz a
/-- SALU BREV (R105). -/
def execSaluBrev (x : UU) (s : State) : Out := uuOp x s fun a => fBrev a
/-- SALU64 ADD64 (R106). -/
def execSalu64Add64 (x : UR) (s : State) : Out := urPairOp x s fun a b => a + b
/-- SALU64 SUB64 (R106). -/
def execSalu64Sub64 (x : UR) (s : State) : Out := urPairOp x s fun a b => a - b
/-- SALU64 SHL64 (R106). -/
def execSalu64Shl64 (x : UR) (s : State) : Out := urShift64 x s fun a k => a <<< k
/-- SALU64 SHR64 (R106). -/
def execSalu64Shr64 (x : UR) (s : State) : Out := urShift64 x s fun a k => a >>> k

/-- SADDI (R107). -/
def execSaddi (x : UImm12) (s : State) : Out := uimmOp x.s x.d x.a s fun a => a + x.imm.signExtend 32
/-- SANDI (R107). -/
def execSandi (x : UImm12) (s : State) : Out := uimmOp x.s x.d x.a s fun a => a &&& x.imm.setWidth 32
/-- SORI (R107). -/
def execSori (x : UImm12) (s : State) : Out := uimmOp x.s x.d x.a s fun a => a ||| x.imm.setWidth 32
/-- SXORI (R107). -/
def execSxori (x : UImm12) (s : State) : Out := uimmOp x.s x.d x.a s fun a => a ^^^ x.imm.setWidth 32
/-- SSLTI (R107). -/
def execSslti (x : UImm12) (s : State) : Out := uimmOp x.s x.d x.a s fun a => boolWord (a.slt (x.imm.signExtend 32))
/-- SSHLI (R107). -/
def execSshli (x : UShift) (s : State) : Out := uimmOp x.s x.d x.a s fun a => fShl a x.n.toNat
/-- SSHRI (R107). -/
def execSshri (x : UShift) (s : State) : Out := uimmOp x.s x.d x.a s fun a => fShr a x.n.toNat
/-- SSARI (R107). -/
def execSsari (x : UShift) (s : State) : Out := uimmOp x.s x.d x.a s fun a => fSar a x.n.toNat
/-- SROLI (R107). -/
def execSroli (x : UShift) (s : State) : Out := uimmOp x.s x.d x.a s fun a => fRol a x.n.toNat

/-- Write one constant to a uniform register. -/
def uconst (settle : Bool) (len : Nat) (d : BitVec 6) (v : Word) (s : State) : Out :=
  issue s (writesU [d.toNat]) len settle false fun c => .ok (writeU c d.toNat v c.s)
/-- SMOVI (R108). -/
def execSmovi (x : UImm18) (s : State) : Out := uconst x.s 4 x.d (x.imm.signExtend 32) s
/-- SMOVW (R108). -/
def execSmovw (x : UMovw) (s : State) : Out := uconst x.s 8 x.d x.imm s

end Sys2Proof.Machine
end

