-- ==== Sys2Proof/Machine/Mgmt.lean ====
section
/-! DEFINITION. Reset from the host's side (R419), boot (R420), measurements (R421) and lifetime counters (R423). -/

namespace Sys2Proof.Machine

/-! ### Host reset (R419) -/

/-- RSTISO. -/
def rstIso (s : State) : Bool := s.mgt.boot.getLsbD 0
/-- Whether an interface is fed from the host. -/
def hostBound (s : State) (vif : Nat) : Bool := !((Sparse.get 0 s.vifs vif).getLsbD 62)
/-- Drop the fault state of interfaces: their entries, their deadlines and their teardown and invalidation registers,
with the host function's, and the host's latches. -/
def dropVifFaults (s : State) (p : Nat → Bool) : State :=
  let fs := s.faults
  let keep := fun (l : List FEntry) => l.filter fun e => !(p e.vif)
  { s with
    faults := { fs with
      queues := Sparse.mapKey FQueue.empty (fun _ (q : FQueue) => { q with entries := keep q.entries }) fs.queues
      host := keep fs.host, popped := keep fs.popped, arm := false, latch := 0, doneLow := 0
      deadline := fs.deadline.filter fun e => !(p e.1) }
    trn := { s.trn with
      inva := s.trn.inva.filter fun e => !(e.1 == hostMap || p e.1), invb := s.trn.invb.filter fun e => !(e.1 == hostMap || p e.1)
      td := s.trn.td.filter fun e => !(e.1 / 4 == hostMap || p (e.1 / 4)) } }
/-- Drop the window entries and waiting requests of interfaces. -/
def dropVifWindows (s : State) (p : Nat → Bool) : State :=
  { s with fabric := { s.fabric with
    windows := s.fabric.windows.filter fun e => !(p (e.1 / 512)), waiting := s.fabric.waiting.filter fun w => !(p w.req.vif) } }
/-- With RSTISO: the host-bound interfaces are torn down and reset; the rest goes on. -/
def resetHostSide (s : State) : State :=
  let p := fun (v : Nat) => hostBound s v
  let t := ((List.range 64).filter p).foldl teardownVif s
  let t := dropVifWindows (dropVifFaults t p) p
  { t with vifs := t.vifs.filter fun e => !(p e.1) }
/-- Without: the whole package resets; what is fused or non-volatile stays. The schedule and the count of free values
are the model's own. -/
def resetPackage (s : State) : State :=
  let r := State.resetOf s.build
  { r with
    actor := s.actor, moves := s.moves, free := s.free
    mgt := { r.mgt with counters := s.mgt.counters, rsaHash := s.mgt.rsaHash, slhHash := s.mgt.slhHash
                        minVersion := s.mgt.minVersion } }
/-- A PCIe hot reset or link-down of the upstream port (R419). -/
def execHostReset (s : State) : Out := .next (if rstIso s then resetHostSide s else resetPackage s)

/-! ### Boot and measurements (R420, R421) -/

/-- The 48 bytes of a measurement register, as it is hashed. -/
def measBytes (v : BitVec 384) : List Byte := leBytes 48 v.toNat
/-- Extend measurement register i. -/
def extendMeas (s : State) (i : Nat) (m : List Byte) : State :=
  { s with mgt := { s.mgt with meas := adjAt (fun v => Config.sha384 (measBytes v ++ m)) s.mgt.meas i } }
/-- The verification of R420: both signatures, both keys' hashes, the security version. -/
def bootVerifies (s : State) (x : BootImage) : Bool :=
  Config.rsaVerifies x.image x.rsaKey && Config.slhVerifies x.image x.slhKey
    && Config.sha384 x.rsaKey == s.mgt.rsaHash && Config.sha384 x.slhKey == s.mgt.slhHash
    && decide (s.mgt.minVersion ≤ x.version)
/-- A measured figure as the table gives it: rounded up to a multiple of 4 (R23). -/
def roundUp4 (v : Word) : Word := (v + 3) &&& 0xFFFFFFFC
/-- Firmware writes the Ridge table for the pod as it is: every cost is measured anew, a free value (R21 to R23; log
8). -/
def writeRidge (s : State) : State :=
  { s with ridge := ridgeTable s.build s.fabric.pod s.fabric.pods fun n k => roundUp4 (Config.ridgeFigure s.free n k)
           free := s.free + 1 }
/-- The links have become a pod of so many packages, with so many pods reachable: firmware rewrites the table while no
workings runs (R21, R23). -/
def linksChange (s : State) (pod pods : Nat) : State :=
  if 1 ≤ pod ∧ pod ≤ 512 ∧ 1 ≤ pods ∧ s.insts = [] ∧ s.mgt.started = true then
    writeRidge { s with fabric := { s.fabric with pod, pods } }
  else s

/-- BOOT: a verified image starts the service cores, with registers 0 to 6 measured, RSTISO taken and the Ridge table
written; a failure leaves the part in RECOVERY and is reported in MGT_BOOT bits 15:8 (R23, R420, R421). -/
def execBoot (x : BootImage) (s : State) : Out :=
  if s.mgt.started then .next s
  else if bootVerifies s x then
    let s := (x.segments.take 7).zipIdx.foldl (fun s m => extendMeas s m.2 m.1) s
    .next (writeRidge { s with mgt := { s.mgt with boot := if x.rstIso then 1 else 0, started := true } })
  else
    .next { s with
      trn := { s.trn with normal := false }, mgt := { s.mgt with boot := x.failCode.setWidth 32 <<< 8 } }

/-- Firmware reloads the Headframe microcode once the queues are held and every Headframe core is idle: the image is
verified, its microcode segment is measured again in register 4, and the Headframe cores are reset (R405, R421; log
98). -/
def reloadMicrocode (s : State) (x : BootImage) : State :=
  if s.lode.hold && (List.range (chipletsOf s.build)).all (headframeIdle s) && bootVerifies s x then
    let s := extendMeas s 4 (x.segments.getD 4 [])
    { s with harts := s.harts.map fun k => if k.role = 1 then Hart.reset k.role k.num else k }
  else s

/-- The SPDM responder serves a register, or firmware extends one of 7 to 15 (R421). -/
def execSpdmMeasurementRequest (x : SpdmReq) (s : State) : Out :=
  match x with
  | .read i => .next (if i < 16 then send s (.measurement i (s.mgt.meas.getD i 0)) else s)
  | .extend i m => .next (if 7 ≤ i ∧ i < 16 then extendMeas s i m else s)
/-- An SPDM vendor request reads a lifetime counter (R423). -/
def execSpdmCounterRead (i : Nat) (s : State) : Out := .next (send s (.counter i (Sparse.get 0 s.mgt.counters i)))

/-! ### Soft errors (R422, R423) -/

/-- A soft error strikes: the word is marked until it is written (R91, R169, R283, R422). -/
def strike (s : State) : Upset → State
  | .reg r L v => countEvent (s.adjGroup r fun g =>
      if L < g.lanes.length ∧ v < 128 then { g with badV := addOnce g.badV (L, v) } else g) ctrParity
  | .uni r u => countEvent (s.adjGroup r fun g =>
      if 0 < u ∧ u < 64 then { g with badU := addOnce g.badU u } else g) ctrParity
  | .tmem team w => s.adjTeam team fun t => if 4 * w < t.window then { t with badT := addOnce t.badT w } else t
  | .tile team z w => countEvent (s.adjTeam team fun t =>
      if z < t.ztiles ∧ w < 2048 then
        let x := t.tile z
        { t with tiles := Sparse.set Tile.empty t.tiles z { x with bad := addOnce x.bad w } }
      else t) ctrParity
  | .weight team b side w => s.adjTeam team fun t =>
      if b < 2 ∧ 0 < t.ztiles then
        let x := t.buf b
        let y : WBuf := if side then { x with badS := addOnce x.badS w } else { x with badE := addOnce x.badE w }
        { t with bufs := Sparse.set WBuf.empty t.bufs b y }
      else t
  | .hbm w =>
      if 4 * w < localBytes s.build then
        countEvent { s with badMem := addOnce s.badMem w } (ctrHbmLost (stackOf s.build (4 * w)))
      else s
  | .counted n => countEvent s n

end Sys2Proof.Machine
end

