-- ==== Sys2Proof/Machine/Dispatch.lean ====
section
/-! DEFINITION. Dispatch: one arm for each constructor, one meaning for each arm. -/

namespace Sys2Proof.Machine

/-- The meaning of an instruction. -/
def exec (i : Instr) (s : State) : Host.Outcome State Fault Refusal :=
  match i with
  | .add x => Sys2Proof.Machine.execAdd x s
  | .sub x => Sys2Proof.Machine.execSub x s
  | .min x => Sys2Proof.Machine.execMin x s
  | .max x => Sys2Proof.Machine.execMax x s
  | .minu x => Sys2Proof.Machine.execMinu x s
  | .maxu x => Sys2Proof.Machine.execMaxu x s
  | .abs x => Sys2Proof.Machine.execAbs x s
  | .neg x => Sys2Proof.Machine.execNeg x s
  | .mul x => Sys2Proof.Machine.execMul x s
  | .mulhi x => Sys2Proof.Machine.execMulhi x s
  | .mulhiu x => Sys2Proof.Machine.execMulhiu x s
  | .mad x => Sys2Proof.Machine.execMad x s
  | .and x => Sys2Proof.Machine.execAnd x s
  | .or x => Sys2Proof.Machine.execOr x s
  | .xor x => Sys2Proof.Machine.execXor x s
  | .andn x => Sys2Proof.Machine.execAndn x s
  | .shl x => Sys2Proof.Machine.execShl x s
  | .shr x => Sys2Proof.Machine.execShr x s
  | .sar x => Sys2Proof.Machine.execSar x s
  | .rol x => Sys2Proof.Machine.execRol x s
  | .popc x => Sys2Proof.Machine.execPopc x s
  | .clz x => Sys2Proof.Machine.execClz x s
  | .ctz x => Sys2Proof.Machine.execCtz x s
  | .brev x => Sys2Proof.Machine.execBrev x s
  | .bfeu x => Sys2Proof.Machine.execBfeu x s
  | .bfes x => Sys2Proof.Machine.execBfes x s
  | .bfi x => Sys2Proof.Machine.execBfi x s
  | .prmt x => Sys2Proof.Machine.execPrmt x s
  | .seq x => Sys2Proof.Machine.execSeq x s
  | .sne x => Sys2Proof.Machine.execSne x s
  | .slt x => Sys2Proof.Machine.execSlt x s
  | .sltu x => Sys2Proof.Machine.execSltu x s
  | .sel x => Sys2Proof.Machine.execSel x s
  | .mov x => Sys2Proof.Machine.execMov x s
  | .add64 x => Sys2Proof.Machine.execAdd64 x s
  | .sub64 x => Sys2Proof.Machine.execSub64 x s
  | .shl64 x => Sys2Proof.Machine.execShl64 x s
  | .shr64 x => Sys2Proof.Machine.execShr64 x s
  | .addi x => Sys2Proof.Machine.execAddi x s
  | .shli x => Sys2Proof.Machine.execShli x s
  | .shri x => Sys2Proof.Machine.execShri x s
  | .sari x => Sys2Proof.Machine.execSari x s
  | .roli x => Sys2Proof.Machine.execRoli x s
  | .andi x => Sys2Proof.Machine.execAndi x s
  | .ori x => Sys2Proof.Machine.execOri x s
  | .xori x => Sys2Proof.Machine.execXori x s
  | .andni x => Sys2Proof.Machine.execAndni x s
  | .movi x => Sys2Proof.Machine.execMovi x s
  | .movw x => Sys2Proof.Machine.execMovw x s
  | .lsrd x => Sys2Proof.Machine.execLsrd x s
  | .fadd x => Sys2Proof.Machine.execFadd x s
  | .fsub x => Sys2Proof.Machine.execFsub x s
  | .fmul x => Sys2Proof.Machine.execFmul x s
  | .fmin x => Sys2Proof.Machine.execFmin x s
  | .fmax x => Sys2Proof.Machine.execFmax x s
  | .fabs x => Sys2Proof.Machine.execFabs x s
  | .fneg x => Sys2Proof.Machine.execFneg x s
  | .fcpsgn x => Sys2Proof.Machine.execFcpsgn x s
  | .ffma x => Sys2Proof.Machine.execFfma x s
  | .ffms x => Sys2Proof.Machine.execFfms x s
  | .fnma x => Sys2Proof.Machine.execFnma x s
  | .fnms x => Sys2Proof.Machine.execFnms x s
  | .feq x => Sys2Proof.Machine.execFeq x s
  | .flt x => Sys2Proof.Machine.execFlt x s
  | .fle x => Sys2Proof.Machine.execFle x s
  | .fUn x => Sys2Proof.Machine.execFUn x s
  | .fclass x => Sys2Proof.Machine.execFclass x s
  | .fscale x => Sys2Proof.Machine.execFscale x s
  | .fgetexp x => Sys2Proof.Machine.execFgetexp x s
  | .hadd2 x => Sys2Proof.Machine.execHadd2 x s
  | .hmul2 x => Sys2Proof.Machine.execHmul2 x s
  | .hfma2 x => Sys2Proof.Machine.execHfma2 x s
  | .hmax2 x => Sys2Proof.Machine.execHmax2 x s
  | .badd2 x => Sys2Proof.Machine.execBadd2 x s
  | .bmul2 x => Sys2Proof.Machine.execBmul2 x s
  | .bfma2 x => Sys2Proof.Machine.execBfma2 x s
  | .bmax2 x => Sys2Proof.Machine.execBmax2 x s
  | .rcp x => Sys2Proof.Machine.execRcp x s
  | .rsq x => Sys2Proof.Machine.execRsq x s
  | .sqrt x => Sys2Proof.Machine.execSqrt x s
  | .exp2 x => Sys2Proof.Machine.execExp2 x s
  | .log2 x => Sys2Proof.Machine.execLog2 x s
  | .sin x => Sys2Proof.Machine.execSin x s
  | .cos x => Sys2Proof.Machine.execCos x s
  | .tanh x => Sys2Proof.Machine.execTanh x s
  | .fusedExpSum x => Sys2Proof.Machine.execFusedExpSum x s
  | .cvt x => Sys2Proof.Machine.execCvt x s
  | .pcvt x => Sys2Proof.Machine.execPcvt x s
  | .seed x => Sys2Proof.Machine.execSeed x s
  | .rand x => Sys2Proof.Machine.execRand x s
  | .hdot2 x => Sys2Proof.Machine.execHdot2 x s
  | .bdot2 x => Sys2Proof.Machine.execBdot2 x s
  | .i8dot4 x => Sys2Proof.Machine.execI8dot4 x s
  | .u8dot4 x => Sys2Proof.Machine.execU8dot4 x s
  | .bnz x => Sys2Proof.Machine.execBnz x s
  | .bz x => Sys2Proof.Machine.execBz x s
  | .jmpl x => Sys2Proof.Machine.execJmpl x s
  | .calll x => Sys2Proof.Machine.execCalll x s
  | .retl x => Sys2Proof.Machine.execRetl x s
  | .any x => Sys2Proof.Machine.execAny x s
  | .all x => Sys2Proof.Machine.execAll x s
  | .ballot x => Sys2Proof.Machine.execBallot x s
  | .uni x => Sys2Proof.Machine.execUni x s
  | .shflIdx x => Sys2Proof.Machine.execShflIdx x s
  | .shflUp x => Sys2Proof.Machine.execShflUp x s
  | .shflDown x => Sys2Proof.Machine.execShflDown x s
  | .shflXor x => Sys2Proof.Machine.execShflXor x s
  | .reduce x => Sys2Proof.Machine.execReduce x s
  | .scan x => Sys2Proof.Machine.execScan x s
  | .rdlane x => Sys2Proof.Machine.execRdlane x s
  | .firstlane x => Sys2Proof.Machine.execFirstlane x s
  | .ldt x => Sys2Proof.Machine.execLdt x s
  | .stt x => Sys2Proof.Machine.execStt x s
  | .att x => Sys2Proof.Machine.execAtt x s
  | .cltLoad x => Sys2Proof.Machine.execCltLoad x s
  | .cltStore x => Sys2Proof.Machine.execCltStore x s
  | .ld x => Sys2Proof.Machine.execLd x s
  | .st x => Sys2Proof.Machine.execSt x s
  | .ldo x => Sys2Proof.Machine.execLdo x s
  | .sto x => Sys2Proof.Machine.execSto x s
  | .stog x => Sys2Proof.Machine.execStog x s
  | .atom x => Sys2Proof.Machine.execAtom x s
  | .red x => Sys2Proof.Machine.execRed x s
  | .waita x => Sys2Proof.Machine.execWaita x s
  | .wakea x => Sys2Proof.Machine.execWakea x s
  | .mma x => Sys2Proof.Machine.execMma x s
  | .zrd x => Sys2Proof.Machine.execZrd x s
  | .zwr x => Sys2Proof.Machine.execZwr x s
  | .post x => Sys2Proof.Machine.execPost x s
  | .postTry x => Sys2Proof.Machine.execPostTry x s
  | .postWait x => Sys2Proof.Machine.execPostWait x s
  | .saluAdd x => Sys2Proof.Machine.execSaluAdd x s
  | .saluSub x => Sys2Proof.Machine.execSaluSub x s
  | .saluMin x => Sys2Proof.Machine.execSaluMin x s
  | .saluMax x => Sys2Proof.Machine.execSaluMax x s
  | .saluMinu x => Sys2Proof.Machine.execSaluMinu x s
  | .saluMaxu x => Sys2Proof.Machine.execSaluMaxu x s
  | .saluAbs x => Sys2Proof.Machine.execSaluAbs x s
  | .saluNeg x => Sys2Proof.Machine.execSaluNeg x s
  | .saluMul x => Sys2Proof.Machine.execSaluMul x s
  | .saluMulhi x => Sys2Proof.Machine.execSaluMulhi x s
  | .saluMulhiu x => Sys2Proof.Machine.execSaluMulhiu x s
  | .saluMad x => Sys2Proof.Machine.execSaluMad x s
  | .saluAnd x => Sys2Proof.Machine.execSaluAnd x s
  | .saluOr x => Sys2Proof.Machine.execSaluOr x s
  | .saluXor x => Sys2Proof.Machine.execSaluXor x s
  | .saluAndn x => Sys2Proof.Machine.execSaluAndn x s
  | .saluShl x => Sys2Proof.Machine.execSaluShl x s
  | .saluShr x => Sys2Proof.Machine.execSaluShr x s
  | .saluSar x => Sys2Proof.Machine.execSaluSar x s
  | .saluRol x => Sys2Proof.Machine.execSaluRol x s
  | .saluPopc x => Sys2Proof.Machine.execSaluPopc x s
  | .saluClz x => Sys2Proof.Machine.execSaluClz x s
  | .saluCtz x => Sys2Proof.Machine.execSaluCtz x s
  | .saluBrev x => Sys2Proof.Machine.execSaluBrev x s
  | .saluBfeu x => Sys2Proof.Machine.execSaluBfeu x s
  | .saluBfes x => Sys2Proof.Machine.execSaluBfes x s
  | .saluBfi x => Sys2Proof.Machine.execSaluBfi x s
  | .saluPrmt x => Sys2Proof.Machine.execSaluPrmt x s
  | .saluSeq x => Sys2Proof.Machine.execSaluSeq x s
  | .saluSne x => Sys2Proof.Machine.execSaluSne x s
  | .saluSlt x => Sys2Proof.Machine.execSaluSlt x s
  | .saluSltu x => Sys2Proof.Machine.execSaluSltu x s
  | .saluSel x => Sys2Proof.Machine.execSaluSel x s
  | .saluMov x => Sys2Proof.Machine.execSaluMov x s
  | .salu64Add64 x => Sys2Proof.Machine.execSalu64Add64 x s
  | .salu64Sub64 x => Sys2Proof.Machine.execSalu64Sub64 x s
  | .salu64Shl64 x => Sys2Proof.Machine.execSalu64Shl64 x s
  | .salu64Shr64 x => Sys2Proof.Machine.execSalu64Shr64 x s
  | .saddi x => Sys2Proof.Machine.execSaddi x s
  | .sandi x => Sys2Proof.Machine.execSandi x s
  | .sori x => Sys2Proof.Machine.execSori x s
  | .sxori x => Sys2Proof.Machine.execSxori x s
  | .sshli x => Sys2Proof.Machine.execSshli x s
  | .sshri x => Sys2Proof.Machine.execSshri x s
  | .ssari x => Sys2Proof.Machine.execSsari x s
  | .sroli x => Sys2Proof.Machine.execSroli x s
  | .sslti x => Sys2Proof.Machine.execSslti x s
  | .smovi x => Sys2Proof.Machine.execSmovi x s
  | .smovw x => Sys2Proof.Machine.execSmovw x s
  | .bra x => Sys2Proof.Machine.execBra x s
  | .call x => Sys2Proof.Machine.execCall x s
  | .jmpr x => Sys2Proof.Machine.execJmpr x s
  | .ret x => Sys2Proof.Machine.execRet x s
  | .exit x => Sys2Proof.Machine.execExit x s
  | .srd x => Sys2Proof.Machine.execSrd x s
  | .swr x => Sys2Proof.Machine.execSwr x s
  | .settile x => Sys2Proof.Machine.execSettile x s
  | .sleep x => Sys2Proof.Machine.execSleep x s
  | .yield x => Sys2Proof.Machine.execYield x s
  | .barArrive x => Sys2Proof.Machine.execBarArrive x s
  | .barWait x => Sys2Proof.Machine.execBarWait x s
  | .barSync x => Sys2Proof.Machine.execBarSync x s
  | .lduW x => Sys2Proof.Machine.execLduW x s
  | .lduD x => Sys2Proof.Machine.execLduD x s
  | .stuW x => Sys2Proof.Machine.execStuW x s
  | .fence x => Sys2Proof.Machine.execFence x s
  | .discard x => Sys2Proof.Machine.execDiscard x s
  | .pref x => Sys2Proof.Machine.execPref x s
  | .claim x => Sys2Proof.Machine.execClaim x s
  | .shareJoin x => Sys2Proof.Machine.execShareJoin x s
  | .shareLeave x => Sys2Proof.Machine.execShareLeave x s
  | .shareSub x => Sys2Proof.Machine.execShareSub x s
  | .shareUnsub x => Sys2Proof.Machine.execShareUnsub x s
  | .copy x => Sys2Proof.Machine.execCopy x s
  | .expect x => Sys2Proof.Machine.execExpect x s
  | .arrive x => Sys2Proof.Machine.execArrive x s
  | .waitg x => Sys2Proof.Machine.execWaitg x s
  | .testg x => Sys2Proof.Machine.execTestg x s
  | .cbInit x => Sys2Proof.Machine.execCbInit x s
  | .cbAcq x => Sys2Proof.Machine.execCbAcq x s
  | .cbCommit x => Sys2Proof.Machine.execCbCommit x s
  | .cbWait x => Sys2Proof.Machine.execCbWait x s
  | .cbRel x => Sys2Proof.Machine.execCbRel x s
  | .wload x => Sys2Proof.Machine.execWload x s
  | .zclr x => Sys2Proof.Machine.execZclr x s
  | .zstt x => Sys2Proof.Machine.execZstt x s
  | .zldt x => Sys2Proof.Machine.execZldt x s
  | .wact x => Sys2Proof.Machine.execWact x s
  | .kset x => Sys2Proof.Machine.execKset x s
  | .nodeq x => Sys2Proof.Machine.execNodeq x s
  | .put x => Sys2Proof.Machine.execPut x s
  | .get x => Sys2Proof.Machine.execGet x s
  | .wcwait x => Sys2Proof.Machine.execWcwait x s
  | .wcrd x => Sys2Proof.Machine.execWcrd x s
  | .wcreset x => Sys2Proof.Machine.execWcreset x s
  | .trap x => Sys2Proof.Machine.execTrap x s
  | .rte x => Sys2Proof.Machine.execRte x s
  | .grprd x => Sys2Proof.Machine.execGrprd x s
  | .grpwr x => Sys2Proof.Machine.execGrpwr x s
  | .grpres x => Sys2Proof.Machine.execGrpres x s
  | .grpstop x => Sys2Proof.Machine.execGrpstop x s
  | .grplist x => Sys2Proof.Machine.execGrplist x s
  | .illegalWord x => Sys2Proof.Machine.execIllegalWord x s
  | .instructionFetchFault x => Sys2Proof.Machine.execInstructionFetchFault x s
  | .bfx x => Sys2Proof.Machine.execBfx x s
  | .lodeh x => Sys2Proof.Machine.execLodeh x s
  | .swait x => Sys2Proof.Machine.execSwait x s
  | .fqpop x => Sys2Proof.Machine.execFqpop x s
  | .wakegComplete x => Sys2Proof.Machine.execWakegComplete x s
  | .wakegRefuse x => Sys2Proof.Machine.execWakegRefuse x s
  | .wakegDecline x => Sys2Proof.Machine.execWakegDecline x s
  | .wakegRequeue x => Sys2Proof.Machine.execWakegRequeue x s
  | .glreplay x => Sys2Proof.Machine.execGlreplay x s
  | .pginst x => Sys2Proof.Machine.execPginst x s
  | .pgevict x => Sys2Proof.Machine.execPgevict x s
  | .rfetch x => Sys2Proof.Machine.execRfetch x s
  | .ueread x => Sys2Proof.Machine.execUeread x s
  | .uewrite x => Sys2Proof.Machine.execUewrite x s
  | .lodeq x => Sys2Proof.Machine.execLodeq x s
  | .dispatchRun x => Sys2Proof.Machine.execDispatchRun x s
  | .dispatchStop x => Sys2Proof.Machine.execDispatchStop x s
  | .dispatchPreempt x => Sys2Proof.Machine.execDispatchPreempt x s
  | .qsave x => Sys2Proof.Machine.execQsave x s
  | .qload x => Sys2Proof.Machine.execQload x s
  | .fenceConditionsMet x => Sys2Proof.Machine.execFenceConditionsMet x s
  | .shareChangeDone x => Sys2Proof.Machine.execShareChangeDone x s
  | .subscriptionRegister x => Sys2Proof.Machine.execSubscriptionRegister x s
  | .subscriptionDelivery x => Sys2Proof.Machine.execSubscriptionDelivery x s
  | .copyQueueFree x => Sys2Proof.Machine.execCopyQueueFree x s
  | .copyArrival x => Sys2Proof.Machine.execCopyArrival x s
  | .copyError x => Sys2Proof.Machine.execCopyError x s
  | .wloadComplete x => Sys2Proof.Machine.execWloadComplete x s
  | .matrixQueueFree x => Sys2Proof.Machine.execMatrixQueueFree x s
  | .matrixEntryPerform x => Sys2Proof.Machine.execMatrixEntryPerform x s
  | .mmaRoundExecute x => Sys2Proof.Machine.execMmaRoundExecute x s
  | .slotBoundary x => Sys2Proof.Machine.execSlotBoundary x s
  | .fabricPortFree x => Sys2Proof.Machine.execFabricPortFree x s
  | .putGetComplete x => Sys2Proof.Machine.execPutGetComplete x s
  | .windowRequestArrival x => Sys2Proof.Machine.execWindowRequestArrival x s
  | .deferredResultLand x => Sys2Proof.Machine.execDeferredResultLand x s
  | .sfuEnter x => Sys2Proof.Machine.execSfuEnter x s
  | .registerUnitRelease x => Sys2Proof.Machine.execRegisterUnitRelease x s
  | .storeQueueLeave x => Sys2Proof.Machine.execStoreQueueLeave x s
  | .faultQueueFree x => Sys2Proof.Machine.execFaultQueueFree x s
  | .gutterOverflowRelease x => Sys2Proof.Machine.execGutterOverflowRelease x s
  | .gutterReplay x => Sys2Proof.Machine.execGutterReplay x s
  | .grainRefusal x => Sys2Proof.Machine.execGrainRefusal x s
  | .homeRead x => Sys2Proof.Machine.execHomeRead x s
  | .homePartialStore x => Sys2Proof.Machine.execHomePartialStore x s
  | .homeFullGrainWrite x => Sys2Proof.Machine.execHomeFullGrainWrite x s
  | .homeAtomic x => Sys2Proof.Machine.execHomeAtomic x s
  | .fCopyEviction x => Sys2Proof.Machine.execFCopyEviction x s
  | .mGrainEviction x => Sys2Proof.Machine.execMGrainEviction x s
  | .grainLostMark x => Sys2Proof.Machine.execGrainLostMark x s
  | .invalidationDeliveryFailure x => Sys2Proof.Machine.execInvalidationDeliveryFailure x s
  | .declarationTimeout x => Sys2Proof.Machine.execDeclarationTimeout x s
  | .waitaTimeout x => Sys2Proof.Machine.execWaitaTimeout x s
  | .sleepWake x => Sys2Proof.Machine.execSleepWake x s
  | .hangExpiry x => Sys2Proof.Machine.execHangExpiry x s
  | .faultDeadline x => Sys2Proof.Machine.execFaultDeadline x s
  | .recordArrival x => Sys2Proof.Machine.execRecordArrival x s
  | .binTimerExpiry x => Sys2Proof.Machine.execBinTimerExpiry x s
  | .drainCut x => Sys2Proof.Machine.execDrainCut x s
  | .sheafLaunch x => Sys2Proof.Machine.execSheafLaunch x s
  | .postWaitServe x => Sys2Proof.Machine.execPostWaitServe x s
  | .postWaitStall x => Sys2Proof.Machine.execPostWaitStall x s
  | .instanceStallDrain x => Sys2Proof.Machine.execInstanceStallDrain x s
  | .instanceComplete x => Sys2Proof.Machine.execInstanceComplete x s
  | .preemptSave x => Sys2Proof.Machine.execPreemptSave x s
  | .teamResume x => Sys2Proof.Machine.execTeamResume x s
  | .hostsharedToAccelDone x => Sys2Proof.Machine.execHostsharedToAccelDone x s
  | .hostSnoop x => Sys2Proof.Machine.execHostSnoop x s
  | .swaitReturn x => Sys2Proof.Machine.execSwaitReturn x s
  | .transferDone x => Sys2Proof.Machine.execTransferDone x s
  | .transferTimeout x => Sys2Proof.Machine.execTransferTimeout x s
  | .transferServe x => Sys2Proof.Machine.execTransferServe x s
  | .lodeLookup x => Sys2Proof.Machine.execLodeLookup x s
  | .lodeCas x => Sys2Proof.Machine.execLodeCas x s
  | .lodeAddhold x => Sys2Proof.Machine.execLodeAddhold x s
  | .lodeDrophold x => Sys2Proof.Machine.execLodeDrophold x s
  | .lodeInsert x => Sys2Proof.Machine.execLodeInsert x s
  | .lodeInval x => Sys2Proof.Machine.execLodeInval x s
  | .lodeAck x => Sys2Proof.Machine.execLodeAck x s
  | .lodeRdreq x => Sys2Proof.Machine.execLodeRdreq x s
  | .invalRingArrival x => Sys2Proof.Machine.execInvalRingArrival x s
  | .qpktNop x => Sys2Proof.Machine.execQpktNop x s
  | .qpktStart x => Sys2Proof.Machine.execQpktStart x s
  | .qpktWait x => Sys2Proof.Machine.execQpktWait x s
  | .qpktSignal x => Sys2Proof.Machine.execQpktSignal x s
  | .qpktFence x => Sys2Proof.Machine.execQpktFence x s
  | .qpktBarrier x => Sys2Proof.Machine.execQpktBarrier x s
  | .qpktTimestamp x => Sys2Proof.Machine.execQpktTimestamp x s
  | .signalReevaluate x => Sys2Proof.Machine.execSignalReevaluate x s
  | .signalPollTimer x => Sys2Proof.Machine.execSignalPollTimer x s
  | .notifyWrite x => Sys2Proof.Machine.execNotifyWrite x s
  | .fqhArmWrite x => Sys2Proof.Machine.execFqhArmWrite x s
  | .fqhPopRead => Sys2Proof.Machine.execFqhPopRead s
  | .fqhDoneLowWrite x => Sys2Proof.Machine.execFqhDoneLowWrite x s
  | .fqhRefuse x => Sys2Proof.Machine.execFqhRefuse x s
  | .fqhReturn x => Sys2Proof.Machine.execFqhReturn x s
  | .trnModeWrite x => Sys2Proof.Machine.execTrnModeWrite x s
  | .trnInvPages x => Sys2Proof.Machine.execTrnInvPages x s
  | .trnInvPasidPages x => Sys2Proof.Machine.execTrnInvPasidPages x s
  | .trnInvPasidAll x => Sys2Proof.Machine.execTrnInvPasidAll x s
  | .trnInvAll x => Sys2Proof.Machine.execTrnInvAll x s
  | .invalidationComplete x => Sys2Proof.Machine.execInvalidationComplete x s
  | .teardownStart x => Sys2Proof.Machine.execTeardownStart x s
  | .teardownDrained x => Sys2Proof.Machine.execTeardownDrained x s
  | .sltEntryWrite x => Sys2Proof.Machine.execSltEntryWrite x s
  | .windowEntryWrite x => Sys2Proof.Machine.execWindowEntryWrite x s
  | .vifCfgWrite x => Sys2Proof.Machine.execVifCfgWrite x s
  | .hfrHoldWrite x => Sys2Proof.Machine.execHfrHoldWrite x s
  | .hfrXackWrite x => Sys2Proof.Machine.execHfrXackWrite x s
  | .hfrIrtailWrite x => Sys2Proof.Machine.execHfrIrtailWrite x s
  | .registerWrite x => Sys2Proof.Machine.execRegisterWrite x s
  | .planeDown x => Sys2Proof.Machine.execPlaneDown x s
  | .uePathDown x => Sys2Proof.Machine.execUePathDown x s
  | .nodeSilentTimeout x => Sys2Proof.Machine.execNodeSilentTimeout x s
  | .declarationConfirm x => Sys2Proof.Machine.execDeclarationConfirm x s
  | .hostReset => Sys2Proof.Machine.execHostReset s
  | .boot x => Sys2Proof.Machine.execBoot x s
  | .spdmMeasurementRequest x => Sys2Proof.Machine.execSpdmMeasurementRequest x s
  | .spdmCounterRead x => Sys2Proof.Machine.execSpdmCounterRead x s
  | .serviceCoreFence x => Sys2Proof.Machine.execServiceCoreFence x s
  | .serviceCoreAmo x => Sys2Proof.Machine.execServiceCoreAmo x s
  | .xkrovCsrWrite x => Sys2Proof.Machine.execXkrovCsrWrite x s
  | .nodeRejoin x => Sys2Proof.Machine.execNodeRejoin x s
  | .hostsharedAccelHoldExpiry x => Sys2Proof.Machine.execHostsharedAccelHoldExpiry x s
  | .hostsharedTransferDeadline x => Sys2Proof.Machine.execHostsharedTransferDeadline x s
  | .nodeqAnswer x => Sys2Proof.Machine.execNodeqAnswer x s
  | .wcrdAnswer x => Sys2Proof.Machine.execWcrdAnswer x s
  | .discardComplete x => Sys2Proof.Machine.execDiscardComplete x s
  | .unsubComplete x => Sys2Proof.Machine.execUnsubComplete x s

end Sys2Proof.Machine
end

