-- ==== Sys2Proof/Machine/Rv64.lean ====
section
/-! DEFINITION. What a service core runs beside Xkrov (R372): RV64IMAC with Zicsr, Zifencei, Zba and Zbb, and the
privileged architecture 1.12. The manual names these standards and gives no text of its own; the meanings here are the
standards' (log 17). -/

namespace Sys2Proof.Machine

/-! ### Instructions -/

/-- Arithmetic of two operands, or of one. -/
inductive RvAlu where
  | add | sub | sll | slt | sltu | xor | srl | sra | or | and
  | addw | subw | sllw | srlw | sraw
  | mul | mulh | mulhsu | mulhu | div | divu | rem | remu | mulw | divw | divuw | remw | remuw
  | addUw | slliUw | sh1add | sh2add | sh3add | sh1addUw | sh2addUw | sh3addUw
  | andn | orn | xnor | clz | ctz | cpop | clzw | ctzw | cpopw | max | maxu | min | minu
  | sextb | sexth | zexth | rol | ror | rolw | rorw | orcb | rev8
  deriving DecidableEq, Repr

/-- Conditions of a branch. -/
inductive RvCond where
  | eq | ne | lt | ge | ltu | geu
  deriving DecidableEq, Repr

/-- Write, set and clear of a CSR. -/
inductive RvCsrOp where
  | rw | rs | rc
  deriving DecidableEq, Repr

/-- The source of a CSR instruction. -/
inductive RvCsrSrc where
  | reg (r : BitVec 5)
  | imm (v : BitVec 5)
  deriving DecidableEq, Repr

/-- An instruction of a service core outside Xkrov. -/
inductive RvInstr where
  | lui (rd : BitVec 5) (v : DWord)
  | auipc (rd : BitVec 5) (v : DWord)
  | jal (rd : BitVec 5) (off : DWord)
  | jalr (rd rs1 : BitVec 5) (off : DWord)
  | branch (c : RvCond) (rs1 rs2 : BitVec 5) (off : DWord)
  | load (bytes : Nat) (uns : Bool) (rd rs1 : BitVec 5) (off : DWord)
  | store (bytes : Nat) (rs1 rs2 : BitVec 5) (off : DWord)
  | opImm (op : RvAlu) (rd rs1 : BitVec 5) (v : DWord)
  | op (op : RvAlu) (rd rs1 rs2 : BitVec 5)
  | csr (op : RvCsrOp) (rd : BitVec 5) (n : BitVec 12) (src : RvCsrSrc)
  | fence (pred succ : BitVec 4)
  | fencei
  | amo (x : HartAmo)
  | ecall
  | ebreak
  | mret
  | sret
  | wfi
  | sfence
  deriving DecidableEq, Repr

/-! ### Arithmetic -/

/-- Sign-extended low word. -/
def sx32 (v : DWord) : DWord := (v.setWidth 32).signExtend 64
/-- Zero-extended low word. -/
def zx32 (v : DWord) : DWord := (v.setWidth 32).setWidth 64
/-- Set bits among the low n. -/
def popOf (n : Nat) (v : DWord) : Nat := ((List.range n).filter fun i => v.getLsbD i).length
/-- Leading zeros among the low n. -/
def clzOf (n : Nat) (v : DWord) : Nat := ((List.range n).find? fun i => v.getLsbD (n - 1 - i)).getD n
/-- Trailing zeros among the low n. -/
def ctzOf (n : Nat) (v : DWord) : Nat := ((List.range n).find? fun i => v.getLsbD i).getD n
/-- Signed division, with the results the M extension gives for a zero divisor. -/
def divS {n : Nat} (a b : BitVec n) : BitVec n := if b = 0 then BitVec.allOnes n else a.sdiv b
def remS {n : Nat} (a b : BitVec n) : BitVec n := if b = 0 then a else a.srem b
def divU {n : Nat} (a b : BitVec n) : BitVec n := if b = 0 then BitVec.allOnes n else a / b
def remU {n : Nat} (a b : BitVec n) : BitVec n := if b = 0 then a else a % b
/-- The high half of an exact product. -/
def highHalf (p : Int) : DWord := BitVec.ofInt 64 (p / 2 ^ 64)
/-- A function of the bytes of a value. -/
def byBytes (f : Nat → Nat) : DWord := BitVec.ofNat 64 ((List.range 8).foldl (fun v i => v + f i * 2 ^ (8 * i)) 0)

/-- The result of an operation. -/
def RvAlu.eval (op : RvAlu) (a b : DWord) : DWord :=
  let x : Word := a.setWidth 32
  let y : Word := b.setWidth 32
  let s (w : Word) : DWord := w.signExtend 64
  let n6 := bvGet b 0 6
  let n5 := bvGet b 0 5
  let k (n : Nat) : DWord := BitVec.ofNat 64 n
  match op with
  | .add => a + b
  | .sub => a - b
  | .sll => a <<< n6
  | .slt => if a.slt b then 1 else 0
  | .sltu => if a < b then 1 else 0
  | .xor => a ^^^ b
  | .srl => a >>> n6
  | .sra => a.sshiftRight n6
  | .or => a ||| b
  | .and => a &&& b
  | .addw => s (x + y)
  | .subw => s (x - y)
  | .sllw => s (x <<< n5)
  | .srlw => s (x >>> n5)
  | .sraw => s (x.sshiftRight n5)
  | .mul => a * b
  | .mulh => highHalf (a.toInt * b.toInt)
  | .mulhsu => highHalf (a.toInt * (b.toNat : Int))
  | .mulhu => highHalf ((a.toNat : Int) * b.toNat)
  | .div => divS a b
  | .divu => divU a b
  | .rem => remS a b
  | .remu => remU a b
  | .mulw => s (x * y)
  | .divw => s (divS x y)
  | .divuw => s (divU x y)
  | .remw => s (remS x y)
  | .remuw => s (remU x y)
  | .addUw => zx32 a + b
  | .slliUw => zx32 a <<< n6
  | .sh1add => (a <<< 1) + b
  | .sh2add => (a <<< 2) + b
  | .sh3add => (a <<< 3) + b
  | .sh1addUw => (zx32 a <<< 1) + b
  | .sh2addUw => (zx32 a <<< 2) + b
  | .sh3addUw => (zx32 a <<< 3) + b
  | .andn => a &&& ~~~ b
  | .orn => a ||| ~~~ b
  | .xnor => ~~~ (a ^^^ b)
  | .clz => k (clzOf 64 a)
  | .ctz => k (ctzOf 64 a)
  | .cpop => k (popOf 64 a)
  | .clzw => k (clzOf 32 a)
  | .ctzw => k (ctzOf 32 a)
  | .cpopw => k (popOf 32 a)
  | .max => if a.slt b then b else a
  | .maxu => if a < b then b else a
  | .min => if a.slt b then a else b
  | .minu => if a < b then a else b
  | .sextb => (a.setWidth 8).signExtend 64
  | .sexth => (a.setWidth 16).signExtend 64
  | .zexth => (a.setWidth 16).setWidth 64
  | .rol => a.rotateLeft n6
  | .ror => a.rotateRight n6
  | .rolw => s (x.rotateLeft n5)
  | .rorw => s (x.rotateRight n5)
  | .orcb => byBytes fun i => if bvGet a (8 * i) 8 = 0 then 0 else 255
  | .rev8 => byBytes fun i => bvGet a (56 - 8 * i) 8

/-- Whether a branch is taken. -/
def RvCond.holds (c : RvCond) (a b : DWord) : Bool :=
  match c with
  | .eq => a == b
  | .ne => a != b
  | .lt => a.slt b
  | .ge => b.sle a
  | .ltu => decide (a < b)
  | .geu => decide (b ≤ a)

/-! ### Decoding words of 32 bits -/

/-- A register field. -/
def rvReg (w lo : Nat) : BitVec 5 := BitVec.ofNat 5 (w / 2 ^ lo)
/-- A signed value of n bits. -/
def rvImm (n v : Nat) : DWord := (BitVec.ofNat n v).signExtend 64
/-- The I-type immediate. -/
def rvImmI (w : Nat) : DWord := rvImm 12 (bitsOf w 20 12)

/-- OP-IMM. -/
def rvOpImm (w : Nat) : Option (RvAlu × DWord) :=
  let imm := bitsOf w 20 12
  let sh : DWord := BitVec.ofNat 64 (bitsOf w 20 6)
  match bitsOf w 12 3 with
  | 0 => some (.add, rvImmI w)
  | 2 => some (.slt, rvImmI w)
  | 3 => some (.sltu, rvImmI w)
  | 4 => some (.xor, rvImmI w)
  | 6 => some (.or, rvImmI w)
  | 7 => some (.and, rvImmI w)
  | 1 =>
    if bitsOf w 26 6 = 0 then some (.sll, sh)
    else match imm with
      | 0x600 => some (.clz, 0) | 0x601 => some (.ctz, 0) | 0x602 => some (.cpop, 0)
      | 0x604 => some (.sextb, 0) | 0x605 => some (.sexth, 0) | _ => none
  | _ =>
    if imm = 0x287 then some (.orcb, 0)
    else if imm = 0x6B8 then some (.rev8, 0)
    else match bitsOf w 26 6 with
      | 0x00 => some (.srl, sh) | 0x10 => some (.sra, sh) | 0x18 => some (.ror, sh) | _ => none
/-- OP-IMM-32. -/
def rvOpImm32 (w : Nat) : Option (RvAlu × DWord) :=
  let imm := bitsOf w 20 12
  let sh : DWord := BitVec.ofNat 64 (bitsOf w 20 6)
  match bitsOf w 12 3 with
  | 0 => some (.addw, rvImmI w)
  | 1 =>
    if bitsOf w 25 7 = 0 then some (.sllw, sh)
    else if bitsOf w 26 6 = 2 then some (.slliUw, sh)
    else match imm with | 0x600 => some (.clzw, 0) | 0x601 => some (.ctzw, 0) | 0x602 => some (.cpopw, 0) | _ => none
  | 5 => match bitsOf w 25 7 with | 0x00 => some (.srlw, sh) | 0x20 => some (.sraw, sh) | 0x30 => some (.rorw, sh) | _ => none
  | _ => none
/-- OP. -/
def rvOp (w : Nat) : Option RvAlu :=
  match bitsOf w 25 7, bitsOf w 12 3 with
  | 0x00, 0 => some .add | 0x00, 1 => some .sll | 0x00, 2 => some .slt | 0x00, 3 => some .sltu
  | 0x00, 4 => some .xor | 0x00, 5 => some .srl | 0x00, 6 => some .or | 0x00, 7 => some .and
  | 0x20, 0 => some .sub | 0x20, 5 => some .sra | 0x20, 4 => some .xnor | 0x20, 6 => some .orn | 0x20, 7 => some .andn
  | 0x01, 0 => some .mul | 0x01, 1 => some .mulh | 0x01, 2 => some .mulhsu | 0x01, 3 => some .mulhu
  | 0x01, 4 => some .div | 0x01, 5 => some .divu | 0x01, 6 => some .rem | 0x01, 7 => some .remu
  | 0x10, 2 => some .sh1add | 0x10, 4 => some .sh2add | 0x10, 6 => some .sh3add
  | 0x05, 4 => some .min | 0x05, 5 => some .minu | 0x05, 6 => some .max | 0x05, 7 => some .maxu
  | 0x30, 1 => some .rol | 0x30, 5 => some .ror
  | _, _ => none
/-- OP-32. -/
def rvOp32 (w : Nat) : Option RvAlu :=
  match bitsOf w 25 7, bitsOf w 12 3 with
  | 0x00, 0 => some .addw | 0x00, 1 => some .sllw | 0x00, 5 => some .srlw
  | 0x20, 0 => some .subw | 0x20, 5 => some .sraw
  | 0x01, 0 => some .mulw | 0x01, 4 => some .divw | 0x01, 5 => some .divuw | 0x01, 6 => some .remw | 0x01, 7 => some .remuw
  | 0x04, 0 => some .addUw | 0x04, 4 => if bitsOf w 20 5 = 0 then some .zexth else none
  | 0x10, 2 => some .sh1addUw | 0x10, 4 => some .sh2addUw | 0x10, 6 => some .sh3addUw
  | 0x30, 1 => some .rolw | 0x30, 5 => some .rorw
  | _, _ => none
/-- LR, SC and the AMOs. -/
def rvAmo (w : Nat) : Option HartAmo :=
  let op : Option HartAmoOp := match bitsOf w 27 5 with
    | 0x02 => if bitsOf w 20 5 = 0 then some .lr else none
    | 0x03 => some .sc | 0x01 => some .swap | 0x00 => some .add | 0x04 => some .xor | 0x0C => some .and
    | 0x08 => some .or | 0x10 => some .min | 0x14 => some .max | 0x18 => some .minu | 0x1C => some .maxu | _ => none
  let wide := bitsOf w 12 3
  if wide ≠ 2 ∧ wide ≠ 3 then none
  else op.map fun op =>
    { op, wide := wide == 3, aq := bitsOf w 26 1 == 1, rl := bitsOf w 25 1 == 1, rd := rvReg w 7, rs1 := rvReg w 15
      rs2 := rvReg w 20 }
/-- SYSTEM. -/
def rvSystem (w : Nat) : Option RvInstr :=
  let n : BitVec 12 := BitVec.ofNat 12 (bitsOf w 20 12)
  let rd := rvReg w 7
  let r : RvCsrSrc := .reg (rvReg w 15)
  let i : RvCsrSrc := .imm (rvReg w 15)
  match bitsOf w 12 3 with
  | 0 =>
    if w = 0x00000073 then some .ecall else if w = 0x00100073 then some .ebreak else if w = 0x30200073 then some .mret
    else if w = 0x10200073 then some .sret else if w = 0x10500073 then some .wfi
    else if bitsOf w 25 7 = 9 ∧ rd = 0 then some .sfence else none
  | 1 => some (.csr .rw rd n r)
  | 2 => some (.csr .rs rd n r)
  | 3 => some (.csr .rc rd n r)
  | 5 => some (.csr .rw rd n i)
  | 6 => some (.csr .rs rd n i)
  | 7 => some (.csr .rc rd n i)
  | _ => none

/-- Width in bytes and zero extension of a load. -/
def rvLoad : Nat → Option (Nat × Bool)
  | 0 => some (1, false) | 1 => some (2, false) | 2 => some (4, false) | 3 => some (8, false)
  | 4 => some (1, true) | 5 => some (2, true) | 6 => some (4, true) | _ => none
/-- The condition of a branch. -/
def rvCond : Nat → Option RvCond
  | 0 => some .eq | 1 => some .ne | 4 => some .lt | 5 => some .ge | 6 => some .ltu | 7 => some .geu | _ => none

/-- Decode a word of 32 bits. -/
def rvDecode (w : Nat) : Option RvInstr :=
  let rd := rvReg w 7
  let rs1 := rvReg w 15
  let rs2 := rvReg w 20
  match bitsOf w 0 7 with
  | 0x37 => some (.lui rd (rvImm 32 (w / 4096 * 4096)))
  | 0x17 => some (.auipc rd (rvImm 32 (w / 4096 * 4096)))
  | 0x6F => some (.jal rd (rvImm 21
      (bitsOf w 31 1 * 2 ^ 20 + bitsOf w 12 8 * 2 ^ 12 + bitsOf w 20 1 * 2 ^ 11 + bitsOf w 21 10 * 2)))
  | 0x67 => if bitsOf w 12 3 = 0 then some (.jalr rd rs1 (rvImmI w)) else none
  | 0x63 => (rvCond (bitsOf w 12 3)).map fun c => .branch c rs1 rs2 (rvImm 13
      (bitsOf w 31 1 * 2 ^ 12 + bitsOf w 7 1 * 2 ^ 11 + bitsOf w 25 6 * 2 ^ 5 + bitsOf w 8 4 * 2))
  | 0x03 => (rvLoad (bitsOf w 12 3)).map fun x => .load x.1 x.2 rd rs1 (rvImmI w)
  | 0x23 => if bitsOf w 12 3 < 4 then
      some (.store (2 ^ bitsOf w 12 3) rs1 rs2 (rvImm 12 (bitsOf w 25 7 * 32 + bitsOf w 7 5))) else none
  | 0x13 => (rvOpImm w).map fun x => .opImm x.1 rd rs1 x.2
  | 0x1B => (rvOpImm32 w).map fun x => .opImm x.1 rd rs1 x.2
  | 0x33 => (rvOp w).map fun x => .op x rd rs1 rs2
  | 0x3B => (rvOp32 w).map fun x => .op x rd rs1 rs2
  | 0x0F => match bitsOf w 12 3 with
    | 0 => some (.fence (BitVec.ofNat 4 (bitsOf w 24 4)) (BitVec.ofNat 4 (bitsOf w 20 4)))
    | 1 => some .fencei
    | _ => none
  | 0x2F => (rvAmo w).map .amo
  | 0x73 => rvSystem w
  | _ => none

/-! ### Decoding words of 16 bits -/

/-- One of x8 to x15. -/
def rvcReg (c lo : Nat) : BitVec 5 := BitVec.ofNat 5 (8 + bitsOf c lo 3)
/-- Quadrant 0. -/
def rvcQ0 (c : Nat) : Option RvInstr :=
  let r1 := rvcReg c 7
  let r2 := rvcReg c 2
  let w : DWord := BitVec.ofNat 64 (bitsOf c 5 1 * 64 + bitsOf c 10 3 * 8 + bitsOf c 6 1 * 4)
  let d : DWord := BitVec.ofNat 64 (bitsOf c 5 2 * 64 + bitsOf c 10 3 * 8)
  match bitsOf c 13 3 with
  | 0 =>
    let n := bitsOf c 7 4 * 64 + bitsOf c 11 2 * 16 + bitsOf c 5 1 * 8 + bitsOf c 6 1 * 4
    if n = 0 then none else some (.opImm .add r2 2 (BitVec.ofNat 64 n))
  | 2 => some (.load 4 false r2 r1 w)
  | 3 => some (.load 8 false r2 r1 d)
  | 6 => some (.store 4 r1 r2 w)
  | 7 => some (.store 8 r1 r2 d)
  | _ => none
/-- Quadrant 1. -/
def rvcQ1 (c : Nat) : Option RvInstr :=
  let rd := rvReg c 7
  let i6 := bitsOf c 12 1 * 32 + bitsOf c 2 5
  let imm := rvImm 6 i6
  let sh : DWord := BitVec.ofNat 64 i6
  let r1 := rvcReg c 7
  let r2 := rvcReg c 2
  let bo := rvImm 9 (bitsOf c 12 1 * 256 + bitsOf c 5 2 * 64 + bitsOf c 2 1 * 32 + bitsOf c 10 2 * 8 + bitsOf c 3 2 * 2)
  match bitsOf c 13 3 with
  | 0 => some (.opImm .add rd rd imm)
  | 1 => if rd = 0 then none else some (.opImm .addw rd rd imm)
  | 2 => some (.opImm .add rd 0 imm)
  | 3 =>
    if i6 = 0 then none
    else if rd = 2 then
      some (.opImm .add 2 2 (rvImm 10
        (bitsOf c 12 1 * 512 + bitsOf c 3 2 * 128 + bitsOf c 5 1 * 64 + bitsOf c 2 1 * 32 + bitsOf c 6 1 * 16)))
    else some (.lui rd (rvImm 18 (i6 * 4096)))
  | 4 =>
    match bitsOf c 10 2 with
    | 0 => some (.opImm .srl r1 r1 sh)
    | 1 => some (.opImm .sra r1 r1 sh)
    | 2 => some (.opImm .and r1 r1 imm)
    | _ =>
      match bitsOf c 12 1, bitsOf c 5 2 with
      | 0, 0 => some (.op .sub r1 r1 r2) | 0, 1 => some (.op .xor r1 r1 r2) | 0, 2 => some (.op .or r1 r1 r2)
      | 0, _ => some (.op .and r1 r1 r2) | 1, 0 => some (.op .subw r1 r1 r2) | 1, 1 => some (.op .addw r1 r1 r2)
      | _, _ => none
  | 5 => some (.jal 0 (rvImm 12
      (bitsOf c 12 1 * 2048 + bitsOf c 8 1 * 1024 + bitsOf c 9 2 * 256 + bitsOf c 6 1 * 128 + bitsOf c 7 1 * 64
        + bitsOf c 2 1 * 32 + bitsOf c 11 1 * 16 + bitsOf c 3 3 * 2)))
  | 6 => some (.branch .eq r1 0 bo)
  | _ => some (.branch .ne r1 0 bo)
/-- Quadrant 2. -/
def rvcQ2 (c : Nat) : Option RvInstr :=
  let rd := rvReg c 7
  let rs2 := rvReg c 2
  match bitsOf c 13 3 with
  | 0 => some (.opImm .sll rd rd (BitVec.ofNat 64 (bitsOf c 12 1 * 32 + bitsOf c 2 5)))
  | 2 => if rd = 0 then none
    else some (.load 4 false rd 2 (BitVec.ofNat 64 (bitsOf c 2 2 * 64 + bitsOf c 12 1 * 32 + bitsOf c 4 3 * 4)))
  | 3 => if rd = 0 then none
    else some (.load 8 false rd 2 (BitVec.ofNat 64 (bitsOf c 2 3 * 64 + bitsOf c 12 1 * 32 + bitsOf c 5 2 * 8)))
  | 4 =>
    if bitsOf c 12 1 = 0 then
      if rs2 = 0 then (if rd = 0 then none else some (.jalr 0 rd 0)) else some (.op .add rd 0 rs2)
    else if rs2 = 0 then (if rd = 0 then some .ebreak else some (.jalr 1 rd 0))
    else some (.op .add rd rd rs2)
  | 6 => some (.store 4 2 rs2 (BitVec.ofNat 64 (bitsOf c 7 2 * 64 + bitsOf c 9 4 * 4)))
  | 7 => some (.store 8 2 rs2 (BitVec.ofNat 64 (bitsOf c 7 3 * 64 + bitsOf c 10 3 * 8)))
  | _ => none
/-- Decode a word of 16 bits. -/
def rvcDecode (c : Nat) : Option RvInstr :=
  match bitsOf c 0 2 with
  | 0 => rvcQ0 c
  | 1 => rvcQ1 c
  | 2 => rvcQ2 c
  | _ => none

/-! ### CSRs -/

/-- misa: RV64 with I, M, A, C, S and U. -/
def misaValue : DWord := 0x8000000000141105
/-- Writable bits of mstatus, and those sstatus shows. -/
def mstatusMask : DWord := 0x7E19AA
def sstatusMask : DWord := 0xC0122
/-- UXL and SXL: 64 bits. -/
def xlBits : DWord := 0xA00000000
/-- Interrupt bits, those of the supervisor, and exceptions that can be delegated. -/
def mieMask : DWord := 0xAAA
def sipMask : DWord := 0x222
def medelegMask : DWord := 0xFF00B3FF
/-- Bits of a mask from a new value, the others from the old one. -/
def blend (old new mask : DWord) : DWord := (old &&& ~~~ mask) ||| (new &&& mask)

/-- Whether a counter may be read in the mode: mcounteren below M-mode, scounteren too in U-mode. -/
def counterOk (k : Hart) (n : Nat) : Bool :=
  let i := n - 0xC00
  (k.mode == 3 || (k.csr 0x306).getLsbD i) && (k.mode != 0 || (k.csr 0x106).getLsbD i)
/-- A CSR's value; none when there is none of that number. instret reads a free value. -/
def csrRead (s : State) (h : Nat) (k : Hart) (n : Nat) : Option DWord :=
  match n with
  | 0x300 => some (k.csr 0x300 ||| xlBits)
  | 0x100 => some ((k.csr 0x300 &&& sstatusMask) ||| (xlBits &&& 0x300000000))
  | 0x104 => some (k.csr 0x304 &&& k.csr 0x303)
  | 0x144 => some (k.csr 0x344 &&& k.csr 0x303)
  | 0x301 => some misaValue
  | 0xF14 => some (BitVec.ofNat 64 h)
  | 0xFC0 => some k.mxkid
  | 0x7C0 => some (k.mxkenable.setWidth 64)
  | 0x7C1 => some (k.mxklode.setWidth 64)
  | 0xB00 => some (BitVec.ofNat 64 s.clock + k.csr 0xB00)
  | 0xC00 => if counterOk k n then some (BitVec.ofNat 64 s.clock + k.csr 0xB00) else none
  | 0xC01 => if counterOk k n then some (BitVec.ofNat 64 s.clock) else none
  | 0xB02 => some (Config.freeWord s.free ++ Config.freeWord (s.free + 1))
  | 0xC02 => if counterOk k n then some (Config.freeWord s.free ++ Config.freeWord (s.free + 1)) else none
  | n =>
    if [0x302, 0x303, 0x304, 0x305, 0x306, 0x30A, 0x320, 0x340, 0x341, 0x342, 0x343, 0x344, 0x105, 0x106, 0x10A, 0x140, 0x141, 0x142,
        0x143, 0x180].contains n then some (k.csr n)
    else if (0x323 ≤ n ∧ n ≤ 0x33F) ∨ (0xB03 ≤ n ∧ n ≤ 0xB1F) ∨ (0x3A0 ≤ n ∧ n ≤ 0x3EF)
        ∨ n = 0xF11 ∨ n = 0xF12 ∨ n = 0xF13 ∨ n = 0xF15 then some 0
    else if 0xC03 ≤ n ∧ n ≤ 0xC1F then (if counterOk k n then some 0 else none)
    else none

/-- mstatus as written: MPP keeps its value for the mode that does not exist. -/
def mstatusNext (old v mask : DWord) : DWord :=
  let m := blend old v mask
  if bvGet m 11 2 = 2 then bvSet m 11 2 (bvGet old 11 2) else m
/-- A CSR write; what no bit of a register takes is dropped. -/
def csrStore (s : State) (k : Hart) (n : Nat) (v : DWord) : Hart :=
  match n with
  | 0x300 => k.setCsr 0x300 (mstatusNext (k.csr 0x300) v mstatusMask)
  | 0x100 => k.setCsr 0x300 (mstatusNext (k.csr 0x300) v sstatusMask)
  | 0x302 => k.setCsr 0x302 (v &&& medelegMask)
  | 0x303 => k.setCsr 0x303 (v &&& sipMask)
  | 0x304 => k.setCsr 0x304 (v &&& mieMask)
  | 0x104 => k.setCsr 0x304 (blend (k.csr 0x304) v (k.csr 0x303))
  | 0x344 => k.setCsr 0x344 (v &&& sipMask)
  | 0x144 => k.setCsr 0x344 (blend (k.csr 0x344) v (k.csr 0x303 &&& 2))
  | 0x305 => if bvGet v 1 1 = 0 then k.setCsr 0x305 v else k
  | 0x105 => if bvGet v 1 1 = 0 then k.setCsr 0x105 v else k
  | 0x341 => k.setCsr 0x341 (v &&& ~~~ 1)
  | 0x141 => k.setCsr 0x141 (v &&& ~~~ 1)
  | 0x180 => if bvGet v 60 4 = 0 ∨ bvGet v 60 4 = 9 then k.setCsr 0x180 v else k
  | 0x306 => k.setCsr 0x306 (v &&& 0xFFFFFFFF)
  | 0x106 => k.setCsr 0x106 (v &&& 0xFFFFFFFF)
  | 0x30A => k.setCsr 0x30A (v &&& 1)
  | 0x10A => k.setCsr 0x10A (v &&& 1)
  | 0xB00 => k.setCsr 0xB00 (v - BitVec.ofNat 64 s.clock)
  | n => if [0x340, 0x342, 0x343, 0x140, 0x142, 0x143].contains n then k.setCsr n v else k

/-- Whether the mode may touch a CSR; TVM keeps satp from the supervisor. -/
def csrMode (k : Hart) (n : Nat) : Bool :=
  decide (n / 256 % 4 ≤ k.mode) && !(n == 0x180 && k.mode == 1 && k.status 20)

/-! ### Memory -/

/-- Whether an address lies in the device part. -/
def inDevice (pa : Nat) : Bool := decide (devBase ≤ pa) && decide (pa < devBase + 0x100000)
/-- A loaded value. -/
def rvExtend (bytes : Nat) (uns : Bool) (v : Nat) : DWord :=
  if uns then BitVec.ofNat 64 v else (BitVec.ofNat (8 * bytes) v).signExtend 64

/-- A load: a register of the host function's map, where FQH_POP0 pops, or memory (R7, R348, R373). -/
def rvLoadAt (s : State) (k : Hart) (bytes : Nat) (uns : Bool) (va : DWord) : HRes :=
  if va.toNat % bytes ≠ 0 then .trap 4 va
  else match hartAddr s k k.memMode va.toNat .load with
    | .fault c => .trap c va
    | .pa pa =>
      if inDevice pa then
        if bytes < 4 then .trap 5 va
        else
          let o := pa - devBase
          let s := if o = 0x55000 then popRead s else s
          .done s (rvExtend bytes uns (regRead s hostMap o (bytes == 8)).toNat)
      else if !(hartMemory s pa bytes) then .trap 5 va
      else if !(hartReady s pa) then .again (wantRegion s pa)
      else .done (s.readBy k.chiplet pa) (rvExtend bytes uns (blockAt s pa bytes))
/-- A store. -/
def rvStoreAt (s : State) (k : Hart) (bytes : Nat) (va v : DWord) : HRes :=
  if va.toNat % bytes ≠ 0 then .trap 6 va
  else match hartAddr s k k.memMode va.toNat .store with
    | .fault c => .trap c va
    | .pa pa =>
      if inDevice pa then
        if bytes < 4 then .trap 7 va else .done (regWrite s hostMap (pa - devBase) (bytes == 8) v) 0
      else if !(hartMemory s pa bytes) || tableGuard s k.memMode pa then .trap 7 va
      else if !(hartReady s pa) then .again (wantRegion s pa)
      else .done (homeWrite s pa (leBytes bytes v.toNat)) 0

/-! ### Executing -/

/-- Return from a machine or supervisor trap. -/
def Hart.mret (k : Hart) : Hart :=
  let m := k.csr 0x300
  let mode := bvGet m 11 2
  let m := bvSet (bvSet (bvSet m 3 1 (bvGet m 7 1)) 7 1 1) 11 2 0
  { k.setCsr 0x300 (if mode = 3 then m else bvSet m 17 1 0) with mode, pc := k.csr 0x341 }
def Hart.sret (k : Hart) : Hart :=
  let m := k.csr 0x300
  let mode := bvGet m 8 1
  let m := bvSet (bvSet (bvSet m 1 1 (bvGet m 5 1)) 5 1 1) 8 1 0
  { k.setCsr 0x300 (bvSet m 17 1 0) with mode, pc := k.csr 0x141 }

/-- Go to an address with rd written. -/
def rvJump (s : State) (h : Nat) (rd : BitVec 5) (link target : DWord) : State :=
  s.adjHart h fun k => { k.setReg rd link with pc := target }
/-- An illegal instruction. -/
def rvIllegal (s : State) (h : Nat) : State := hartTrap s h 2 0

/-- A CSR instruction. Writes of mxkenable and mxklode are an instruction of the opcode table, which runs after rd is
written (R376). -/
noncomputable def rvCsr (s : State) (h : Nat) (k : Hart) (op : RvCsrOp) (rd : BitVec 5) (n : Nat) (src : RvCsrSrc) : Turn :=
  let v : DWord := match src with | .reg r => k.reg r | .imm i => i.setWidth 64
  let zero : Bool := match src with | .reg r => r == 0 | .imm i => i == 0
  let writes : Bool := op == .rw || !zero
  match csrRead s h k n with
  | none => .idle (rvIllegal s h)
  | some old =>
    if !(csrMode k n) || (writes && n / 1024 == 3) then .idle (rvIllegal s h)
    else
      let new := match op with | .rw => v | .rs => old ||| v | .rc => old &&& ~~~ v
      let s := if n % 4096 = 0xB02 ∨ n % 4096 = 0xC02 then { s with free := s.free + 2 } else s
      if writes && (n == 0x7C0 || n == 0x7C1) then
        .run (.xkrovCsrWrite ⟨BitVec.ofNat 12 n, new⟩) (s.adjHart h fun k => k.setReg rd old)
      else
        let s := if writes then s.adjHart h fun k => csrStore s k n new else s
        .idle (hartRetire s h rd old 4)

/-- An instruction outside Xkrov, of the given length. -/
noncomputable def rvExec (s : State) (h : Nat) (k : Hart) (len : Nat) (i : RvInstr) : Turn :=
  let next := k.pc + BitVec.ofNat 64 len
  match i with
  | .lui rd v => .idle (hartRetire s h rd v len)
  | .auipc rd v => .idle (hartRetire s h rd (k.pc + v) len)
  | .jal rd off => .idle (rvJump s h rd next (k.pc + off))
  | .jalr rd rs1 off => .idle (rvJump s h rd next ((k.reg rs1 + off) &&& ~~~ 1))
  | .branch c a b off => .idle (rvJump s h 0 0 (if c.holds (k.reg a) (k.reg b) then k.pc + off else next))
  | .load n uns rd rs1 off => .idle ((rvLoadAt s k n uns (k.reg rs1 + off)).run s h rd len)
  | .store n rs1 rs2 off => .idle ((rvStoreAt s k n (k.reg rs1 + off) (k.reg rs2)).run s h 0 len)
  | .opImm op rd rs1 v => .idle (hartRetire s h rd (op.eval (k.reg rs1) v) len)
  | .op op rd rs1 rs2 => .idle (hartRetire s h rd (op.eval (k.reg rs1) (k.reg rs2)) len)
  | .csr op rd n src => rvCsr s h k op rd n.toNat src
  | .fence p q => .run (.serviceCoreFence ⟨p, q⟩) s
  | .fencei => .idle (hartRetire s h 0 0 len)
  | .amo x => .run (.serviceCoreAmo x) s
  | .ecall => .idle (hartTrap s h (if k.mode = 3 then 11 else 8 + k.mode) 0)
  | .ebreak => .idle (hartTrap s h 3 k.pc)
  | .mret => .idle (if k.mode = 3 then s.adjHart h Hart.mret else rvIllegal s h)
  | .sret => .idle (if k.mode = 0 ∨ (k.mode = 1 ∧ k.status 22) then rvIllegal s h else s.adjHart h Hart.sret)
  | .wfi => .idle (if k.mode ≠ 3 ∧ k.status 21 then rvIllegal s h else hartRetire s h 0 0 len)
  | .sfence => .idle (if k.mode = 0 ∨ (k.mode = 1 ∧ k.status 20) then rvIllegal s h else hartRetire s h 0 0 len)

/-! ### The turn of a service core -/

/-- The interrupt a core takes at a boundary: enabled, pending, by the standard's priority. -/
def Hart.takesInterrupt (k : Hart) : Option Nat :=
  let p := k.csr 0x344 &&& k.csr 0x304
  let d := k.csr 0x303
  let m := if k.mode < 3 ∨ k.status 3 then p &&& ~~~ d else 0
  let s := if k.mode < 1 ∨ (k.mode = 1 ∧ k.status 1) then p &&& d else 0
  let order := [11, 3, 7, 9, 1, 5]
  match order.find? fun i => m.getLsbD i with
  | some i => some i
  | none => order.find? fun i => s.getLsbD i

/-- What a fetch of one half-word comes to. -/
inductive RvFetch where
  | half (v : Nat)
  | fault (cause : Nat) (va : DWord)
  | later (s : State)
  deriving DecidableEq, Repr
/-- Fetch a half-word. -/
def fetchHalf (s : State) (k : Hart) (va : DWord) : RvFetch :=
  match hartAddr s k k.mode va.toNat .fetch with
  | .fault c => .fault c va
  | .pa pa =>
    if !(hartMemory s pa 2) then .fault 1 va
    else if !(hartReady s pa) then .later (wantRegion s pa)
    else .half (blockAt s pa 2)
/-- Fetch a word of 16 or 32 bits: its value and its length. -/
def fetchRv (s : State) (k : Hart) : RvFetch × Nat :=
  match fetchHalf s k k.pc with
  | .half a =>
    if a % 4 ≠ 3 then (.half a, 2)
    else match fetchHalf s k (k.pc + 2) with
      | .half b => (.half (a + 65536 * b), 4)
      | r => (r, 4)
  | r => (r, 2)

/-- The turn of a service core: nothing before the boot ROM has started it or while it waits in SWAIT; an interrupt at
the boundary; else the word at its pc, as Xkrov or as the standards give it (R372, R374, R378, R420). -/
noncomputable def hartTurn (s : State) (h : Nat) : Turn :=
  match s.harts[h]? with
  | none => .idle s
  | some k =>
    if k.wait.isSome || !s.mgt.started then .idle s
    else match k.takesInterrupt with
      | some i => .idle (s.adjHart h fun k => k.trap true i 0)
      | none =>
        match fetchRv s k with
        | (.fault c va, _) => .idle (hartTrap s h c va)
        | (.later s, _) => .idle s
        | (.half w, len) =>
          if len = 2 then
            match rvcDecode w with
            | some i => rvExec s h k 2 i
            | none => .idle (rvIllegal s h)
          else
            match decodeXkrov (BitVec.ofNat 32 w) (k.reg (rvReg w 20)) with
            | some i => .run i s
            | none =>
              match rvDecode w with
              | some i => rvExec s h k 4 i
              | none => .idle (rvIllegal s h)

end Sys2Proof.Machine
end

