-- ==== Sys2Proof/Machine/Place.lean ====
section
/-! DEFINITION. How an instruction is placed where the next step fetches it. -/

namespace Sys2Proof.Machine

/-- Keep the schedule's agent after a core's turn. -/
def restoreActor (a : Actor) : Out → Out
  | .next s => .next { s with actor := a }
  | o => o

/-! ### Placing an instruction (log 10) -/

/-- Where the placed code stands: physical and virtual address 0x2000. -/
def placeAddr : Nat := 0x2000
/-- The little-endian bytes of an instruction's words. -/
def codeBytes (nbits w : Nat) : List Byte := (wordsOf nbits w).flatMap fun x => leBytes 4 x.toNat

/-- A team of one group of eight lanes with every count at its limit. -/
def placeTeam (s : State) (pasid : Nat) : Team :=
  { id := 1, inst := 0, place := .running, core := 0, slot := 0, pasid, vif := 0, width := 8, vregs := 128, ztiles := 8
    kregs := 8, groups := [Group.start (BitVec.ofNat 64 placeAddr) 8 0 0], teamId := 0, clusterId := 0
    clusterTeam := 0, clusterW := 1, clusterH := 1, clusterKey := 0, node := 0, label := 0, sheafBase := 0
    sheafN := 0, depth := 0, params := 0, handler := 0x3000, window := 4096, tmem := [], badT := [], tiles := []
    kregState := [], barriers := [], bufs := [], activeBuf := 0, wloads := 0, latch := none, mq := []
    share := none, shareSeen := [], subs := [], hang := 0, res := 0, codeFrom := s.codeLog.length }

/-- The range entry of page 0: OFFSET with offset 0, R, W and X (R323). -/
def placeRange : Nat := 1 * 2 ^ 9 + 7 * 2 ^ 6
/-- A one-level range tree at 0x1000: a header with COUNT 1 and LEAF, and the entry. -/
def placeTree (m : Mem) : Mem := writeLE (writeLE m 0x1000 32 0x18) 0x1020 32 placeRange
/-- The PASID entry: ROOT 0x1000, TDEPTH 1, ACTIVE (R316). -/
def placePasid (s : State) (m : Mem) : Mem :=
  writeLE m (s.trn.ptBase.toNat + 16) 16 (0x1000 / 512 * 2 ^ 85 + 1 * 2 ^ 82 + 1)

/-- The state with an instruction placed: an Xkrov word at the pc of service core 0 in M-mode, once the service
cores are started, any other at the PC of
a fresh group whose PASID maps its page. -/
noncomputable def placeWord (s : State) (nbits w : Nat) : State :=
  let word : Word := BitVec.ofNat 32 w
  match decodeXkrov word 0 with
  | some _ =>
    let k : Hart := { (s.harts.getD 0 (Hart.reset 0 0)) with pc := BitVec.ofNat 64 placeAddr, wait := none, mode := 3 }
    let k : Hart := { k with x := Sparse.set 0 k.x (fld word 20 5).toNat 0 }
    { s with
      moves := [], actor := .hart 0, harts := k :: s.harts.drop 1, mgt := { s.mgt with started := true }
      mem := writeBytes s.mem placeAddr (codeBytes nbits w) }
  | none =>
    { s with
      moves := [], actor := .group ⟨1, 0⟩, teams := [placeTeam s 1]
      mem := placePasid s (placeTree (writeBytes s.mem placeAddr (codeBytes nbits w))) }

end Sys2Proof.Machine
end

