-- ==== Sys2Proof/Machine/Cycle.lean ====
section
/-! DEFINITION. The cycle of a core: what it selects issues in order (R136 to R141); the turn of an agent, and one move of
the schedule (log 4). -/

namespace Sys2Proof.Machine

/-- Run what a turn comes to. -/
def runTurn : Turn → Out
  | .idle s => .next s
  | .run i s => exec i s

/-- Each group of a list has its turn, one after another. -/
def issueAll (s : State) : List GRef → Out
  | [] => .next s
  | r :: l =>
    match runTurn (groupTurn s r) with
    | .next s => issueAll s l
    | o => o

/-- Go on with a next state. -/
def Out.andThen (o : Out) (f : State → Out) : Out :=
  match o with
  | .next s => f s
  | o => o

/-- The groups of a pack issue in ascending %groupid on their lane pipe (R137, R141). -/
def issuePack (core pipe : Nat) (l : List GRef) (s : State) : Out :=
  match l with
  | [] => .next s
  | l =>
    Out.andThen (issueAll (s.adjCore core fun k => { k with pack := some ⟨pipe, l, false⟩ }) l) fun s =>
      .next (s.adjCore core fun k => { k with pack := none })

/-- One cycle of a core: the traps, waits and fetches that need no pipe, then its selections in their order (R136,
R141). -/
def coreCycle (s : State) (core : Nat) : Out :=
  let x := selectOf s core
  Out.andThen (issueAll s x.front) fun s =>
    Out.andThen (issuePack core 0 x.pack0 s) fun s =>
      Out.andThen (issuePack core 1 x.pack1 s) fun s => issueAll s x.uni.toList

/-- The turn of an agent; a turn takes one cycle. A group's turn is a cycle of its core. -/
noncomputable def turn (s : State) : Out :=
  match s.actor with
  | .idle => .next (tick s 1)
  | .group r =>
    match s.team r.team with
    | none => .next (tick s 1)
    | some t => restoreActor s.actor (coreCycle (tick s 1) t.core)
  | .core c => restoreActor s.actor (coreCycle (tick s 1) c)
  | .hart h => runTurn (hartTurn (tick s 1) h)

/-- A group that stands at a 128-bit LD performs one of its halves (R192). -/
def halfMove (s : State) (r : GRef) (high : Bool) : Out :=
  match s.team r.team, s.group r with
  | some t, some g =>
    if t.place = .running ∧ g.ready s.clock = true ∧ g.half = none ∧ s.sfuHolds t.core r = false then
      match fetchInstr s t r.grp g g.issueSet.2 with
      | .ld x =>
        if x.w = .b128 then
          restoreActor s.actor (loadHalf x high { noteFetch s t r.grp g.issueSet.2 with actor := .group r })
        else .next s
      | _ => .next s
    else .next s
  | _, _ => .next s
/-- One move of the schedule. -/
noncomputable def runMove (s : State) : Move → Out
  | .event i => if isEvent i then exec i s else .next s
  | .turn a => turn { s with actor := a }
  | .tick n => .next (tick s n)
  | .upset u => .next (strike s u)
  | .links pod pods => .next (linksChange s pod pods)
  | .pass g i => .next (leaveEarly s g i)
  | .shareCopy team mate => .next (shareReach s team mate)
  | .half g high => halfMove s g high
  | .reread => .next (rereadLate s)
  | .piece id n => .next (copyPiece s id n)
  | .toHost q => .next (endToHost s q)
  | .modeDone => .next { s with trn := { s.trn with busy := false } }
  | .reload x => .next (reloadMicrocode s x)

end Sys2Proof.Machine
end

