-- ==== Sys2Proof/Machine/Step.lean ====
section
/-! DEFINITION. One step: the head of the schedule, or the turn of the acting agent (log 4); and a state whose next
step runs a given instruction. -/

namespace Sys2Proof.Machine

/-- One step (log 23). -/
noncomputable def step (s : State) : Host.Outcome State Fault Refusal :=
  match s.moves with
  | m :: r => runMove { s with moves := r } m
  | [] => turn s

/-- The state with an instruction placed where the next step fetches (log 10). -/
noncomputable def State.withFetchWord (s : State) (nbits w : Nat) : State := placeWord s nbits w

end Sys2Proof.Machine
end

