-- ==== Sys2Proof/Safety.lean ====
section
/-! DEFINITION. What a safe run is, and the terms claims use: when the acting group's instruction issues, what an
instruction changes and that it changes nothing else, and what taking a trap leaves. -/

namespace Sys2Proof.Machine

/-- A step that neither stops nor refuses. -/
def stepsOn (s : State) : Prop := ∃ s', step s = .next s'

/-- A run of n steps that never stops. -/
def safeFor : Nat → State → Prop
  | 0, _ => True
  | n + 1, s => ∃ s', step s = .next s' ∧ safeFor n s'

/-! ### Issuing -/

/-- The acting group of s is c's group and its instruction passes the checks of R47 that come before its own: the
registers n it names exist (R37, R83), the mode may run it when it is privileged (R362), no result it names is
outstanding (R144) and its sources have right parity (R91). -/
structure Issues (s : State) (c : Ctx) (n : Names) (priv : Bool) : Prop where
  ctx : s.ctx = some c
  names : namesOk c.t n = true
  mode : priv = true → c.g.inHandler = true
  settled : unsettled c.g n = false
  sound : sourceBad c.g c.I n = false

/-- A group with its park ended. -/
def Group.free (g : Group) : Group := { g with park := none }
/-- The context with the group's park ended, as the instruction sees it. -/
def Ctx.free (c : Ctx) : Ctx := { c with s := c.s.adjGroup c.r Group.free, g := c.g.free }

/-- The state in which c's instruction takes a trap in place of its effect (R360). -/
def Ctx.trapped (c : Ctx) (cause : Cause) (addr : DWord) (info : Word) : State :=
  takeTrap c.free.s c.r (c.free.mkTrap cause addr info) c.I []
/-- The state in which c's instruction waits under p, in a state u, to execute again (R446, log 12). -/
def Ctx.parked (c : Ctx) (p : Park) (u : State) : State := parkIssue c.free p u
/-- The context after its team has changed by f. -/
def Ctx.afterTeam (c : Ctx) (f : Team → Team) : Ctx :=
  { c with s := c.s.adjTeam c.r.team f, t := f c.t, g := ((f c.t).groups[c.r.grp]?).getD c.g }

/-- The lane waits at barrier n (R160). -/
def Lane.waitsAt (l : Lane) (n : Nat) : Bool := match l.park with | some (.bar m _) => m == n | _ => false

/-! ### What an instruction changes -/

/-- The changes of one instruction to its group: registers of the issuing lanes, their stochastic states, uniform
registers, the flags, the tile size, the cycle it may issue from (R140), results made outstanding and entries put into
the store queue. What is not named is not changed. -/
structure Effect where
  lane : Nat → Nat → Option Word := fun _ _ => none
  rng : Nat → Option Word := fun _ => none
  uni : Nat → Option Word := fun _ => none
  flags : FFlags → FFlags := id
  tile : Option Nat := none
  readyAt : Option Nat := none
  later : List Deferred := []
  queue : List SqEntry := []

/-- The group g after an instruction of c's group with these changes, its issuing lanes at `pc`: each change is there,
and every other register, flag and field is as before. Of the bookkeeping of issues, the hold of S and the parity marks
change too. -/
structure GroupDid (c : Ctx) (settle : Bool) (pc : Nat → DWord) (e : Effect) (g : Group) : Prop where
  count : g.lanes.length = c.g.lanes.length
  regs : ∀ L v, g.readLane L v = if L ∈ c.I then (e.lane L v).getD (c.g.readLane L v) else c.g.readLane L v
  unis : ∀ u, g.readUni u = if u = 0 then 0 else (e.uni u).getD (c.g.readUni u)
  pcs : ∀ L, (g.lane L).pc = if L ∈ c.I then pc L else (c.g.lane L).pc
  rngs : ∀ L, (g.lane L).rng = if L ∈ c.I then (e.rng L).getD (c.g.lane L).rng else (c.g.lane L).rng
  lanes : ∀ L, (g.lane L).exited = (c.g.lane L).exited ∧ (g.lane L).park = (c.g.lane L).park
  rest : g = { c.g with
    lanes := g.lanes, uregs := g.uregs, fflags := e.flags c.g.fflags, tile := e.tile.getD c.g.tile
    deferred := c.g.deferred ++ e.later, storeQ := c.g.storeQ ++ e.queue, park := g.park, lastIssue := g.lastIssue
    readyAt := e.readyAt.getD c.g.readyAt, needs := false
    held := g.held, settling := g.settling, badV := g.badV, badU := g.badU }
  hold : c.g.pending = none →
    g.park = if settle = true ∧ c.g.deferred ++ e.later ≠ [] then some .settle else none

/-- State t is state u but for the acting group, which is g, and for its team's HANG count: every other group of the
team, every other team and everything outside the teams is as in u. -/
def OnlyGroup (u : State) (c : Ctx) (g : Group) (t : State) : Prop :=
  t = { u with teams := t.teams } ∧ (∀ id, id ≠ c.r.team → t.team id = c.s.team id) ∧
    t.team c.r.team = some { c.t with hang := 0, groups := c.t.groups.set c.r.grp g }

/-- What t is after an instruction of c's group with these changes, its issuing lanes at `pc`, where u has the changes
outside the teams. -/
def DidIn (u : State) (c : Ctx) (settle : Bool) (pc : Nat → DWord) (e : Effect) (t : State) : Prop :=
  ∃ g, GroupDid c settle pc e g ∧ OnlyGroup { u with fresh := u.fresh + e.later.length } c g t

/-- What t is after an instruction that changes nothing outside its group. -/
def DidAt (c : Ctx) (settle : Bool) (pc : Nat → DWord) (e : Effect) (t : State) : Prop := DidIn c.s c settle pc e t

/-- The same, for an instruction of len bytes that goes on past itself. -/
def Did (c : Ctx) (settle : Bool) (len : Nat) (e : Effect) (t : State) : Prop :=
  DidAt c settle (fun _ => c.pc + BitVec.ofNat 64 len) e t

/-- One register in each lane. -/
def oneReg (d : BitVec 7) (f : Nat → Word) : Nat → Nat → Option Word := fun L v => if v = d.toNat then some (f L) else none
/-- A pair in each lane, low word in the even register (R5). -/
def pairReg (d : BitVec 7) (f : Nat → DWord) : Nat → Nat → Option Word := fun L v =>
  if v = d.toNat then some ((f L).extractLsb' 0 32) else if v = d.toNat + 1 then some ((f L).extractLsb' 32 32) else none
/-- One uniform register. -/
def oneUni (d : BitVec 6) (x : Word) : Nat → Option Word := fun u => if u = d.toNat then some x else none
/-- A uniform pair, low word in the even register (R5). -/
def pairUni (d : BitVec 6) (x : DWord) : Nat → Option Word := fun u =>
  if u = d.toNat then some (x.extractLsb' 0 32) else if u = d.toNat + 1 then some (x.extractLsb' 32 32) else none

/-! ### The integer functions of R94 to R99, on numbers -/

/-- Signed(x) of R93 as a word again. -/
def ofSigned (i : Int) : Word := BitVec.ofInt 32 i
/-- SHL by n: 0 from 32 on, else (a << n)<31:0> (R96). -/
def shlBy (a : Word) (n : Nat) : Word := if 32 ≤ n then 0 else BitVec.ofNat 32 (a.toNat * 2 ^ n)
/-- SHR by n: 0 from 32 on, else a >> n (R96). -/
def shrBy (a : Word) (n : Nat) : Word := if 32 ≤ n then 0 else BitVec.ofNat 32 (a.toNat / 2 ^ n)
/-- SAR by n: Signed(a) divided by 2^min(n, 31), rounded down (R96). -/
def sarBy (a : Word) (n : Nat) : Word := ofSigned (a.toInt / 2 ^ min n 31)
/-- ROL by n mod 32 (R96). -/
def rolBy (a : Word) (n : Nat) : Word := BitVec.ofNat 32 (a.toNat * 2 ^ (n % 32) + a.toNat / 2 ^ (32 - n % 32))
/-- The shift amount b<5:0> (R96). -/
def amount (b : Word) : Nat := b.toNat % 64
/-- Field position p of R98. -/
def fieldPos (b : Word) : Nat := min (b.toNat % 256) 32
/-- Field length n of R98. -/
def fieldLen (b : Word) : Nat := min (b.toNat / 256 % 256) (32 - fieldPos b)
/-- The unsigned field of a that b names (R98). -/
def field (a b : Word) : Nat := a.toNat / 2 ^ fieldPos b % 2 ^ fieldLen b
/-- BFES (R98). -/
def fieldSigned (a b : Word) : Word :=
  if fieldLen b = 0 then 0
  else ofSigned (if 2 ^ (fieldLen b - 1) ≤ field a b then (field a b : Int) - 2 ^ fieldLen b else field a b)
/-- BFI (R98). -/
def fieldInsert (a b d : Word) : Word :=
  let m : Word := BitVec.ofNat 32 ((2 ^ fieldLen b - 1) * 2 ^ fieldPos b)
  (d &&& ~~~m) ||| (BitVec.ofNat 32 (a.toNat * 2 ^ fieldPos b) &&& m)
/-- Byte i of PRMT (R98). -/
def permuteByte (a b d : Word) (i : Nat) : Nat :=
  let c := b.toNat / 16 ^ i % 16
  let y := (d.toNat * 2 ^ 32 + a.toNat) / 2 ^ (8 * (c % 8)) % 256
  if c / 8 = 1 then (if 128 ≤ y then 255 else 0) else y
/-- PRMT (R98). -/
def permute (a b d : Word) : Word := BitVec.ofNat 32 (((List.range 4).map fun i => permuteByte a b d i * 256 ^ i).sum)
/-- POPC (R97). -/
def onesOf (a : Word) : Word := BitVec.ofNat 32 ((List.range 32).countP fun i => a.getLsbD i)
/-- CLZ (R97). -/
def leadingZeros (a : Word) : Word := BitVec.ofNat 32 (if a = 0 then 32 else 31 - a.toNat.log2)
/-- CTZ (R97). -/
def trailingZeros (a : Word) : Word := BitVec.ofNat 32 (((List.range 32).find? fun i => a.getLsbD i).getD 32)
/-- BREV: bit i is a<31 − i> (R97). -/
def bitsReversed (a : Word) : Word := BitVec.ofNat 32 (((List.range 32).map fun i => if a.getLsbD (31 - i) then 2 ^ i else 0).sum)
/-- A truth value as 1 or 0. -/
def oneIf (p : Prop) [Decidable p] : Word := if p then 1 else 0

/-- The two-source functions of R94 to R98, in the order of their tables: ADD, SUB, MIN, MAX, MINU, MAXU, AND, OR, XOR,
ANDN, SEQ, SNE, SLT, SLTU, MUL, MULHI, MULHIU, SHL, SHR, SAR, ROL, BFEU, BFES. -/
def intFunctions : List (Word → Word → Word) :=
  [fun a b => a + b, fun a b => a - b, fun a b => if a.toInt ≤ b.toInt then a else b,
   fun a b => if a.toInt ≥ b.toInt then a else b, fun a b => if a.toNat ≤ b.toNat then a else b,
   fun a b => if a.toNat ≥ b.toNat then a else b, fun a b => a &&& b, fun a b => a ||| b, fun a b => a ^^^ b,
   fun a b => a &&& ~~~b, fun a b => oneIf (a = b), fun a b => oneIf (a ≠ b), fun a b => oneIf (a.toInt < b.toInt),
   fun a b => oneIf (a.toNat < b.toNat), fun a b => BitVec.ofNat 32 (a.toNat * b.toNat),
   fun a b => ofSigned (a.toInt * b.toInt / 2 ^ 32), fun a b => BitVec.ofNat 32 (a.toNat * b.toNat / 2 ^ 32),
   fun a b => shlBy a (amount b), fun a b => shrBy a (amount b), fun a b => sarBy a (amount b),
   fun a b => rolBy a (amount b), fun a b => BitVec.ofNat 32 (field a b), fieldSigned]
/-- The functions that read the old destination: MAD, SEL, BFI, PRMT (R94, R95, R98). -/
def intFunctions3 : List (Word → Word → Word → Word) :=
  [fun a b d => BitVec.ofNat 32 (d.toNat + a.toNat * b.toNat), fun a b d => if d ≠ 0 then a else b, fieldInsert, permute]
/-- The unary functions: ABS, NEG, MOV, POPC, CLZ, CTZ, BREV (R94, R97). -/
def intFunctions1 : List (Word → Word) :=
  [fun a => BitVec.ofNat 32 a.toInt.natAbs, fun a => ofSigned (-a.toInt), fun a => a, onesOf, leadingZeros, trailingZeros,
   bitsReversed]

/-! ### Results that land later, and tiles -/

/-- A lane result that is outstanding at once: the words `f` gives each issuing lane, in n registers from d on, and the
flags that are set when it lands (R111, R143). -/
def laterLanes (c : Ctx) (d : BitVec 7) (n : Nat) (f : Nat → List Word) (flags : FFlags) : Deferred :=
  { id := c.s.fresh, vregs := runOf d.toNat n, uregs := [], unis := [], flags, wait := 0
    lanes := c.I.flatMap fun L => (f L).zipIdx.map fun wi => (L, d.toNat + wi.2, wi.1) }
/-- A uniform result that is outstanding at once. -/
def laterUni (c : Ctx) (d : BitVec 6) (ws : List Word) : Deferred :=
  { id := c.s.fresh, vregs := [], uregs := runOf d.toNat ws.length, lanes := [], flags := 0, wait := 0
    unis := ws.zipIdx.map fun wi => (d.toNat + wi.2, wi.1) }
/-- The values that the issuing lanes of lane L's tile give, in lane order (R147, R154). -/
def Ctx.tileValues {α : Type} (c : Ctx) (L : Nat) (f : Nat → α) : List α :=
  (c.I.filter fun K => K / c.g.tile == L / c.g.tile).map f
/-- Read-modify-writes of a memory, one for each lane of a list in its order: the old values and the memory after
(R172). -/
def atomicRun (op : AtomOp) (wide : Bool) (off : Nat → Nat) (b cmp : Nat → DWord) (m : Mem) : List Nat → List (Nat × DWord) × Mem
  | [] => ([], m)
  | L :: r =>
    let n := if wide then 8 else 4
    let old : DWord := BitVec.ofNat 64 (readLE m (off L) n)
    let q := atomicRun op wide off b cmp (writeLE m (off L) n (atomicNew op wide old (b L) (cmp L)).toNat) r
    ((L, old) :: q.1, q.2)
/-- A team after bytes are written to its window: a word that is written whole has right parity again (R169). -/
def Team.stored (t : Team) (off : Nat) (bs : List Byte) : Team :=
  { t with tmem := writeBytes t.tmem off bs
           badT := t.badT.filter fun w => !(decide (off ≤ 4 * w) && decide (4 * w + 4 ≤ off + bs.length)) }
/-- n entries may enter the group's store queue now: no group of its pack waits before it at the instruction, and
there is room (R172, R225). -/
structure Ctx.Enters (c : Ctx) (n : Nat) : Prop where
  first : packBefore c = false
  room : storeRoom c.g n = true
/-- The conditions under which a uniform instruction acts on an object of n bytes at an offset as an ATT does: it is
aligned, inside the window and sound, no acquire of the group is on its way, and its earlier stores have taken effect
(R166, R172, R226, R259, R261). -/
structure ActsAt (s : State) (c : Ctx) (n off : Nat) : Prop where
  aligned : off % n = 0
  inside : off + n ≤ c.t.window
  sound : softHit c.t off n = false
  acquired : acquirePending s c.t.core c.r c.g = false
  drained : coreDrained s c.r = true
/-- Every access is aligned and passes the checks of R190, its page is resident and its host region the accelerator's,
and no replay, copy engine, write that waits for acknowledgements, or acquire of the group stands before it (R227,
R229, R234, R338); `ps` are the accesses with their places. -/
structure Placeable (c : Ctx) (accs : List Acc) (ps : List Placed) : Prop where
  places : ps = accs.map fun a => (a, place c.s c.t.pasid a.va a.use)
  aligned : ∀ a ∈ accs, a.va % a.n = 0
  allowed : ∀ a ∈ accs, ∀ k n, translate c.s c.t.pasid a.va a.use ≠ .trap k n
  resident : ∀ p ∈ ps, ∀ n r b, p.2 ≠ .miss n r b
  ready : ∀ p ∈ ps, ∀ pa k, p.2 = .at pa k → regionReady c.s pa = true
  free : ∀ p ∈ ps, Placed.waits c.s c.t.core c.t.pasid p = false
  acquired : acquirePending c.s c.t.core c.r c.g = false
/-- Every store is aligned and passes the checks of R190, and no acquire of the group is on its way; whether its page is
resident is decided when it leaves the queue (R190, R352). -/
structure Storable (c : Ctx) (accs : List Acc) : Prop where
  aligned : ∀ a ∈ accs, a.va % a.n = 0
  allowed : ∀ a ∈ accs, ∀ k n, translate c.s c.t.pasid a.va a.use ≠ .trap k n
  acquired : acquirePending c.s c.t.core c.r c.g = false
/-- The state in which c's instruction of len bytes has completed, its lanes past it, where u is what it left. -/
def Ctx.done (c : Ctx) (len : Nat) (settle : Bool) (u : State) : State :=
  afterIssue c.free settle (setPcs u c.r (c.I.map fun L => (L, c.pc + BitVec.ofNat 64 len)))
/-- A result that is outstanding in n registers from d on: the words of each lane. -/
def laterBytes (id : Nat) (d : BitVec 7) (n wait : Nat) (l : List (Nat × List Word)) : Deferred :=
  { id, vregs := runOf d.toNat n, uregs := [], unis := [], flags := 0, wait
    lanes := l.flatMap fun x => x.2.zipIdx.map fun wi => (x.1, d.toNat + wi.2, wi.1) }
/-- Since when a group waits for a place in a queue of copies: kept from its park, else from now (R25, R240). -/
def Ctx.queuedSince (c : Ctx) : Nat := match c.g.park with | some (.copyQueue n) => n | _ => c.s.clock
/-- A COPY of the acting group whose records and chain program can be read and pass every check, with its release done
(R228, R251, R256); `job` is what engine e is to hold for it (R240). -/
structure Copyable (s : State) (c : Ctx) (x : CopyOp) (e : Nat) (job : CopyJob) : Prop where
  issues : Issues s c (Names.add (readsU (x.d.toNat :: runOf x.a.toNat 2 ++ runOf x.b.toNat 6))
    (if x.c = 0 then {} else readsU (runOf x.c.toNat 2))) false
  arrival : ∀ off, job.aw = some off → off % 16 = 0 ∧ off + 16 ≤ c.t.window
  drained : drainedAt c.free.s c.t.core c.r 3 = true
  reads :
    let pair := (c.g.uniPair x.a.toNat).toNat
    ∃ ps, Placeable c.free (⟨0, pair, 128, .read 16⟩ ::
        (if x.c = 0 then [] else [⟨0, (c.g.uniPair x.c.toNat).toNat, 64, .read 16⟩])) ps ∧
      let pa := fun i : Nat => ((ps[i]?).bind Placed.pa).getD 0
      job = { id := s.fresh, g := c.r, engine := e, pasid := c.t.pasid, vif := c.t.vif, dir := x.dir
              src := wideOf (homeBytes s (pa 0) 64), dst := wideOf (homeBytes s (pa 0 + 64) 64)
              coords := (List.range 6).map fun k => c.g.readUni (x.b.toNat + k)
              chain := if x.c = 0 then none else some (wideOf (homeBytes s (pa 1) 64))
              aw := if x.d = 0 then none else some (c.g.readUni x.d.toNat).toNat
              waiting := none, grains := [], held := false, done := [], since := none } ∧
      captureTrap c.free job.spec job.chain pair = none
/-- The state in which an engine has taken c's COPY, with the grains it can take at once (R186, R228, R240). -/
def Ctx.copied (c : Ctx) (settle : Bool) (job : CopyJob) : State :=
  c.done 8 settle (takeGrains { c.free.s with copies := c.s.copies ++ [job], fresh := c.s.fresh + 1 } c.s.fresh)
/-- Since when a group waits for a place in a port queue: kept from its park, else from now (R25, R412). -/
def Ctx.portSince (c : Ctx) : Nat := match c.g.park with | some (.portQueue n) => n | _ => c.s.clock
/-- A PUT, or a GET, of the acting group that passes every check, a PUT with its release done (R411, R412). -/
structure Admissible (s : State) (c : Ctx) (x : PutGet) (put : Bool) (r : Range) : Prop where
  issues : Issues s c (readsU (x.d.toNat :: runOf x.a.toNat 2 ++ runOf x.b.toNat 2)) false
  range : windowRange s c.t.pasid (c.g.uniPair x.b.toNat).toNat = some r
  checks : putGetFault s c.t.vif c.t.pasid put (c.g.uniPair x.a.toNat).toNat (c.g.uniPair x.b.toNat).toNat
    (c.g.readUni x.d.toNat).toNat = none
  acquired : acquirePending s c.t.core c.r c.g = false
  drained : put = true → drainedAt c.free.s c.t.core c.r 5 = true
/-- The state in which the port of c's chiplet holds c's PUT or GET (R412). -/
def Ctx.admitted (c : Ctx) (x : PutGet) (put : Bool) (r : Range) : State :=
  c.done 8 x.s (admitFabOp c.free.s (newFabOp c put x.notify (c.g.uniPair x.a.toNat).toNat (c.g.uniPair x.b.toNat).toNat
    (c.g.readUni x.d.toNat).toNat r))
/-- A branch target: the next instruction plus 4 × Signed(off) (R36). -/
def target (next : DWord) (off : BitVec 16) : DWord := next + BitVec.ofInt 64 (4 * off.toInt)

/-! ### Service cores -/

/-- The acting core h may execute Xkrov instruction i: it is in M-mode, or in S-mode with bit i of mxkenable set, and
the instruction is given to its role (R375). -/
structure Serving (s : State) (h : Nat) (k : Hart) (i : Nat) (roles : List Nat) : Prop where
  acts : s.actor = .hart h
  core : s.harts[h]? = some k
  mode : k.mode = 3 ∨ k.mode = 1 ∧ k.mxkenable.getLsbD i = true
  role : k.role ∈ roles
/-- An operand block of n bytes, aligned, at a place in memory a core may access now, which no store of it must leave to
M-mode (R327, R377, R378). -/
structure Block (s : State) (k : Hart) (va : DWord) (n : Nat) (u : HartUse) (pa : Nat) : Prop where
  aligned : va.toNat % n = 0
  reached : hartAddr s k k.mode va.toNat u = .pa pa
  memory : hartMemory s pa n = true
  own : u = .store → tableGuard s k.mode pa = false
  ready : hartReady s pa = true
/-- State t is state u with the instruction of its core h retired: rd has the value v unless it is x0, and the pc is
past the 4 bytes. Every other register and field of the core, and everything else, is as in u. -/
def Retired (u : State) (h : Nat) (k : Hart) (rd : BitVec 5) (v : DWord) (t : State) : Prop :=
  ∃ x, t = { u with harts := u.harts.set h { k with x := x, pc := k.pc + 4 } } ∧
    ∀ r : BitVec 5, Hart.reg { k with x := x } r = if r = rd ∧ r ≠ 0 then v else k.reg r

/-! ### Queue slots -/

/-- Slot n runs with a packet at its head that it has read at pa, of 64 bytes v, in a state u with the read noted: the
packet keeps its form and nothing holds the slot (R399, R400). -/
structure PacketAt (s : State) (n : Nat) (u : State) (v : Nat) : Prop where
  running : (s.slot n).state = .running
  free : (s.slot n).held = none ∧ (s.slot n).poll = none
  ready : qcbQstate (s.slot n).qcb ≠ 3 ∧ qcbQstate (s.slot n).qcb ≠ 1
  some : qcbRptr (s.slot n).qcb ≠ qcbWptr (s.slot n).qcb
  read : ∃ pa kind, slotAddr s (qcbPasid (s.slot n).qcb)
      ((qcbRing (s.slot n).qcb + 64 * (qcbRptr (s.slot n).qcb % 2 ^ qcbRlog (s.slot n).qcb)) % 2 ^ 64) [.read 16] = .pa pa kind ∧
    u = noteAccess s pa kind ∧ v = leNat (homeBytes u pa 64)
  form : packetOk v = true
/-- An aligned word of a packet that slot n can reach for its uses, at pa in a state w with the access noted (R400). -/
def WordAt (u : State) (n va align : Nat) (uses : List Use) (pa : Nat) (w : State) : Prop :=
  va % align = 0 ∧ ∃ kind, slotAddr u (qcbPasid (u.slot n).qcb) va uses = .pa pa kind ∧ w = noteAccess u pa kind
/-- The words at which a START of slot n writes its end can be reached: the completion at e.1, and the signal where it
has one, in a state w with the accesses noted (R293, R312, R400). -/
def EndsAt (u : State) (n : Nat) (a : Start) (e : Ends) (w : State) : Prop :=
  ∃ w1, WordAt u n a.completion 16 [.write 16] e.1 w1 ∧
    (a.signal = 0 ∧ e.2 = none ∧ w = w1 ∨
      a.signal ≠ 0 ∧ ∃ pa, e.2 = some pa ∧ WordAt w1 n a.signal 8 [.read 8, .write 8] pa w)
/-- A START that slot n reads in state w finds everything it needs: descriptor, parameters and handler pointer can be
read and the arena is resident, nothing of R292 refuses it, and `w3` has the reads noted (R292, R293). -/
structure Startable (s w : State) (n : Nat) (a : Start) (w3 : State) (nodes : List NodeDesc) (code : Nat) : Prop where
  fresh : (s.slot n).failed = none
  aligned : a.desc % 64 = 0
  reads :
    let pasid := qcbPasid (s.slot n).qcb
    let w1 := notePages w pasid a.desc 64
    let hdr := leNat (agentRead w1 pasid a.desc 64)
    let w2 := notePages w1 pasid (a.desc + 64) (64 * (hdr / 2 ^ 80 % 2 ^ 7))
    let raw := (List.range (hdr / 2 ^ 80 % 2 ^ 7)).map fun i => leNat (agentRead w3 pasid (a.desc + 64 * (i + 1)) 64)
    (∃ i k, rangeAddr w pasid a.desc (grainCount a.desc 64) = .pa i k) ∧
    (∃ i k, rangeAddr w1 pasid (a.desc + 64) (grainCount (a.desc + 64) (64 * (hdr / 2 ^ 80 % 2 ^ 7))) = .pa i k) ∧
    (∃ i k, rangeAddr w2 pasid a.params (grainCount a.params (hdr / 2 ^ 64 % 2 ^ 16)) = .pa i k) ∧
    w3 = notePages w2 pasid a.params (hdr / 2 ^ 64 % 2 ^ 16) ∧
    arenaMiss w3 pasid (a.arena / 65536) (pageCount a.arena (min a.size (2 ^ 56))) = none ∧
    startReason hdr raw = none ∧ nodes = raw.map nodeOf ∧ arenaBreaks w3 pasid a (hdr / 2 ^ 64 % 2 ^ 16) nodes = false ∧
    code = (hdr % 2 ^ 64 + 2 ^ 64 - 8) % 2 ^ 64 ∧ ∃ i k, rangeAddr w3 pasid code (grainCount code 8) = .pa i k

/-! ### Words -/

/-- The words of Xkrov, with the value of rs2 that tells the actions of WAKEG and the operations of DISPATCH apart
(R374, R383, R403). -/
noncomputable def xkrovWords (x : XR3) (y : XR2) (sel : DWord) : List (Instr × Prop) :=
  [(.bfx x, True), (.lodeh x, True), (.swait x, True), (.fqpop y, True), (.wakegComplete x, sel.toNat % 4 = 0),
   (.wakegRefuse x, sel.toNat % 4 = 1), (.wakegDecline x, sel.toNat % 4 = 2), (.wakegRequeue x, sel.toNat % 4 = 3),
   (.glreplay y, True), (.pginst x, True), (.pgevict y, True), (.rfetch y, True), (.ueread y, True), (.uewrite y, True),
   (.lodeq y, True), (.dispatchRun x, sel = 0), (.dispatchStop x, sel = 1), (.dispatchPreempt x, sel = 2), (.qsave x, True),
   (.qload x, True)]
/-- The word is an Xkrov instruction's. -/
def isXkrov (i : Instr) : Prop := ∃ x y sel, ∃ p ∈ xkrovWords x y sel, i = p.1

end Sys2Proof.Machine
end

