-- ==== Sys2Proof/Certificates/Slice0/Obligations.lean ====
section
/-! DEFINITION. The statements for the provers. -/

open Sys2Proof Sys2Proof.Machine

/-! ### Integer, address and move instructions -/

/-- R94 to R98 in lanes: every one completes with its function's value in register d of the issuing lanes, and nothing
else changed. -/
def Obligations.LaneIntegers : Prop :=
  ∀ (s : State) (c : Ctx),
    (∀ x : LR, Issues s c (LR.names x false) false → ∀ p ∈ [Instr.add x, .sub x, .min x, .max x, .minu x, .maxu x, .and x,
        .or x, .xor x, .andn x, .seq x, .sne x, .slt x, .sltu x, .mul x, .mulhi x, .mulhiu x, .shl x, .shr x, .sar x, .rol x,
        .bfeu x, .bfes x].zip intFunctions,
      ∃ t, exec p.1 s = .next t ∧
        Did c x.s 4 { lane := oneReg x.d fun L => p.2 (c.g.readLane L x.a.toNat) (c.g.src L x.b) } t) ∧
    (∀ x : LR, Issues s c (LR.names x true) false → ∀ p ∈ [Instr.mad x, .sel x, .bfi x, .prmt x].zip intFunctions3,
      ∃ t, exec p.1 s = .next t ∧
        Did c x.s 4
          { lane := oneReg x.d fun L => p.2 (c.g.readLane L x.a.toNat) (c.g.src L x.b) (c.g.readLane L x.d.toNat) } t) ∧
    ∀ x : LU, Issues s c (LU.names x) false →
      ∀ p ∈ [Instr.abs x, .neg x, .mov x, .popc x, .clz x, .ctz x, .brev x].zip intFunctions1,
        ∃ t, exec p.1 s = .next t ∧ Did c x.s 4 { lane := oneReg x.d fun L => p.2 (c.g.readLane L x.a.toNat) } t

/-- R105: the same functions on uniform registers. -/
def Obligations.UniformIntegers : Prop :=
  ∀ (s : State) (c : Ctx),
    (∀ x : UR, Issues s c (UR.names x false) false → ∀ p ∈ [Instr.saluAdd x, .saluSub x, .saluMin x, .saluMax x, .saluMinu x,
        .saluMaxu x, .saluAnd x, .saluOr x, .saluXor x, .saluAndn x, .saluSeq x, .saluSne x, .saluSlt x, .saluSltu x, .saluMul x,
        .saluMulhi x, .saluMulhiu x, .saluShl x, .saluShr x, .saluSar x, .saluRol x, .saluBfeu x, .saluBfes x].zip intFunctions,
      ∃ t, exec p.1 s = .next t ∧
        Did c x.s 4 { uni := oneUni x.d (p.2 (c.g.readUni x.a.toNat) (c.g.readUni x.b.toNat)) } t) ∧
    (∀ x : UR, Issues s c (UR.names x true) false →
      ∀ p ∈ [Instr.saluMad x, .saluSel x, .saluBfi x, .saluPrmt x].zip intFunctions3,
        ∃ t, exec p.1 s = .next t ∧ Did c x.s 4
          { uni := oneUni x.d (p.2 (c.g.readUni x.a.toNat) (c.g.readUni x.b.toNat) (c.g.readUni x.d.toNat)) } t) ∧
    ∀ x : UU, Issues s c (Names.add (writesU [x.d.toNat]) (readsU [x.a.toNat])) false →
      ∀ p ∈ [Instr.saluAbs x, .saluNeg x, .saluMov x, .saluPopc x, .saluClz x, .saluCtz x, .saluBrev x].zip intFunctions1,
        ∃ t, exec p.1 s = .next t ∧ Did c x.s 4 { uni := oneUni x.d (p.2 (c.g.readUni x.a.toNat)) } t

/-- R99 and R106: ADD64, SUB64, SHL64 and SHR64 on pairs of both sets. -/
def Obligations.PairArithmetic : Prop :=
  ∀ (s : State) (c : Ctx),
    (∀ x : LR, Issues s c
        (Names.add (writesV (runOf x.d.toNat 2)) (Names.add (readsV (runOf x.a.toNat 2)) (Src.pairNames x.b))) false →
      (∃ t, exec (.add64 x) s = .next t ∧ Did c x.s 4
        { lane := pairReg x.d fun L => BitVec.ofNat 64 ((c.g.lanePair L x.a.toNat).toNat + (c.g.srcPair L x.b).toNat) } t) ∧
      ∃ t, exec (.sub64 x) s = .next t ∧ Did c x.s 4
        { lane := pairReg x.d fun L => BitVec.ofInt 64 ((c.g.lanePair L x.a.toNat).toNat - (c.g.srcPair L x.b).toNat) } t) ∧
    (∀ x : LR, Issues s c
        (Names.add (writesV (runOf x.d.toNat 2)) (Names.add (readsV (runOf x.a.toNat 2)) (Src.names x.b))) false →
      (∃ t, exec (.shl64 x) s = .next t ∧ Did c x.s 4
        { lane := pairReg x.d fun L => BitVec.ofNat 64 ((c.g.lanePair L x.a.toNat).toNat * 2 ^ ((c.g.src L x.b).toNat % 128)) } t) ∧
      ∃ t, exec (.shr64 x) s = .next t ∧ Did c x.s 4
        { lane := pairReg x.d fun L => BitVec.ofNat 64 ((c.g.lanePair L x.a.toNat).toNat / 2 ^ ((c.g.src L x.b).toNat % 128)) } t) ∧
    (∀ x : UR, Issues s c
        (Names.add (writesU (runOf x.d.toNat 2)) (readsU (runOf x.a.toNat 2 ++ runOf x.b.toNat 2))) false →
      (∃ t, exec (.salu64Add64 x) s = .next t ∧ Did c x.s 4
        { uni := pairUni x.d (BitVec.ofNat 64 ((c.g.uniPair x.a.toNat).toNat + (c.g.uniPair x.b.toNat).toNat)) } t) ∧
      ∃ t, exec (.salu64Sub64 x) s = .next t ∧ Did c x.s 4
        { uni := pairUni x.d (BitVec.ofInt 64 ((c.g.uniPair x.a.toNat).toNat - (c.g.uniPair x.b.toNat).toNat)) } t) ∧
    ∀ x : UR, Issues s c (Names.add (writesU (runOf x.d.toNat 2)) (readsU (x.b.toNat :: runOf x.a.toNat 2))) false →
      (∃ t, exec (.salu64Shl64 x) s = .next t ∧ Did c x.s 4
        { uni := pairUni x.d (BitVec.ofNat 64 ((c.g.uniPair x.a.toNat).toNat * 2 ^ ((c.g.readUni x.b.toNat).toNat % 128))) } t) ∧
      ∃ t, exec (.salu64Shr64 x) s = .next t ∧ Did c x.s 4
        { uni := pairUni x.d (BitVec.ofNat 64 ((c.g.uniPair x.a.toNat).toNat / 2 ^ ((c.g.readUni x.b.toNat).toNat % 128))) } t

/-- R100 to R102, R107 and R108: immediates, constants and LSRD in lanes, and immediates and constants of the uniform
set. -/
def Obligations.ImmediatesAndConstants : Prop :=
  (∀ (s : State) (c : Ctx),
    (∀ d a : BitVec 7, Issues s c (Names.add (writesV [d.toNat]) (readsV [a.toNat])) false → ∀ w : Bool,
      (∀ n : BitVec 10, ∃ t, exec (.addi ⟨w, d, a, n⟩) s = .next t ∧ Did c w 4
        { lane := oneReg d fun L => BitVec.ofInt 32 ((c.g.readLane L a.toNat).toInt + n.toInt) } t) ∧
      (∀ n : BitVec 5, ∀ p ∈ [Instr.shli ⟨w, d, a, n⟩, .shri ⟨w, d, a, n⟩, .sari ⟨w, d, a, n⟩, .roli ⟨w, d, a, n⟩].zip
          [shlBy, shrBy, sarBy, rolBy], ∃ t, exec p.1 s = .next t ∧ Did c w 4
        { lane := oneReg d fun L => p.2 (c.g.readLane L a.toNat) n.toNat } t) ∧
      ∀ n : BitVec 8, ∀ p ∈ [Instr.andi ⟨w, d, a, n⟩, .ori ⟨w, d, a, n⟩, .xori ⟨w, d, a, n⟩, .andni ⟨w, d, a, n⟩].zip
          [fun (u v : Word) => u &&& v, fun u v => u ||| v, fun u v => u ^^^ v, fun u v => u &&& ~~~v],
        ∃ t, exec p.1 s = .next t ∧ Did c w 4
          { lane := oneReg d fun L => p.2 (c.g.readLane L a.toNat) (BitVec.ofNat 32 n.toNat) } t) ∧
    ∀ d : BitVec 7, Issues s c (writesV [d.toNat]) false → ∀ w : Bool,
      (∀ n : BitVec 17, ∃ t, exec (.movi ⟨w, d, n⟩) s = .next t ∧ Did c w 4 { lane := oneReg d fun _ => BitVec.ofInt 32 n.toInt } t) ∧
      (∀ n : Word, ∃ t, exec (.movw ⟨w, d, n⟩) s = .next t ∧ Did c w 8 { lane := oneReg d fun _ => n } t) ∧
      ∀ p ∈ [(0, fun L => L), (1, fun L => L % c.g.tile), (2, fun L => c.r.grp * c.t.width + L), (3, fun L => (2 ^ L - 1) % 2 ^ 32),
          (4, fun L => (2 ^ L - 1) / 2 ^ 32)], ∃ t, exec (.lsrd ⟨w, d, BitVec.ofNat 10 p.1⟩) s = .next t ∧
        Did c w 4 { lane := oneReg d fun L => BitVec.ofNat 32 (p.2 L) } t) ∧
  (∀ (s : State) (c : Ctx),
    (∀ d a : BitVec 6, Issues s c (Names.add (writesU [d.toNat]) (readsU [a.toNat])) false → ∀ w : Bool,
      (∀ n : BitVec 12, ∀ p ∈ [Instr.saddi ⟨w, d, a, n⟩, .sandi ⟨w, d, a, n⟩, .sori ⟨w, d, a, n⟩, .sxori ⟨w, d, a, n⟩,
          .sslti ⟨w, d, a, n⟩].zip [fun (u : Word) => BitVec.ofInt 32 (u.toInt + n.toInt), fun u => u &&& BitVec.ofNat 32 n.toNat,
            fun u => u ||| BitVec.ofNat 32 n.toNat, fun u => u ^^^ BitVec.ofNat 32 n.toNat, fun u => oneIf (u.toInt < n.toInt)],
        ∃ t, exec p.1 s = .next t ∧ Did c w 4 { uni := oneUni d (p.2 (c.g.readUni a.toNat)) } t) ∧
      ∀ n : BitVec 5, ∀ p ∈ [Instr.sshli ⟨w, d, a, n⟩, .sshri ⟨w, d, a, n⟩, .ssari ⟨w, d, a, n⟩, .sroli ⟨w, d, a, n⟩].zip
          [shlBy, shrBy, sarBy, rolBy],
        ∃ t, exec p.1 s = .next t ∧ Did c w 4 { uni := oneUni d (p.2 (c.g.readUni a.toNat) n.toNat) } t) ∧
    ∀ d : BitVec 6, Issues s c (writesU [d.toNat]) false → ∀ w : Bool,
      (∀ n : BitVec 18, ∃ t, exec (.smovi ⟨w, d, n⟩) s = .next t ∧ Did c w 4 { uni := oneUni d (BitVec.ofInt 32 n.toInt) } t) ∧
      ∀ n : Word, ∃ t, exec (.smovw ⟨w, d, n⟩) s = .next t ∧ Did c w 8 { uni := oneUni d n } t)

/-! ### Floating point, special functions, conversion and random numbers -/

/-- R114 to R120: FP32, FP16, BF16 and dot instructions write their function's value and set its flags. -/
def Obligations.FloatResults : Prop :=
  ∀ (s : State) (c : Ctx),
    (∀ x : LR, Issues s c (LR.names x false) false →
      (∀ p ∈ [Instr.fadd x, .fsub x, .fmul x, .fscale x, .hadd2 x, .hmul2 x, .hmax2 x, .badd2 x, .bmul2 x, .bmax2 x].zip
          [opFadd, opFsub, opFmul, opFscale, opAdd2 fp16, opMul2 fp16, opMax2 fp16, opAdd2 bf16, opMul2 bf16, opMax2 bf16],
        ∃ t, exec p.1 s = .next t ∧ Did c x.s 4
          { lane := oneReg x.d fun L => (p.2 (c.g.readLane L x.a.toNat) (c.g.src L x.b)).1
            flags := fun o => o ||| orFlags (c.I.map fun L => (p.2 (c.g.readLane L x.a.toNat) (c.g.src L x.b)).2) } t) ∧
      ∀ p ∈ [Instr.fmin x, .fmax x, .fcpsgn x, .feq x, .flt x, .fle x, .fUn x].zip
          [opFmin, opFmax, opFcpsgn, fun a b => oneIf (fEqual (f32 a) (f32 b)), fun a b => oneIf (fLess false (f32 a) (f32 b)),
            fun a b => oneIf (fLess false (f32 a) (f32 b) ∨ fEqual (f32 a) (f32 b)), fun a b => oneIf (f32 a = .nan ∨ f32 b = .nan)],
        ∃ t, exec p.1 s = .next t ∧ Did c x.s 4
          { lane := oneReg x.d fun L => p.2 (c.g.readLane L x.a.toNat) (c.g.src L x.b) } t) ∧
    (∀ x : LR, Issues s c (LR.names x true) false →
      (∀ p ∈ [Instr.ffma x, .ffms x, .fnma x, .fnms x, .hfma2 x, .bfma2 x, .hdot2 x, .bdot2 x].zip
          [opFma false false, opFma false true, opFma true true, opFma true false, opFma2 fp16, opFma2 bf16, opDot2 fp16,
            opDot2 bf16],
        ∃ t, exec p.1 s = .next t ∧ Did c x.s 4
          { lane := oneReg x.d fun L => (p.2 (c.g.readLane L x.a.toNat) (c.g.src L x.b) (c.g.readLane L x.d.toNat)).1
            flags := fun o => o ||| orFlags (c.I.map fun L =>
              (p.2 (c.g.readLane L x.a.toNat) (c.g.src L x.b) (c.g.readLane L x.d.toNat)).2) } t) ∧
      ∀ p ∈ [(Instr.i8dot4 x, fun v : Byte => v.toInt), (.u8dot4 x, fun v => v.toNat)],
        ∃ t, exec p.1 s = .next t ∧ Did c x.s 4
          { lane := oneReg x.d fun L => BitVec.ofInt 32
              ((c.g.readLane L x.d.toNat).toInt + ((List.range 4).map fun j =>
            p.2 ((c.g.readLane L x.a.toNat).extractLsb' (8 * j) 8) * p.2 ((c.g.src L x.b).extractLsb' (8 * j) 8)).sum) } t) ∧
    ∀ x : LU, Issues s c (LU.names x) false →
      ∀ p ∈ [Instr.fabs x, .fneg x, .fclass x, .fgetexp x].zip [opFabs, opFneg, opFclass, opFgetexp],
        ∃ t, exec p.1 s = .next t ∧ Did c x.s 4 { lane := oneReg x.d fun L => p.2 (c.g.readLane L x.a.toNat) } t

/-- R112, R113, R121, R122 and R124: a special function reads its source at issue, and its result and flags are
outstanding and land later, its pack in the special-function pipe; the fused sequence leaves what FMAX, FSUB, EXP2 and
FADD leave one after another, with EXP2 landed. The model's own choices in it: log 7. -/
def Obligations.SpecialFunctions : Prop :=
  (∀ (s : State) (c : Ctx) (x : LU), Issues s c (LU.names x) false →
    ∀ p ∈ [Instr.rcp x, .rsq x, .sqrt x, .exp2 x, .log2 x, .sin x, .cos x, .tanh x].zip
        [sfuRcp, sfuRsq, sfuSqrt, sfuExp2, sfuLog2, sfuTrig false, sfuTrig true, sfuTanh],
      ∃ t, exec p.1 s = .next t ∧ DidIn { s with cores := (enterSfu c s).cores } c x.s (fun _ => c.pc + 4)
        { later := [laterLanes c x.d 1 (fun L => [(p.2 (c.g.readLane L x.a.toNat)).1])
              (orFlags (c.I.map fun L => (p.2 (c.g.readLane L x.a.toNat)).2))] } t) ∧
  (∀ (s : State) (c : Ctx) (x : Fused), x.wf = true →
    Issues s c (Names.add (readsV [x.vm.toNat, x.vx.toNat, x.vs.toNat]) (writesV [x.vm.toNat, x.vt.toNat, x.vs.toNat])) false →
      let m := fun L => opFmax (c.g.readLane L x.vm.toNat) (c.g.readLane L x.vx.toNat)
      let d := fun L => opFsub (c.g.readLane L x.vx.toNat) (m L)
      let e := fun L => sfuExp2 (d L).1
      let a := fun L => opFadd (c.g.readLane L x.vs.toNat) (e L).1
      ∃ t, exec (.fusedExpSum x) s = .next t ∧ DidIn { s with cores := (enterSfu c s).cores } c x.s (fun _ => c.pc + 16)
        { lane := fun L v => if v = x.vs.toNat then some (a L).1 else if v = x.vt.toNat then some (e L).1
              else if v = x.vm.toNat then some (m L) else none
          flags := fun o => o ||| orFlags (c.I.map fun L => (d L).2 ||| (e L).2 ||| (a L).2) } t)

/-- R70, R128 to R131: CVT and PCVT convert elements in order and advance the stochastic state once for each under RS;
SEED and RAND set and advance it. The model's own choices in it: log 6, 96. -/
def Obligations.ConversionAndRandom : Prop :=
  ∀ (s : State) (c : Ctx),
    (∀ x : Conv, Issues s c (Names.add (writesV [x.d.toNat]) (readsV [x.a.toNat])) false →
      let r := fun L => convElem x.fmtD x.fmtS x.rnd x.sat (if x.rnd = .rs then stochNext (c.g.lane L).rng else (c.g.lane L).rng)
        (elemOf x.fmtS [c.g.readLane L x.a.toNat] 0)
      ∃ t, exec (.cvt x) s = .next t ∧ Did c x.s 8
        { lane := oneReg x.d fun L => placeElem x.fmtD (r L).1
          rng := fun L => if x.rnd = .rs then some (stochNext (c.g.lane L).rng) else none
          flags := fun o => o ||| orFlags (c.I.map fun L => (r L).2) } t) ∧
    (∀ x : Conv, Issues s c (Names.add (writesV (runOf x.d.toNat x.runD)) (readsV (runOf x.a.toNat x.runS))) false →
      let r := fun L => convRun x (c.g.lane L).rng ((List.range x.count).map
        (elemOf x.fmtS ((runOf x.a.toNat x.runS).map fun v => c.g.readLane L v)))
      ∃ t, exec (.pcvt x) s = .next t ∧ Did c x.s 8
        { lane := fun L v => if x.d.toNat ≤ v ∧ v < x.d.toNat + x.runD
            then some (BitVec.ofNat 32 (packElems x.fmtD.bits (r L).1 / 2 ^ (32 * (v - x.d.toNat)))) else none
          rng := fun L => some (r L).2.2
          flags := fun o => o ||| orFlags (c.I.map fun L => (r L).2.1) } t) ∧
    (∀ x : LSeed, Issues s c (Names.add (readsV [x.a.toNat]) (Src.names x.b)) false →
      ∃ t, exec (.seed x) s = .next t ∧ Did c x.s 4 
        { rng := fun L => let v := c.g.readLane L x.a.toNat ^^^ c.g.src L x.b; some (if v = 0 then 0x6A09E667 else v) } t) ∧
    ∀ x : LDst, Issues s c (writesV [x.d.toNat]) false →
      ∃ t, exec (.rand x) s = .next t ∧ Did c x.s 4
        { rng := fun L => some (stochNext (c.g.lane L).rng), lane := oneReg x.d fun L => stochNext (c.g.lane L).rng } t

/-! ### Control flow -/

/-- R35, R140 and R149 to R152: lane branches and lane jumps send each issuing lane to its own target; uniform
branches and jumps send the issuing lanes together; a call that is taken saves the return address; the group may not
issue in the next cycle. -/
def Obligations.ControlTransfers : Prop :=
  let goes := fun c : Ctx => ({ readyAt := some (c.s.clock + 2) } : Effect)
  (∀ (s : State) (c : Ctx),
    (∀ x : LBranch, Issues s c (readsV [x.c.toNat]) false → c.pc.toNat % 4 = 0 →
      ∀ p ∈ [(Instr.bnz x, fun w : Word => decide (w ≠ 0)), (.bz x, fun w => decide (w = 0))],
        let taken := fun L => p.2 (c.g.readLane L x.c.toNat)
        (x.u = true → (∀ L ∈ c.I, taken L = true) ∨ ∀ L ∈ c.I, taken L = false) →
          ∃ t, exec p.1 s = .next t ∧
            DidAt c x.s (fun L => if taken L then target (c.pc + 4) x.off else c.pc + 4) (goes c) t) ∧
    (∀ x : LJump, Issues s c (readsV (runOf x.a.toNat 2)) false →
      (∀ L ∈ c.I, (c.g.lanePair L x.a.toNat).toNat % 4 = 0) →
        ∀ i ∈ [Instr.jmpl x, .retl x], ∃ t, exec i s = .next t ∧ DidAt c x.s (fun L => c.g.lanePair L x.a.toNat) (goes c) t) ∧
    ∀ x : LU, Issues s c (Names.add (writesV (runOf x.d.toNat 2)) (readsV (runOf x.a.toNat 2))) false →
      (∀ L ∈ c.I, (c.g.lanePair L x.a.toNat).toNat % 4 = 0) →
        ∃ t, exec (.calll x) s = .next t ∧ DidAt c x.s (fun L => c.g.lanePair L x.a.toNat)
          { goes c with lane := pairReg x.d fun _ => c.pc + 4 } t) ∧
  (∀ (s : State) (c : Ctx),
    (∀ x : UBranch, c.pc.toNat % 4 = 0 →
      let v := c.g.readUni x.sc.toNat
      let taken : Prop := x.cond = 0 ∨ x.cond = 1 ∧ v = 0 ∨ x.cond = 2 ∧ v ≠ 0 ∨ x.cond = 3 ∧ v.toInt < 0
      let names := if x.cond = 0 then {} else readsU [x.sc.toNat]
      (Issues s c names false → ∃ t, exec (.bra x) s = .next t ∧
        (taken → DidAt c x.s (fun _ => target (c.pc + 4) x.off) (goes c) t) ∧ (¬taken → Did c x.s 4 (goes c) t)) ∧
      (Issues s c (Names.add names (writesU [62, 63])) false → ∃ t, exec (.call x) s = .next t ∧
        (taken → DidAt c x.s (fun _ => target (c.pc + 4) x.off) { goes c with uni := pairUni 62 (c.pc + 4) } t) ∧
        (¬taken → Did c x.s 4 (goes c) t))) ∧
    (∀ x : USrc, Issues s c (readsU (runOf x.a.toNat 2)) false → (c.g.uniPair x.a.toNat).toNat % 4 = 0 →
      ∃ t, exec (.jmpr x) s = .next t ∧ DidAt c x.s (fun _ => c.g.uniPair x.a.toNat) (goes c) t) ∧
    ∀ b : Bool, Issues s c (readsU [62, 63]) false → (c.g.uniPair 62).toNat % 4 = 0 →
      ∃ t, exec (.ret b) s = .next t ∧ DidAt c b (fun _ => c.g.uniPair 62) (goes c) t)

/-- R27, R149, R166, R183, R190, R191 and R445: a divergent .U branch, a transfer to a misaligned target, a
team-memory access that is misaligned or out of its window, and a global access that is misaligned or that translation
refuses trap in the lowest such lane, and nothing is performed. The model's own choices in it: log 41, 53, 57, 91, 92,
94. -/
def Obligations.AccessTraps : Prop :=
  (∀ (s : State) (c : Ctx),
    (∀ x : LBranch, Issues s c (readsV [x.c.toNat]) false → x.u = true →
      (∃ L ∈ c.I, c.g.readLane L x.c.toNat = 0) → (∃ L ∈ c.I, c.g.readLane L x.c.toNat ≠ 0) →
        ∀ i ∈ [Instr.bnz x, .bz x], exec i s = .next (c.trapped cDiverge 0 0)) ∧
    ∀ x : LJump, Issues s c (readsV (runOf x.a.toNat 2)) false → ∀ J K : List Nat, ∀ L, c.I = J ++ L :: K →
      (∀ M ∈ J, (c.g.lanePair M x.a.toNat).toNat % 4 = 0) → (c.g.lanePair L x.a.toNat).toNat % 4 ≠ 0 →
        ∀ i ∈ [Instr.jmpl x, .retl x],
          exec i s = .next (c.trapped cMisalign (c.g.lanePair L x.a.toNat) (infoGlobal 7 L 7))) ∧
  (∀ (s : State) (c : Ctx) (J K : List Nat) (L : Nat), c.I = J ++ L :: K → ∀ (sb : BitVec 6) (a : BitVec 7),
    let off := fun L => ((c.g.readUni sb.toNat).toNat + (c.g.readLane L a.toNat).toNat) % 2 ^ 32
    ∀ n, (∀ M ∈ J, off M % n = 0 ∧ off M + n ≤ c.t.window) →
      let traps := fun i : Instr =>
        (off L % n ≠ 0 → exec i s = .next (c.trapped cMisalign (BitVec.ofNat 64 (off L)) (infoTeam L 7))) ∧
        (off L % n = 0 → c.t.window < off L + n →
          exec i s = .next (c.trapped cTeamBounds (BitVec.ofNat 64 (off L)) (infoTeam L 1)))
      (∀ x : LLoad, x.sb = sb → x.a = a → x.w.bytes = n →
        Issues s c (Names.add (writesV (runOf x.d.toNat x.w.regs)) (Names.add (readsV [x.a.toNat]) (readsU [x.sb.toNat]))) false →
          traps (.ldt x)) ∧
      ∀ x : LStore, x.sb = sb → x.a = a → x.w.bytes = n →
        Issues s c (Names.add (readsV (x.a.toNat :: runOf x.d.toNat x.w.regs)) (readsU [x.sb.toNat])) false → traps (.stt x)) ∧
  (∀ (s : State) (c : Ctx) (J K : List Acc) (a : Acc) (k : Cause) (code : Nat),
    (∀ b ∈ J, b.va % b.n = 0 ∧ ∀ k n, translate c.free.s c.t.pasid b.va b.use ≠ .trap k n) →
    (a.va % a.n ≠ 0 ∧ k = cMisalign ∧ code = 7 ∨ a.va % a.n = 0 ∧ translate c.free.s c.t.pasid a.va a.use = .trap k code) →
      (∀ x : LLoad, Issues s c (memNames true x.d x.w x.sb x.a) false →
        laneAccs c x.sb x.a x.w.bytes (.read x.w.bytes) = J ++ a :: K →
          exec (.ld x) s = .next (c.trapped k (BitVec.ofNat 64 a.va) (infoGlobal 0 a.lane code))) ∧
      (∀ x : LStore, Issues s c (memNames false x.d x.w x.sb x.a) false →
        laneAccs c x.sb x.a x.w.bytes (.write x.w.bytes) = J ++ a :: K →
          exec (.st x) s = .next (c.trapped k (BitVec.ofNat 64 a.va) (infoGlobal 1 a.lane code))) ∧
      ∀ x : GAtomic, Issues s c (Names.add (if x.ret then writesV (atomRegs x.wide x.d) else {}) (Names.add
          (readsV (atomRegs x.wide x.b)) (Names.add (if x.op = .cas then readsV (atomRegs x.wide x.c) else {}) (addrNames x.sb x.a)))) false →
        laneAccs c x.sb x.a (if x.wide then 8 else 4) (.atomic x.op x.wide x.scope.toNat) = J ++ a :: K →
          exec (.atom x) s = .next (c.trapped k (BitVec.ofNat 64 a.va) (infoGlobal 2 a.lane code)))

/-- R91, R103, R154 and R155: votes over the issuing lanes of each lane's tile; RDLANE and FIRSTLANE copy one lane's
register to a uniform register; R154, R156 and R157: a shuffle captures at issue the value the source lane holds;
REDUCE and SCAN combine the tile's issuing lanes by the tree of R78; both land later. The model's own choices in it:
log 82. -/
def Obligations.LaneExchanges : Prop :=
  ((∀ (s : State) (c : Ctx) (x : LU),
    (Issues s c (LU.names x) false →
      ∀ p ∈ [(Instr.any x, fun l : List Word => oneIf (l.any (fun w => w ≠ 0) = true)), (.all x, fun l => oneIf (l.all (fun w => w ≠ 0) = true)),
          (.uni x, fun l => oneIf (l.all (fun v => l.all fun w => v = w) = true))],
        ∃ t, exec p.1 s = .next t ∧ Did c x.s 4
          { lane := oneReg x.d fun L => p.2 (c.tileValues L fun K => c.g.readLane K x.a.toNat) } t) ∧
    (Issues s c (Names.add (writesV (runOf x.d.toNat 2)) (readsV [x.a.toNat])) false →
      ∃ (v : Nat → DWord) (t : State), exec (.ballot x) s = .next t ∧ Did c x.s 4 { lane := pairReg x.d v } t ∧
        ∀ L i, i < 64 → ((v L).getLsbD i = true ↔
          ∃ K ∈ c.I, K / c.g.tile = L / c.g.tile ∧ K % c.g.tile = i ∧ c.g.readLane K x.a.toNat ≠ 0))) ∧
  (∀ (s : State) (c : Ctx) (L : Nat) (J : List Nat), c.I = L :: J →
    (∀ x : XRead, Issues s c (Names.add (writesU [x.d.toNat]) (Names.add (writesV [x.a.toNat]) (Src.named x.b))) false →
      let K := (c.g.src L x.b).toNat % 64 % c.t.width
      (∀ v, x.b = .lane v → lanesBad c.g [L] v.toNat = false) → lanesBad c.g [K] x.a.toNat = false →
        ∃ t, exec (.rdlane x) s = .next t ∧ Did c x.s 4 { uni := oneUni x.d (c.g.readLane K x.a.toNat) } t) ∧
    ∀ x : XFirst, Issues s c (Names.add (writesU [x.d.toNat]) (writesV [x.a.toNat])) false →
      lanesBad c.g [L] x.a.toNat = false → ∃ t, exec (.firstlane x) s = .next t ∧ Did c x.s 4 { uni := oneUni x.d (c.g.readLane L x.a.toNat) } t)) ∧
  ((∀ (s : State) (c : Ctx) (x : LR), Issues s c (shflNames x) false →
    let n := fun L => (c.g.src L x.b).toNat
    let z := c.g.tile
    ∀ p ∈ [(Instr.shflIdx x, fun L => L - L % z + n L % z), (.shflUp x, fun L => if n L > L % z then L else L - n L),
        (.shflDown x, fun L => if L % z + n L ≥ z then L else L + n L),
        (.shflXor x, fun L => L - L % z + (L % z ^^^ n L % z))], lanesBad c.g (c.I.map p.2) x.a.toNat = false →
      ∃ t, exec p.1 s = .next t ∧
        Did c x.s 4 { later := [laterLanes c x.d 1 (fun L => [c.g.readLane (p.2 L) x.a.toNat]) 0] } t) ∧
  (∀ (s : State) (c : Ctx),
    (∀ x : LReduce, Issues s c (Names.add (writesV (runOf x.d.toNat (redRegs x.op))) (readsV (runOf x.a.toNat (redRegs x.op)))) false →
      let r := fun L => treeReduce x.op (c.tileValues L (redOperand c x.op x.a.toNat))
      ∃ t, exec (.reduce x) s = .next t ∧ Did c x.s 8
        { later := [laterLanes c x.d (redRegs x.op) (fun L => redWords x.op (r L).1) (orFlags (c.I.map fun L => (r L).2))] } t) ∧
    ∀ x : LScan, Issues s c (Names.add (writesV (runOf x.d.toNat (redRegs x.op))) (readsV (runOf x.a.toNat (redRegs x.op)))) false →
      let r := fun L => treeReduce x.op (((c.tileValues L id).filter fun K => K < L || (K == L && !x.excl)).map
        (redOperand c x.op x.a.toNat))
      ∃ t, exec (.scan x) s = .next t ∧ Did c x.s 8
        { later := [laterLanes c x.d (redRegs x.op) (fun L => redWords x.op (r L).1) (orFlags (c.I.map fun L => (r L).2))] } t))

/-- R78 and R157: for the integer operations the tree of up to 64 words is the operation over all of them, in any
order, from its identity, and sets no flag. -/
def Obligations.IntegerTrees : Prop :=
  ∀ p ∈ [(RedOp.iadd, fun a b : Word => a + b, (0 : Word)), (.imin, fun a b => if a.toInt ≤ b.toInt then a else b, 0x7FFFFFFF),
      (.imax, fun a b => if a.toInt ≥ b.toInt then a else b, 0x80000000), (.umin, fun a b => if a.toNat ≤ b.toNat then a else b, 0xFFFFFFFF),
      (.umax, fun a b => if a.toNat ≥ b.toNat then a else b, 0), (.and, fun a b => a &&& b, 0xFFFFFFFF),
      (.or, fun a b => a ||| b, 0), (.xor, fun a b => a ^^^ b, 0)],
    ∀ l : List Word, l.length ≤ 64 → ∀ m : List Word, l.Perm m →
      treeReduce p.1 (l.map (BitVec.setWidth 64)) = ((m.foldl p.2.1 p.2.2).setWidth 64, 0)

/-- R40, R145, R147, R158 and R159: SETTILE sets the tile size for every lane, YIELD holds the group back for a cycle,
SWR clears the flags written as 1; SLEEP parks the group, which wakes once its time has come and not before, its held
lanes past the SLEEP; R153: EXIT ends its issuing lanes and leaves everything else, where another lane of the group
goes on and no convergence register is in use. The model's own choices in it: log 82. -/
def Obligations.GroupControlAndExit : Prop :=
  ((∀ (s : State) (c : Ctx), Issues s c {} false →
    (∀ x : UCode10, ∃ t, exec (.settile x) s = .next t ∧
      Did c x.s 4 { tile := some (if x.n = 0 then c.t.width else min (2 ^ x.n.toNat) c.t.width) } t) ∧
    (∀ b : Bool, ∃ t, exec (.yield b) s = .next t ∧ Did c b 4 { readyAt := some (s.clock + 2) } t) ∧
    (∀ x : USwr, Issues s c (readsU [x.a.toNat]) false → ∃ t, exec (.swr x) s = .next t ∧
      Did c x.s 4 { flags := fun o => o &&& ~~~((c.g.readUni x.a.toNat).setWidth 5) } t) ∧
    ∀ x : UCode10, exec (.sleep x) s = .next (c.parked (.sleep (s.clock + 16 * x.n.toNat) x.s) s)) ∧
  (∀ (s : State) (r : GRef) (g : Group) (w : Nat) (b : Bool), s.group r = some g → g.park = some (.sleep w b) → g.pending = none →
    (s.clock < w → exec (.sleepWake r) s = .next s) ∧
    (w ≤ s.clock → ∃ t h, exec (.sleepWake r) s = .next t ∧ t = { s with teams := t.teams } ∧
      (∀ q, q ≠ r → t.group q = s.group q) ∧ t.group r = some h ∧ (∀ L, L ∉ g.held → h.lane L = g.lane L) ∧
      (g.held.Nodup → ∀ L ∈ g.held, L < g.lanes.length → h.lane L = { g.lane L with pc := (g.lane L).pc + 4 }) ∧
      h = { g with
        lanes := h.lanes, park := if b = true ∧ g.deferred ≠ [] then some .settle else none, held := [], settling := b
        needs := false }))) ∧
  (∀ (s : State) (c : Ctx) (b : Bool), Issues s c {} false →
    (∃ L, L < c.g.lanes.length ∧ L ∉ c.I ∧ (c.g.lane L).exited = false) → (∀ k ∈ c.t.kregState, k.2 = .idle) →
      ∃ t g, exec (.exit b) s = .next t ∧ OnlyGroup c.s c g t ∧ g.lanes.length = c.g.lanes.length ∧
        (∀ L ∈ c.I, g.lane L = { c.g.lane L with exited := true, park := none, age := (g.lane L).age }) ∧
        (∀ L, L ∉ c.I → g.lane L = { c.g.lane L with age := (g.lane L).age }) ∧
        g = { c.g with
          lanes := g.lanes, park := g.park, lastIssue := g.lastIssue, needs := false, held := g.held, settling := g.settling })

/-- R39, R111 and R159: SRD reads the uniform special registers into a register or a pair; those of the trap frame
only in the handler; a read of the flags that settles waits for the results that are outstanding. The model's own
choices in it: log 87. -/
def Obligations.SpecialRegisterReads : Prop :=
  ∀ (s : State) (c : Ctx) (w : Bool) (d : BitVec 6),
    (Issues s c (writesU [d.toNat]) false →
      ∀ p ∈ [(0x000, BitVec.ofNat 32 c.r.grp), (0x001, BitVec.ofNat 32 c.t.width), (0x002, c.t.teamId), (0x003, c.t.clusterId),
          (0x004, BitVec.ofNat 32 c.t.clusterTeam), (0x005, BitVec.ofNat 32 (c.t.clusterW + 16 * c.t.clusterH)),
          (0x006, BitVec.ofNat 32 c.t.core), (0x007, BitVec.ofNat 32 c.t.node), (0x008, BitVec.ofNat 32 c.t.label),
          (0x009, BitVec.ofNat 32 c.t.sheafBase), (0x00A, BitVec.ofNat 32 c.t.sheafN), (0x00B, BitVec.ofNat 32 c.t.depth),
          (0x00C, BitVec.ofNat 32 c.g.tile), (0x014, BitVec.ofNat 32 c.t.pasid), (0x015, BitVec.ofNat 32 c.t.vif),
          (0x01C, c.g.fflags.setWidth 32)], (p.1 = 0x01C → w = true → c.g.deferred = []) →
        ∃ t, exec (.srd ⟨w, d, BitVec.ofNat 12 p.1⟩) s = .next t ∧ Did c w 4 { uni := oneUni d p.2 } t) ∧
    (Issues s c (writesU [d.toNat]) false → w = true → c.g.deferred ≠ [] →
      exec (.srd ⟨w, d, 0x01C⟩) s = .next (c.parked .settle s)) ∧
    (Issues s c (writesU [d.toNat]) false → ∀ p ∈ [(0x00D, 0), (0x00E, 32)], ∃ (v : Word) (t : State),
      exec (.srd ⟨w, d, BitVec.ofNat 12 p.1⟩) s = .next t ∧ Did c w 4 { uni := oneUni d v } t ∧
        ∀ i, i < 32 → (v.getLsbD i = true ↔ p.2 + i ∈ c.I)) ∧
    (Issues s c (writesU (runOf d.toNat 2)) false →
      ∀ p ∈ [(0x010, 0x00FFFFFFFFFF0000), (0x012, BitVec.ofNat 64 s.clock), (0x016, c.t.params)],
        ∃ t, exec (.srd ⟨w, d, BitVec.ofNat 12 p.1⟩) s = .next t ∧ Did c w 4 { uni := pairUni d p.2 } t) ∧
    ∀ f : Frame, c.g.frame = some f →
      (Issues s c (writesU [d.toNat]) true → ∀ p ∈ [(0x040, f.trap.cause.setWidth 32), (0x041, BitVec.ofNat 32 c.r.grp),
          (0x044, f.trap.inst), (0x045, f.trap.info)],
        ∃ t, exec (.srd ⟨w, d, BitVec.ofNat 12 p.1⟩) s = .next t ∧ Did c w 4 { uni := oneUni d p.2 } t) ∧
      (Issues s c (writesU (runOf d.toNat 2)) true →
        ∃ t, exec (.srd ⟨w, d, 0x042⟩) s = .next t ∧ Did c w 4 { uni := pairUni d f.trap.addr } t)

/-! ### Team barriers -/

/-- R160, R161 and R226: an arrival counts a group once in a generation, and the last of the live groups ends the
generation and wakes every lane that waits for it; BAR.ARRIVE arrives at once when nothing of its group waits before
it, else when its stores have drained; BAR.WAIT goes on unless the last arrival is in the current generation or still
held back; BAR.SYNC does both. The model's own choices in it: log 20. -/
def Obligations.Barriers : Prop :=
  (∀ (t : Team) (r n : Nat) (g : Group), t.groups[r]? = some g → g.exited = false →
    let b : Barrier := t.bar n
    let live : Nat := (t.groups.filter fun h => !h.exited).length
    (Sparse.get 0 g.arrivals n = b.gen + 1 → arrive t r n = t) ∧
    (Sparse.get 0 g.arrivals n ≠ b.gen + 1 →
      let u := arrive t r n
      (∀ m, u.bar m = if m = n then (if b.count + 1 = live then ⟨b.gen + 1, 0⟩ else ⟨b.gen, b.count + 1⟩) else t.bar m) ∧
      (∀ (i : Nat) (h : Group), t.groups[i]? = some h → ∃ k : Group, u.groups[i]? = some k ∧
        (∀ m : Nat, Sparse.get 0 k.arrivals m = if i = r ∧ m = n then b.gen + 1 else Sparse.get 0 h.arrivals m) ∧
        k.lanes.length = h.lanes.length ∧
        ∀ L : Nat, k.lane L = if b.count + 1 = live ∧ (h.lane L).waitsAt n = true
          then { h.lane L with park := none, pc := (h.lane L).pc + 4 } else h.lane L) ∧
      u = { t with barriers := u.barriers, groups := u.groups })) ∧
  (∀ (s : State) (c : Ctx) (x : UBar), Issues s c {} false →
    let n := x.n.toNat
    let arrived := fun c : Ctx => Sparse.get 0 c.g.arrivals n = (c.t.bar n).gen + 1
    let waits := fun (c : Ctx) (p : LanePark) (q : List SqEntry) (o : Out) => ∃ t g, o = .next t ∧ OnlyGroup c.s c g t ∧
      (∀ L, g.lane L = if L ∈ c.I then { c.g.lane L with park := some p, age := (g.lane L).age }
        else { c.g.lane L with age := (g.lane L).age }) ∧
      g = { c.g with
        lanes := g.lanes, storeQ := c.g.storeQ ++ q, park := g.park, lastIssue := g.lastIssue, needs := false
        held := g.held, settling := g.settling }
    let now := fun c : Ctx => LanePark.bar n (c.t.bar n).gen
    let c' := c.afterTeam fun t => arrive t c.r.grp n
    (coreDrained s c.r = true → ∃ t, exec (.barArrive x) s = .next t ∧ Did c' x.s 4 {} t) ∧
    (coreDrained s c.r = false → ∃ t, exec (.barArrive x) s = .next t ∧ Did c x.s 4 { queue := [barEntry n s.clock] } t) ∧
    (c.g.barHeld n = false → (¬arrived c → ∃ t, exec (.barWait x) s = .next t ∧ Did c x.s 4 {} t) ∧
      (arrived c → waits c (now c) [] (exec (.barWait x) s))) ∧
    (c.g.barHeld n = true → waits c (.barHeld n) [] (exec (.barWait x) s)) ∧
    (coreDrained s c.r = true → c.g.exited = false →
      ((c'.t.bar n).gen ≠ (c.t.bar n).gen → ∃ t, exec (.barSync x) s = .next t ∧ Did c' x.s 4 {} t) ∧
      ((c'.t.bar n).gen = (c.t.bar n).gen → waits c' (now c') [] (exec (.barSync x) s))) ∧
    (coreDrained s c.r = false → waits c (.barHeld n) [barEntry n s.clock] (exec (.barSync x) s)))

/-! ### Team memory, clusters and subscriptions -/

/-- R168, R170 and R211: LDT captures its bytes at issue, the group's own queued stores over the window, and the words
land later; STT enters one store for each issuing lane into the store queue. -/
def Obligations.TeamLoadsAndStores : Prop :=
  ∀ (s : State) (c : Ctx), acquirePending s c.t.core c.r c.g = false →
    (∀ x : LLoad,
      Issues s c (Names.add (writesV (runOf x.d.toNat x.w.regs)) (Names.add (readsV [x.a.toNat]) (readsU [x.sb.toNat]))) false →
        let off := fun L => ((c.g.readUni x.sb.toNat).toNat + (c.g.readLane L x.a.toNat).toNat) % 2 ^ 32
        (∀ L ∈ c.I, off L % x.w.bytes = 0 ∧ off L + x.w.bytes ≤ c.t.window ∧ softHit c.t (off L) x.w.bytes = false) →
          ∃ t, exec (.ldt x) s = .next t ∧ Did c x.s 4 { later := [laterLanes c x.d x.w.regs
            (fun L => loadWords x.w x.x (teamView c.g c.t (off L) x.w.bytes)) 0] } t) ∧
    ∀ x : LStore, Issues s c (Names.add (readsV (x.a.toNat :: runOf x.d.toNat x.w.regs)) (readsU [x.sb.toNat])) false →
      let off := fun L => ((c.g.readUni x.sb.toNat).toNat + (c.g.readLane L x.a.toNat).toNat) % 2 ^ 32
      (∀ L ∈ c.I, off L % x.w.bytes = 0 ∧ off L + x.w.bytes ≤ c.t.window) → c.Enters c.I.length →
        ∃ t, exec (.stt x) s = .next t ∧ Did c x.s 4
          { queue := c.I.map fun L => teamEntry c .team c.t.id (off L) L (c.g.storeBytes L x.d x.w) false } t

/-- R171, R172, R198 and R211: ATT with a return performs one read-modify-write for each issuing lane in lane order,
and its old values land later; without one its lanes enter the store queue; and what each operation of an atomic
leaves. The model's own choices in it: log 30. -/
def Obligations.TeamAtomics : Prop :=
  (∀ (s : State) (c : Ctx) (x : TAtomic), acquirePending s c.t.core c.r c.g = false →
    let n := if x.wide then 8 else 4
    Issues s c (Names.add (if x.ret then writesV (atomRegs x.wide x.d) else {})
      (Names.add (readsV (x.a.toNat :: atomRegs x.wide x.b))
        (Names.add (if x.op = .cas then readsV (atomRegs x.wide x.c) else {}) (readsU [x.sb.toNat])))) false →
      let off := fun L => ((c.g.readUni x.sb.toNat).toNat + (c.g.readLane L x.a.toNat).toNat) % 2 ^ 32
      let b := fun L => c.g.atomSrc L x.wide x.b
      let cmp := fun L => c.g.atomSrc L x.wide x.c
      (∀ L ∈ c.I, off L % n = 0 ∧ off L + n ≤ c.t.window ∧ softHit c.t (off L) n = false) → packBefore c = false →
        (x.ret = true → coreDrained s c.r = true →
          let r := atomicRun x.op x.wide off b cmp c.t.tmem c.I
          ∃ t, exec (.att x) s = .next t ∧ Did (c.afterTeam fun t => { t with tmem := r.2 }) x.s 8
            { later := [{ id := s.fresh, vregs := atomRegs x.wide x.d, uregs := [], unis := [], flags := 0, wait := 0,
                          lanes := r.1.flatMap fun p => (atomWords x.wide p.2).zipIdx.map fun wi => (p.1, x.d.toNat + wi.2, wi.1) }] } t) ∧
        (x.ret = true → coreDrained s c.r = false → exec (.att x) s = .next (c.parked .drain s)) ∧
        (x.ret = false → storeRoom c.g c.I.length = true → ∃ t, exec (.att x) s = .next t ∧ Did c x.s 8
          { queue := c.I.map fun L => { teamEntry c .att c.t.id (off L) L (leBytes n (b L).toNat) true with
              cmp := cmp L, op := x.op, wide := x.wide } } t)) ∧
  (∀ (wide : Bool) (a b c : DWord), (wide = false → a.toNat < 2 ^ 32 ∧ b.toNat < 2 ^ 32 ∧ c.toNat < 2 ^ 32) →
    let w := if wide then 64 else 32
    let sg := fun v : DWord => if v.toNat < 2 ^ (w - 1) then (v.toNat : Int) else v.toNat - 2 ^ w
    (atomicNew .add wide a b c).toNat = (a.toNat + b.toNat) % 2 ^ w ∧
    atomicNew .and wide a b c = a &&& b ∧ atomicNew .or wide a b c = a ||| b ∧ atomicNew .xor wide a b c = a ^^^ b ∧
    atomicNew .minu wide a b c = (if a.toNat ≤ b.toNat then a else b) ∧
    atomicNew .maxu wide a b c = (if a.toNat ≥ b.toNat then a else b) ∧
    atomicNew .min wide a b c = (if sg a ≤ sg b then a else b) ∧ atomicNew .max wide a b c = (if sg a ≥ sg b then a else b) ∧
    atomicNew .xchg wide a b c = b ∧ atomicNew .cas wide a b c = (if a = c then b else a) ∧
    (wide = false → (atomicNew .inc wide a b c).toNat = (if a.toNat ≥ b.toNat then 0 else a.toNat + 1) ∧
      (atomicNew .dec wide a b c).toNat = (if a.toNat = 0 ∨ a.toNat > b.toNat then b.toNat else a.toNat - 1) ∧
      atomicNew .fadd wide a b c = (opFadd (a.setWidth 32) (b.setWidth 32)).1.setWidth 64))

/-- R173 to R178: CLT reaches the share window of the team of the cluster that each lane names; SHARE.JOIN and
SHARE.LEAVE park the group until the change is in every copy of the share table and no access under the old entry is
on its way, and then the window stands, or is gone. The model's own choices in it: log 80, 93. -/
def Obligations.ClustersAndShareWindows : Prop :=
  (∀ (s : State) (c : Ctx) (m : Nat → Team) (w : Nat → Share), acquirePending s c.t.core c.r c.g = false →
    (∀ x : CLoad, Issues s c (Names.add (writesV (runOf x.d.toNat x.w.regs)) (Names.add (readsV [x.a.toNat])
        (Names.add (Src.names x.t) (readsU [x.sb.toNat])))) false →
      let off := fun L => ((c.g.readUni x.sb.toNat).toNat + (c.g.readLane L x.a.toNat).toNat) % 2 ^ 32
      (∀ L ∈ c.I, clusterMate c (c.g.src L x.t).toNat = some (m L) ∧ (m L).shareFor c.t.clusterTeam = some (w L) ∧
        (c.g.src L x.t).toNat < c.t.clusterW * c.t.clusterH ∧ off L % x.w.bytes = 0 ∧ off L + x.w.bytes ≤ (w L).len ∧
        softHit (m L) ((w L).base + off L) x.w.bytes = false) →
          let mirror := x.acq && c.I.any fun L => (m L).mirrors ((w L).base + off L) x.w.bytes
          ∃ t, exec (.cltLoad x) s = .next t ∧ DidIn (if mirror then s.dropL1 c.t.core else s) c x.s (fun _ => c.pc + 8) { later := [laterLanes c x.d x.w.regs
            (fun L => loadWords x.w x.x (teamView c.g (m L) ((w L).base + off L) x.w.bytes)) 0] } t) ∧
    ∀ x : CStore, Issues s c (Names.add (readsV (x.a.toNat :: runOf x.d.toNat x.w.regs))
        (Names.add (Src.names x.t) (readsU [x.sb.toNat]))) false →
      let off := fun L => ((c.g.readUni x.sb.toNat).toNat + (c.g.readLane L x.a.toNat).toNat) % 2 ^ 32
      (∀ L ∈ c.I, clusterMate c (c.g.src L x.t).toNat = some (m L) ∧ (m L).shareFor c.t.clusterTeam = some (w L) ∧
        (w L).wr = true ∧ (c.g.src L x.t).toNat < c.t.clusterW * c.t.clusterH ∧ off L % x.w.bytes = 0 ∧
        off L + x.w.bytes ≤ (w L).len) → storeRoom c.g c.I.length = true →
          ∃ t, exec (.cltStore x) s = .next t ∧ Did c x.s 8
            { queue := c.I.map fun L => teamEntry c .clt (m L).id ((w L).base + off L) L (c.g.storeBytes L x.d x.w) x.rel } t) ∧
  ((∀ (s : State) (c : Ctx),
    (∀ x : USrc2, Issues s c (readsU [x.a.toNat, x.b.toNat]) false →
      let base := (c.g.readUni x.a.toNat).toNat
      let v := (c.g.readUni x.b.toNat).toNat
      let len := v % 2 ^ 20
      base % 256 = 0 → len % 256 = 0 → 0 < len → len ≤ 524288 → v / 2 ^ 20 % 2 ^ 11 = 0 → base + len ≤ c.t.window →
        exec (.shareJoin x) s = .next (c.parked (.share (some ⟨base, len, decide (v / 2 ^ 31 % 2 = 1)⟩) s.clock x.s) s)) ∧
    ∀ b : Bool, Issues s c {} false → exec (.shareLeave b) s = .next (c.parked (.share none s.clock b) s)) ∧
  ∀ (s : State) (r : GRef) (t : Team) (g : Group) (w : Option Share) (since : Nat) (b : Bool),
    s.team r.team = some t → t.groups[r.grp]? = some g → g.park = some (.share w since b) →
    (∀ i h v n d, t.groups[i]? = some h → h.park = some (.share v n d) → since ≤ n ∧ (since = n → r.grp ≤ i)) →
    (t.share ≠ none → oldClt s t = false) → exec (.shareChangeDone r) s
      = .next (completeHeld (s.adjTeam r.team fun t => { t with share := w, shareSeen := [] }) r 4 b))

/-- R179 to R182: SHARE.SUB parks until its home has registered the block, which copies the range into the window and
names a handle; a delivery writes its data and then SEQ and STATUS; SHARE.UNSUB leaves, and ACTIVE clears once what
was in flight has landed. The model's own choices in it: log 39, 90, 91. -/
def Obligations.Subscriptions : Prop :=
  (∀ (s : State) (c : Ctx) (x : UR),
    Issues s c (Names.add (writesU [x.d.toNat]) (readsU (x.b.toNat :: runOf x.a.toNat 2))) false →
      let va := (c.g.uniPair x.a.toNat).toNat
      let block := (c.g.readUni x.b.toNat).toNat
      let p := subBlock c.g c.t block
      ∀ pa kind, block % 16 = 0 → block + 16 ≤ c.t.window → p.1 % 128 = 0 → p.2 % 128 = 0 → 128 ≤ p.2 → p.2 ≤ 65536 →
        p.1 + p.2 ≤ c.t.window → va % 128 = 0 → va % 65536 + p.2 ≤ 65536 →
        place s c.t.pasid va .subscribe = .at pa kind → kind = 1 ∨ kind = 2 → homeOf s.build pa = chipletOfCore c.t.core →
        acquirePending s c.t.core c.r c.g = false → pageWaits s c.t.pasid (va / 65536) = false →
          exec (.shareSub x) s = .next (c.parked (.subRegister x.d.toNat va block x.s) s)) ∧
  (∀ (s : State) (c : Ctx) (x : USrc), Issues s c (readsU [x.a.toNat]) false →
    let h := (c.g.readUni x.a.toNat).toNat
    ((∃ u ∈ c.t.subs, u.handle = h) → exec (.shareUnsub x) s = .next (c.parked (.unsub h x.s) (leaveHome s c.t.id h))) ∧
    ((∀ u ∈ c.t.subs, u.handle ≠ h) → ∃ t, exec (.shareUnsub x) s = .next t ∧ Did c x.s 4 {} t)) ∧
  (∀ (s : State) (r : GRef) (t : Team) (g : Group), s.team r.team = some t → t.groups[r.grp]? = some g →
    (∀ d va block b pa kind h, g.park = some (.subRegister d va block b) → place s t.pasid va .subscribe = .at pa kind →
      let p := subBlock g t block
      pageWaits s t.pasid (va / 65536) = false → (∀ q ∈ grainsOf pa p.2, s.engineOwned (q * 512) = false) → h < 8 → (∀ u ∈ t.subs, u.handle ≠ h) →
      (∀ k < h, ∃ u ∈ t.subs, u.handle = k) → subEntriesAt s (homeOf s.build pa) < 256 →
        exec (.subscriptionRegister r) s = .next (completeHeld
          (((registerSub (noteAccess s pa kind) t.id h block p.1 pa p.2 va t.pasid 1).adjTeam t.id fun t =>
            { t with subs := t.subs ++ [⟨h, block, va, p.2, p.1, true, false⟩] }).adjGroup r fun g => g.writeUni d (BitVec.ofNat 32 h))
          r 4 b)) ∧
    ∀ u b, g.park = some (.unsub u.handle b) → t.subs.find? (fun v => v.handle == u.handle) = some u →
      (∀ d ∈ s.deliveries, d.team = t.id → d.handle ≠ u.handle) →
        exec (.unsubComplete r) s = .next (completeHeld
          ((teamStore s t.id (u.block + 12) (leBytes 4 (if u.resync then 2 else 0))).adjTeam t.id fun t =>
            { t with subs := t.subs.filter fun v => v.handle ≠ u.handle }) r 4 b)) ∧
  ∀ (s : State) (n : Nat) (d : Delivery) (t : Team) (u : Sub), s.deliveries[n]? = some d → s.team d.team = some t →
    t.place = .running → t.subs.find? (fun v => v.handle == d.handle) = some u →
    (∀ e ∈ s.deliveries.take n, e.team = d.team → e.handle ≠ d.handle) →
      exec (.subscriptionDelivery n) s = .next (teamStore
        (teamStore { s with deliveries := dropAt s.deliveries n } d.team (u.loc + d.off) d.data)
        d.team (u.block + 8) (leBytes 4 d.seq.toNat ++ leBytes 4 ((if u.active then 1 else 0) + if u.resync then 2 else 0)))

/-! ### Arrival words and circular buffers -/

/-- R185, R258 and R259: what EXPECT and ARRIVE leave of an arrival word, which they change at once; TESTG reads it;
WAITG goes on once the generation has passed or an error shows, with the L1 dropped, and waits else; a change of a
word wakes the groups that wait on it where it meets their condition. The model's own choices in it: log 12. -/
def Obligations.ArrivalWords : Prop :=
  (∀ (a : Arrival) (n : Word),
    (let e := a.expected + n
     let f := a.flags ||| 1
     a.expect n = if a.arrived = e then ⟨0, 0, a.gen + 1, f &&& 0xFFFFFFFE⟩
       else ⟨e, a.arrived, a.gen, if a.arrived.toNat > e.toNat then f ||| 4 else f⟩) ∧
    let v := a.arrived + n
    a.arrive n = if a.flags.getLsbD 0 = true ∧ v = a.expected then ⟨0, 0, a.gen + 1, a.flags &&& 0xFFFFFFFE⟩
      else ⟨a.expected, v, a.gen, if a.flags.getLsbD 0 = true ∧ v.toNat > a.expected.toNat then a.flags ||| 4 else a.flags⟩) ∧
  (∀ (s : State) (c : Ctx),
    (∀ x : USrc2, Issues s c (readsU [x.a.toNat, x.b.toNat]) false →
      let off := (c.g.readUni x.a.toNat).toNat
      ActsAt s c 16 off → ∀ p ∈ [(Instr.expect x, Arrival.expect), (.arrive x, Arrival.arrive)],
        let f := fun a : Arrival => p.2 a (c.g.readUni x.b.toNat)
        exec p.1 s = .next (c.done 4 x.s (adjArrival c.free.s c.t.id off f)) ∧
        ((∀ h ∈ c.t.groups, h.awaits c.t off = none) → ∃ t, exec p.1 s = .next t ∧
          Did (c.afterTeam fun t => t.stored off (f (t.arrival off)).bytes) x.s 4 {} t)) ∧
    ∀ x : UR, Issues s c (Names.add (writesU [x.d.toNat]) (readsU [x.a.toNat, x.b.toNat])) false →
      let off := (c.g.readUni x.a.toNat).toNat
      off % 16 = 0 → off + 16 ≤ c.t.window → softHit c.t off 16 = false → acquirePending s c.t.core c.r c.g = false →
        let a := Arrival.ofBytes (teamView c.g c.t off 16)
        let passed : Prop := (a.gen - c.g.readUni x.b.toNat).toInt > 0
        let bad : Prop := a.flags.getLsbD 1 = true ∨ a.flags.getLsbD 2 = true
        (∃ t, exec (.testg x) s = .next t ∧ Did c x.s 4 { uni := oneUni x.d (BitVec.ofNat 32
          ((if passed then 1 else 0) + if bad then 2 ^ 31 else 0)) } t) ∧
        (passed ∨ bad → ∃ t, exec (.waitg x) s = .next t ∧
          DidIn (c.s.dropL1 c.t.core) c x.s (fun _ => c.pc + 4) { uni := oneUni x.d a.flags } t) ∧
        (¬passed → ¬bad → exec (.waitg x) s = .next (c.parked (.waitg x.d.toNat off (c.g.readUni x.b.toNat) x.s) s))) ∧
  ∀ (s : State) (r : GRef) (t : Team) (g : Group) (d off : Nat) (v : Word) (b : Bool), s.team r.team = some t →
    t.groups[r.grp]? = some g → g.park = some (.waitg d off v b) →
      let a := t.arrival off
      wakeAwait s r off = if (a.gen - v).toInt > 0 ∨ a.flags.getLsbD 1 = true ∨ a.flags.getLsbD 2 = true
        then completeHeld ((s.adjGroup r fun g => g.writeUni d a.flags).dropL1 t.core) r 4 b else s

/-- R260, R261 and R446: both sides of a circular buffer; CB.WAIT claims its stage once, and a claimed stage is
awaited where the claim is held; an object whose stages or words do not fit traps; a change of a word wakes the groups
that wait on it. The model's own choices in it: log 12, 40. -/
def Obligations.CircularBuffers : Prop :=
  (∀ (s : State) (c : Ctx),
    (∀ x : USrc, Issues s c (readsU [x.a.toNat]) false →
      let obj := (c.g.readUni x.a.toNat).toNat
      let b := c.cb obj
      ActsAt s c 32 obj → b.fault c.t.window obj = none → ∃ t, exec (.cbInit x) s = .next t ∧
        Did (c.afterTeam fun t => (t.stored (obj + 16) (List.replicate 16 0)).stored b.awBase (List.replicate (16 * b.nstage) 0))
          x.s 4 {} t) ∧
    (∀ x : UU, Issues s c (Names.add (writesU (runOf x.d.toNat 2)) (readsU [x.a.toNat])) false →
      let obj := (c.g.readUni x.a.toNat).toNat
      let b := c.cb obj
      ActsAt s c 32 obj → b.outside c.t.window obj = none →
        ((b.head - b.tail).toNat < b.nstage → (∀ i g, i ≠ c.r.grp → c.t.groups[i]? = some g → ∀ n, g.park ≠ some (.cbAcq obj n)) →
          ∃ t, exec (.cbAcq x) s = .next t ∧
            Did (c.afterTeam fun t => t.stored (obj + 16) (leBytes 4 (b.head + 1).toNat)) x.s 4
              { uni := pairUni x.d (BitVec.ofNat 32 (b.word b.head) ++ BitVec.ofNat 32 (b.data b.head)) } t) ∧
        (b.nstage ≤ (b.head - b.tail).toNat → (∀ o n, c.g.park ≠ some (.cbAcq o n)) →
          exec (.cbAcq x) s = .next (c.parked (.cbAcq obj s.clock) s))) ∧
    ∀ x : USrc2, Issues s c (readsU [x.a.toNat, x.b.toNat]) false →
      let obj := (c.g.readUni x.a.toNat).toNat
      let b := c.cb obj
      let w := b.word b.cmt
      ActsAt s c 32 obj → b.outside c.t.window obj = none →
        (b.cmt.toNat < b.head.toNat → (∀ h ∈ c.t.groups, h.awaits c.t w = none) → ∃ t, exec (.cbCommit x) s = .next t ∧
          Did (c.afterTeam fun t => (t.stored w ((t.arrival w).expect (c.g.readUni x.b.toNat)).bytes).stored (obj + 20)
            (leBytes 4 (b.cmt + 1).toNat)) x.s 4 {} t) ∧
        (b.head.toNat ≤ b.cmt.toNat → exec (.cbCommit x) s
          = .next (c.trapped cCopyBounds (BitVec.ofNat 64 obj) (BitVec.ofNat 32 (5 * 4096 + 20 * 16 + 10))))) ∧
  (∀ (s : State) (c : Ctx),
    (∀ x : UU, Issues s c (Names.add (writesU (runOf x.d.toNat 2)) (readsU [x.a.toNat])) false →
      let obj := (c.g.readUni x.a.toNat).toNat
      let b := c.cb obj
      let held := fun k : Nat × DWord × Word => k.1 == obj && k.2.1 == c.pc
      let stage := fun n => BitVec.ofNat 32 (b.word n) ++ BitVec.ofNat 32 (b.data n)
      let ends := fun (t : Team) (n : Word) => ((t.arrival (b.word n)).gen - BitVec.ofNat 32 (n.toNat / b.nstage)).toInt > 0
        ∨ (t.arrival (b.word n)).bad = true
      (c.g.claims.find? held = none → ActsAt s c 32 obj → b.outside c.t.window obj = none →
        let t' := c.t.stored (obj + 28) (leBytes 4 (b.cpos + 1).toNat)
        let c' := c.afterTeam fun t => t.stored (obj + 28) (leBytes 4 (b.cpos + 1).toNat)
        (ends t' b.cpos → ∃ t, exec (.cbWait x) s = .next t ∧
          DidIn (c'.s.dropL1 c.t.core) c' x.s (fun _ => c.pc + 4) { uni := pairUni x.d (stage b.cpos) } t) ∧
        (¬ends t' b.cpos → exec (.cbWait x) s = .next (c.parked (.cbWait x.d.toNat obj b.cpos x.s) (c'.s.adjGroup c.r fun g =>
          { g with claims := g.claims ++ [(obj, c.pc, b.cpos)] })))) ∧
      ∀ k, c.g.claims.find? held = some k →
        (ends c.t k.2.2 → ∃ t, exec (.cbWait x) s = .next t ∧
          let c' := c.afterTeam fun t => { t with groups := adjAt (fun g : Group =>
            { g with claims := g.claims.filter fun k => !held k }) t.groups c.r.grp }
          DidIn (c'.s.dropL1 c.t.core) c' x.s (fun _ => c.pc + 4) { uni := pairUni x.d (stage k.2.2) } t) ∧
        (¬ends c.t k.2.2 → exec (.cbWait x) s = .next (c.parked (.cbWait x.d.toNat obj k.2.2 x.s) s))) ∧
    ∀ x : USrc, Issues s c (readsU [x.a.toNat]) false →
      let obj := (c.g.readUni x.a.toNat).toNat
      let b := c.cb obj
      ActsAt s c 32 obj → b.outside c.t.window obj = none →
        (b.tail.toNat < b.cpos.toNat → ∃ t, exec (.cbRel x) s = .next t ∧
          Did (c.afterTeam fun t => t.stored (obj + 24) (leBytes 4 (b.tail + 1).toNat)) x.s 4 {} t) ∧
        (b.cpos.toNat ≤ b.tail.toNat → exec (.cbRel x) s
          = .next (c.trapped cCopyBounds (BitVec.ofNat 64 obj) (BitVec.ofNat 32 (5 * 4096 + 24 * 16 + 10))))) ∧
  (∀ (s : State) (c : Ctx) (i : Instr) (n : Names) (a : BitVec 6), Issues s c n false →
    (∃ x : UU, x.a = a ∧ n = Names.add (writesU (runOf x.d.toNat 2)) (readsU [x.a.toNat]) ∧ (i = .cbAcq x ∨ i = .cbWait x) ∨
      ∃ x : USrc2, x.a = a ∧ n = readsU [x.a.toNat, x.b.toNat] ∧ i = .cbCommit x ∨
      ∃ x : USrc, x.a = a ∧ n = readsU [x.a.toNat] ∧ i = .cbRel x) →
      let obj := (c.g.readUni a.toNat).toNat
      (∀ k ∈ c.g.claims, k.1 ≠ obj ∨ k.2.1 ≠ c.pc) → ActsAt s c 32 obj → ∀ item, (c.cb obj).outside c.t.window obj = some item →
        exec i s = .next (c.trapped cCopyBounds (BitVec.ofNat 64 obj) (BitVec.ofNat 32 (5 * 4096 + item * 16 + 10)))) ∧
  ∀ (s : State) (r : GRef) (t : Team) (g : Group) (d obj : Nat) (n : Word) (b : Bool), s.team r.team = some t →
    t.groups[r.grp]? = some g → g.park = some (.cbWait d obj n b) →
      let o := CircBuf.ofBytes (readBytes t.tmem obj 32)
      let a := t.arrival (o.word n)
      let pc := (g.lane (g.held.headD 0)).pc
      wakeAwait s r (o.word n) = if (a.gen - BitVec.ofNat 32 (n.toNat / o.nstage)).toInt > 0 ∨ a.bad = true
        then completeHeld ((s.adjGroup r fun g =>
          { ((g.writeUni d (BitVec.ofNat 32 (o.data n))).writeUni (d + 1) (BitVec.ofNat 32 (o.word n))) with
            claims := g.claims.filter fun k => !(k.1 == obj && k.2.1 == pc) }).dropL1 t.core) r 4 b else s

/-! ### Global memory -/

/-- R190, R192, R193, R194 and R196: a load whose accesses are placed takes the bytes its lanes see, which land later;
an ordered acquire at chiplet scope or wider drops the L1; a 128-bit load one of whose halves was performed early
takes the other; R185, R211, R212 and R353: a load of plain memory sees, byte by byte, the group's youngest queued
store of the byte, else what its core sees; where nothing of the group or the core is in the way and the line is not
cached, that is the home's byte. The model's own choices in it: log 13, 18, 82. -/
def Obligations.GlobalLoads : Prop :=
  (∀ (s : State) (c : Ctx) (ps : List Placed) (l : List (Nat × List Byte)) (u : State),
    (∀ x : LLoad, Issues s c (memNames true x.d x.w x.sb x.a) false →
      Placeable c.free (laneAccs c x.sb x.a x.w.bytes (.read x.w.bytes)) ps →
        ((∀ high early, c.g.half = some (c.pc, high, early) → early.map (·.1) ≠ c.I) → loadEach c.free false c.free.s ps = some (l, u) →
          ∃ t, exec (.ld x) s = .next t ∧ DidIn u c x.s (fun _ => c.pc + 4)
            { later := [laterBytes s.fresh x.d x.w.regs 0 (l.map fun y => (y.1, loadWords x.w x.x y.2))] } t) ∧
        ∀ high early, c.g.half = some (c.pc, high, early) → early.map (·.1) = c.I →
          loadEach c.free false c.free.s (ps.map (Placed.half (!high))) = some (l, u) →
            exec (.ld x) s = .next (c.done 4 x.s (deferBytes c.free x.d.toNat x.w.regs (loadWords x.w x.x)
              ((early.zip l).map fun y => (y.1.1, if high then y.2.2 ++ y.1.2 else y.1.2 ++ y.2.2))
              (u.adjGroup c.r fun g => { g with half := none })))) ∧
    (∀ x : LOrdered, Issues s c (memNames true x.d x.w x.sb x.a) false →
      let wide := decide (3 ≤ foldScope s.build x.scope.toNat)
      Placeable c.free (laneAccs c x.sb x.a x.w.bytes (.readO x.w.bytes)) ps → loadEach c.free wide c.free.s ps = some (l, u) →
        ∃ t, exec (.ldo x) s = .next t ∧
          DidIn (if wide && x.ordered then u.dropL1 c.t.core else u) c x.s (fun _ => c.pc + 8)
            { later := [laterBytes s.fresh x.d x.w.regs 0 (l.map fun y => (y.1, loadWords x.w false y.2))] } t) ∧
    ∀ (x : UImm12) (bs : List Byte), l = [(0, bs)] →
      let va := (c.g.uniPair x.a.toNat + BitVec.ofInt 64 x.imm.toInt).toNat
      (Issues s c (Names.add (writesU [x.d.toNat]) (readsU (runOf x.a.toNat 2))) false →
        Placeable c.free [⟨0, va, 4, .read 4⟩] ps → loadEach c.free false c.free.s ps = some (l, u) →
          ∃ t, exec (.lduW x) s = .next t ∧ DidIn u c x.s (fun _ => c.pc + 4)
            { later := [laterUni c x.d [BitVec.ofNat 32 (leNat bs)]] } t) ∧
      (Issues s c (Names.add (writesU (runOf x.d.toNat 2)) (readsU (runOf x.a.toNat 2))) false →
        Placeable c.free [⟨0, va, 8, .read 8⟩] ps → loadEach c.free false c.free.s ps = some (l, u) →
          ∃ t, exec (.lduD x) s = .next t ∧ DidIn u c x.s (fun _ => c.pc + 4)
            { later := [laterUni c x.d [BitVec.ofNat 32 (leNat bs), BitVec.ofNat 32 (leNat bs / 2 ^ 32)]] } t)) ∧
  (∀ (c : Ctx) (s : State) (va pa n : Nat), (∀ e ∈ c.g.storeQ, e.isGlobal = true → e.isPlain = true) →
    (∀ e ∈ ownGutter s c.t.core c.r, e.meets s c.t.pasid va pa n = none) →
    (∀ q ∈ (s.core c.t.core).reqs, overlaps q.pa q.e.len pa n = false) →
    (∀ l ∈ (s.core c.t.core).l1, l.line ≠ pa / 128) →
      ∃ bs, loadBytes c s va pa n false = some bs ∧ bs.length = n ∧ ∀ i, i < n → bs[i]? = some
        (match ((meeting s c.t.pasid va pa n (c.g.storeQ.filter SqEntry.isGlobal)).filter fun x =>
            decide (x.1 ≤ va + i) && decide (va + i < x.1 + x.2.data.length)).getLast? with
          | some x => x.2.data.getD (va + i - x.1) 0
          | none => (homeBytes s pa n).getD i 0))

/-- R192, R193, R194, R196, R200, R208, R211 and R225: a store enters one entry for each lane's single-copy part or
each full grain into its group's store queue, where there is room; else the group waits for it. The model's own
choices in it: log 16, 30. -/
def Obligations.GlobalStores : Prop :=
  ∀ (s : State) (c : Ctx),
    (∀ x : LStore, Issues s c (memNames false x.d x.w x.sb x.a) false →
      let q := c.I.flatMap fun L => (stParts (c.g.globalAddr L x.sb x.a).toNat (c.g.storeBytes L x.d x.w)).map fun p =>
        globalEntry c .st p.1 L 0 false p.2
      Storable c.free (laneAccs c x.sb x.a x.w.bytes (.write x.w.bytes)) →
        (storeRoom c.g q.length = true → ∃ t, exec (.st x) s = .next t ∧ Did c x.s 4 { queue := q } t) ∧
        (storeRoom c.g q.length = false → exec (.st x) s = .next (c.parked .storeRoom s))) ∧
    (∀ x : LOrdered, Issues s c (memNames false x.d x.w x.sb x.a) false →
      (Storable c.free (laneAccs c x.sb x.a x.w.bytes (.writeO x.w.bytes)) → storeRoom c.g c.I.length = true → ∃ t, exec (.sto x) s = .next t ∧ Did c x.s 8
        { queue := c.I.map fun L => globalEntry c .sto (c.g.globalAddr L x.sb x.a).toNat L x.scope.toNat x.ordered
            (c.g.storeBytes L x.d x.w) } t) ∧
      let accs := laneAccs c x.sb x.a x.w.bytes .writeG
      let grains := (accs.map fun a => a.va / 512).eraseDups.mergeSort
      (Storable c.free accs → (∀ a ∈ accs, grainCovered accs (a.va / 512) = true) → storeRoom c.g grains.length = true →
        ∃ t, exec (.stog x) s = .next t ∧ Did c x.s 8
          { queue := grains.map fun g =>
              let own := c.I.filter fun L => (c.g.globalAddr L x.sb x.a).toNat / 512 == g
              globalEntry c .stog (512 * g) (own.headD 0) x.scope.toNat x.ordered (own.foldl (fun bs L =>
                overlay (512 * g) bs (c.g.globalAddr L x.sb x.a).toNat (c.g.storeBytes L x.d x.w)) (List.replicate 512 0)) } t)) ∧
    (∀ x : UImm12, Issues s c (readsU (x.d.toNat :: runOf x.a.toNat 2)) false →
      let va := (c.g.uniPair x.a.toNat + BitVec.ofInt 64 x.imm.toInt).toNat
      Storable c.free [⟨0, va, 4, .write 4⟩] → storeRoom c.g 1 = true → ∃ t, exec (.stuW x) s = .next t ∧ Did c x.s 4
        { queue := [globalEntry c .st va 0 0 false (leBytes 4 (c.g.readUni x.d.toNat).toNat)] } t) ∧
    (∀ x : GReduce, Issues s c (Names.add (readsV (atomRegs x.wide x.b)) (addrNames x.sb x.a)) false →
      let n := if x.wide then 8 else 4
      let accs := laneAccs c x.sb x.a n (.reduce x.op x.wide x.scope.toNat)
      Storable c.free accs → (∀ a ∈ accs, ∀ w off, place s c.t.pasid a.va a.use ≠ .window w off) →
        storeRoom c.g c.I.length = true → ∃ t, exec (.red x) s = .next t ∧ Did c x.s 8
          { queue := accs.map fun a => { globalEntry c .red a.va a.lane x.scope.toNat x.rel
              (leBytes n (c.g.atomSrc a.lane x.wide x.b).toNat) with op := x.op, wide := x.wide } } t) ∧
    ∀ (x : USrc2) (ps : List Placed), Issues s c (readsU (x.b.toNat :: runOf x.a.toNat 2)) false →
      let va := (c.g.uniPair x.a.toNat).toNat
      let v := (c.g.readUni x.b.toNat).toNat
      let len := v % 2 ^ 24
      va % 512 = 0 → len % 512 = 0 → 0 < len → v < 2 ^ 24 → va % 65536 + len ≤ 65536 →
        Placeable c.free [⟨0, va, 512, .claim⟩] ps → storeRoom c.g (len / 512) = true → ∃ t, exec (.claim x) s = .next t ∧ Did c x.s 4
          { queue := (List.range (len / 512)).map fun i =>
              globalEntry c .claim (va + 512 * i) 0 0 false (List.replicate 512 0) } t

/-- R197 to R199, R211, R214 and R226: an atomic on local memory sends one request for each lane to its home, after
its release and after its group's earlier stores, and its old values are outstanding until every one has come back.
The model's own choices in it: log 27, 29. -/
def Obligations.GlobalAtomics : Prop :=
  ∀ (s : State) (c : Ctx) (x : GAtomic) (ps : List Placed),
    Issues s c (Names.add (if x.ret then writesV (atomRegs x.wide x.d) else {}) (Names.add (readsV (atomRegs x.wide x.b))
      (Names.add (if x.op = .cas then readsV (atomRegs x.wide x.c) else {}) (addrNames x.sb x.a)))) false →
    let n := if x.wide then 8 else 4
    Placeable c.free (laneAccs c x.sb x.a n (.atomic x.op x.wide x.scope.toNat)) ps →
    (∀ p ∈ ps, p.isWindow = false) → (∀ r ∈ c.g.winRes, r.1 ≠ c.pc) →
      let releases : Prop := x.order = .rel ∨ x.order = .acqrel
      (packBefore c = true ∨ ¬releases ∧ atomBehind c.free ps = true → exec (.atom x) s = .next (c.parked .recall s)) ∧
      (packBefore c = false → releases → drainedAt c.free.s c.t.core c.r x.scope.toNat = false →
        exec (.atom x) s = .next (c.parked .drain s)) ∧
      (packBefore c = false → (releases → drainedAt c.free.s c.t.core c.r x.scope.toNat = true) →
        (¬releases → atomBehind c.free ps = false) →
        let s1 := if x.order = .rel ∨ x.order = .acqrel then releaseAt s c.t.core x.scope.toNat else s
        let reqs := ps.map fun p : Placed =>
          ({ team := c.r.team, grp := c.r.grp, pasid := c.t.pasid, pa := p.pa.getD 0
             e := { globalEntry c .att p.1.va p.1.lane x.scope.toNat false
                      (leBytes n (c.g.atomSrc p.1.lane x.wide x.b).toNat) with
                    op := x.op, wide := x.wide, cmp := c.g.atomSrc p.1.lane x.wide x.c }
             result := if x.ret then some (s.fresh, p.1.lane, x.d.toNat) else none, order := x.order, unreached := []
             since := s.clock, logged := false } : HomeReq)
        ∃ t, exec (.atom x) s = .next t ∧
          DidIn ((notePlaces s1 (ps.map fun p => p.2)).adjCore c.t.core fun k => { k with reqs := k.reqs ++ reqs }) c x.s
            (fun _ => c.pc + 8)
            { later := if x.ret then [{ laterBytes s.fresh x.d 0 ps.length [] with vregs := atomRegs x.wide x.d }] else [] } t)

/-! ### Waiting on an address, fences and page operations -/

/-- R186, R202 to R205, R229 and R233: WAITA reads each lane's word at its home, which recalls the line, and either
finishes with the word and a status or registers the lane; a registered lane's timeout finishes it with the word as it
then is, once its home can serve the read; WAKEA wakes the earliest waiters of each lane's word. The model's own
choices in it: log 37, 43. -/
def Obligations.AddressWaits : Prop :=
  (∀ (s : State) (c : Ctx) (ps : List Placed),
    (∀ (x : WaitA) (l : List (Nat × List Byte)) (u : State),
      Issues s c (Names.add (writesV (runOf x.d.toNat 2)) (readsV (x.b.toNat :: runOf x.a.toNat 2))) false →
      Placeable c.free (laneAccs c 0 x.a 4 .wait) ps →
      (∀ p ∈ ps, meeting c.free.s c.t.pasid p.1.va (p.pa.getD 0) 4 (c.g.storeQ.filter fun e => e.isGlobal) = []) →
      (∀ p ∈ ps, ∀ q ∈ (s.core c.t.core).reqs, q.team = c.r.team → q.grp = c.r.grp →
        overlaps q.pa q.e.len (p.pa.getD 0) 4 = false) →
      loadEach c.free true c.free.s ps = some (l, u) →
        exec (.waita x) s = .next (afterIssue c.free x.s (waitLanes c.free x u (ps.zip (l.map fun y => y.2))))) ∧
    ∀ x : WakeA, Issues s c (readsV (x.b.toNat :: runOf x.a.toNat 2)) false → Placeable c.free (laneAccs c 0 x.a 4 .wake) ps →
      drainedAt c.free.s c.t.core c.r x.scope.toNat = true →
        exec (.wakea x) s = .next (c.done 8 x.s
          (ps.foldl (fun s p => wakeAt s (p.pa.getD 0) (c.g.readLane p.1.lane x.b.toNat).toNat)
            (releaseAt (notePlaces c.free.s (ps.map fun p => p.2)) c.t.core x.scope.toNat)))) ∧
  (∀ (c : Ctx) (x : WaitA) (u : State) (p : Placed) (bs : List Byte) (pa k : Nat), p.2 = .at pa k →
    let w : Word := BitVec.ofNat 32 (leNat bs)
    let b := c.g.readLane p.1.lane x.b.toNat
    let u1 := (u.recall (pa / 512)).invalidateLine (pa / 128)
    let lane := fun (st : Word) => u1.adjGroup c.r fun g =>
      ((g.writeLane p.1.lane x.d.toNat w).writeLane p.1.lane (x.d.toNat + 1) st).adjLane p.1.lane fun l =>
        { l with park := none, pc := l.pc + 8 }
    let waiting := (u.waits.filter fun q => q.chiplet == homeOf u.build pa && q.woken.isNone).length
    (condHolds x.cond w b = true → waitLanes c x u [(p, bs)]
      = if 3 ≤ foldScope u.build x.scope.toNat then (lane 0).dropL1 c.t.core else lane 0) ∧
    (condHolds x.cond w b = false → 4096 ≤ waiting → waitLanes c x u [(p, bs)] = lane 2) ∧
    (condHolds x.cond w b = false → waiting < 4096 → waitLanes c x u [(p, bs)]
      = { u1.adjLane c.r p.1.lane fun l => { l with park := some .waita } with
          waits := u.waits ++ [⟨homeOf u.build pa, pa, BitVec.ofNat 64 p.1.va, c.r, p.1.lane, x.d.toNat, b, x.cond, x.scope.toNat,
            u.clock + 2 ^ (8 + 2 * x.cls.toNat), none⟩] })) ∧
  ∀ (s : State) (x : GIdx) (w : WaitReg) (t : Team),
    s.waits.find? (fun v => v.g == x.g && v.lane == x.i && v.woken.isNone) = some w → s.team w.g.team = some t →
    (s.clock < w.deadline → exec (.waitaTimeout x) s = .next s) ∧
    (w.deadline ≤ s.clock → s.waits.Nodup → (∀ v ∈ s.waits, v.woken = none) →
      let v : Word := BitVec.ofNat 32 (leNat (homeBytes s w.pa 4))
      let held := condHolds w.cond v w.cmp
      let u := ({ s with waits := s.waits.filter fun q => q ≠ w }.readBy (chipletOfCore t.core) w.pa).dropLine t.core (w.pa / 128)
      let u := u.adjGroup w.g fun g =>
        ((g.writeLane w.lane w.d v).writeLane w.lane (w.d + 1) (if held then 0 else 1)).adjLane w.lane fun l =>
          { l with park := none, pc := l.pc + 8 }
      (rereadReady s w = true → exec (.waitaTimeout x) s
        = .next (if held = true ∧ 3 ≤ foldScope s.build w.scope then u.dropL1 t.core else u)) ∧
      (rereadReady s w = false → exec (.waitaTimeout x) s
        = .next { s with waits := s.waits.map fun q => if q = w then { w with woken := some true } else q }))

/-- R185, R206, R207, R209, R222 and R223: FENCE waits until everything its group did before it has been performed at
its scope; DISCARD waits until its pages can be made dead, and a page is dead once its frame is free; PREF asks for
its pages and never waits. The model's own choices in it: log 29, 38, 42, 44. -/
def Obligations.FencesAndPages : Prop :=
  let effect := fun (s : State) (core n : Nat) =>
    let u := if 2 ≤ foldScope s.build n then s.dropStale core else s
    if 3 ≤ foldScope s.build n then u.dropL1 core else u
  ((∀ (s : State) (c : Ctx) (x : UFence), Issues s c {} false →
    (fenceReady c.free.s c.t.core c.r x.scope.toNat = true → ∃ t, exec (.fence x) s = .next t ∧
      DidIn (effect s c.t.core x.scope.toNat) c x.s (fun _ => c.pc + 4) {} t) ∧
    (fenceReady c.free.s c.t.core c.r x.scope.toNat = false →
      exec (.fence x) s = .next (c.parked (.fence x.scope.toNat x.s) s))) ∧
  ∀ (s : State) (r : GRef) (t : Team) (g : Group) (n : Nat) (b : Bool), s.team r.team = some t → t.groups[r.grp]? = some g →
    g.park = some (.fence n b) → exec (.fenceConditionsMet r) s = .next
      (if fenceReady s t.core r n then completeHeld (effect s t.core n) r 4 b else s)) ∧
  ((∀ (s : State) (c : Ctx) (x : USrc2), Issues s c (readsU (x.b.toNat :: runOf x.a.toNat 2)) false →
    let va := (c.g.uniPair x.a.toNat).toNat
    let v := (c.g.readUni x.b.toNat).toNat
    let len := v % 2 ^ 24
    (va % 65536 = 0 → len % 65536 = 0 → 0 < len → v < 2 ^ 24 →
      Storable c.free ((List.range (len / 65536)).map fun i => ⟨0, va + 65536 * i, 1, .discard⟩) → coreDrained s c.r = true →
        exec (.discard x) s = .next (c.parked (.discard va (len / 65536) x.s) s)) ∧
    (0 < len → v < 2 ^ 26 → exec (.pref x) s
      = .next (c.done 4 x.s (((pagesOf va len).filter fun p => decide (p < 2 ^ 40)).foldl
          (fun s p => prefPage s c.t.core c.t.pasid (if v / 2 ^ 24 = 3 then 1 else v / 2 ^ 24) va len p) c.free.s))) ∧
    (len = 0 ∨ 2 ^ 26 ≤ v → ∃ t, exec (.pref x) s = .next t ∧ Did c x.s 4 {} t)) ∧
  ∀ (s : State) (r : GRef) (t : Team) (g : Group) (va n : Nat) (b : Bool), s.team r.team = some t →
    t.groups[r.grp]? = some g → g.park = some (.discard va n b) → (s.core t.core).reqs = [] → copiesHold s r = true →
      (∀ u, discardPages r t.pasid n va s = (u, 0) →
        exec (.discardComplete r) s = .next (completeHeld (releaseAt u t.core 5) r 4 b)) ∧
      (∀ u k, discardPages r t.pasid n va s = (u, k + 1) →
        exec (.discardComplete r) s = .next (u.adjGroup r fun g =>
          { g with park := some (.discard (va + 65536 * (n - (k + 1))) (k + 1) b) })) ∧
      ∀ pa kind, translate s t.pasid va .discard = .at pa kind →
        let owned : Prop := ∃ j ∈ s.copies, ∃ q ∈ j.grains, q / 128 = pa / 65536
        (owned → discardPage s r t.pasid va false = .later s) ∧
        (¬owned → kind ≠ 3 → discardPage s r t.pasid va false = .done (freeFrame s pa)))

/-! ### Copies -/

/-- R25, R228, R230, R240, R242, R256 and R258: a COPY whose checks pass and whose release is done takes a place in an
engine's queue, unless another group waits before it; a copy that holds what it needs moves what is left of it and
then arrives; one that fails sets ERROR and its cause; a free engine place takes the COPY of the group that waits
first. The model's own choices in it: log 24, 57, 58. -/
def Obligations.Copies : Prop :=
  (∀ (s : State) (c : Ctx) (x : CopyOp) (job : CopyJob),
    let ch := chipletOfCore c.t.core
    let earlier : Prop := ∃ w ∈ copyParked s ch, w.2.2 ≠ c.r ∧ w.before c.queuedSince c.t.core = true
    (∀ e, Copyable s c x e job → pickEngine s ch x.hint.toNat = some e → ¬earlier →
      exec (.copy x) s = .next (c.copied x.s job)) ∧
    (Copyable s c x job.engine job → pickEngine s ch x.hint.toNat = none ∨ earlier →
      exec (.copy x) s = .next (c.parked (.copyQueue c.queuedSince) s)) ∧
    ∀ e r, firstParked (copyParked s ch) = some r → (pickEngine s ch 0).isSome = true →
      fetchInstr s c.t r.grp c.g c.g.issueSet.2 = .copy x → Copyable { s with actor := .group r } c x e job →
      pickEngine s ch x.hint.toNat = some e → ¬earlier →
        exec (.copyQueueFree ch) s = .next { c.copied x.s job with actor := s.actor }) ∧
  ((∀ (s : State) (id : Nat) (j : CopyJob) (t : Team), s.copies.find? (fun c => c.id == id) = some j →
    s.team j.g.team = some t → (∃ y ∈ (engineJobs s j.engine).take 4, y.id = id) → j.waiting = none →
    copyMoves j.spec t = true →
      let u := takeGrains s id
      let l := copyPlaces u j
      (∀ e ∈ l, ∃ pa k, e.2 = .at pa k ∧ regionReady u pa = true) → (∀ e ∈ l, pageWaits u j.pasid (e.1 / 128) = false) →
        (copySoft u j t l (j.left.flatMap j.spec.piece) = false →
          exec (.copyArrival id) s = .next (moveCopy (notePlaces u (l.map fun e => e.2)) j t l)) ∧
        (copySoft u j t l (j.left.flatMap j.spec.piece) = true → exec (.copyArrival id) s = .next (softCopy u id))) ∧
  (∀ (s : State) (x : CopyFail) (j : CopyJob) (t : Team), s.copies.find? (fun c => c.id == x.id) = some j →
    s.team j.g.team = some t →
      let l := copyPlaces s j
      let soft : Prop := x.cause = cSoft ∧ copySoft s j t l (j.left.flatMap j.spec.piece) = true
      let refused : Prop := ∃ e ∈ l, ∃ code, e.2 = .trap x.cause code
      (soft → exec (.copyError x) s = .next (softCopy s x.id)) ∧
      (¬soft → refused ∨ copyLate s j x.cause = true → exec (.copyError x) s = .next (failCopy s x.id x.cause)) ∧
      (¬soft → ¬refused → copyLate s j x.cause = false → exec (.copyError x) s = .next s)) ∧
  ∀ (a : Arrival) (cause : Cause), a.fail cause = ({ a with flags :=
    if a.flags.toNat / 256 % 256 = 0 then a.flags ||| 2 ||| BitVec.ofNat 32 (256 * cause.toNat) else a.flags ||| 2 } : Arrival).settle)

/-! ### The matrix array -/

/-- R266 to R276 and R281: KSET arms a convergence register; the issuing lanes of an MMA sign its round and wait, and
the round of 64 signatures enters the queue; lanes whose round was discarded while they were away take its trap; the
other matrix instructions take a place in the queue of eight. The model's own choices in it: log 54, 55, 56, 88. -/
def Obligations.MatrixInstructions : Prop :=
  (∀ (s : State) (c : Ctx),
    (∀ x : KSet, Issues s c (Names.add (readsU [x.a.toNat]) { z := [0], k := [x.k.toNat] }) false →
      let v := (c.g.readUni x.a.toNat).toNat
      (∀ g0 w u ss, c.t.kreg x.k.toNat ≠ .opened g0 w u ss) → v < 16 → v + 64 / c.t.width ≤ c.t.groups.length →
      exitedLane c.t v = none → ∃ t, exec (.kset x) s = .next t ∧
        Did (c.afterTeam fun t => t.setKreg x.k.toNat (.armed v)) x.s 4 {} t) ∧
    ∀ (x : Mma) (g0 : Nat) (before : List Signer), Issues s c (Mma.names x) false →
      let k := x.k.toNat
      let w := mmaWords x
      let ss := addSignatures before (signatures c x g0)
      (∀ o, owedHere c = some o → exec (.mma x) s = .next (afterIssue c.free x.s (takeTrap (c.free.s.adjGroup c.r fun g =>
        { g with owed := g.owed.filter fun p => p ≠ o }) c.r (c.free.mkTrap o.cause 0 o.info) c.I []))) ∧
      (owedHere c = none → (c.t.kreg k = .armed g0 ∧ before = [] ∨ c.t.kreg k = .opened g0 w.1 w.2 before) →
      (∀ L ∈ c.I, g0 * c.t.width ≤ c.r.grp * c.t.width + L ∧ c.r.grp * c.t.width + L < g0 * c.t.width + 64) →
        (ss.length < 64 → exec (.mma x) s = .next (afterIssue c.free x.s (parkSigners c.free k
          (c.free.s.adjTeam c.r.team fun t => t.setKreg k (.opened g0 w.1 w.2 ss))))) ∧
        (64 ≤ ss.length → c.t.mq.length < 8 → exec (.mma x) s = .next (afterIssue c.free x.s (enterQueue
          (parkSigners c.free k (c.free.s.adjTeam c.r.team fun t => t.setKreg k (.armed g0))) c.r.team (.mma x ss)))) ∧
        (64 ≤ ss.length → 8 ≤ c.t.mq.length → exec (.mma x) s = .next (c.parked .matrixQueue s)))) ∧
  (∀ (s : State) (c : Ctx),
    let offset := fun (a : BitVec 6) => (c.g.readUni a.toNat).toNat
    let fits := fun (align n off : Nat) => off % align = 0 ∧ off + n ≤ c.t.window
    let enters := fun (i : Instr) (b : Bool) (u : State) (k : MqKind) =>
      (c.t.mq.length < 8 → exec i s = .next (c.done 4 b (enterQueue u c.r.team k))) ∧
      (8 ≤ c.t.mq.length → exec i s = .next (c.parked .matrixQueue s))
    (∀ x : ZTile, Issues s c { z := [x.z.toNat] } false → enters (.zclr x) x.s c.free.s (.zclr x.z.toNat)) ∧
    (∀ b : Bool, Issues s c { z := [0] } false → c.t.wloads ≠ 0 →
      enters (.wact b) b (c.free.s.adjTeam c.r.team fun t => { t with wloads := 0 }) .wact) ∧
    (∀ x : ZMove, Issues s c (Names.add (writesV (runOf x.d.toNat 2)) (Names.add (Src.names x.b) { z := [x.z.toNat] })) false →
      enters (.zrd x) x.s (addDeferred c.free.s c.r (runOf x.d.toNat 2) [] [] [] 0 1)
        (.zrd x.z.toNat c.r.grp s.fresh (c.I.map fun L => (L, tileLane c L, c.g.src L x.b)) x.d.toNat)) ∧
    (∀ x : ZMove, Issues s c (Names.add (readsV (runOf x.d.toNat 2)) (Names.add (Src.names x.b) { z := [x.z.toNat] })) false →
      enters (.zwr x) x.s c.free.s (.zwr x.z.toNat (c.g.readLane (c.I.headD 0) x.d.toNat) (c.I.map fun L =>
        (tileLane c L, c.g.src L x.b, c.g.readLane L x.d.toNat, c.g.readLane L (x.d.toNat + 1))))) ∧
    (acquirePending s c.t.core c.r c.g = false →
      (∀ x : ZMem, Issues s c (Names.add (readsU [x.a.toNat]) { z := [x.z.toNat] }) false → fits 16 8192 (offset x.a) →
        ∀ p ∈ [(Instr.zstt x, MqKind.zstt x.z.toNat c.r.grp (offset x.a)), (.zldt x, .zldt x.z.toNat c.r.grp (offset x.a))],
          (c.t.mq.length < 8 → exec p.1 s = .next (c.done 4 x.s ((enterQueue c.free.s c.r.team p.2).adjGroup c.r fun g =>
            { g with park := some .ztransfer }))) ∧
          (8 ≤ c.t.mq.length → exec p.1 s = .next (c.parked .matrixQueue s))) ∧
      ∀ x : WLoad, Issues s c (Names.add (readsU [x.a.toNat, x.b.toNat]) { z := [0] }) false →
        fits 128 (WLoad.elemBytes x) (offset x.a) → (WLoad.sideBytes x ≠ 0 → fits 16 (WLoad.sideBytes x) (offset x.b)) →
          (c.t.mq.length < 8 → exec (.wload x) s = .next (c.parked .wload (enterQueue
            (c.free.s.adjTeam c.r.team fun t => { t with wloads := t.wloads + 1 }) c.r.team
            (.wload x c.r.grp (offset x.a) (offset x.b))))) ∧
          (8 ≤ c.t.mq.length → exec (.wload x) s = .next (c.parked .matrixQueue s))))

/-- R75, R77, R278, R279 and R282: a round of integer formats leaves, in every element of the tile, the low 32 bits of
the exact sum of the old value, when it accumulates, and the products, and sets overflow where such a sum leaves the
signed range; R283: an element computed from a word with an uncorrectable error is left out of that, and sets the
error bit. -/
def Obligations.IntegerRounds : Prop :=
  ∀ (a : Latch) (w : Weights) (acc : Bool) (n : Nat) (t : Tile), Machine.Fmt.isInt a.fmt = true → Machine.Fmt.isInt w.fmt = true → w.depth = kOf a.fmt →
    let sum := fun i c : Nat => (if acc then (Sparse.get 0 t.words (128 * i + c)).toInt else 0) +
      ((List.range (kOf a.fmt)).map fun k => intOf a.fmt (a.code i k) * intOf w.fmt (w.code c k)).sum
    let u := roundTile a w acc n t
    (∀ i c, i < 16 → c < 128 → outBad w acc t i c = false → Sparse.get 0 u.words (128 * i + c) = BitVec.ofInt 32 (sum i c)) ∧
    (Machine.roundBad w acc t = false → (u.status.getLsbD 0 = true ↔ t.status.getLsbD 0 = true ∨
      ∃ i c, i < 16 ∧ c < 128 ∧ (sum i c < -2 ^ 31 ∨ 2 ^ 31 ≤ sum i c))) ∧
    (u.status.getLsbD 3 = true ↔ t.status.getLsbD 3 = true ∨ Machine.roundBad w acc t = true) ∧
    ∀ j, j = 1 ∨ j = 2 → u.status.getLsbD j = t.status.getLsbD j

/-- R264, R267, R274 to R276 and R279 to R287: what the array does with the entry it chooses, how a WLOAD ends, and
what room in the queue does. The model's own choices in it: log 54, 59. -/
def Obligations.MatrixEvents : Prop :=
  (∀ (s : State) (core : Nat) (t : Team) (e : MqEntry), (s.core core).arrayFree ≤ s.clock → chosenHead s core = some (t, e) →
    let v := performEntry (s.adjTeam t.id fun t => { t with mq := t.mq.drop 1 }) t e.kind
    let u := queueMoved (v.adjCore core fun c => { c with arrayFree := v.clock + e.kind.cycles }) t.id
    ((∀ x ss, e.kind ≠ .mma x ss) → exec (.matrixEntryPerform core) s = .next u) ∧
    ((∃ x ss, e.kind = .mma x ss) → exec (.mmaRoundExecute core) s = .next u)) ∧
  (∀ (s : State) (t : Team) (z : Nat), performEntry s t (.zclr z) = s.adjTeam t.id fun t => t.setTile z ⟨[], 0, []⟩) ∧
  (∀ (s : State) (t : Team) (x : Mma) (ss : List Signer) (w : Weights), t.weights = some w →
    let a := t.latch.getD (captured x.fmt ss)
    (∀ n, performRound t n x ss = { t.setTile x.z.toNat (roundTile a w x.acc n (t.tile x.z.toNat)) with
      latch := if x.reuse then some a else none }) ∧
    let u := s.adjTeam t.id fun t => performRound t s.free x ss
    (Machine.roundBad w x.acc (t.tile x.z.toNat) = false → performEntry s t (.mma x ss) = u) ∧
    (Machine.roundBad w x.acc (t.tile x.z.toNat) = true → performEntry s t (.mma x ss) = (signerGroups ss).foldl
      (fun s g => takeImprecise s ⟨t.id, g⟩ ⟨cSoft, 0, 0, infoMatrix x.z.toNat 6 0 12, 0⟩) { u with free := s.free + 4096 })) ∧
  (∀ (s : State) (r : GRef) (t : Team) (g : Group) (x : WLoad) (elems side n : Nat) (b : Bool), s.team r.team = some t →
    t.groups[r.grp]? = some g → t.mq.find? (fun e => match e.kind with | .wload _ _ _ _ => true | .wact => true | _ => false)
      = some ⟨.wload x r.grp elems side, n, b⟩ → g.park = some .wload → teamDrained g = true →
      let buf : WBuf := ⟨some (x.fmt, Machine.depthOf x.depth, if x.fmt.isQa then groupSize x.g else 32),
        sliceMem t.tmem elems (WLoad.elemBytes x), sliceMem t.tmem side (WLoad.sideBytes x), [], []⟩
      let mine := fun e : MqEntry => match e.kind with | .wload _ h _ _ => h == r.grp | _ => false
      exec (.wloadComplete r) s = .next (completeHeld (queueMoved
        (s.adjTeam r.team fun t => { t.setShadow buf with mq := t.mq.filter fun e => !(mine e) }) r.team) r 8 x.s)) ∧
  ∀ (s : State) (team : Nat) (t : Team), s.team team = some t → t.mq.length < 8 →
    exec (.matrixQueueFree team) s = .next
      (((t.groups.zipIdx.filter fun gi => gi.1.park == some .matrixQueue).map fun gi => gi.2).foldl
        (fun s i => afterLanding (s.adjGroup ⟨team, i⟩ fun g => { g with park := none }) ⟨team, i⟩) s)

/-! ### Records and instances -/

/-- R296, R298 to R303 and R313: each lane of a posting instruction takes a slot in lane order, from its team's
reservation or, for POST.try and POST.wait, from the free ones, and its record is in flight; its status is
outstanding, and lanes left over wait; NODEQ waits for its answer. The model's own choices in it: log 15, 60. -/
def Obligations.Posting : Prop :=
  (∀ (s : State) (c : Ctx) (x : Post),
    Issues s c (Names.add (writesV [x.d.toNat]) (readsV (x.a.toNat :: if x.b = 0 then [] else runOf x.b.toNat 2))) false →
    acquirePending s c.t.core c.r c.g = false → drainedAt c.free.s c.t.core c.r 5 = true →
      let recs := c.I.map fun L => (⟨c.r, L, x.d.toNat, x.node.toNat, x.label.toNat, (c.g.readLane L x.a.toNat).toNat,
        if x.b = 0 then none else some (c.g.lanePair L x.b.toNat)⟩ : PostWaiter)
      ∀ p ∈ [(Instr.post x, false, false), (.postTry x, true, true), (.postWait x, true, false)],
        postTrap c.free (!p.2.1) x = none →
          let r := postLanes p.2.1 p.2.2 c.free.s recs
          let u := if r.1 = [] then r.2.2
            else addDeferred r.2.2 c.r [x.d.toNat] [] (r.1.map fun q => (q.1, x.d.toNat, q.2)) [] 0 0
          (r.2.1 = [] → exec p.1 s = .next (c.done 8 x.s u)) ∧
          (r.2.1 ≠ [] → exec p.1 s = .next (afterIssue c.free x.s
            (((setPcs u c.r (r.1.map fun q => (q.1, c.pc + 8))).adjInst c.t.inst fun i =>
              { i with waiters := i.waiters ++ r.2.1 }).adjGroup c.r fun g => { g with park := some .postWait })))) ∧
  (∀ (s : State) (w : PostWaiter) (t : Team) (i : Inst) (r : List PostWaiter) (free tries : Bool),
    s.team w.g.team = some t → s.inst t.inst = some i →
      let lower := (s.adjTeam w.g.team fun t => { t with res := t.res - 1 }).adjInst i.id fun i => { i with res := i.res - 1 }
      let taken := fun u : State => let q := postLanes free tries (writeRecord u w) r; ((w.lane, 1) :: q.1, q.2.1, q.2.2)
      (0 < t.res → postLanes free tries s (w :: r) = taken lower) ∧
      (t.res = 0 → free = true → i.used.length + i.res + i.waiters.length < i.slots →
        postLanes free tries s (w :: r) = taken s) ∧
      (t.res = 0 → (free = false ∨ i.slots ≤ i.used.length + i.res + i.waiters.length) →
        postLanes free tries s (w :: r) = if tries
          then (let q := postLanes free tries s r; ((w.lane, 0) :: q.1, q.2.1, q.2.2)) else ([], w :: r, s)) ∧
      (writeRecord s w).inst i.id = some { i with used := i.used ++ [lowestFree i.used], flights := i.flights ++
        [⟨w.g, lowestFree i.used, match w.key with
          | some k => colour s.build (k.toNat / 2 ^ 16 % 2 ^ 40) / 2 | none => chipletOfCore t.core, w.node, w.label⟩] }) ∧
  ((∀ (s : State) (c : Ctx) (x : UU), Issues s c (Names.add (writesU [x.d.toNat]) (readsU [x.a.toNat])) false →
    exec (.nodeq x) s = .next (c.done 4 x.s (c.free.s.adjGroup c.r fun g =>
      { g with park := some (.nodeq x.d.toNat (c.g.readUni x.a.toNat)) }))) ∧
  ∀ (s : State) (r : GRef) (t : Team) (g : Group) (d : Nat) (q : Word), s.team r.team = some t → t.groups[r.grp]? = some g →
    g.park = some (.nodeq d q) → exec (.nodeqAnswer r) s
      = .next (afterLanding (s.adjGroup r fun g => (g.writeUni d (nodeqValue s t q)).unpark) r))

/-- R25 and R303 to R307: a record joins its bin in the order of its group, a bin is cut at its target count, at its
timer and while its instance drains, and a launcher starts the oldest sheaf that can start, unless a lower launcher
asks for the same slots; R300: slots that free go to the lanes that wait, in their order; R308, R309: how an instance
ends. The model's own choices in it: log 15, 25, 60. -/
def Obligations.RecordEvents : Prop :=
  ∀ (s : State) (i : Inst),
    (∀ (x : InstIdx) (f : Flight) (n : NodeDesc), s.inst x.inst = some i → i.flights[x.i]? = some f → i.nodes[f.node]? = some n →
      (∀ e ∈ i.flights.take x.i, e.g = f.g → e.launcher ≠ f.launcher) →
        let b : Bin := match i.bins.find? fun b => b.isAt f.launcher f.node f.label with
          | some b => { b with recs := b.recs ++ [f.slot] }
          | none => ⟨f.launcher, f.node, f.label, [f.slot], s.clock⟩
        let u := s.adjInst x.inst fun i => { i with
          flights := dropAt i.flights x.i, bins := (i.bins.filter fun e => !(e.isAt f.launcher f.node f.label)) ++ [b] }
        exec (.recordArrival x) s = .next (if n.target ≤ b.recs.length then cutBin u x.inst b else u)) ∧
    (∀ (x : BinRef) (b : Bin) (n : NodeDesc), s.inst x.inst = some i → i.nodes[x.node]? = some n →
      i.bins.find? (fun b => b.isAt x.launcher x.node x.label) = some b → n.timer ≠ 0 → b.since + n.timer ≤ s.clock →
        exec (.binTimerExpiry x) s = .next (cutBin s x.inst b)) ∧
    (∀ id, s.inst id = some i → runningTeams s i.id = [] → i.flights = [] →
      exec (.drainCut id) s = .next (i.bins.foldl (fun s b => cutBin s id b) s)) ∧
    (∀ (l : Nat) (h : Sheaf) (n : NodeDesc) (rect : List Nat),
      let all := s.insts.flatMap fun i => (i.ready.filter fun h => h.launcher == l && canLaunch s i h).map fun h => (i, h)
      all.find? (fun x => all.all fun y => decide (x.2.seq ≤ y.2.seq)) = some (i, h) → i.nodes[h.node]? = some n →
      yieldsTo s l i h = false → sheafRect s i h = some rect → exec (.sheafLaunch l) s = .next (launchSheaf s i n h rect)) ∧
    (∀ (id : Nat) (w : PostWaiter) (r : List PostWaiter) (u : State), s.inst id = some i → i.waiters = w :: r →
      drawSlot s w.g.team (fun i => decide (0 < i.free)) = some u → exec (.postWaitServe id) s = .next (answerPost (writeRecord u w) id w 1)) ∧
    (∀ id, s.inst id = some i → postStalled s i = true → i.free = 0 →
      exec (.postWaitStall id) s = .next (i.waiters.foldl (fun s w => answerPost s id w 0x0A) s)) ∧
    (∀ id h, s.inst id = some i → i.ready.find? (fun h => i.ready.all fun x => decide (h.seq ≤ x.seq)) = some h →
      drains s i = true → i.bins = [] → (∀ h ∈ i.ready, sheafFits i h = false) → instQuiet s id = true →
        exec (.instanceStallDrain id) s = .next (finishInst s i h.node cArenaFull i.recsLeft)) ∧
    ∀ id, s.inst id = some i →
      i.ended.isSome = true ∨ drains s i = true ∧ i.bins = [] ∧ i.ready = [] ∧ instQuiet s id = true →
      exec (.instanceComplete id) s = .next (finishInst s i 0 0 0)

/-! ### The fabric -/

/-- R25 and R410 to R412: PUT and GET that pass their checks join their chiplet's port queue, a PUT after its release;
a GET's request leaves at once; a full queue, or a group that waits before it, makes the group wait, and a free place
takes the PUT or GET of the group that waits first; R413: WCWAIT goes on once the counter has reached its value or its
value. The model's own choices in it: log 74. -/
def Obligations.WindowInstructions : Prop :=
  (∀ (s : State) (c : Ctx) (x : PutGet) (w : Range) (p : Instr × Bool), p ∈ [(Instr.put x, true), (.get x, false)] →
    let ch := chipletOfCore c.t.core
    let earlier : Prop := ∃ w ∈ portParked s ch, w.2.2 ≠ c.r ∧ w.before c.portSince c.t.core = true
    (Admissible s c x p.2 w →
      ((portOps s ch).length < 256 → ¬earlier → exec p.1 s = .next (c.admitted x p.2 w)) ∧
      (256 ≤ (portOps s ch).length ∨ earlier → exec p.1 s = .next (c.parked (.portQueue c.portSince) s))) ∧
    ∀ r, firstParked (portParked s ch) = some r → fetchInstr s c.t r.grp c.g c.g.issueSet.2 = p.1 →
      Admissible { s with actor := .group r } c x p.2 w → (portOps s ch).length < 256 → ¬earlier →
        exec (.fabricPortFree ch) s = .next { c.admitted x p.2 w with actor := s.actor }) ∧
  ((∀ (s : State) (c : Ctx) (a : BitVec 6),
    let sel := c.g.readUni a.toNat
    let k := selKey c.t.vif sel
    selFault s c.t.vif c.t.pasid sel = none →
      (∀ x : UR, x.a = a → Issues s c (UR.names x false) false →
        let ends : Prop := (winCount (s.win k) - c.g.readUni x.b.toNat).toInt ≥ 0 ∨ sel.getLsbD 31 = false ∧ impErr (s.win k) = true
        (ends → ∃ t, exec (.wcwait x) s = .next t ∧ DidIn (s.dropL1 c.t.core) c x.s (fun _ => c.pc + 4)
          { uni := oneUni x.d (winStatus (s.win k) sel) } t) ∧
        (¬ends → exec (.wcwait x) s = .next (c.parked .wcwait s))) ∧
      (∀ x : UU, x.a = a → Issues s c (Names.add (writesU [x.d.toNat]) (readsU [x.a.toNat])) false →
        exec (.wcrd x) s = .next (c.done 4 x.s (c.free.s.adjGroup c.r fun g => { g with park := some (.wcrd x.d.toNat sel) }))) ∧
      ∀ x : USrc, x.a = a → Issues s c (readsU [x.a.toNat]) false → ∃ t, exec (.wcreset x) s = .next t ∧
        DidIn (s.setWin k (if sel.getLsbD 31 then winSetCount (s.win k) 0 else bvSet (winSetCount (s.win k) 0) 215 9 0)) c x.s
          (fun _ => c.pc + 4) {} t) ∧
  ∀ (s : State) (r : GRef) (t : Team) (g : Group) (d : Nat) (sel : Word), s.team r.team = some t → t.groups[r.grp]? = some g →
    g.park = some (.wcrd d sel) → exec (.wcrdAnswer r) s
      = .next (afterLanding (s.adjGroup r fun g => (g.writeUni d (winCount (s.win (selKey t.vif sel)))).unpark) r))

/-! ### Traps and the handler -/

/-- R47: the checks of an instruction in their order, each of which traps and leaves nothing of its effect: ILLEGAL
for a name beyond the team's counts, PRIVILEGE outside the handler, UNSETTLED for an outstanding result, SOFT for a
source of wrong parity. The model's own choices in it: log 33. -/
def Obligations.IssueChecks : Prop :=
  ∀ (s : State) (c : Ctx), s.ctx = some c →
    let illegal := c.trapped cIllegal 0 0
    let unsettledT := c.trapped cUnsettled 0 0
    let soft := c.trapped cSoft 0 0
    (∀ w, exec (.illegalWord w) s = .next illegal) ∧
    (∀ x : LR, let n := LR.names x false
      (namesOk c.t n = false → exec (.add x) s = .next illegal) ∧
      (namesOk c.t n = true → unsettled c.g n = true → exec (.add x) s = .next unsettledT) ∧
      (namesOk c.t n = true → unsettled c.g n = false → sourceBad c.g c.I n = true → exec (.add x) s = .next soft)) ∧
    (∀ x : UR, let n := UR.names x false
      (unsettled c.g n = true → exec (.saluAdd x) s = .next unsettledT) ∧
      (unsettled c.g n = false → sourceBad c.g c.I n = true → exec (.saluAdd x) s = .next soft)) ∧
    (c.g.inHandler = false → ∀ i : Instr, ((∃ b, i = .rte b) ∨ (∃ x, i = .grprd x ∨ i = .grpwr x) ∨ (∃ x, i = .grpres x ∨
      i = .grpstop x) ∨ (∃ x, i = .grplist x) ∨ ∃ w d, ∃ n : BitVec 12, i = .srd ⟨w, d, n⟩ ∧ 0x040 ≤ n.toNat ∧ n.toNat ≤ 0x045) →
        exec i s = .next (c.trapped cPrivilege 0 0))

/-- R359, R360, R366 and R446: taking a trap ends the group's waits, lands its results, saves the cause, the PCs and
the handler's registers in the frame, and sends every live lane to the handler under the whole tile, and no other
group changes; in the handler, without a handler, or with a cause no handler receives, it ends the team. The model's
own choices in it: log 32, 34. -/
def Obligations.TrapEntry : Prop :=
  (∀ (s : State) (c : Ctx) (cause : Cause) (addr : DWord) (info : Word) (L0 : Nat) (J : List Nat), s.ctx = some c →
    c.I = L0 :: J → c.g.inHandler = false → c.t.handler ≠ 0 → cause ≠ cOutOfFrames → cause ≠ cPasidGone →
    (∀ d ∈ c.g.deferred, d.wait = 0) →
      let t := c.trapped cause addr info
      let h := c.free.g.landReady
      ∃ g f, t.group c.r = some g ∧ g.frame = some f ∧ g.inHandler = true ∧ g.park = none ∧ g.deferred = [] ∧
        g.tile = c.t.width ∧ f.trap = c.free.mkTrap cause addr info ∧ f.pc = c.pc ∧ f.issuing = maskOf c.I ∧
        f.tile = c.g.tile ∧ g.fflags = h.fflags ∧ g.lanes.length = c.g.lanes.length ∧
        (∀ L, L < c.g.lanes.length → (g.lane L).exited = (c.g.lane L).exited ∧
          ((c.g.lane L).exited = false → (g.lane L).pc = c.t.handler ∧ (g.lane L).park = none ∧
            (∃ e ∈ f.pcs, e = (L, (c.g.lane L).pc)) ∧ f.live.getLsbD L = decide (L < 64))) ∧
        (∀ L v, g.readLane L v = h.readLane L v) ∧ (∀ u, g.readUni u = h.readUni u) ∧
        (∀ u, 48 ≤ u → Sparse.get 0 f.uregs u = h.readUni u) ∧
        (∀ L v, L < c.g.lanes.length → 120 ≤ v → v < 128 → Sparse.get 0 (Sparse.get [] f.vregs L) v = h.readLane L v) ∧
        (∀ q, q ≠ c.r → t.group q = s.group q) ∧ t.mem = s.mem) ∧
  (∀ (s : State) (c : Ctx) (cause : Cause) (addr : DWord) (info : Word), s.ctx = some c →
    c.g.inHandler = true ∨ c.t.handler = 0 ∨ cause = cOutOfFrames ∨ cause = cPasidGone →
      c.trapped cause addr info = fatalEnd c.free.s c.r.team cause)

/-- R188, R363 and R364: TRAP outside the handler is a software trap that resumes after itself, and in it ends the
team; RTE takes the group out of the handler with the frame's PCs, tile size and saved registers, and every other
register and group stays. The model's own choices in it: log 35, 64. -/
def Obligations.TrapsAndReturns : Prop :=
  (∀ (s : State) (c : Ctx) (x : UTrap), Issues s c {} false →
    (x.n = 0 ∨ c.g.inHandler = false ∧ x.n.toNat < 0x20 → exec (.trap x) s = .next (c.trapped cIllegal 0 0)) ∧
    (c.g.inHandler = true → x.n ≠ 0 →
      exec (.trap x) s = .next (afterIssue c.free x.s (fatalEnd c.free.s c.r.team x.n))) ∧
    (c.g.inHandler = false → 0x20 ≤ x.n.toNat → exec (.trap x) s = .next (afterIssue c.free x.s
      (takeTrap c.free.s c.r (c.free.mkTrap x.n 0 0) c.I (c.I.map fun L => (L, c.pc + 4)))))) ∧
  (∀ (s : State) (c : Ctx) (b : Bool) (f : Frame), Issues s c {} true → c.g.frame = some f → c.g.inHandler = true →
    c.g.pending = none → (∀ e ∈ f.uregs, 48 ≤ e.1) →
    (∀ L, Sparse.wf 0 (Sparse.get [] f.vregs L) = true ∧ ∀ e ∈ Sparse.get [] f.vregs L, 120 ≤ e.1 ∧ e.1 < 128) →
      ∃ t g, exec (.rte b) s = .next t ∧ OnlyGroup c.s c g t ∧ g.inHandler = false ∧ g.frame = none ∧ g.tile = f.tile ∧
        g.hold = 0 ∧ g.fflags = c.g.fflags ∧ g.storeQ = c.g.storeQ ∧ g.deferred = c.g.deferred ∧
        (∀ L, L < c.g.lanes.length → (c.g.lane L).exited = false →
          (g.lane L).pc = Sparse.get (c.g.lane L).pc f.pcs L ∧
          ∀ v, v < 128 → g.readLane L v = if v < 120 then c.g.readLane L v else Sparse.get 0 (Sparse.get [] f.vregs L) v) ∧
        ∀ u, g.readUni u = if u < 48 then c.g.readUni u else Sparse.get 0 f.uregs u)

/-- R362: the handler's instructions read and write items of stopped groups, resume and stop groups, and list their
states. The model's own choices in it: log 63. -/
def Obligations.HandlerInstructions : Prop :=
  ∀ (s : State) (c : Ctx),
    (∀ x : UR, Issues s c (Names.add (writesU (runOf x.d.toNat 2)) (readsU [x.a.toNat, x.b.toNat])) true →
      let v := (reach c (c.g.readUni x.a.toNat) (c.g.readUni x.b.toNat)).bind fun p => readItem p.2.1 (p.1 == c.r.grp) p.2.2
      ∃ t, exec (.grprd x) s = .next t ∧ Did c x.s 4 { uni := pairUni x.d (v.getD 0xFFFFFFFFFFFFFFFF) } t) ∧
    (∀ x : UR, Issues s c (readsU (x.a.toNat :: x.b.toNat :: runOf x.d.toNat 2)) true →
      (reach c (c.g.readUni x.a.toNat) (c.g.readUni x.b.toNat) = none →
        ∃ t, exec (.grpwr x) s = .next t ∧ Did c x.s 4 {} t) ∧
      ∀ p, reach c (c.g.readUni x.a.toNat) (c.g.readUni x.b.toNat) = some p → exec (.grpwr x) s = .next (c.done 4 x.s
        (c.free.s.adjGroup ⟨c.r.team, p.1⟩ fun g => writeItem g (p.1 == c.r.grp) (c.g.uniPair x.d.toNat) p.2.2))) ∧
    (∀ x : UU, Issues s c (Names.add (writesU [x.d.toNat]) (readsU [x.a.toNat])) true →
      let answers := fun (i : Instr) (v : Word) => ∃ t, exec i s = .next t ∧ Did c x.s 4 { uni := oneUni x.d v } t
      let who := targetOf c (c.g.readUni x.a.toNat)
      (who = none → answers (.grpres x) 2 ∧ answers (.grpstop x) 2) ∧
      ∀ n g, who = some (n, g) →
        (g.isStopped = true → g.stop = some .grpstop ∨ g.stop = some .hang → exec (.grpres x) s = .next (c.done 4 x.s
          ((c.free.s.adjGroup ⟨c.r.team, n⟩ fun g => resumeLanes c.t n (zeroAges { g with stop := none })).adjGroup c.r fun g =>
            g.writeUni x.d.toNat 0))) ∧
        (g.isStopped = false ∨ g.stop = some .preempt → answers (.grpres x) 2) ∧
        (n = c.r.grp → answers (.grpstop x) 3) ∧
        (n ≠ c.r.grp → g.exited = true ∨ g.inHandler = true → answers (.grpstop x) 2) ∧
        (n ≠ c.r.grp → g.exited = false → g.inHandler = false → g.isStopped = true → c.g.park = none →
          answers (.grpstop x) 1) ∧
        (n ≠ c.r.grp → g.exited = false → g.inHandler = false → g.stop = none → g.pending = none →
          let u := stopGroup c.free.s ⟨c.r.team, n⟩ .grpstop
          ∀ h, u.group ⟨c.r.team, n⟩ = some h →
            (h.isStopped = true → exec (.grpstop x) s = .next (c.done 4 x.s (u.adjGroup c.r fun g => g.writeUni x.d.toNat 0))) ∧
            (h.isStopped = false → exec (.grpstop x) s = .next (c.parked (.grpstop true) u)))) ∧
    ∀ x : UDst, Issues s c (writesU (runOf x.d.toNat 2)) true →
      ∃ t, exec (.grplist x) s = .next t ∧ Did c x.s 4 { uni := pairUni x.d (BitVec.ofNat 64
        ((c.t.groups.zipIdx.map fun gi => gi.1.code * 2 ^ (4 * gi.2)).sum)) } t

/-! ### Service cores -/

/-- R375 and R377: Xkrov raises cause 31 in U-mode and, without its enable bit, in S-mode, and cause 25 in another
role; the exception saves the pc, the cause and the value, and changes nothing but the core's CSRs, mode and pc. The
model's own choices in it: log 17, 67. -/
def Obligations.ServiceCorePrivilege : Prop :=
  (∀ (s : State) (h : Nat) (k : Hart) (x : XR3) (y : XR2), s.actor = .hart h → s.harts[h]? = some k →
    ∀ p ∈ [(Instr.bfx x, 0, [0, 1, 2, 3]), (.lodeh x, 1, [0, 1, 3]), (.swait x, 2, [0, 1, 2, 3]), (.fqpop y, 3, [0, 1]),
        (.wakegComplete x, 4, [0, 1]), (.wakegRefuse x, 4, [0, 1]), (.wakegDecline x, 4, [0, 1]), (.wakegRequeue x, 4, [0, 1]),
        (.glreplay y, 5, [0, 1]), (.pginst x, 6, [0, 1]), (.pgevict y, 7, [0, 1]), (.rfetch y, 8, [1, 3]), (.ueread y, 9, [0, 1]),
        (.uewrite y, 10, [0, 1]), (.lodeq y, 11, [1, 3]), (.dispatchRun x, 12, [2]), (.dispatchStop x, 12, [2]),
        (.dispatchPreempt x, 12, [2]), (.qsave x, 13, [2]), (.qload x, 14, [2])],
      (k.mode = 0 ∨ k.mode = 1 ∧ k.mxkenable.getLsbD p.2.1 = false → exec p.1 s = .next (hartTrap s h 31 0)) ∧
      (k.mode = 3 ∨ k.mode = 1 ∧ k.mxkenable.getLsbD p.2.1 = true → k.role ∉ p.2.2 → exec p.1 s = .next (hartTrap s h 25 0))) ∧
  ∀ (s : State) (h : Nat) (k : Hart) (cause : Nat) (v : DWord), s.harts[h]? = some k → cause < 64 →
    ∃ j, hartTrap s h cause v = { s with harts := s.harts.set h j } ∧ j = { k with csrs := j.csrs, mode := j.mode, pc := j.pc } ∧
      (k.mode = 3 ∨ (k.csr 0x302).getLsbD cause = false →
        j.mode = 3 ∧ j.csr 0x341 = k.pc ∧ j.csr 0x342 = BitVec.ofNat 64 cause ∧ j.csr 0x343 = v ∧
        j.pc = k.csr 0x305 &&& ~~~3 ∧ bvGet (j.csr 0x300) 11 2 = k.mode % 4 ∧ bvGet (j.csr 0x300) 7 1 = bvGet (k.csr 0x300) 3 1 ∧
        bvGet (j.csr 0x300) 3 1 = 0 ∧ ∀ n, n ∉ [0x300, 0x341, 0x342, 0x343] → j.csr n = k.csr n) ∧
      (k.mode ≤ 1 → (k.csr 0x302).getLsbD cause = true →
        j.mode = 1 ∧ j.csr 0x141 = k.pc ∧ j.csr 0x142 = BitVec.ofNat 64 cause ∧ j.csr 0x143 = v ∧ j.pc = k.csr 0x105 &&& ~~~3 ∧
        ∀ n, n ∉ [0x300, 0x141, 0x142, 0x143] → j.csr n = k.csr n)

/-- R376, R379 to R381: BFX extracts its field, LODEH hashes its key, SWAIT returns what is pending or waits, and a
waiting core goes on with an event, at its timeout or for an interrupt; the Xkrov CSRs are written in M-mode alone;
R199, R373: a FENCE leaves nothing to order; LR reserves its doubleword, SC stores under the reservation, and an AMO
exchanges its word or doubleword at the home. The model's own choices in it: log 17, 67, 72, 73. -/
def Obligations.ServiceCoreInstructions : Prop :=
  ((∀ (s : State) (h : Nat) (k : Hart) (x : XR3),
    let a := k.reg x.rs1
    let b := k.reg x.rs2
    (Serving s h k 0 [0, 1, 2, 3] →
      let p := min (b.toNat % 256) 64
      let n := min (b.toNat / 256 % 256) (64 - p)
      ∃ t, exec (.bfx x) s = .next t ∧ Retired s h k x.rd (BitVec.ofNat 64 (a.toNat / 2 ^ p % 2 ^ n)) t) ∧
    (Serving s h k 1 [0, 1, 3] →
      (2 ^ 32 ≤ a.toNat → exec (.lodeh x) s = .next (hartTrap s h 24 a)) ∧
      (a.toNat < 2 ^ 32 → 2 ^ 40 ≤ b.toNat → exec (.lodeh x) s = .next (hartTrap s h 24 b)) ∧
      (a.toNat < 2 ^ 32 → b.toNat < 2 ^ 40 → k.mxklode = 0 → exec (.lodeh x) s = .next (hartTrap s h 27 0)) ∧
      (a.toNat < 2 ^ 32 → b.toNat < 2 ^ 40 → k.mxklode ≠ 0 →
        let crc := crc32c (leBytes 4 a.toNat ++ leBytes 8 b.toNat)
        ∃ t, exec (.lodeh x) s = .next t ∧
          Retired s h k x.rd (BitVec.ofNat 64 (crc.toNat * 2 ^ 32 + crc.toNat % k.mxklode.toNat)) t)) ∧
    (Serving s h k 2 [0, 1, 2, 3] →
      let v := pendingEvents s k &&& a
      let acked : Hart := { k with wait := none, ctrlAck := if v.getLsbD 7 then s.lode.hold else k.ctrlAck }
      (256 ≤ a.toNat → exec (.swait x) s = .next (hartTrap s h 24 a)) ∧
      (a.toNat < 256 → v ≠ 0 ∨ b = 0 ∨ k.interruptPends = true → ∃ t, exec (.swait x) s = .next t ∧ Retired s h acked x.rd v t) ∧
      (a.toNat < 256 → v = 0 → b ≠ 0 → k.interruptPends = false → exec (.swait x) s = .next { s with
        harts := s.harts.set h { k with wait := some {
          rd := x.rd.toNat, mask := a, deadline := if b = BitVec.allOnes 64 then none else some (s.clock + b.toNat) } } }))) ∧
  (∀ (s : State) (h : Nat) (k : Hart) (w : HartWait), s.harts[h]? = some k → k.wait = some w →
    let v := pendingEvents s k &&& w.mask
    let acked : Hart := { k with wait := none, ctrlAck := if v.getLsbD 7 then s.lode.hold else k.ctrlAck }
    v ≠ 0 ∨ (∃ d, w.deadline = some d ∧ d ≤ s.clock) ∨ k.interruptPends = true →
      ∃ t, exec (.swaitReturn h) s = .next t ∧ Retired s h acked (BitVec.ofNat 5 w.rd) v t) ∧
  ∀ (s : State) (h : Nat) (k : Hart) (x : CsrWrite), s.actor = .hart h → s.harts[h]? = some k →
    (k.mode ≠ 3 → exec (.xkrovCsrWrite x) s = .next (hartTrap s h 2 0)) ∧
    (x.csr ≠ 0x7C0 → x.csr ≠ 0x7C1 → exec (.xkrovCsrWrite x) s = .next (hartTrap s h 2 0)) ∧
    (k.mode = 3 → x.csr = 0x7C0 → exec (.xkrovCsrWrite x) s = .next { s with
      harts := s.harts.set h { k with mxkenable := x.v.setWidth 16, pc := k.pc + 4 } }) ∧
    (k.mode = 3 → x.csr = 0x7C1 → exec (.xkrovCsrWrite x) s = .next { s with
      harts := s.harts.set h { k with mxklode := x.v.setWidth 17, pc := k.pc + 4 } })) ∧
  ((∀ (s : State) (h : Nat) (k : Hart) (x : HartFence), s.actor = .hart h → s.harts[h]? = some k →
    ∃ t, exec (.serviceCoreFence x) s = .next t ∧ Retired s h k 0 0 t) ∧
  ∀ (s : State) (h : Nat) (k : Hart) (x : HartAmo) (pa : Nat), s.actor = .hart h → s.harts[h]? = some k →
    let va := k.reg x.rs1
    let n := if x.wide then 8 else 4
    let u : HartUse := if x.op = .lr then .load else .store
    let loaded : DWord := BitVec.ofNat 64 (leNat (homeBytes s pa n))
    let shown := fun (v : DWord) => if x.wide then v else (v.setWidth 32).signExtend 64
    (va.toNat % n ≠ 0 → exec (.serviceCoreAmo x) s = .next (hartTrap s h (if x.op = .lr then 4 else 6) va)) ∧
    (∀ c, va.toNat % n = 0 → hartAddr s k k.memMode va.toNat u = .fault c →
      exec (.serviceCoreAmo x) s = .next (hartTrap s h c va)) ∧
    (va.toNat % n = 0 → hartAddr s k k.memMode va.toNat u = .pa pa →
      let guarded := u = .store ∧ tableGuard s k.memMode pa = true
      (hartMemory s pa n = false ∨ guarded → exec (.serviceCoreAmo x) s = .next (hartTrap s h u.accessFault va)) ∧
      (hartMemory s pa n = true → ¬guarded → hartReady s pa = true →
        (x.op = .lr → ∃ t, exec (.serviceCoreAmo x) s = .next t ∧
          Retired (s.readBy k.chiplet pa) h { k with reserved := some (pa / 8 * 8) } x.rd (shown loaded) t) ∧
        (x.op = .sc → k.reserved = some (pa / 8 * 8) → exec (.serviceCoreAmo x) s = .next
          (((homeWrite s pa (leBytes n (k.reg x.rs2).toNat)).adjHart h fun j =>
            { (Hart.setReg { j with reserved := none } x.rd 0) with pc := j.pc + 4 }))) ∧
        (x.op = .sc → k.reserved ≠ some (pa / 8 * 8) →
          ∃ t, exec (.serviceCoreAmo x) s = .next t ∧ Retired s h { k with reserved := none } x.rd 1 t) ∧
        ∀ p ∈ [(HartAmoOp.swap, AtomOp.xchg), (.add, .add), (.xor, .xor), (.and, .and), (.or, .or), (.min, .min), (.max, .max),
            (.minu, .minu), (.maxu, .maxu)], x.op = p.1 →
          let r := homeRmw s pa p.2 x.wide (k.reg x.rs2) 0
          exec (.serviceCoreAmo x) s = .next (hartRetire r.2 h x.rd (shown r.1) 4))))

/-- R356, R367, R382 to R384: FQPOP takes the oldest entry its core may pop under a free handle; GLREPLAY replays the
page of a handle; WAKEG completes, refuses, declines or requeues the entry of a handle. The model's own choices in it:
log 66, 67, 68. -/
def Obligations.ServingFaults : Prop :=
  (∀ (s : State) (h : Nat) (k : Hart) (x : XR2) (pa : Nat), Serving s h k 3 [0, 1] → Block s k (k.reg x.rs1) 32 .store pa →
    let handles := (s.faults.served.filter fun v => v.hart == h).map fun v => v.handle
    (indexOf (mayPop s k) (s.fq k.queue).entries = none ∨ s.lode.hold = true →
      ∃ t, exec (.fqpop x) s = .next t ∧ Retired s h k x.rd 0 t) ∧
    ∀ i e, indexOf (mayPop s k) (s.fq k.queue).entries = some i → (s.fq k.queue).entries[i]? = some e → s.lode.hold = false →
      ((runOf 1 64).find? (fun n => !(handles.contains n)) = none → ∃ t, exec (.fqpop x) s = .next t ∧ Retired s h k x.rd 0x41 t) ∧
      ∀ n, (runOf 1 64).find? (fun n => !(handles.contains n)) = some n →
        let u := takeEntry s k.queue i
        exec (.fqpop x) s = .next (hartRetire (homeWrite { u with faults := { u.faults with
            served := u.faults.served ++ [{ hart := h, handle := n, chiplet := k.chiplet, remote := k.role == 1, entry := e,
                                             installed := false, hold := false, replayed := false, replays := 0 }] } }
          pa (leBytes 32 e.bits)) h x.rd (BitVec.ofNat 64 n) 4)) ∧
  (∀ (s : State) (h : Nat) (k : Hart) (x : XR2), Serving s h k 5 [0, 1] →
    (servedOf s h (k.reg x.rs1).toNat = none → exec (.glreplay x) s = .next (hartTrap s h 24 (k.reg x.rs1))) ∧
    ∀ v, servedOf s h (k.reg x.rs1).toNat = some v →
      (v.installed = false → exec (.glreplay x) s = .next (hartTrap s h 30 (k.reg x.rs1))) ∧
      (v.installed = true → v.replayed = true → ∃ t, exec (.glreplay x) s = .next t ∧ Retired s h k x.rd 0 t) ∧
      (v.installed = true → v.replayed = false →
        let r := replayPage s v.entry.pasid v.entry.vpn
        let u := r.2.adjServed h v.handle fun w => { w with replays := w.replays + r.1 }
        (pageWaits u v.entry.pasid v.entry.vpn = true → exec (.glreplay x) s = .next u) ∧
        (pageWaits u v.entry.pasid v.entry.vpn = false →
          let w := u.adjServed h v.handle fun w => { w with replayed := true }
          exec (.glreplay x) s = .next
            (hartRetire w h x.rd (BitVec.ofNat 64 (((servedOf w h v.handle).map (·.replays)).getD 0)) 4)))) ∧
  ∀ (s : State) (h : Nat) (k : Hart) (x : XR3), Serving s h k 4 [0, 1] →
    let a := k.reg x.rs2
    let id := k.reg x.rs1
    (∀ i ∈ [Instr.wakegComplete x, .wakegRefuse x, .wakegDecline x, .wakegRequeue x],
      (2 ^ 18 ≤ a.toNat → exec i s = .next (hartTrap s h 24 a)) ∧
      (a.toNat < 2 ^ 18 → servedOf s h id.toNat = none → exec i s = .next (hartTrap s h 24 id))) ∧
    ∀ v, a.toNat < 2 ^ 18 → servedOf s h id.toNat = some v →
      let moved := fun (u : State) (n : Nat) => exec (.wakegDecline x) s = .next (hartRetire u h x.rd (BitVec.ofNat 64 n) 4)
      let tail := fun (f : FQueue) (e : FEntry) => { f with entries := f.entries ++ [e], seq := (f.seq + 1) % 2 ^ 32 }
      (let r := replayPage s v.entry.pasid v.entry.vpn
       let u := r.2.adjServed h v.handle fun w => { w with replays := w.replays + r.1 }
       let woken := v.entry.waiters.filter fun w => w.within (actMet a)
       let completes := fun (u : State) => exec (.wakegComplete x) s = .next (hartRetire
          (woken.foldl wakeWaiter (repost (freeHandle u h v.handle) v (actMet a))) h x.rd (BitVec.ofNat 64 woken.length) 4)
       (v.installed = true → v.replayed = true → completes s) ∧
       (v.installed = false → actMet a ≠ 0 → actMet a &&& 15 = 0 → completes s) ∧
       (v.installed = true → v.replayed = false → pageWaits u v.entry.pasid v.entry.vpn = true →
          exec (.wakegComplete x) s = .next u) ∧
       (v.installed = true → v.replayed = false → pageWaits u v.entry.pasid v.entry.vpn = false →
          completes (u.adjServed h v.handle fun w => { w with replayed := true })) ∧
       (v.installed = false → actMet a = 0 ∨ actMet a &&& 15 ≠ 0 →
          exec (.wakegComplete x) s = .next (hartTrap s h 30 id))) ∧
      (actCause a ∈ [0x05, 0x06, 0x08, 0x14, 0x15] → exec (.wakegRefuse x) s = .next (hartRetire
        (refuseEntry (freeHandle s h v.handle) v.entry (actCause a)) h x.rd (BitVec.ofNat 64 v.entry.waiters.length) 4)) ∧
      (actCause a ∉ [0x05, 0x06, 0x08, 0x14, 0x15] → exec (.wakegRefuse x) s = .next (hartTrap s h 24 a)) ∧
      (actCause a ∉ [0, 0x14, 0x15] → exec (.wakegDecline x) s = .next (hartTrap s h 24 a)) ∧
      (k.role = 0 → actCause a = 0x14 ∨ v.entry.stage = 2 → exec (.wakegDecline x) s = .next (hartTrap s h 24 a)) ∧
      (k.role = 1 → actCause a ∈ [0, 0x14, 0x15] →
        let q := fqKey v.chiplet false
        (1024 ≤ (s.fq q).entries.length → moved s 1) ∧
        ((s.fq q).entries.length < 1024 →
          moved ((freeHandle s h v.handle).adjFq q fun f => tail f (v.entry.decline 1 f.seq a)) 0)) ∧
      (k.role = 0 → actCause a = 0 ∨ actCause a = 0x15 → v.entry.stage ≠ 2 →
        let u := freeHandle s h v.handle
        (256 ≤ s.faults.host.length → moved s 1) ∧
        (s.faults.host.length < 256 → moved { u with faults := { u.faults with
          host := u.faults.host ++ [v.entry.decline 2 u.faults.hostSeq a], hostSeq := (u.faults.hostSeq + 1) % 2 ^ 32 } } 0)) ∧
      exec (.wakegRequeue x) s = .next (hartRetire ((freeHandle s h v.handle).adjFq (fqKey v.chiplet v.remote) fun f =>
        tail f { v.entry with seq := f.seq, tries := actTries a }) h x.rd 0 4)

/-- R377, R385, R386: PGINST checks its block in order and then installs, restamps or holds the page; PGEVICT gives
its outcome, and with outcome 0 evicts the frame. A bad word of the block or of the tables is cause 28. The model's
own choices in it: log 33, 67, 68. -/
def Obligations.InstallAndEvict : Prop :=
  (∀ (s : State) (h : Nat) (k : Hart) (x : XR3) (pa : Nat), Serving s h k 6 [0, 1] → Block s k (k.reg x.rs2) 32 .load pa →
    let u := s.readBy k.chiplet pa
    let v := leNat (homeBytes u pa 32)
    let i := v / 2 ^ 128 % 2 ^ 20
    let c := v / 2 ^ 148 % 2 ^ 4
    let img := InvEntry.ofBits (v % 2 ^ 128)
    let id := k.reg x.rs1
    let good := badWordIn u pa 32 = none
    let traps := fun (cause : Nat) (w : DWord) =>
      exec (.pginst x) s = .next (hartTrap s h cause w)
    (∀ b, badWordIn u pa 32 = some b → traps 28 (BitVec.ofNat 64 b)) ∧
    (good → v / 2 ^ 152 ≠ 0 → traps 24 (k.reg x.rs2)) ∧
    (good → v / 2 ^ 152 = 0 → 0xFFDC0 ≤ i → traps 24 (BitVec.ofNat 64 i)) ∧
    (good → v / 2 ^ 152 = 0 → i < 0xFFDC0 → c ≠ colour s.build img.vpn → traps 24 (BitVec.ofNat 64 c)) ∧
    (good → v / 2 ^ 152 = 0 → i < 0xFFDC0 → c = colour s.build img.vpn →
      let tables := badAmong u (installReads u c i img)
      let old := invEntry u.build u.mem c i
      let mine : Prop := old.valid = true ∧ old.pasid = img.pasid ∧ old.vpn = img.vpn
      (id ≠ 0 → servedOf u h id.toNat = none → traps 24 id) ∧
      (∀ e, id ≠ 0 → servedOf u h id.toNat = some e → e.entry.isFor img.pasid img.vpn = false → traps 24 id) ∧
      ((id = 0 ∨ ∃ e, servedOf u h id.toNat = some e ∧ e.entry.isFor img.pasid img.vpn = true) →
        (∀ b, tables = some b → traps 28 (BitVec.ofNat 64 b)) ∧
        (tables = none → (pasidEntry u img.pasid).state ≠ 1 → ∃ t, exec (.pginst x) s = .next t ∧ Retired u h k x.rd 1 t) ∧
        (tables = none → (pasidEntry u img.pasid).state = 1 →
          (¬mine → old.valid = true ∨ invLookup u.build u.mem img.pasid img.vpn ≠ some none → traps 26 (BitVec.ofNat 64 i)) ∧
          (frameBusy u (framePA u.build c i) = false →
            (mine → exec (.pginst x) s = .next (hartRetire (markInstalled
              { u with mem := setInvEntry u.build u.mem c i { old with lode := img.lode, pin := img.pin } } h id false) h x.rd 0 4)) ∧
            (old.valid = false → invLookup u.build u.mem img.pasid img.vpn = some none →
              exec (.pginst x) s = .next (hartRetire (markInstalled (installFrame u c i img) h id true) h x.rd 0 4))))))) ∧
  ∀ (s : State) (h : Nat) (k : Hart) (x : XR2), Serving s h k 7 [0, 1] →
    let a := k.reg x.rs1
    let i := a.toNat % 2 ^ 20
    let c := a.toNat / 2 ^ 20 % 2 ^ 4
    let e := invEntry s.build s.mem c i
    let o := evictOutcome s c i
    let tables := badAmong s (evictReads s c i)
    (2 ^ 24 ≤ a.toNat → exec (.pgevict x) s = .next (hartTrap s h 24 a)) ∧
    (∀ b, a.toNat < 2 ^ 24 → tables = some b → exec (.pgevict x) s = .next (hartTrap s h 28 (BitVec.ofNat 64 b))) ∧
    (a.toNat < 2 ^ 24 → tables = none → o ≠ 0 → ∃ t, exec (.pgevict x) s = .next t ∧ Retired s h k x.rd (BitVec.ofNat 64 o) t) ∧
    (a.toNat < 2 ^ 24 → tables = none → o = 0 → frameBusy s (framePA s.build c i) = false →
      exec (.pgevict x) s = .next (hartRetire (evictFrame s c i) h x.rd
        (BitVec.ofNat 64 (e.dirty.toNat * 2 ^ 8 + e.zero.toNat * 2 ^ 9 + e.lode * 2 ^ 10)) 4)) ∧
    (a.toNat < 2 ^ 24 → (e.pin ≠ 0 ∧ e.valid = true ∧ c < 2 * chipletsOf s.build → o = 1) ∧ (e.valid = false → o = 6))

/-- R377, R387, R388, R392: a transfer or a Lode request takes the lowest free credit, posts its descriptor and goes
on at once with the credit's number; with every credit taken it gives 0x40, a field outside its limits is cause 24,
and a bad word of the descriptor is cause 28. The model's own choices in it: log 14, 33, 67, 69. -/
def Obligations.TransferPosting : Prop :=
  ∀ (s : State) (h : Nat) (k : Hart) (x : XR2),
    let va := k.reg x.rs1
    let posted := fun (i : Instr) (j : Nat) (y : Xfer) (m : Msg) => exec i s = .next (hartRetire (send { (s.readBy k.chiplet y.desc).adjHart h
      (fun k => { k with taken := k.taken ||| ((1 : BitVec 64) <<< j) }) with xfers := s.xfers ++ [y], fresh := s.fresh + 1 } m)
        h x.rd (BitVec.ofNat 64 j) 4)
    let lowest := fun (j : Nat) => j < 64 ∧ k.taken.getLsbD j = false ∧ ∀ i < j, k.taken.getLsbD i = true
    (∀ p ∈ [(Instr.rfetch x, 8, [1, 3], XferKind.rfetch), (.ueread x, 9, [0, 1], .ueread), (.uewrite x, 10, [0, 1], .uewrite)],
      Serving s h k p.2.1 p.2.2.1 →
        (va.toNat % 64 ≠ 0 → exec p.1 s = .next (hartTrap s h 24 va)) ∧
        (va.toNat % 64 = 0 → k.taken = BitVec.allOnes 64 → ∃ t, exec p.1 s = .next t ∧ Retired s h k x.rd 0x40 t) ∧
        ∀ j pa, lowest j → Block s k va 64 .load pa →
          let v := leNat (homeBytes s pa 64)
          let loc := v % 2 ^ 64
          let remote := v / 2 ^ 64 % 2 ^ 64
          let node := v / 2 ^ 128 % 2 ^ 16
          let path := v / 2 ^ 152 % 4
          let len := v / 2 ^ 160 % 2 ^ 32
          let fits := len % 128 = 0 ∧ 128 ≤ len ∧ len ≤ 2 ^ 20 ∧ (p.2.2.2 = .rfetch ↔ path < 2) ∧ remote % 128 = 0 ∧ loc % 128 = 0 ∧
            inPool s loc len = true
          let bad := badWordIn s pa 64
          (∀ b, bad = some b → exec p.1 s = .next (hartTrap s h 28 (BitVec.ofNat 64 b))) ∧
          (bad = none → ¬fits → ∃ w, exec p.1 s = .next (hartTrap s h 24 w)) ∧
          (bad = none → fits → posted p.1 j
            { hart := h, credit := j, kind := p.2.2.2, desc := pa, loc, len, node, path, tag := BitVec.ofNat 32 s.fresh, posted := s.clock }
            (.xfer h j node (p.2.2.2 == .uewrite) (v / 2 ^ 320 % 2 ^ 32) remote len
              (if p.2.2.2 = .uewrite then homeBytes s loc len else [])))) ∧
    (Serving s h k 11 [1, 3] →
      (va.toNat % 64 ≠ 0 → exec (.lodeq x) s = .next (hartTrap s h 24 va)) ∧
      (va.toNat % 64 = 0 → k.mxklode = 0 → exec (.lodeq x) s = .next (hartTrap s h 27 0)) ∧
      (va.toNat % 64 = 0 → k.mxklode ≠ 0 →
        (k.taken = BitVec.allOnes 64 → ∃ t, exec (.lodeq x) s = .next t ∧ Retired s h k x.rd 0x40 t) ∧
        ∀ j pa, lowest j → Block s k va 64 .load pa →
          let v := leNat (homeBytes s pa 64)
          let op := v / 2 ^ 384 % 2 ^ 8
          let node := v / 2 ^ 416 % 2 ^ 16
          let tag : Word := BitVec.ofNat 32 s.fresh
          let bad := badWordIn s pa 64
          (∀ b, bad = some b → exec (.lodeq x) s = .next (hartTrap s h 28 (BitVec.ofNat 64 b))) ∧
          (bad = none → 8 ≤ op → exec (.lodeq x) s = .next (hartTrap s h 24 (BitVec.ofNat 64 op))) ∧
          (bad = none → op < 8 → posted (.lodeq x) j
            { hart := h, credit := j, kind := .lode op, desc := pa, loc := 0, len := 0, node, path := v / 2 ^ 410 % 4, tag, posted := s.clock }
            (.lode h j node op (BitVec.ofNat 256 (v % 2 ^ 256)) (BitVec.ofNat 32 (v / 2 ^ 352 % 2 ^ 32)) tag))))

/-- R388 to R390, R406: a transfer or Lode request ends with its remote's answer, with CODE 3 on a path that does not
reach its node, or with CODE 1 after 900,000 cycles; this package serves a transfer addressed to it, or refuses it
with CODE 2. The model's own choices in it: log 2, 14, 69. -/
def Obligations.TransferEnds : Prop :=
  (∀ (s : State) (x : XferEnd) (t : Xfer), xferOf s x.hart x.credit = some t →
    (reaches s t.path t.node = false → exec (.transferDone x) s = .next (endXfer s t 3 [])) ∧
    (reaches s t.path t.node = true → endCodeOk t.kind.isLode x.code.toNat = true → endDataOk t x.code.toNat x.data = true →
      x.code ≠ 0 ∨ t.node ∉ s.fabric.dead → exec (.transferDone x) s = .next (endXfer s t x.code.toNat x.data))) ∧
  (∀ (s : State) (x : CreditRef) (t : Xfer), xferOf s x.hart x.credit = some t → t.posted + 900000 ≤ s.clock →
    exec (.transferTimeout x) s = .next (endXfer s t 1 [])) ∧
  ∀ (s : State) (x : XferServe), x.src ∉ s.fabric.dead →
    (servedFrame s x = none → exec (.transferServe x) s = .next (send s (.xferReply x.src x.tag 2 []))) ∧
    ∀ pa, servedFrame s x = some pa → (∀ g ∈ grainsOf pa x.len, s.engineOwned (512 * g) = false) →
      (x.write = true → exec (.transferServe x) s
        = .next (send (homeWrite s pa (x.data.take x.len)) (.xferReply x.src x.tag 0 []))) ∧
      (x.write = false →
        let u := (linesOf pa x.len).foldl (fun s l => s.readBy (homeOf s.build pa) (128 * l)) s
        let u := { u with mem := markAccessed u.build u.mem pa }
        exec (.transferServe x) s = .next (send u (.xferReply x.src x.tag 0 (homeBytes u pa x.len))))

/-- R392, R393: each Lode operation at the holder answers with the entry as it leaves it; an invalidation or read
request ends with its ACK, and one that arrives joins the ring of its page's home chiplet. The model's own choices in
it: log 2, 14, 47. -/
def Obligations.LodeOperations : Prop :=
  (∀ (s : State) (x : LodeReq),
    let key := x.entry.toNat / 2 ^ 184
    let find := s.lode.entries.find? fun e => e.toNat / 2 ^ 184 == key
    let put := fun (e : BitVec 256) => { s with lode := { s.lode with
      entries := s.lode.entries.map fun y => if y.toNat / 2 ^ 184 = e.toNat / 2 ^ 184 then e else y } }
    (∀ p ∈ [(Instr.lodeLookup x, 0), (.lodeCas x, 1), (.lodeAddhold x, 2), (.lodeDrophold x, 3)],
      lodeStands s p.2 x = true → find = none → exec p.1 s = .next (lodeAnswer s p.2 x 6 none)) ∧
    (∀ e, find = some e →
      let version := e.toNat / 2 ^ 112 % 2 ^ 32
      let state := e.toNat / 2 ^ 182 % 4
      let l := holdersOf e
      let answers := fun (i : Instr) (op code : Nat) (e : BitVec 256) => exec i s = .next (lodeAnswer (put e) op x code (some e))
      (lodeStands s 0 x = true → answers (.lodeLookup x) 0 0 e) ∧
      (lodeStands s 1 x = true →
        (version = x.expect.toNat → answers (.lodeCas x) 1 0 (bvSet x.entry 112 32 (x.expect.toNat + 1))) ∧
        (version ≠ x.expect.toNat → answers (.lodeCas x) 1 5 e)) ∧
      (lodeStands s 2 x = true →
        (state = 1 ∨ state = 2 → answers (.lodeAddhold x) 2 5 e) ∧
        (state = 0 ∨ state = 3 → (x.src ∈ l → answers (.lodeAddhold x) 2 0 e) ∧
          (x.src ∉ l → l.length < 4 → answers (.lodeAddhold x) 2 0 (setHolders e (l ++ [x.src]))) ∧
          (x.src ∉ l → 4 ≤ l.length → answers (.lodeAddhold x) 2 0 (bvSet e 181 1 1)))) ∧
      (lodeStands s 3 x = true → answers (.lodeDrophold x) 3 0 (setHolders e (l.filter fun n => n ≠ x.src))) ∧
      (lodeStands s 4 x = true → exec (.lodeInsert x) s = .next (lodeAnswer s 4 x 7 (some e)))) ∧
    (lodeStands s 4 x = true → find = none →
      let e := bvSet x.entry 112 32 1
      exec (.lodeInsert x) s
        = .next (lodeAnswer { s with lode := { s.lode with entries := s.lode.entries ++ [e] } } 4 x 0 (some e)))) ∧
  (∀ (s : State) (x : LodeReq) (t : Xfer),
    let code := if t.node ∈ s.fabric.dead then 8 else 0
    let back := if t.node ∈ s.fabric.dead then []
      else leBytes 32 (bvSet (BitVec.ofNat 256 (leNat (homeBytes s t.desc 32))) 32 1 (x.entry.toNat / 2 ^ 32 % 2)).toNat
    (∀ p ∈ [(Instr.lodeInval x, 5), (.lodeRdreq x, 7)], xferOf s x.hart x.credit = some t → t.kind = .lode p.2 →
      exec p.1 s = .next (endXfer s t code back)) ∧
    (s.xfers.find? (fun t => (t.kind == .lode 5 || t.kind == .lode 7) && t.node == x.src && t.tag == x.entry.extractLsb' 0 32) = some t →
      exec (.lodeAck x) s = .next (endXfer s t code back))) ∧
  ∀ (s : State) (m : RingMsg), m.req.toNat ∉ s.fabric.dead →
    exec (.invalRingArrival m) s = .next (ringPush s (colour s.build m.vpn.toNat / 2) m)

/-! ### Queue slots -/

/-- R377, R402 to R404: QLOAD loads an idle slot from a QCB within its limits, DISPATCH changes the state of a slot,
and QSAVE writes a stopped slot's QCB and leaves the slot idle. A bad word of the QCB or of the PASID's entry is cause
28. The model's own choices in it: log 33, 67, 70. -/
def Obligations.QueueSlots : Prop :=
  ∀ (s : State) (h : Nat) (k : Hart) (x : XR3),
    let n := (k.reg x.rs1).toNat
    let q := s.slot n
    (Serving s h k 14 [2] →
      (128 ≤ n → exec (.qload x) s = .next (hartTrap s h 24 (k.reg x.rs1))) ∧
      ∀ pa, n < 128 → Block s k (k.reg x.rs2) 128 .load pa →
        let b : BitVec 1024 := BitVec.ofNat 1024 (leNat (homeBytes s pa 64))
        let fits := 4 ≤ qcbRlog b ∧ qcbRlog b ≤ 16 ∧ qcbRing b % 4096 = 0 ∧ qcbQstate b ≤ 3
        let pasid := pasidEntry s (qcbPasid b)
        let bad := badWordIn s pa 64
        let table := badWordIn s (pasidAddr s (qcbPasid b)) 16
        (∀ w, bad = some w → exec (.qload x) s = .next (hartTrap s h 28 (BitVec.ofNat 64 w))) ∧
        (bad = none → ¬fits → ∃ w, exec (.qload x) s = .next (hartTrap s h 24 w)) ∧
        (bad = none → fits → q.state ≠ .idle → exec (.qload x) s = .next (hartTrap s h 29 (BitVec.ofNat 64 n))) ∧
        (∀ w, bad = none → fits → q.state = .idle → table = some w →
          exec (.qload x) s = .next (hartTrap s h 28 (BitVec.ofNat 64 w))) ∧
        (bad = none → fits → q.state = .idle → table = none → pasid.state ≠ 1 ∨ pasid.vif ≠ qcbVif b →
          ∃ t, exec (.qload x) s = .next t ∧ Retired s h k x.rd 1 t) ∧
        (bad = none → fits → q.state = .idle → table = none → pasid.state = 1 → pasid.vif = qcbVif b →
          let b' := match Sparse.get none s.queues.notify (qcbKey b) with | some w => bvSet b 288 32 w.toNat | none => b
          exec (.qload x) s = .next (hartRetire ((dropWaiter (dropReg (s.readBy k.chiplet pa) (qcbVif b') (qcbQueue b'))
            fun w => w == .signal (qcbVif b') (qcbQueue b')).adjSlot n fun _ =>
              { QSlot.reset with state := .loaded, qcb := b', save := pa }) h x.rd 0 4))) ∧
    (Serving s h k 12 [2] →
      (∀ i ∈ [Instr.dispatchRun x, .dispatchStop x, .dispatchPreempt x],
        (128 ≤ n → exec i s = .next (hartTrap s h 24 (k.reg x.rs1))) ∧
        (n < 128 → 3 ≤ (k.reg x.rs2).toNat → exec i s = .next (hartTrap s h 24 (k.reg x.rs2)))) ∧
      (n < 128 → (k.reg x.rs2).toNat < 3 → ∀ p ∈ [
          (Instr.dispatchRun x, [SlotState.loaded, .stopped], fun (q : QSlot) => { q with state := .running, emptySeen := false }),
          (.dispatchStop x, [.running], fun q => { q with state := .stopping }),
          (.dispatchPreempt x, [.running, .stopped], fun q => { q with state := .stopping, preempting := true })],
        (q.state ∉ p.2.1 → exec p.1 s = .next (hartTrap s h 29 (BitVec.ofNat 64 n))) ∧
        (q.state ∈ p.2.1 → exec p.1 s = .next (hartRetire (s.adjSlot n p.2.2) h x.rd 0 4)))) ∧
    (Serving s h k 13 [2] →
      (128 ≤ n → exec (.qsave x) s = .next (hartTrap s h 24 (k.reg x.rs1))) ∧
      ∀ pa, n < 128 → Block s k (k.reg x.rs2) 128 .store pa →
        let b := bvSet q.qcb 250 6 (min 63 (queueInsts s (qcbKey q.qcb)).length)
        (q.state ≠ .stopped → exec (.qsave x) s = .next (hartTrap s h 29 (BitVec.ofNat 64 n))) ∧
        (q.state = .stopped → exec (.qsave x) s = .next (hartRetire
          ((dropWaiter (homeWrite s pa (leBytes 64 (b.toNat % 2 ^ 512))) fun w => match w with | .queue m _ _ _ => m == n | _ => false).adjSlot n
            fun y => { QSlot.reset with event := y.event, qcb := b, save := pa }) h x.rd 0 4)))

/-- R293, R294, R400, R403, R404: a slot that stops, or has nothing to read; NOP, FENCE, BARRIER, TIMESTAMP and SIGNAL
do what their packets say, START starts its instance or refuses it, and the next packet proceeds. The model's own
choices in it: log 25, 70, 71. -/
def Obligations.QueuePackets : Prop :=
  (∀ (s : State) (n : Nat), let q := s.slot n
    ∀ i ∈ [Instr.qpktNop n, .qpktStart n, .qpktWait n, .qpktSignal n, .qpktFence n, .qpktBarrier n, .qpktTimestamp n],
      (q.state = .stopping → exec i s = .next (stopSlot s n)) ∧
      (q.state ∈ [SlotState.idle, .loaded, .stopped] → exec i s = .next s) ∧
      (q.state = .running → q.held = none → q.poll = none →
        (qcbQstate q.qcb = 3 → exec i s = .next (slotError s n)) ∧
        (qcbQstate q.qcb ≠ 3 → qcbQstate q.qcb ≠ 1 → qcbRptr q.qcb = qcbWptr q.qcb →
          (q.emptySeen = true → exec i s = .next s) ∧
          (q.emptySeen = false → exec i s = .next (raiseSlot (s.adjSlot n fun q => { q with
            emptySeen := true, qcb := qcbState q.qcb 2 }) n 2))))) ∧
  (∀ (s : State) (n : Nat) (u : State) (v : Nat), PacketAt s n u v →
    (v % 256 = 0 → exec (.qpktNop n) s = .next (advanceSlot u n)) ∧
    (v % 256 = 4 → exec (.qpktFence n) s = .next (advanceSlot u n)) ∧
    (v % 256 = 5 → (queueInsts u (qcbKey (u.slot n).qcb) = [] → exec (.qpktBarrier n) s = .next (advanceSlot u n)) ∧
      (queueInsts u (qcbKey (u.slot n).qcb) ≠ [] → exec (.qpktBarrier n) s = .next u)) ∧
    (v % 256 = 6 → let va := v / 2 ^ 64 % 2 ^ 64
      (va % 8 ≠ 0 → exec (.qpktTimestamp n) s = .next (slotError u n)) ∧
      ∀ pa w, WordAt u n va 8 [.write 8] pa w →
        exec (.qpktTimestamp n) s = .next (advanceSlot (homeWrite w pa (leBytes 8 w.clock)) n)) ∧
    (v % 256 = 3 → let va := v / 2 ^ 64 % 2 ^ 64
      let b : DWord := BitVec.ofNat 64 (v / 2 ^ 128)
      (va % 8 ≠ 0 → exec (.qpktSignal n) s = .next (slotError u n)) ∧
      ∀ pa w, WordAt u n va 8 [.read 8, .write 8] pa w →
        let old : DWord := BitVec.ofNat 64 (leNat (homeBytes w pa 8))
        ∀ p ∈ [(0, b), (1, old + b), (2, old - b)], v / 2 ^ 16 % 4 = p.1 →
          exec (.qpktSignal n) s = .next (advanceSlot (homeWrite w pa (leBytes 8 p.2.toNat)) n))) ∧
  ∀ (s : State) (n : Nat) (u : State) (v : Nat), PacketAt s n u v → v % 256 = 1 →
    let a := startOf v
    let pasid := qcbPasid (s.slot n).qcb
    (a.completion % 16 ≠ 0 → exec (.qpktStart n) s = .next (slotError u n)) ∧
    ∀ e w, EndsAt u n a e w →
      let w1 := notePages w pasid a.desc 64
      let hdr := leNat (agentRead w1 pasid a.desc 64)
      let refused := fun (reason : Nat) => exec (.qpktStart n) s
        = .next (advanceSlot (signalDown (homeWrite w e.1 (leBytes 16 (completionBits 0 0 reason 0 0xFF))) e.2) n)
      ((s.slot n).failed = some 7 → refused 7) ∧
      ((s.slot n).failed = some 8 ∨ (s.slot n).failed ≠ some 7 ∧ a.desc % 64 ≠ 0 → refused 8) ∧
      ((s.slot n).failed = none → a.desc % 64 = 0 → (∃ i k, rangeAddr w pasid a.desc (grainCount a.desc 64) = .pa i k) →
        startWaits w1 pasid a hdr = true → exec (.qpktStart n) s = .next w1) ∧
      ∀ w3 nodes code, Startable s w n a w3 nodes code → startWaits w1 pasid a hdr = false →
        exec (.qpktStart n) s = .next (advanceSlot (beginInst (notePages w3 pasid code 8) (s.slot n).qcb a hdr nodes
          (handlerOf w3 pasid (hdr % 2 ^ 64))) n)

/-- R401: a WAIT whose condition holds lets the next packet proceed; one whose condition is false parks its queue, or
with every registration in use looks again after 16,384 cycles; a write that makes a registered condition hold sets
the queue's REMAP bit. The model's own choices in it: log 28, 70. -/
def Obligations.QueueWaits : Prop :=
  (∀ (s : State) (n : Nat) (u : State) (v pa : Nat) (w : State), PacketAt s n u v → v % 256 = 2 →
    let sig := v / 2 ^ 64 % 2 ^ 64
    let val := v / 2 ^ 128 % 2 ^ 64
    (sig % 8 ≠ 0 → exec (.qpktWait n) s = .next (slotError u n)) ∧
    (WordAt u n sig 8 [.read 8] pa w →
      let a : DWord := BitVec.ofNat 64 (leNat (homeBytes w pa 8))
      let b : DWord := BitVec.ofNat 64 val
      ∀ p ∈ [(0, WaitCond.eq, a = b), (1, .ne, a ≠ b), (2, .lt, a.toInt < b.toInt), (3, .ge, a.toInt ≥ b.toInt),
          (4, .ltu, a.toNat < b.toNat), (5, .geu, a.toNat ≥ b.toNat), (6, .any, a &&& b ≠ 0), (7, .none, a &&& b = 0)],
        v / 2 ^ 12 % 8 = p.1 →
          (p.2.2 → exec (.qpktWait n) s = .next (advanceSlot w n)) ∧
          (¬p.2.2 → w.queues.regs.length < 4096 →
            exec (.qpktWait n) s = .next (parkQueue w n true sig val p.1 (some pa)) ∧
            ∃ r ∈ (parkQueue w n true sig val p.1 (some pa)).queues.regs, r.cond = p.2.1 ∧ r.val = b ∧ r.va = sig ∧ r.pa = some pa) ∧
          (¬p.2.2 → 4096 ≤ u.queues.regs.length →
            exec (.qpktWait n) s = .next (w.adjSlot n fun q => { q with poll := some (w.clock + 16384) })))) ∧
  (∀ (s : State) (i : Nat) (r : SigReg), s.queues.regs[i]? = some r → r.hit = true →
    exec (.signalReevaluate i) s = .next (setRemap (dropReg s r.vif r.q) r.vif r.q)) ∧
  (∀ (s : State) (n : Nat) (c : Nat), (s.slot n).poll = some c →
    (s.clock < c → exec (.signalPollTimer n) s = .next s) ∧
    (c ≤ s.clock → let u := s.adjSlot n fun q => { q with poll := none }
      exec (.signalPollTimer n) s = .next (if qcbQstate (u.slot n).qcb = 1 then waitAgain u n else waitPacket u n))) ∧
  ∀ (s : State) (x : NotifyW), ∃ t, exec (.notifyWrite x) s = .next t ∧
    Sparse.get none t.queues.notify (1024 * x.vif + x.q) = some x.v ∧ 1024 * x.vif + x.q ∈ t.queues.agg

/-! ### Device registers -/

/-- R317, R326, R333, R340, R341: TRN_MODE changes the mode or is refused, TRN_INVA starts an invalidation and BUSY
ends once nothing covered is on its way, and TRN_TDn tears down an active PASID and reports it drained. The model's
own choices in it: log 22, 50, 95. -/
def Obligations.TranslationRegisters : Prop :=
  (∀ (s : State) (v : Word),
    let u := if v.getLsbD 30 then { s with trn := { s.trn with refused := false } } else s
    let runs := ∃ t ∈ s.teams, t.place ≠ .ended ∧ t.place ≠ .saved
    let faults := s.faults.host ≠ [] ∨ ∃ q ∈ s.faults.queues, q.2.entries ≠ []
    let change := v.toNat % 4 = 0 ∧ s.trn.normal = true ∨ v.toNat % 4 = 1 ∧ s.trn.normal = false
    (change → runs ∨ faults → exec (.trnModeWrite v) s = .next { u with trn := { u.trn with refused := true } }) ∧
    (change → ¬runs → ¬faults → exec (.trnModeWrite v) s
      = .next { u with trn := { u.trn with normal := decide (v.toNat % 4 = 1), busy := true } }) ∧
    (¬change → exec (.trnModeWrite v) s = .next u)) ∧
  (∀ (s : State) (x : InvReq),
    let what := x.v.toNat / 2 ^ 30 % 4
    let pasid := x.v.toNat / 2 ^ 32 % 2 ^ 20
    ∀ p ∈ [(Instr.trnInvPages x, 0), (.trnInvPasidPages x, 1), (.trnInvPasidAll x, 2), (.trnInvAll x, 3)], what = p.2 →
      ((s.inva x.map).getLsbD 63 = true → exec p.1 s = .next s) ∧
      (x.map < 64 → what = 3 ∨ (pasidEntry s pasid).vif ≠ x.map → exec p.1 s = .next s) ∧
      ((s.inva x.map).getLsbD 63 = false → 64 ≤ x.map ∨ what ≠ 3 ∧ (pasidEntry s pasid).vif = x.map →
        exec p.1 s = .next (State.setInva { s with trn := { s.trn with
            started := Sparse.set 0 s.trn.started x.map (Sparse.get 0 s.trn.invb x.map) } } x.map
          (BitVec.ofNat 64 (2 ^ 63 + pasid * 2 ^ 32 + what * 2 ^ 30 + x.v.toNat % 2 ^ 20))))) ∧
  (∀ (s : State) (map : Nat), (s.inva map).getLsbD 63 = true →
    ((∀ e ∈ s.cores, ∀ q ∈ e.2.reqs, invCovers s map q = false) → (∀ c ∈ s.copies, invCopy s map c = false) →
      exec (.invalidationComplete map) s = .next ((replaceCovered s map).setInva map (s.inva map &&& 0x7FFFFFFFFFFFFFFF))) ∧
    (∀ e ∈ s.cores, ∀ q ∈ e.2.reqs, invCovers s map q = true → exec (.invalidationComplete map) s = .next s) ∧
    ∀ c ∈ s.copies, invCopy s map c = true → exec (.invalidationComplete map) s = .next s) ∧
  (∀ (s : State) (x : TdWrite),
    let pasid := x.v.toNat % 2 ^ 20
    let e := pasidEntry s pasid
    ((s.td x.map x.n).state = 1 ∨ e.state ≠ 1 ∨ x.map < 64 ∧ e.vif ≠ x.map → exec (.teardownStart x) s = .next s) ∧
    ((s.td x.map x.n).state ≠ 1 → e.state = 1 → 64 ≤ x.map ∨ e.vif = x.map →
      exec (.teardownStart x) s = .next (teardown (s.setTd x.map x.n { pasid := pasid, state := 1 }) pasid))) ∧
  ∀ (s : State) (x : TdRef) (t : Td), s.td x.map x.n = t → t.state = 1 → outstanding s t.pasid = 0 →
    ∃ u, exec (.teardownDrained x) s = .next u ∧ u.td x.map x.n = { t with state := 2 } ∧
      ((pasidEntry s t.pasid).state = 2 → t.pasid < 2 ^ 20 → (pasidEntry u t.pasid).state = 3)

/-- R286, R389, R393, R405, R408, R418: slot-table entries and their boundary, window entries, interfaces, HFR_CTL,
HFR_XACK and HFR_IRTAIL; R7: a register of another name takes a write of its width. The model's own choices in it: log
46, 47. -/
def Obligations.OtherRegisters : Prop :=
  (∀ (s : State) (x : SltWrite), x.map ≠ 64 → exec (.sltEntryWrite x) s = .next s) ∧
  (∀ (s : State) (x : SltWrite), x.map = 64 → exec (.sltEntryWrite x) s = .next (s.adjCore x.core fun c => { c with
    slots := c.table s.clock, slotsNext := Sparse.set 0 c.slotsNext x.n (x.v &&& 0xC000003F), slotWrote := s.clock })) ∧
  (∀ (s : State) (core : Nat), exec (.slotBoundary core) s = .next (s.adjCore core fun c => { c with
    slots := if c.slotWrote / 4096 < s.clock / 4096 then c.slotsNext else c.slots })) ∧
  (∀ (s : State) (x : WinWrite), ∃ t, exec (.windowEntryWrite x) s = .next t ∧
    let k := if x.imp then 512 * x.vif + x.n else 512 * x.vif + 256 + x.n
    (∀ j, j ≠ k → t.win j = s.win j) ∧
    ∀ i, i < 256 → (t.win k).getLsbD i =
      (if 32 * x.word ≤ i ∧ i < 32 * x.word + 32 ∧ (winMask x.imp x.word).getLsbD (i - 32 * x.word) = true
        then x.v.getLsbD (i - 32 * x.word)
        else if x.word = 0 ∧ x.v.getLsbD 0 = true ∧ (224 ≤ i ∨ x.imp = true ∧ 215 ≤ i) then false else (s.win k).getLsbD i)) ∧
  (∀ (s : State) (x : VifWrite), let old := Sparse.get 0 s.vifs x.vif
    (x.map ≠ 64 → exec (.vifCfgWrite x) s = .next s) ∧
    (x.map = 64 → old.getLsbD 63 = false →
      exec (.vifCfgWrite x) s = .next { s with vifs := Sparse.set 0 s.vifs x.vif (x.v &&& 0xC000FF00FFFFFFFF) }) ∧
    (x.map = 64 → old.getLsbD 63 = true → x.v.getLsbD 63 = true → exec (.vifCfgWrite x) s = .next s) ∧
    (x.map = 64 → old.getLsbD 63 = true → x.v.getLsbD 63 = false → exec (.vifCfgWrite x) s = .next
      (teardownVif { s with vifs := Sparse.set 0 s.vifs x.vif (old &&& 0x7FFFFFFFFFFFFFFF) } x.vif))) ∧
  (∀ (s : State) (v : Word),
    exec (.hfrHoldWrite v) s = .next { s with lode := { s.lode with hold := decide (v.toNat % 2 = 1) } }) ∧
  (∀ (s : State) (x : XackWrite) (h : Nat) (k : Hart), xackHart s x.k = some h → s.harts[h]? = some k →
    ∃ a b : BitVec 64, exec (.hfrXackWrite x) s = .next { s with harts := s.harts.set h { k with xack := a, taken := b } } ∧
      ∀ i, i < 64 → a.getLsbD i = (k.xack.getLsbD i && !x.v.getLsbD i) ∧
        b.getLsbD i = (k.taken.getLsbD i && !(k.xack.getLsbD i && x.v.getLsbD i))) ∧
  (∀ (s : State) (x : IrWrite), (s.ring x.chiplet).waiting = [] → ∃ t, exec (.hfrIrtailWrite x) s = .next t ∧
    let r := s.ring x.chiplet
    t.ring x.chiplet = { r with tail := x.v.toNat % 256, count := r.count - (x.v.toNat % 256 + 256 - r.tail) % 256 }) ∧
  ∀ (s : State) (x : RegWrite),
    (x.map = 64 → x.wide = true → x.off = 0x20008 → exec (.registerWrite x) s
      = .next { s with trn := { s.trn with ptBase := x.v &&& 0x000FFFFFFFFFF000 } }) ∧
    (x.map ≠ 64 → x.wide = true → x.off = 0x20008 → exec (.registerWrite x) s = .next s) ∧
    (x.map = 64 → x.wide = false → 0x5F000 ≤ x.off → x.off < 0x5F100 → exec (.registerWrite x) s = .next { s with
      faults := { s.faults with deadline := Sparse.set 0x001AD275 s.faults.deadline ((x.off - 0x5F000) / 4) (x.v.setWidth 32) } })

/-- R344, R348, R350: an armed read of FQH_POP0 moves the oldest entry into the latch; a whole FQH_DONE refuses the
entry it names with its cause, or returns it to its home with STAGE 2. The model's own choices in it: log 14, 48. -/
def Obligations.HostFaultQueue : Prop :=
  (∀ (s : State) (v : Word),
    (v.getLsbD 0 = true → exec (.fqhArmWrite v) s = .next { s with faults := { s.faults with arm := true } }) ∧
    (v.getLsbD 0 = false → exec (.fqhArmWrite v) s = .next s) ∧
    exec (.fqhDoneLowWrite v) s = .next { s with faults := { s.faults with doneLow := v } }) ∧
  (∀ s : State,
    let answer := fun (u : State) =>
      exec .fqhPopRead s = .next (send u (.register (BitVec.ofNat 64 (u.faults.latch.toNat % 2 ^ 32))))
    (s.faults.arm = false → answer s) ∧
    (s.faults.arm = true → s.faults.host = [] → answer { s with faults := { s.faults with arm := false, latch := 0 } }) ∧
    ∀ e r, s.faults.arm = true → s.faults.host = e :: r → answer { s with faults := { s.faults with
      arm := false, latch := BitVec.ofNat 256 e.bits, host := r, popped := s.faults.popped ++ [e] } }) ∧
  (∀ (s : State) (seq low : Word) (x : FqhWrite), x = .full (seq ++ low) ∨ x = .high seq ∧ s.faults.doneLow = low →
    (s.faults.popped ++ s.faults.host).find? (fun e => BitVec.ofNat 32 e.seq == seq) = none →
      (low.getLsbD 31 = true → exec (.fqhRefuse x) s = .next s) ∧ (low.getLsbD 31 = false → exec (.fqhReturn x) s = .next s)) ∧
  ∀ (s : State) (seq low : Word) (x : FqhWrite) (e : FEntry), x = .full (seq ++ low) ∨ x = .high seq ∧ s.faults.doneLow = low →
    (s.faults.popped ++ s.faults.host).find? (fun e => BitVec.ofNat 32 e.seq == seq) = some e →
      let others := fun (l : List FEntry) => l.filter fun x => x.seq ≠ e.seq
      let u := { s with faults := { s.faults with popped := others s.faults.popped, host := others s.faults.host } }
      (low.getLsbD 31 = true →
        let cause : Cause := if low.toNat % 256 = 0x05 ∨ low.toNat % 256 = 0x14 then low.setWidth 8 else 0x15
        exec (.fqhRefuse x) s = .next (refuseEntry u e cause)) ∧
      (low.getLsbD 31 = false →
        let c := homeOfPage s.build e.vpn
        let kl := fqKey c false
        let alone := (∀ k ∈ [kl, fqKey c true], ∀ x ∈ (s.fq k).entries, x.isFor e.pasid e.vpn = false) ∧
          ∀ v ∈ s.faults.served, v.chiplet = c → v.entry.isFor e.pasid e.vpn = false
        (alone → exec (.fqhReturn x) s = .next (u.adjFq kl fun q =>
          { q with entries := q.entries ++ [{ e with stage := 2, seq := q.seq }], seq := (q.seq + 1) % 2 ^ 32 })) ∧
        ((∃ y ∈ (s.fq kl).entries, y.isFor e.pasid e.vpn = true) → exec (.fqhReturn x) s = .next (u.adjFq kl fun q =>
          { q with entries := q.entries.map fun y => if y.isFor e.pasid e.vpn then
            { y with needs := mergeNeed y.needs e.needs, merges := min (y.merges + e.merges + 1) 0xFFFF
                     waiters := y.waiters ++ e.waiters, time := min y.time e.time, engine := y.engine || e.engine
                     engno := if y.engine then y.engno else e.engno } else y })))

/-- R201, R409, R412: a PUT or GET whose local side is ready moves its data and then ends, with its counters last, and
a path that fails ends it; the last answer of a window atomic lets its group go on; a request that arrives is admitted
by its export entry, performed, and answered. The model's own choices in it: log 2, 14, 45, 74, 75. -/
def Obligations.FabricTraffic : Prop :=
  (∀ (s : State) (x : FabricEnd) (o : FabOp), s.fabric.ops.find? (fun o => o.id == x.id) = some o → o.dropped = none →
    let n := if x.cause = 0 then o.len else min x.done o.len
    let l := fabPlaces s o
    let noted := notePlaces s (l.map fun y => y.2)
    let fails := pathFails s (impPath o.entry) (impNode o.entry)
    (o.atom = none → fails = true → exec (.putGetComplete x) s = .next (endFabOp s o cRemoteDeclined)) ∧
    (o.atom = none → fails = false → x.cause ≠ cRemoteDeclined → x.cause ≠ cPasidGone → n ≠ 0 → fabReady s o l = .go →
      (o.put = true → exec (.putGetComplete x) s = .next (endFabOp (send (recallPlaces noted l) (.put o.id (impNode o.entry) (winKeyOf o.entry)
        (impExp o.entry) o.off (o.notify && x.cause == 0) n (linkPayload (impPath o.entry) (placedBytes noted l o.va n)))) o x.cause)) ∧
      (o.put = false → x.data.length = n →
        exec (.putGetComplete x) s = .next (endFabOp (placedWrite noted l o.va x.data) o x.cause))) ∧
    (∀ (r : GRef) (L : Nat) (pc : DWord) (g : Group), o.atom = some (r, L, pc) → s.group r = some g → fails = false → x.cause = 0 →
      let kept := { s with fabric := { s.fabric with ops := s.fabric.ops.filter fun y => !(y.id == o.id) } }
      let u := kept.adjGroup r fun g => { g with winRes := g.winRes ++ [(pc, L, BitVec.ofNat 64 (leNat x.data))] }
      exec (.putGetComplete x) s = .next (if atomOps u r = [] then
        afterLanding (u.adjGroup r fun g => if g.park = some .winAtom then { g with park := none } else g) r else u))) ∧
  ∀ (s : State) (x : WindowReq), x.src ∉ s.fabric.dead → winForm x = true → (∀ w ∈ s.fabric.waiting, w.req ≠ x) →
    let e := s.win (512 * x.vif + 256 + x.exp)
    let admits := winValid e = true ∧ winKeyOf e = x.key ∧ x.off + x.len ≤ expBytes e ∧
      (x.kind = .put ∨ x.kind = .atomic → bvGet e 1 1 = 1) ∧
      (x.kind = .get ∨ x.kind = .atomic ∧ x.notify = true → bvGet e 2 1 = 1)
    let va := expBase e + x.off
    let l := (grainsOf va x.len).map fun g => (g, place s (winPasid e) (512 * g) (winUse x))
    (¬admits → exec (.windowRequestArrival x) s = .next (send s (.windowReply x.src x.tag cWindow []))) ∧
    (admits → (∀ y ∈ l, ∃ pa k, y.2 = .at pa k ∧ s.engineOwned pa = false ∧ regionReady s pa = true ∧
        pageWaits s (winPasid e) (y.1 / 128) = false ∧ firstReach s x.src (homeOf s.build pa) = false) →
      (∀ n ∈ linesOf va x.len, lineBusy s (paAmong l (128 * n) / 128) = false) →
      let u := notePlaces { s with
        fresh := s.fresh + 1, fabric := { s.fabric with waiting := s.fabric.waiting.filter fun w => w.id ≠ s.fresh } } (l.map fun y => y.2)
      let replies := fun (t : State) (bs : List Byte) =>
        exec (.windowRequestArrival x) s = .next (send t (.windowReply x.src x.tag 0 bs))
      (x.kind = .put → replies (let t := placedWrite u l va x.data
        if x.notify then bumpTarget t x.vif x.exp else t) []) ∧
      (x.kind = .get → replies (recallPlaces u l) (placedBytes u l va x.len)) ∧
      (x.kind = .atomic →
        let r := homeRmw u (paAmong l va) x.op (x.len == 8) (BitVec.ofNat 64 (leNat (x.data.take x.len)))
          (BitVec.ofNat 64 (leNat (x.data.drop x.len)))
        replies r.2 (if x.notify then leBytes x.len r.1.toNat else [])))

/-- R238, R416: a plane or port that is down, the request to declare a node no path delivers to, the declaration with
what the homes drop and lose, and a node's return under a new epoch. The model's own choices in it: log 2, 75, 76. -/
def Obligations.FabricMembership : Prop :=
  (∀ (s : State) (n : Nat), n < 2 →
    (∃ t, exec (.planeDown n) s = .next { s with fabric := { s.fabric with planesDown := t } } ∧
      ∀ m, m ∈ t ↔ m = n ∨ m ∈ s.fabric.planesDown) ∧
    ∃ t, exec (.uePathDown n) s = .next { s with fabric := { s.fabric with uesDown := t } } ∧
      ∀ m, m ∈ t ↔ m = n ∨ m ∈ s.fabric.uesDown) ∧
  (∀ (s : State) (n : Nat),
    let live := n ≠ 0 ∧ n ≠ s.fabric.nodeId.toNat ∧ n / 512 = s.fabric.nodeId.toNat / 512 ∧ n ∉ s.fabric.dead
    let asked := Sparse.get 0 s.fabric.silent n
    (¬live → exec (.nodeSilentTimeout n) s = .next s ∧ exec (.declarationConfirm n) s = .next s) ∧
    (live → asked = 0 ∨ asked + declareCycles ≤ s.clock → exec (.nodeSilentTimeout n) s
      = .next (send { s with fabric := { s.fabric with silent := Sparse.set 0 s.fabric.silent n (s.clock + 1) } } (.declare n))) ∧
    (live → asked ≠ 0 → s.clock < asked + declareCycles → exec (.nodeSilentTimeout n) s = .next s) ∧
    (live →
      let f := newEpoch { s.fabric with dead := addOnce s.fabric.dead n, silent := Sparse.set 0 s.fabric.silent n 0 } n
      exec (.declarationConfirm n) s = .next (countEvent (dropHolder { s with fabric := f } (.node n)) 6)) ∧
    (live → (∀ e ∈ s.dir.owners, e.2 ≠ some (.node n)) → ∃ t, exec (.declarationConfirm n) s = .next t ∧ n ∈ t.fabric.dead ∧
      Sparse.get 0 t.fabric.epochs n = Sparse.get 0 s.fabric.epochs n + 1 ∧
      Sparse.get 0 t.mgt.counters 6 = Sparse.get 0 s.mgt.counters 6 + 1 ∧
      (∀ line, (t.lineDir line).fwd ≠ some (.node n) ∧ Holder.node n ∉ (t.lineDir line).shared) ∧
      (∀ e ∈ t.cores, ∀ q ∈ e.2.reqs, Holder.node n ∉ q.unreached) ∧
      t.teams = s.teams ∧ t.harts = s.harts ∧ t.insts = s.insts)) ∧
  ∀ (s : State) (n : Nat),
    (n ∉ s.fabric.dead → exec (.nodeRejoin n) s = .next s) ∧
    (n ∈ s.fabric.dead → ∃ t, exec (.nodeRejoin n) s = .next t ∧ n ∉ t.fabric.dead ∧
      Sparse.get 0 t.fabric.epochs n = Sparse.get 0 s.fabric.epochs n + 1 ∧
      (∀ c, c < chipletsOf s.build → (n, c) ∈ t.dir.returned) ∧
      ∀ m, m ≠ n → (m ∈ t.fabric.dead ↔ m ∈ s.fabric.dead) ∧
        Sparse.get 0 t.fabric.epochs m = Sparse.get 0 s.fabric.epochs m)

/-- R419 to R421, R423: a host reset resets the host's side alone with RSTISO and the whole package without; the boot
ROM starts a verified image or reports its failure; measurements are extended and served, and lifetime counters read.
The model's own choices in it: log 2, 8, 9, 33, 77. -/
def Obligations.Management : Prop :=
  (∀ s : State,
    (s.mgt.boot.getLsbD 0 = false → exec .hostReset s = .next { State.resetOf s.build with
      actor := s.actor, moves := s.moves, free := s.free
      mgt := { (State.resetOf s.build).mgt with counters := s.mgt.counters, rsaHash := s.mgt.rsaHash, slhHash := s.mgt.slhHash
                                                minVersion := s.mgt.minVersion } }) ∧
    (s.mgt.boot.getLsbD 0 = true → exec .hostReset s = .next (resetHostSide s)) ∧
    (s.mgt.boot.getLsbD 0 = true → (∀ p ∈ activePasids s, hostBound s (pasidEntry s p).vif = false) →
      ∃ t, exec .hostReset s = .next t ∧
      (∀ v, v < 64 → (Sparse.get 0 s.vifs v).getLsbD 62 = false → Sparse.get 0 t.vifs v = 0 ∧
        ∀ n, n < 512 → t.win (512 * v + n) = 0) ∧
      (∀ v, v < 64 → (Sparse.get 0 s.vifs v).getLsbD 62 = true → Sparse.get 0 t.vifs v = Sparse.get 0 s.vifs v) ∧
      t.lode = s.lode ∧ t.mgt = s.mgt ∧ t.teams = s.teams ∧ t.mem = s.mem ∧ t.fabric.ops = s.fabric.ops)) ∧
  (∀ (s : State) (x : BootImage),
    (s.mgt.started = true → exec (.boot x) s = .next s) ∧
    (s.mgt.started = false →
      let passes := Config.rsaVerifies x.image x.rsaKey = true ∧ Config.slhVerifies x.image x.slhKey = true ∧
        Config.sha384 x.rsaKey = s.mgt.rsaHash ∧ Config.sha384 x.slhKey = s.mgt.slhHash ∧ s.mgt.minVersion ≤ x.version
      (passes → ∃ t, exec (.boot x) s = .next t ∧ t.mgt.started = true ∧ t.mgt.boot = (if x.rstIso then 1 else 0) ∧
        (∀ i old m, i < 7 → s.mgt.meas[i]? = some old → x.segments[i]? = some m →
          t.mgt.meas[i]? = some (Config.sha384 (leBytes 48 old.toNat ++ m))) ∧
        t = writeRidge { s with mgt := t.mgt }) ∧
      (¬passes → exec (.boot x) s = .next { s with
        trn := { s.trn with normal := false }, mgt := { s.mgt with boot := x.failCode.setWidth 32 <<< 8 } }))) ∧
  ∀ (s : State) (i : Nat),
    (i < 16 → exec (.spdmMeasurementRequest (.read i)) s = .next (send s (.measurement i (s.mgt.meas.getD i 0)))) ∧
    (∀ m, 7 ≤ i → i < 16 → ∀ old, s.mgt.meas[i]? = some old →
      exec (.spdmMeasurementRequest (.extend i m)) s
        = .next { s with mgt := { s.mgt with meas := s.mgt.meas.set i (Config.sha384 (leBytes 48 old.toNat ++ m)) } }) ∧
    (∀ m, i < 7 ∨ 16 ≤ i → exec (.spdmMeasurementRequest (.extend i m)) s = .next s) ∧
    exec (.spdmCounterRead i) s = .next (send s (.counter i (Sparse.get 0 s.mgt.counters i)))

/-! ### Events of groups, queues of stores, and homes -/

/-- R27, R30, R86, R113, R143, R188, R365, R369, R370, R445: a fetch that cannot go through, a result that lands, a
pack that enters the SFU, registers that are released, an imprecise refusal that is taken, HANG, and the save and
resumption of a team. The model's own choices in it: log 20, 21, 62, 82, 84. -/
def Obligations.GroupEvents : Prop :=
  (∀ (s : State) (c : Ctx) (tail : Bool), Issues s c {} false →
    let a : DWord := if tail then c.pc + 4 else c.pc
    (c.pc.toNat % 4 ≠ 0 → exec (.instructionFetchFault tail) s = .next (c.trapped cMisalign c.pc (infoGlobal 7 (c.I.headD 0) 7))) ∧
    (c.pc.toNat % 4 = 0 →
      (∀ cause code, place s c.t.pasid a.toNat .fetch = .trap cause code →
        exec (.instructionFetchFault tail) s = .next (c.trapped cause c.pc (infoGlobal 0 0 code))) ∧
      ∀ need remote chain, place s c.t.pasid a.toNat .fetch = .miss need remote chain →
        let p := parkOnFault c.free.s c.r c.t.core c.t.pasid (a.toNat / 65536) c.pc.toNat need remote chain (infoGlobal 0 0 15)
        exec (.instructionFetchFault tail) s = .next (c.parked p.1 p.2))) ∧
  (∀ (s : State) (x : GIdx) (g : Group) (d : Deferred), s.group x.g = some g → g.deferred[x.i]? = some d →
    (d.wait ≠ 0 → exec (.deferredResultLand x) s = .next s) ∧
    (d.wait = 0 → g.pending = none → ∃ t h, exec (.deferredResultLand x) s = .next t ∧ t.group x.g = some h ∧
      h.deferred = g.deferred.eraseIdx x.i ∧ h.fflags = g.fflags ||| d.flags ∧
      (∀ L v, (∀ e ∈ d.lanes, e.1 ≠ L ∨ e.2.1 ≠ v) → h.readLane L v = g.readLane L v) ∧
      (∀ u, (∀ e ∈ d.unis, e.1 ≠ u) → h.readUni u = g.readUni u) ∧
      ((d.lanes.map fun e => (e.1, e.2.1)).Nodup → ∀ e ∈ d.lanes, e.1 < g.lanes.length → h.readLane e.1 e.2.1 = e.2.2) ∧
      ((d.unis.map fun e => e.1).Nodup → ∀ e ∈ d.unis, h.readUni e.1 = if e.1 = 0 then 0 else e.2) ∧
      ∀ id, id ≠ x.g.team → t.team id = s.team id)) ∧
  (∀ (s : State) (core pipe : Nat) (l : List GRef) (rest : Sparse (List GRef)) (t : Team),
    (s.core core).sfuHeld = (pipe, l) :: rest → (∀ r ∈ l, s.team r.team = some t) →
    ((s.core core).sfuUntil ≤ s.clock → exec (.sfuEnter core) s
      = .next (s.adjCore core fun k => { k with sfuHeld := rest, sfuUntil := s.clock + (t.width * l.length + 15) / 16 })) ∧
    (s.clock < (s.core core).sfuUntil → exec (.sfuEnter core) s = .next s)) ∧
  (∀ (s : State) (r : GRef) (t : Team) (g : Group), s.team r.team = some t → t.groups[r.grp]? = some g → g.exited = true →
    g.deferred = [] →
      let u := s.adjGroup r fun g => { g with
        uregs := [], released := true, lanes := g.lanes.map fun l => { l with regs := [] }, badV := [], badU := [] }
      let last := t.place = .ended ∧ teamQuiet u t = true ∧ ∀ i h, t.groups[i]? = some h → i ≠ r.grp → h.released = true
      (last → exec (.registerUnitRelease r) s = .next (removeTeam u { t with res := 0 })) ∧
      (¬last → exec (.registerUnitRelease r) s = .next u)) ∧
  (∀ (s : State) (r : GRef) (g : Group) (t : TrapRec), s.group r = some g → g.refused = some t → g.pending = none →
    exec (.grainRefusal r) s = .next (takeImprecise (s.adjGroup r fun g => { g with refused := none }) r t)) ∧
  (∀ (s : State) (team : Nat) (t : Team), s.team team = some t →
    (t.hang < 2 ^ 26 ∨ t.place ≠ .running → exec (.hangExpiry team) s = .next s) ∧
    (2 ^ 26 ≤ t.hang → t.place = .running →
      let live := (t.groups.zipIdx.filter fun gi => !gi.1.exited).map (·.2)
      let u := live.foldl (fun s i => if (s.group ⟨team, i⟩).any (fun g => g.inHandler) then s else stopGroup s ⟨team, i⟩ .hang)
        (s.adjTeam team fun t => { t with hang := 0 })
      ∀ i l, live = i :: l → exec (.hangExpiry team) s
        = .next (takeImprecise (u.adjGroup ⟨team, i⟩ fun g => { g with stop := none }) ⟨team, i⟩
            { cause := cHang, addr := 0, inst := 0, info := 0, block := 0 }))) ∧
  ∀ (s : State) (id : Nat) (t : Team), s.team id = some t →
    (let chiplet := chipletOfCore t.core
     let mine := (s.core t.core).gutter.filter fun e => e.team == id
     let old := Sparse.get [] s.faults.spill chiplet
     let room := mine = [] ∨ spillUse (old ++ mine) ≤ (Sparse.get 0 s.faults.gspSize chiplet).toNat
     (readyToSave s t = true → room → ∃ u v, exec (.preemptSave id) s = .next u ∧ u.team id = some v ∧
        v = { t with place := .saved, groups := v.groups } ∧
        (∀ (i : Nat) (g : Group), t.groups[i]? = some g → v.groups[i]? = some (if g.exited = true then g.release else g)) ∧
        Sparse.get [] u.faults.spill chiplet = old ++ mine ∧ (∀ e ∈ (u.core t.core).gutter, e.team ≠ id) ∧
        (saveArea s t = none → u.mem = (writeSpill s chiplet mine).mem) ∧ (saveArea s t = none → mine = [] → u.mem = s.mem) ∧
        ∀ a, saveArea s t = some a → u.mem = (scrambleBytes (writeSpill s chiplet mine) a t.contextBytes).mem) ∧
     (readyToSave s t = false ∨ ¬room → exec (.preemptSave id) s = .next s)) ∧
    (let ts := clusterLive s t.clusterKey
     let fits := fun core i => match ts.find? fun u => u.clusterTeam == i with | some u => coreFits s core u.shape | none => true
     (t.place ≠ .saved ∨ canResume s ts = false → exec (.teamResume id) s = .next s) ∧
     ∀ rect, t.place = .saved → canResume s ts = true → findRect (chipletOfCore t.core) t.clusterW t.clusterH fits = some rect →
       exec (.teamResume id) s = .next (ts.foldl (fun s u => seatTeam s u (rect.getD u.clusterTeam 0)) s))

/-- R211, R225, R346, R349, R351, R352, R354, R356: the head entry of a store queue leaves to its core or to the
Gutter, the group that has waited longest logs once room frees, a ready entry replays, an access posts once its queue
has room, and what is late for its deadline ends. The model's own choices in it: log 30, 52, 65, 83. -/
def Obligations.StoreEvents : Prop :=
  (∀ (s : State) (r : GRef) (t : Team) (g : Group) (e : SqEntry) (l : List SqEntry), s.team r.team = some t →
    t.groups[r.grp]? = some g → g.blocked = false → g.storeQ.filter (fun e => decide (g.hold < e.stamp)) = e :: l →
      let run := headRun (e :: l)
      let mine := ownGutter s t.core r
      let logs := toGutter s t r g run
      let own := (s.core t.core).reqs.filter fun q => q.team == r.team && q.grp == r.grp
      (e.kind = .team → mine = [] → packEarlier t r.grp e = false →
        exec (.storeQueueLeave r) s = .next (teamStore (popEntry s r e) t.id e.va e.data)) ∧
      (e.kind = .att → mine = [] → copiesHold s r = true → packEarlier t r.grp e = false → exec (.storeQueueLeave r) s
        = .next (teamRmw (popEntry s r e) t.id e.va e.op e.wide (BitVec.ofNat 64 (leNat e.data)) e.cmp).2) ∧
      (e.kind = .team ∨ e.kind = .att → packEarlier t r.grp e = true → exec (.storeQueueLeave r) s = .next s) ∧
      (e.kind = .clt → e.rel = false → exec (.storeQueueLeave r) s = .next (teamStore (popEntry s r e) e.target e.va e.data)) ∧
      (e.kind = .clt → e.rel = true → mine = [] → (s.core t.core).reqs = [] → copiesHold s r = true →
        exec (.storeQueueLeave r) s = .next (teamStore ((popEntry s r e).dropStale t.core) e.target e.va e.data)) ∧
      (e.kind = .bar → mine = [] → copiesHold s r = true →
        exec (.storeQueueLeave r) s = .next ((popEntry s r e).adjTeam r.team fun t => arriveHeld t r.grp e.target)) ∧
      (e.isGlobal = true → mine ≠ [] → exec (.storeQueueLeave r) s = .next logs) ∧
      (e.isGlobal = true → mine = [] →
        (∀ need remote chain, place s t.pasid e.va e.use = .miss need remote chain → exec (.storeQueueLeave r) s = .next logs) ∧
        (∀ cause code, place s t.pasid e.va e.use = .trap cause code →
          let unit := e.unit (e :: l)
          exec (.storeQueueLeave r) s = .next (refuseStore (popEntries s r unit) r t.pasid e unit cause 0 false)) ∧
        ∀ pa kind, place s t.pasid e.va e.use = .at pa kind → pageWaits s t.pasid (e.va / 65536) = false →
          (e.rel = true → copiesHold s r = true) → regionReady s pa = true →
          (kind = 6 → (if e.rel = true ∧ 2 ≤ foldScope s.build e.scope then (s.core t.core).reqs else own) = []) →
            exec (.storeQueueLeave r) s = .next (performAtCore (popEntry s r e) t.core r t.pasid t.vif e pa kind false)) ∧
      (gutterRoom s t r run = true → overflowWaits s t.core = [] → logs = logHead s t r run)) ∧
  (∀ (s : State) (core n : Nat) (r : GRef) (t : Team) (g : Group),
    (overflowWaits s core).find? (fun x => (overflowWaits s core).all fun y => decide (x.1 ≤ y.1)) = some (n, r) →
    s.team r.team = some t → t.groups[r.grp]? = some g → gutterRoom s t r (headRun g.leaving) = true →
      exec (.gutterOverflowRelease core) s
        = .next (afterLanding ((logHead s t r (headRun g.leaving)).adjGroup r fun g => { g with park := none }) r)) ∧
  (∀ (s : State) (n : Nat), (nextReady s n = none → exec (.gutterReplay n) s = .next s) ∧
    ∀ e, nextReady s n = some e → exec (.gutterReplay n) s = .next (replayEntry s n e)) ∧
  (∀ (s : State) (key : Nat) (w : Waiter) (l : List Waiter), (s.fq key).starved = w :: l →
    ((s.fq key).entries.length < 1024 → exec (.faultQueueFree key) s = .next (postStarved s key w)) ∧
    (1024 ≤ (s.fq key).entries.length → exec (.faultQueueFree key) s = .next s)) ∧
  (∀ (s : State) (chiplet : Nat) (remote : Bool) (i : Nat) (e : FEntry), (s.fq (fqKey chiplet remote)).entries[i]? = some e →
    (isLate s e = true → exec (.faultDeadline (.fifo chiplet remote i)) s
      = .next (expireEntry (takeEntry s (fqKey chiplet remote) i) e)) ∧
    (isLate s e = false → exec (.faultDeadline (.fifo chiplet remote i)) s = .next s)) ∧
  (∀ (s : State) (i : Nat) (v : Served), s.faults.served[i]? = some v →
    (isLate s v.entry = true → exec (.faultDeadline (.served i)) s
      = .next (expireEntry { s with faults := { s.faults with served := s.faults.served.eraseIdx i } } v.entry)) ∧
    (isLate s v.entry = false → exec (.faultDeadline (.served i)) s = .next s)) ∧
  ∀ (s : State) (i : Nat) (e : FEntry), (s.faults.host ++ s.faults.popped)[i]? = some e →
    (isLate s e = true → exec (.faultDeadline (.host i)) s = .next (expireEntry (dropHost s e.seq) e)) ∧
    (isLate s e = false → exec (.faultDeadline (.host i)) s = .next s)

/-- R186, R187, R199, R233, R235, R238, R239, R338, R339, R417: what a home does with a read, a partial store, a
full-grain write and an atomic; evictions, a lost grain, invalidations that cannot be delivered; and the transfers of
host regions. The model's own choices in it: log 13, 14, 36, 49, 83, 89. -/
def Obligations.HomeEvents : Prop :=
  (∀ (s : State) (x : LineRef), let home := homeOf s.build (x.line * 128)
    (∀ n, x.holder = .node n → n ∉ s.fabric.dead ∧ (n, home) ∉ s.dir.returned) →
      (s.engineOwned (x.line * 128) = false → lineBusy s x.line = false →
        exec (.homeRead x) s = .next (s.readLine x.line x.holder)) ∧
      (s.engineOwned (x.line * 128) = true ∨ lineBusy s x.line = true → exec (.homeRead x) s = .next s)) ∧
  (∀ (s : State) (x : LineRef) (n : Nat), x.holder = .node n → let home := homeOf s.build (x.line * 128)
    (n ∈ s.fabric.dead → exec (.homeRead x) s = .next s) ∧
    (n ∉ s.fabric.dead → (n, home) ∈ s.dir.returned → exec (.homeRead x) s = .next (send
      { s with dir := { s.dir with returned := s.dir.returned.filter fun m => m ≠ (n, home) } } (.lost n x.line)))) ∧
  (∀ (s : State) (line : Nat) (h : Holder), s.owner (line / 4) = none → (s.lineDir line).fwd ≠ some h → h ∉ (s.lineDir line).shared →
    (∃ n, h = .node n) ∨ s.rdcUse h < 131072 →
    let t := s.readLine line h
    (t.lineDir line).fwd = some h ∧ h ∉ (t.lineDir line).shared ∧ (∀ f, (s.lineDir line).fwd = some f → f ∈ (t.lineDir line).shared) ∧
      ∀ l, l ≠ line → t.lineDir l = s.lineDir l) ∧
  (∀ (s : State) (x : ReqRef) (q : HomeReq), (s.core x.core).reqs[x.idx]? = some q → reqReady s x.core x.idx q = true →
    let me : Holder := .chiplet (chipletOfCore x.core)
    let passed := fun (t : State) => (linesOf q.pa q.e.len).foldl (fun t l => t.dropLayer x.core l) t
    let alone := if q.e.rel = true ∧ 2 ≤ foldScope s.build q.e.scope then (dropReq s x.core x.idx).dropStale x.core
      else dropReq s x.core x.idx
    (q.e.kind = .st ∨ q.e.kind = .sto →
      let unit := q.unit (s.core x.core).reqs
      let u := s.adjCore x.core fun c => { c with reqs := c.reqs.filter fun p => !(q.mate p) }
      (s.owner (q.pa / 512) = none → exec (.homePartialStore x) s = .next (passed (homeWrite alone q.pa q.e.data))) ∧
      (s.owner (q.pa / 512) = some me → exec (.homePartialStore x) s = .next (passed (homeStore alone q.pa q.e.data))) ∧
      ∀ o, s.owner (q.pa / 512) = some o → o ≠ me → exec (.homePartialStore x) s = .next (refuseReq u x.core q unit cGrain)) ∧
    (q.e.kind = .stog ∨ q.e.kind = .claim →
      let bare := (alone.dropOwner (q.pa / 512)).invalidateGrain (q.pa / 512)
      let held := if homeOf s.build q.pa = chipletOfCore x.core ∧ q.pa < localBytes s.build then bare
        else bare.grant (q.pa / 512) me
      let repaired := if q.e.kind = .claim ∧ q.pa < localBytes s.build then { held with mem := clearLost s.build held.mem q.pa }
        else held
      exec (.homeFullGrainWrite x) s = .next (passed (homeStore repaired q.pa q.e.data))) ∧
    (q.e.kind = .att ∨ q.e.kind = .red →
      let r := homeRmw alone q.pa q.e.op q.e.wide (BitVec.ofNat 64 (leNat q.e.data)) q.e.cmp
      let t := (passed (giveResult r.2 q r.1)).dropLine x.core (q.pa / 128)
      let acquires := (q.order = .acq ∨ q.order = .acqrel) ∧ 3 ≤ foldScope t.build q.e.scope
      (acquires → exec (.homeAtomic x) s = .next (t.dropL1 x.core)) ∧ (¬acquires → exec (.homeAtomic x) s = .next t))) ∧
  (∀ (s : State) (x : ReqRef) (q : HomeReq), (s.core x.core).reqs[x.idx]? = some q → reqReady s x.core x.idx q = false →
    ∀ i ∈ [Instr.homePartialStore x, .homeFullGrainWrite x, .homeAtomic x], exec i s = .next s) ∧
  (∀ (s : State) (x : LineRef),
    ((s.lineDir x.line).fwd = some x.holder →
      exec (.fCopyEviction x) s = .next (s.setLineDir x.line { s.lineDir x.line with fwd := none })) ∧
    ((s.lineDir x.line).fwd ≠ some x.holder → exec (.fCopyEviction x) s = .next s)) ∧
  (∀ (s : State) (g : Nat), exec (.mGrainEviction g) s = .next (s.dropOwner g) ∧
    (∀ c, s.copies.find? (fun c => c.grains.contains g) = some c → exec (.grainLostMark g) s = .next (softCopy s c.id)) ∧
    ((∀ c ∈ s.copies, g ∉ c.grains) →
      ((s.owner g).isSome = true → exec (.grainLostMark g) s = .next (markGrain s g)) ∧
      (s.owner g = none → exec (.grainLostMark g) s = .next s))) ∧
  (∀ (s : State) (x : FanoutFail) (q : HomeReq), (s.core x.core).reqs[x.idx]? = some q →
    let lines := if q.e.kind = .stog ∨ q.e.kind = .claim then runOf (q.pa / 512 * 4) 4 else linesOf q.pa q.e.len
    (∃ l ∈ lines, (s.lineDir l).fwd = some x.holder ∨ x.holder ∈ (s.lineDir l).shared) →
      ∃ t p, exec (.invalidationDeliveryFailure x) s = .next t ∧ (t.core x.core).reqs[x.idx]? = some p ∧
        p = { q with unreached := p.unreached, since := if q.unreached = [] then s.clock else q.since } ∧
        ∀ h, h ∈ p.unreached ↔ h = x.holder ∨ h ∈ q.unreached) ∧
  (∀ (s : State) (core : Nat),
    let late := fun (q : HomeReq) => !q.unreached.isEmpty && decide (q.since + 3600000 < s.clock)
    let gone := fun (q : HomeReq) => (s.core core).reqs.any fun p => late p && (p == q || p.mate q)
    let hit := (s.core core).reqs.filter gone
    exec (.declarationTimeout core) s = .next (hit.foldl (fun s q => refuseReq s core q (q.unit hit) cGrain)
      (s.adjCore core fun c => { c with reqs := c.reqs.filter fun q => !(gone q) }))) ∧
  (∀ (s : State) (q : Nat), let r := s.region q
    (r.state = 2 → exec (.hostsharedToAccelDone q) s = .next (s.setRegion q { r with state := 1, since := s.clock })) ∧
    (r.state ≠ 2 → exec (.hostsharedToAccelDone q) s = .next s) ∧
    (r.state = 1 → r.snoops ≠ [] → r.since + 8192 ≤ s.clock → exec (.hostsharedAccelHoldExpiry q) s
      = .next (s.setRegion q { r with state := 3, since := s.clock })) ∧
    (r.state ≠ 1 ∨ r.snoops = [] ∨ s.clock < r.since + 8192 → exec (.hostsharedAccelHoldExpiry q) s = .next s) ∧
    (r.state = 1 → exec (.hostsharedTransferDeadline q) s = .next s) ∧
    (r.state ≠ 1 →
      let copies := s.copies.filter fun c => regionLate s q c.since (faultDeadline s c.vif)
      let ops := s.fabric.ops.filter fun o => regionLate s q o.since (faultDeadline s o.vif)
      let waits := s.fabric.waiting.filter fun w => regionLate s q w.since (faultDeadline s w.req.vif)
      let u := (lateOnRegion s q).foldl (fun s t => fatalEnd s t cTranslation) s
      let u := copies.foldl (fun s c => failCopy s c.id cTranslation) u
      exec (.hostsharedTransferDeadline q) s = .next
        ((ops.map (fun o => o.id) ++ waits.map fun w => w.id).foldl (fun s id => refuseWindow s id cTranslation) u)) ∧
    (r.state = 3 → ∀ l, s.moves = .toHost q :: l → step s = .next (toHost { s with moves := l } q))) ∧
  ∀ (s : State) (x : Snoop), hostBase ≤ x.pa → x.pa < hostBase + hostBytes →
    let q := regionOf x.pa
    let r := s.region q
    let line := x.pa / 64 * 64
    (r.state = 1 →
      let u := s.setRegion q { r with snoops := r.snoops ++ [(line, false)] }
      let v := if x.kind = .inv then u else send u (.snoopData line (homeBytes s line 64))
      (s.clock < r.since + 8192 → exec (.hostSnoop x) s = .next v) ∧
      (r.since + 8192 ≤ s.clock → exec (.hostSnoop x) s = .next (startToHost v q))) ∧
    (r.state = 2 ∨ r.state = 3 → ∃ b, exec (.hostSnoop x) s = .next (s.setRegion q { r with snoops := r.snoops ++ [(line, b)] }) ∧
      (b = false ↔ x.kind = .inv)) ∧
    (r.state = 0 → exec (.hostSnoop x) s = .next s)

/-! ### The machine as a whole -/

/-- What reset leaves, on every build: RECOVERY, the register values of the spec's tables, no team, and service cores
in their roles; and the memory in its canonical form. The model's own choices in it: log 1. -/
def Obligations.ResetState : Prop :=
  ∀ b : Build, let s := State.resetOf b
    Memory.wf s.mem = true ∧ s.teams = [] ∧ s.clock = 0 ∧ s.trn.normal = false ∧ regRead s 64 0x20000 false = 0 ∧
    (∀ v, v < 64 → regRead s 64 (0x5F000 + 4 * v) false = 0x001AD275 ∧ regRead s v 0x5F000 false = 0x001AD275) ∧
    (∀ m, m ≤ 64 → regRead s m 0x20010 true = 0 ∧ regRead s m 0x20018 true = 0 ∧ ∀ n, n < 4 → regRead s m (0x20040 + 8 * n) true = 0) ∧
    (∀ core n, core < 32 * chipletsOf b → n < 16 → regRead s 64 (0x30000 + 0x40 * core + 4 * n) false = 0) ∧
    (∀ q, q < 65536 → (s.region q).state = 0) ∧ (∀ v n, s.win (512 * v + n) = 0) ∧ (∀ n, (s.slot n).state = .idle) ∧
    (∀ v, v < 64 → regRead s 64 (0x90000 + 8 * v) true = 0) ∧
    (∀ n, n < 2 * chipletsOf b → ∃ (h : Nat) (k : Hart), s.harts[h]? = some k ∧ Hart.mxkid k = BitVec.ofNat 64 (n / 2 * 1024 + n)) ∧
    (∀ n, n < chipletsOf b → ∃ (h : Nat) (k : Hart), s.harts[h]? = some k ∧ Hart.mxkid k = BitVec.ofNat 64 (n * 1024 + 256 + n)) ∧
    s.harts.length = 3 * chipletsOf b + 6 ∧
    ∀ k ∈ s.harts, k.mxkenable = 0 ∧ k.mxklode = 0 ∧ k.xack = 0 ∧ k.taken = 0 ∧ k.ctrlAck = false

/-- Every step, of every agent and every event, keeps the memory in its canonical form: addresses strictly rising, and
no entry equal to what an unlisted address reads as. The model's own choices in it: log 3. -/
def Obligations.StepKeepsMemoryCanonical : Prop :=
  ∀ s s' : State, Memory.wf s.mem = true → step s = .next s' → Memory.wf s'.mem = true

/-- Decoding the words of a well-formed instruction gives it back with every operand, whatever words follow: Iluqua
words, the fused sequence, and Xkrov words. The model's own choices in it: log 11. -/
def Obligations.DecodeOfEncode : Prop :=
  (∀ (i : Instr) (l : List Word), Instr.wf i = true → encode i ≠ [] → (∀ w, i ≠ .illegalWord w) → (∀ x, i ≠ .fusedExpSum x) →
    ¬isXkrov i → decodeWords (encode i ++ l) = .ok (i, (encode i).length)) ∧
  (∀ x : Fused, Instr.wf (.fusedExpSum x) = true →
    ∃ w0 w1 w2 w3, encode (.fusedExpSum x) = [w0, w1, w2, w3] ∧ decodeFused w0 w1 w2 w3 = some (.fusedExpSum x)) ∧
  ∀ (x : XR3) (y : XR2) (sel : DWord), ∀ p ∈ xkrovWords x y sel, p.2 → ∃ w, encode p.1 = [w] ∧ decodeXkrov w sel = some p.1

/-- Words the spec prints decode to the instructions it prints beside them (R51, R46, R374). -/
def Obligations.DecodedWords : Prop :=
  (∀ p ∈ [([0x94080016], Instr.srd ⟨false, 2, 0x016⟩), ([0xD8302010], .lduW ⟨true, 12, 2, 16⟩), ([0x0F020000], .lsrd ⟨false, 1, 0⟩),
      ([0x0B040402], .shli ⟨false, 2, 1, 2⟩), ([0x12080C64], .ffma ⟨false, 4, 3, .uni 12⟩), ([0x93000000], .exit false),
      ([0x001E3C70], .add ⟨false, 15, 15, .lane 14⟩), ([0xC0000000], .saluAdd ⟨true, 0, 0, 0⟩)],
    decodeWords p.1 = .ok (p.2, 1)) ∧
  decodeXkrov 0x0005B50B 0 = some (.fqpop ⟨10, 11⟩) ∧ decodeXkrov 0x007362AB 0 = some (.qload ⟨5, 6, 7⟩) ∧
  decodeXkrov 0x00C5C50B 1 = some (.wakegRefuse ⟨10, 11, 12⟩) ∧ decodeXkrov 0x00C5C50B 3 = some (.wakegRequeue ⟨10, 11, 12⟩)

/-- A step of a group or a service core runs the instruction its words decode to, one cycle later and with the fetch
noted; the head of the schedule goes before. The model's own choices in it: log 4, 98. -/
def Obligations.StepRunsDecoded : Prop :=
  (∀ (s : State) (core : Nat) (r : GRef) (t : Team) (g : Group) (w : Word) (i : Instr),
    let u := tick s 1
    let p := u.adjCore core fun k => { k with pack := some ⟨0, [r], false⟩ }
    let pc := g.issueSet.2
    let reads := fun (x : State) => fetchWord x t r.grp pc = some w ∧ fetchFused x t r.grp g pc w = none ∧
      (isTwoWord w = false ∧ decodeWords [w] = .ok (i, 1) ∨ isTwoWord w = true ∧ headOk w = true ∧
        ∃ v, fetchWord x t r.grp (pc + 4) = some v ∧ decodeWords [w, v] = .ok (i, 2))
    let noted := fun (x : State) => { noteFetch x t r.grp pc with actor := .group r }
    s.moves = [] → s.actor = .group r ∨ s.actor = .core core → u.team r.team = some t → t.groups[r.grp]? = some g →
    t.core = core → t.place = .running → g.stop = none → g.park = none → g.pending = none → g.cands ≠ [] → g.readyAt ≤ u.clock →
    u.sfuHolds core r = false → pc.toNat % 4 = 0 →
      (selectOf u core = ⟨[], [r], [], none⟩ → reads p → step s = restoreActor s.actor (Out.andThen (exec i (noted p)) fun v =>
        .next (v.adjCore core fun k => { k with pack := none }))) ∧
      (selectOf u core = ⟨[], [], [], some r⟩ → reads u → step s = restoreActor s.actor (exec i (noted u))) ∧
      (seats u core = [⟨r, t, g⟩] → (u.core core).sfuHeld = [] → reads u →
        selectOf u core = if w.msb = true then ⟨[], [], [], some r⟩ else ⟨[], [r], [], none⟩)) ∧
  (∀ (s : State) (h : Nat) (k : Hart) (w : Nat) (i : Instr), s.moves = [] → s.actor = .hart h → s.harts[h]? = some k →
    k.wait = none → s.mgt.started = true → k.takesInterrupt = none → fetchRv (tick s 1) k = (.half w, 4) →
    decodeXkrov (BitVec.ofNat 32 w) (k.reg (rvReg w 20)) = some i → step s = exec i (tick s 1)) ∧
  ∀ (s : State) (l : List Move),
    (∀ i, s.moves = .event i :: l → isEvent i = true → step s = exec i { s with moves := l }) ∧
    (∀ i, s.moves = .event i :: l → isEvent i = false → step s = .next { s with moves := l }) ∧
    (∀ a, s.moves = .turn a :: l → step s = turn { s with moves := l, actor := a }) ∧
    (∀ n, s.moves = .tick n :: l → step s = .next (tick { s with moves := l } n)) ∧
    (∀ x, s.moves = .upset x :: l → step s = .next (strike { s with moves := l } x)) ∧
    (∀ n, s.moves = .toHost n :: l → step s = .next (endToHost { s with moves := l } n)) ∧
    (∀ n m, s.moves = .links n m :: l → step s = .next (linksChange { s with moves := l } n m)) ∧
    (∀ r n, s.moves = .pass r n :: l → step s = .next (leaveEarly { s with moves := l } r n)) ∧
    (∀ n m, s.moves = .shareCopy n m :: l → step s = .next (shareReach { s with moves := l } n m)) ∧
    (∀ r b, s.moves = .half r b :: l → step s = halfMove { s with moves := l } r b) ∧
    (∀ n k, s.moves = .piece n k :: l → step s = .next (copyPiece { s with moves := l } n k)) ∧
    (s.moves = .reread :: l → step s = .next (rereadLate { s with moves := l })) ∧
    (∀ x, s.moves = .reload x :: l → step s = .next (reloadMicrocode { s with moves := l } x)) ∧
    (s.moves = .modeDone :: l → step s = .next { s with moves := l, trn := { s.trn with busy := false } })
end

