-- ==== Sys2Proof/Laws/Encode.lean ====
section
/-! SUPPORT. What the decoder's fields read in the words the encoder writes: one lemma per field of each word form. -/

namespace Sys2Proof

theorem toNat_cat {m n : Nat} (a : BitVec m) (b : BitVec n) : (a ++ b).toNat = a.toNat * 2 ^ n + b.toNat := by
  rw [BitVec.toNat_append, ← Nat.shiftLeft_add_eq_or_of_lt b.isLt, Nat.shiftLeft_eq]
/-- A field read off the number a word holds. -/
theorem fld_eq {w : Word} {lo n : Nat} {v : BitVec n} (h : w.toNat / 2 ^ lo % 2 ^ n = v.toNat) : fld w lo n = v := by
  apply BitVec.eq_of_toNat_eq
  simpa only [fld, BitVec.extractLsb'_toNat, Nat.shiftRight_eq_div_pow] using h
@[simp] theorem ofB_beq (b : Bool) : (ofB b == 1#1) = b := by cases b <;> rfl
theorem bit_eq {w : Word} {i : Nat} {b : Bool} (h : fld w i 1 = ofB b) : bit w i = b := by
  rw [bit, show w.extractLsb' i 1 = ofB b from h, ofB_beq]
theorem fld_eq' {w : Word} {lo n : Nat} {v : BitVec n} (h : w.toNat / 2 ^ lo % 2 ^ n = v.toNat) : BitVec.extractLsb' lo n w = v :=
  fld_eq h
theorem ofB_false : ofB false = 0#1 := rfl
theorem ofB_true : ofB true = 1#1 := rfl

/-- The second source from its eight bits. -/
theorem srcOf_eq {w : Word} {b : Src} (h : fld w 2 8 = b.enc) : srcOf w = some b := by
  have hn : w.toNat / 4 % 256 = b.enc.toNat := by
    rw [← h, fld, BitVec.extractLsb'_toNat, Nat.shiftRight_eq_div_pow]
  cases b with
  | lane r =>
    simp only [Src.enc, toNat_cat, BitVec.toNat_ofNat] at hn
    have h2 : bit w 2 = false := bit_eq (fld_eq (by simp only [ofB, BitVec.toNat_ofNat, Bool.false_eq_true, if_false]; omega))
    have h3 : fld w 3 7 = r := fld_eq (by omega)
    simp only [srcOf, h2, h3, Bool.false_eq_true, if_false]
  | uni r =>
    simp only [Src.enc, toNat_cat, BitVec.toNat_ofNat] at hn
    have h2 : bit w 2 = true := bit_eq (fld_eq (by simp only [ofB, BitVec.toNat_ofNat, if_true]; omega))
    have h9 : bit w 9 = false := bit_eq (fld_eq (by simp only [ofB, BitVec.toNat_ofNat, Bool.false_eq_true, if_false]; omega))
    have h3 : fld w 3 6 = r := fld_eq (by omega)
    simp only [srcOf, h2, h9, h3, Bool.false_eq_true, if_true, if_false]

/-! ### encLR -/

@[simp] theorem encLR_set (M F : Nat) (x : LR) : bit (encLR M F x) 31 = false := by
  refine bit_eq (fld_eq ?_)
  simp only [encLR, top, toNat_cat, BitVec.toNat_ofNat, ofB_false]
  omega
@[simp] theorem encLR_settle (M F : Nat) (x : LR) : bit (encLR M F x) 30 = x.s := by
  refine bit_eq (fld_eq ?_)
  simp only [encLR, top, toNat_cat, BitVec.toNat_ofNat, ofB_false]
  omega
@[simp] theorem encLR_major (M F : Nat) (x : LR) : fld (encLR M F x) 24 6 = BitVec.ofNat 6 M := by
  refine fld_eq ?_
  simp only [encLR, top, toNat_cat, BitVec.toNat_ofNat]
  omega
@[simp] theorem encLR_d (M F : Nat) (x : LR) : fld (encLR M F x) 17 7 = x.d := by
  refine fld_eq ?_
  simp only [encLR, top, toNat_cat, BitVec.toNat_ofNat]
  omega
@[simp] theorem encLR_a (M F : Nat) (x : LR) : fld (encLR M F x) 10 7 = x.a := by
  refine fld_eq ?_
  simp only [encLR, top, toNat_cat, BitVec.toNat_ofNat]
  omega
@[simp] theorem encLR_fn (M F : Nat) (x : LR) : fld (encLR M F x) 0 2 = BitVec.ofNat 2 F := by
  refine fld_eq ?_
  simp only [encLR, top, toNat_cat, BitVec.toNat_ofNat]
  omega
@[simp] theorem encLR_src (M F : Nat) (x : LR) : srcOf (encLR M F x) = some x.b := by
  have h : fld (encLR M F x) 2 8 = x.b.enc := by
    refine fld_eq ?_
    simp only [encLR, top, toNat_cat, BitVec.toNat_ofNat]
    omega
  exact srcOf_eq h

/-! ### encLU -/

@[simp] theorem encLU_set (M F : Nat) (x : LU) : bit (encLU M F x) 31 = false := by
  refine bit_eq (fld_eq ?_)
  simp only [encLU, top, toNat_cat, BitVec.toNat_ofNat, ofB_false]
  omega
@[simp] theorem encLU_settle (M F : Nat) (x : LU) : bit (encLU M F x) 30 = x.s := by
  refine bit_eq (fld_eq ?_)
  simp only [encLU, top, toNat_cat, BitVec.toNat_ofNat, ofB_false]
  omega
@[simp] theorem encLU_major (M F : Nat) (x : LU) : fld (encLU M F x) 24 6 = BitVec.ofNat 6 M := by
  refine fld_eq ?_
  simp only [encLU, top, toNat_cat, BitVec.toNat_ofNat]
  omega
@[simp] theorem encLU_d (M F : Nat) (x : LU) : fld (encLU M F x) 17 7 = x.d := by
  refine fld_eq ?_
  simp only [encLU, top, toNat_cat, BitVec.toNat_ofNat]
  omega
@[simp] theorem encLU_a (M F : Nat) (x : LU) : fld (encLU M F x) 10 7 = x.a := by
  refine fld_eq ?_
  simp only [encLU, top, toNat_cat, BitVec.toNat_ofNat]
  omega
@[simp] theorem encLU_b (M F : Nat) (x : LU) : fld (encLU M F x) 2 8 = 0#8 := by
  refine fld_eq ?_
  simp only [encLU, top, toNat_cat, BitVec.toNat_ofNat]
  omega
@[simp] theorem encLU_fn (M F : Nat) (x : LU) : fld (encLU M F x) 0 2 = BitVec.ofNat 2 F := by
  refine fld_eq ?_
  simp only [encLU, top, toNat_cat, BitVec.toNat_ofNat]
  omega

/-! ### encSfu -/

@[simp] theorem encSfu_set (F : Nat) (x : LU) : bit (encSfu F x) 31 = false := by
  refine bit_eq (fld_eq ?_)
  simp only [encSfu, top, toNat_cat, BitVec.toNat_ofNat, ofB_false]
  omega
@[simp] theorem encSfu_settle (F : Nat) (x : LU) : bit (encSfu F x) 30 = x.s := by
  refine bit_eq (fld_eq ?_)
  simp only [encSfu, top, toNat_cat, BitVec.toNat_ofNat, ofB_false]
  omega
@[simp] theorem encSfu_major (F : Nat) (x : LU) : fld (encSfu F x) 24 6 = 0x17#6 := by
  refine fld_eq ?_
  simp only [encSfu, top, toNat_cat, BitVec.toNat_ofNat]
  omega
@[simp] theorem encSfu_d (F : Nat) (x : LU) : fld (encSfu F x) 17 7 = x.d := by
  refine fld_eq ?_
  simp only [encSfu, top, toNat_cat, BitVec.toNat_ofNat]
  omega
@[simp] theorem encSfu_a (F : Nat) (x : LU) : fld (encSfu F x) 10 7 = x.a := by
  refine fld_eq ?_
  simp only [encSfu, top, toNat_cat, BitVec.toNat_ofNat]
  omega
@[simp] theorem encSfu_b (F : Nat) (x : LU) : fld (encSfu F x) 6 4 = 0#4 := by
  refine fld_eq ?_
  simp only [encSfu, top, toNat_cat, BitVec.toNat_ofNat]
  omega
@[simp] theorem encSfu_fn (F : Nat) (x : LU) : fld (encSfu F x) 3 3 = BitVec.ofNat 3 F := by
  refine fld_eq ?_
  simp only [encSfu, top, toNat_cat, BitVec.toNat_ofNat]
  omega
@[simp] theorem encSfu_z (F : Nat) (x : LU) : fld (encSfu F x) 0 3 = 0#3 := by
  refine fld_eq ?_
  simp only [encSfu, top, toNat_cat, BitVec.toNat_ofNat]
  omega

/-! ### encLSh -/

@[simp] theorem encLSh_set (F : Nat) (x : LShift) : bit (encLSh F x) 31 = false := by
  refine bit_eq (fld_eq ?_)
  simp only [encLSh, top, toNat_cat, BitVec.toNat_ofNat, ofB_false]
  omega
@[simp] theorem encLSh_settle (F : Nat) (x : LShift) : bit (encLSh F x) 30 = x.s := by
  refine bit_eq (fld_eq ?_)
  simp only [encLSh, top, toNat_cat, BitVec.toNat_ofNat, ofB_false]
  omega
@[simp] theorem encLSh_major (F : Nat) (x : LShift) : fld (encLSh F x) 24 6 = 0x0B#6 := by
  refine fld_eq ?_
  simp only [encLSh, top, toNat_cat, BitVec.toNat_ofNat]
  omega
@[simp] theorem encLSh_d (F : Nat) (x : LShift) : fld (encLSh F x) 17 7 = x.d := by
  refine fld_eq ?_
  simp only [encLSh, top, toNat_cat, BitVec.toNat_ofNat]
  omega
@[simp] theorem encLSh_a (F : Nat) (x : LShift) : fld (encLSh F x) 10 7 = x.a := by
  refine fld_eq ?_
  simp only [encLSh, top, toNat_cat, BitVec.toNat_ofNat]
  omega
@[simp] theorem encLSh_fn (F : Nat) (x : LShift) : fld (encLSh F x) 8 2 = BitVec.ofNat 2 F := by
  refine fld_eq ?_
  simp only [encLSh, top, toNat_cat, BitVec.toNat_ofNat]
  omega
@[simp] theorem encLSh_z (F : Nat) (x : LShift) : fld (encLSh F x) 5 3 = 0#3 := by
  refine fld_eq ?_
  simp only [encLSh, top, toNat_cat, BitVec.toNat_ofNat]
  omega
@[simp] theorem encLSh_n (F : Nat) (x : LShift) : fld (encLSh F x) 0 5 = x.n := by
  refine fld_eq ?_
  simp only [encLSh, top, toNat_cat, BitVec.toNat_ofNat]
  omega

/-! ### encL8 -/

@[simp] theorem encL8_set (F : Nat) (x : LImm8) : bit (encL8 F x) 31 = false := by
  refine bit_eq (fld_eq ?_)
  simp only [encL8, top, toNat_cat, BitVec.toNat_ofNat, ofB_false]
  omega
@[simp] theorem encL8_settle (F : Nat) (x : LImm8) : bit (encL8 F x) 30 = x.s := by
  refine bit_eq (fld_eq ?_)
  simp only [encL8, top, toNat_cat, BitVec.toNat_ofNat, ofB_false]
  omega
@[simp] theorem encL8_major (F : Nat) (x : LImm8) : fld (encL8 F x) 24 6 = 0x0C#6 := by
  refine fld_eq ?_
  simp only [encL8, top, toNat_cat, BitVec.toNat_ofNat]
  omega
@[simp] theorem encL8_d (F : Nat) (x : LImm8) : fld (encL8 F x) 17 7 = x.d := by
  refine fld_eq ?_
  simp only [encL8, top, toNat_cat, BitVec.toNat_ofNat]
  omega
@[simp] theorem encL8_a (F : Nat) (x : LImm8) : fld (encL8 F x) 10 7 = x.a := by
  refine fld_eq ?_
  simp only [encL8, top, toNat_cat, BitVec.toNat_ofNat]
  omega
@[simp] theorem encL8_fn (F : Nat) (x : LImm8) : fld (encL8 F x) 8 2 = BitVec.ofNat 2 F := by
  refine fld_eq ?_
  simp only [encL8, top, toNat_cat, BitVec.toNat_ofNat]
  omega
@[simp] theorem encL8_imm (F : Nat) (x : LImm8) : fld (encL8 F x) 0 8 = x.imm := by
  refine fld_eq ?_
  simp only [encL8, top, toNat_cat, BitVec.toNat_ofNat]
  omega

/-! ### encLoad -/

@[simp] theorem encLoad_set (M : Nat) (x : LLoad) : bit (encLoad M x) 31 = false := by
  refine bit_eq (fld_eq ?_)
  simp only [encLoad, top, toNat_cat, BitVec.toNat_ofNat, ofB_false]
  omega
@[simp] theorem encLoad_settle (M : Nat) (x : LLoad) : bit (encLoad M x) 30 = x.s := by
  refine bit_eq (fld_eq ?_)
  simp only [encLoad, top, toNat_cat, BitVec.toNat_ofNat, ofB_false]
  omega
@[simp] theorem encLoad_major (M : Nat) (x : LLoad) : fld (encLoad M x) 24 6 = BitVec.ofNat 6 M := by
  refine fld_eq ?_
  simp only [encLoad, top, toNat_cat, BitVec.toNat_ofNat]
  omega
@[simp] theorem encLoad_d (M : Nat) (x : LLoad) : fld (encLoad M x) 17 7 = x.d := by
  refine fld_eq ?_
  simp only [encLoad, top, toNat_cat, BitVec.toNat_ofNat]
  omega
@[simp] theorem encLoad_a (M : Nat) (x : LLoad) : fld (encLoad M x) 10 7 = x.a := by
  refine fld_eq ?_
  simp only [encLoad, top, toNat_cat, BitVec.toNat_ofNat]
  omega
@[simp] theorem encLoad_sb (M : Nat) (x : LLoad) : fld (encLoad M x) 4 6 = x.sb := by
  refine fld_eq ?_
  simp only [encLoad, top, toNat_cat, BitVec.toNat_ofNat]
  omega
@[simp] theorem encLoad_w (M : Nat) (x : LLoad) : fld (encLoad M x) 1 3 = x.w.code := by
  refine fld_eq ?_
  simp only [encLoad, top, toNat_cat, BitVec.toNat_ofNat]
  omega
@[simp] theorem encLoad_x (M : Nat) (x : LLoad) : bit (encLoad M x) 0 = x.x := by
  refine bit_eq (fld_eq ?_)
  simp only [encLoad, top, toNat_cat, BitVec.toNat_ofNat, ofB_false]
  omega

/-! ### encStore -/

@[simp] theorem encStore_set (M : Nat) (x : LStore) : bit (encStore M x) 31 = false := by
  refine bit_eq (fld_eq ?_)
  simp only [encStore, top, toNat_cat, BitVec.toNat_ofNat, ofB_false]
  omega
@[simp] theorem encStore_settle (M : Nat) (x : LStore) : bit (encStore M x) 30 = x.s := by
  refine bit_eq (fld_eq ?_)
  simp only [encStore, top, toNat_cat, BitVec.toNat_ofNat, ofB_false]
  omega
@[simp] theorem encStore_major (M : Nat) (x : LStore) : fld (encStore M x) 24 6 = BitVec.ofNat 6 M := by
  refine fld_eq ?_
  simp only [encStore, top, toNat_cat, BitVec.toNat_ofNat]
  omega
@[simp] theorem encStore_d (M : Nat) (x : LStore) : fld (encStore M x) 17 7 = x.d := by
  refine fld_eq ?_
  simp only [encStore, top, toNat_cat, BitVec.toNat_ofNat]
  omega
@[simp] theorem encStore_a (M : Nat) (x : LStore) : fld (encStore M x) 10 7 = x.a := by
  refine fld_eq ?_
  simp only [encStore, top, toNat_cat, BitVec.toNat_ofNat]
  omega
@[simp] theorem encStore_sb (M : Nat) (x : LStore) : fld (encStore M x) 4 6 = x.sb := by
  refine fld_eq ?_
  simp only [encStore, top, toNat_cat, BitVec.toNat_ofNat]
  omega
@[simp] theorem encStore_w (M : Nat) (x : LStore) : fld (encStore M x) 1 3 = x.w.code := by
  refine fld_eq ?_
  simp only [encStore, top, toNat_cat, BitVec.toNat_ofNat]
  omega
@[simp] theorem encStore_x (M : Nat) (x : LStore) : bit (encStore M x) 0 = false := by
  refine bit_eq (fld_eq ?_)
  simp only [encStore, top, toNat_cat, BitVec.toNat_ofNat, ofB_false]
  omega

/-! ### encLB -/

@[simp] theorem encLB_set (M : Nat) (x : LBranch) : bit (encLB M x) 31 = false := by
  refine bit_eq (fld_eq ?_)
  simp only [encLB, top, toNat_cat, BitVec.toNat_ofNat, ofB_false]
  omega
@[simp] theorem encLB_settle (M : Nat) (x : LBranch) : bit (encLB M x) 30 = x.s := by
  refine bit_eq (fld_eq ?_)
  simp only [encLB, top, toNat_cat, BitVec.toNat_ofNat, ofB_false]
  omega
@[simp] theorem encLB_major (M : Nat) (x : LBranch) : fld (encLB M x) 24 6 = BitVec.ofNat 6 M := by
  refine fld_eq ?_
  simp only [encLB, top, toNat_cat, BitVec.toNat_ofNat]
  omega
@[simp] theorem encLB_c (M : Nat) (x : LBranch) : fld (encLB M x) 17 7 = x.c := by
  refine fld_eq ?_
  simp only [encLB, top, toNat_cat, BitVec.toNat_ofNat]
  omega
@[simp] theorem encLB_u (M : Nat) (x : LBranch) : bit (encLB M x) 16 = x.u := by
  refine bit_eq (fld_eq ?_)
  simp only [encLB, top, toNat_cat, BitVec.toNat_ofNat, ofB_false]
  omega
@[simp] theorem encLB_off (M : Nat) (x : LBranch) : fld (encLB M x) 0 16 = x.off := by
  refine fld_eq ?_
  simp only [encLB, top, toNat_cat, BitVec.toNat_ofNat]
  omega

/-! ### encUR -/

@[simp] theorem encUR_set (M F : Nat) (x : UR) : bit (encUR M F x) 31 = true := by
  refine bit_eq (fld_eq ?_)
  simp only [encUR, top, toNat_cat, BitVec.toNat_ofNat]
  omega
@[simp] theorem encUR_settle (M F : Nat) (x : UR) : bit (encUR M F x) 30 = x.s := by
  refine bit_eq (fld_eq ?_)
  simp only [encUR, top, toNat_cat, BitVec.toNat_ofNat]
  omega
@[simp] theorem encUR_major (M F : Nat) (x : UR) : fld (encUR M F x) 24 6 = BitVec.ofNat 6 M := by
  refine fld_eq ?_
  simp only [encUR, top, toNat_cat, BitVec.toNat_ofNat]
  omega
@[simp] theorem encUR_d (M F : Nat) (x : UR) : fld (encUR M F x) 18 6 = x.d := by
  refine fld_eq ?_
  simp only [encUR, top, toNat_cat, BitVec.toNat_ofNat]
  omega
@[simp] theorem encUR_a (M F : Nat) (x : UR) : fld (encUR M F x) 12 6 = x.a := by
  refine fld_eq ?_
  simp only [encUR, top, toNat_cat, BitVec.toNat_ofNat]
  omega
@[simp] theorem encUR_b (M F : Nat) (x : UR) : fld (encUR M F x) 6 6 = x.b := by
  refine fld_eq ?_
  simp only [encUR, top, toNat_cat, BitVec.toNat_ofNat]
  omega
@[simp] theorem encUR_fn (M F : Nat) (x : UR) : fld (encUR M F x) 0 6 = BitVec.ofNat 6 F := by
  refine fld_eq ?_
  simp only [encUR, top, toNat_cat, BitVec.toNat_ofNat]
  omega

/-! ### encUU -/

@[simp] theorem encUU_set (M F : Nat) (x : UU) : bit (encUU M F x) 31 = true := by
  refine bit_eq (fld_eq ?_)
  simp only [encUU, top, toNat_cat, BitVec.toNat_ofNat]
  omega
@[simp] theorem encUU_settle (M F : Nat) (x : UU) : bit (encUU M F x) 30 = x.s := by
  refine bit_eq (fld_eq ?_)
  simp only [encUU, top, toNat_cat, BitVec.toNat_ofNat]
  omega
@[simp] theorem encUU_major (M F : Nat) (x : UU) : fld (encUU M F x) 24 6 = BitVec.ofNat 6 M := by
  refine fld_eq ?_
  simp only [encUU, top, toNat_cat, BitVec.toNat_ofNat]
  omega
@[simp] theorem encUU_d (M F : Nat) (x : UU) : fld (encUU M F x) 18 6 = x.d := by
  refine fld_eq ?_
  simp only [encUU, top, toNat_cat, BitVec.toNat_ofNat]
  omega
@[simp] theorem encUU_a (M F : Nat) (x : UU) : fld (encUU M F x) 12 6 = x.a := by
  refine fld_eq ?_
  simp only [encUU, top, toNat_cat, BitVec.toNat_ofNat]
  omega
@[simp] theorem encUU_b (M F : Nat) (x : UU) : fld (encUU M F x) 6 6 = 0#6 := by
  refine fld_eq ?_
  simp only [encUU, top, toNat_cat, BitVec.toNat_ofNat]
  omega
@[simp] theorem encUU_fn (M F : Nat) (x : UU) : fld (encUU M F x) 0 6 = BitVec.ofNat 6 F := by
  refine fld_eq ?_
  simp only [encUU, top, toNat_cat, BitVec.toNat_ofNat]
  omega

/-! ### encU2 -/

@[simp] theorem encU2_set (M F : Nat) (x : USrc2) : bit (encU2 M F x) 31 = true := by
  refine bit_eq (fld_eq ?_)
  simp only [encU2, top, toNat_cat, BitVec.toNat_ofNat]
  omega
@[simp] theorem encU2_settle (M F : Nat) (x : USrc2) : bit (encU2 M F x) 30 = x.s := by
  refine bit_eq (fld_eq ?_)
  simp only [encU2, top, toNat_cat, BitVec.toNat_ofNat]
  omega
@[simp] theorem encU2_major (M F : Nat) (x : USrc2) : fld (encU2 M F x) 24 6 = BitVec.ofNat 6 M := by
  refine fld_eq ?_
  simp only [encU2, top, toNat_cat, BitVec.toNat_ofNat]
  omega
@[simp] theorem encU2_d (M F : Nat) (x : USrc2) : fld (encU2 M F x) 18 6 = 0#6 := by
  refine fld_eq ?_
  simp only [encU2, top, toNat_cat, BitVec.toNat_ofNat]
  omega
@[simp] theorem encU2_a (M F : Nat) (x : USrc2) : fld (encU2 M F x) 12 6 = x.a := by
  refine fld_eq ?_
  simp only [encU2, top, toNat_cat, BitVec.toNat_ofNat]
  omega
@[simp] theorem encU2_b (M F : Nat) (x : USrc2) : fld (encU2 M F x) 6 6 = x.b := by
  refine fld_eq ?_
  simp only [encU2, top, toNat_cat, BitVec.toNat_ofNat]
  omega
@[simp] theorem encU2_fn (M F : Nat) (x : USrc2) : fld (encU2 M F x) 0 6 = BitVec.ofNat 6 F := by
  refine fld_eq ?_
  simp only [encU2, top, toNat_cat, BitVec.toNat_ofNat]
  omega

/-! ### encU1 -/

@[simp] theorem encU1_set (M F : Nat) (x : USrc) : bit (encU1 M F x) 31 = true := by
  refine bit_eq (fld_eq ?_)
  simp only [encU1, top, toNat_cat, BitVec.toNat_ofNat]
  omega
@[simp] theorem encU1_settle (M F : Nat) (x : USrc) : bit (encU1 M F x) 30 = x.s := by
  refine bit_eq (fld_eq ?_)
  simp only [encU1, top, toNat_cat, BitVec.toNat_ofNat]
  omega
@[simp] theorem encU1_major (M F : Nat) (x : USrc) : fld (encU1 M F x) 24 6 = BitVec.ofNat 6 M := by
  refine fld_eq ?_
  simp only [encU1, top, toNat_cat, BitVec.toNat_ofNat]
  omega
@[simp] theorem encU1_d (M F : Nat) (x : USrc) : fld (encU1 M F x) 18 6 = 0#6 := by
  refine fld_eq ?_
  simp only [encU1, top, toNat_cat, BitVec.toNat_ofNat]
  omega
@[simp] theorem encU1_a (M F : Nat) (x : USrc) : fld (encU1 M F x) 12 6 = x.a := by
  refine fld_eq ?_
  simp only [encU1, top, toNat_cat, BitVec.toNat_ofNat]
  omega
@[simp] theorem encU1_b (M F : Nat) (x : USrc) : fld (encU1 M F x) 6 6 = 0#6 := by
  refine fld_eq ?_
  simp only [encU1, top, toNat_cat, BitVec.toNat_ofNat]
  omega
@[simp] theorem encU1_fn (M F : Nat) (x : USrc) : fld (encU1 M F x) 0 6 = BitVec.ofNat 6 F := by
  refine fld_eq ?_
  simp only [encU1, top, toNat_cat, BitVec.toNat_ofNat]
  omega

/-! ### encU0 -/

@[simp] theorem encU0_set (M F : Nat) (s : Bool) : bit (encU0 M F s) 31 = true := by
  refine bit_eq (fld_eq ?_)
  simp only [encU0, top, toNat_cat, BitVec.toNat_ofNat]
  omega
@[simp] theorem encU0_settle (M F : Nat) (s : Bool) : bit (encU0 M F s) 30 = s := by
  refine bit_eq (fld_eq ?_)
  simp only [encU0, top, toNat_cat, BitVec.toNat_ofNat]
  omega
@[simp] theorem encU0_major (M F : Nat) (s : Bool) : fld (encU0 M F s) 24 6 = BitVec.ofNat 6 M := by
  refine fld_eq ?_
  simp only [encU0, top, toNat_cat, BitVec.toNat_ofNat]
  omega
@[simp] theorem encU0_z (M F : Nat) (s : Bool) : fld (encU0 M F s) 6 18 = 0#18 := by
  refine fld_eq ?_
  simp only [encU0, top, toNat_cat, BitVec.toNat_ofNat]
  omega
@[simp] theorem encU0_fn (M F : Nat) (s : Bool) : fld (encU0 M F s) 0 6 = BitVec.ofNat 6 F := by
  refine fld_eq ?_
  simp only [encU0, top, toNat_cat, BitVec.toNat_ofNat]
  omega

/-! ### encUI -/

@[simp] theorem encUI_set (M : Nat) (x : UImm12) : bit (encUI M x) 31 = true := by
  refine bit_eq (fld_eq ?_)
  simp only [encUI, top, toNat_cat, BitVec.toNat_ofNat]
  omega
@[simp] theorem encUI_settle (M : Nat) (x : UImm12) : bit (encUI M x) 30 = x.s := by
  refine bit_eq (fld_eq ?_)
  simp only [encUI, top, toNat_cat, BitVec.toNat_ofNat]
  omega
@[simp] theorem encUI_major (M : Nat) (x : UImm12) : fld (encUI M x) 24 6 = BitVec.ofNat 6 M := by
  refine fld_eq ?_
  simp only [encUI, top, toNat_cat, BitVec.toNat_ofNat]
  omega
@[simp] theorem encUI_d (M : Nat) (x : UImm12) : fld (encUI M x) 18 6 = x.d := by
  refine fld_eq ?_
  simp only [encUI, top, toNat_cat, BitVec.toNat_ofNat]
  omega
@[simp] theorem encUI_a (M : Nat) (x : UImm12) : fld (encUI M x) 12 6 = x.a := by
  refine fld_eq ?_
  simp only [encUI, top, toNat_cat, BitVec.toNat_ofNat]
  omega
@[simp] theorem encUI_imm (M : Nat) (x : UImm12) : fld (encUI M x) 0 12 = x.imm := by
  refine fld_eq ?_
  simp only [encUI, top, toNat_cat, BitVec.toNat_ofNat]
  omega

/-! ### encUSh -/

@[simp] theorem encUSh_set (F : Nat) (x : UShift) : bit (encUSh F x) 31 = true := by
  refine bit_eq (fld_eq ?_)
  simp only [encUSh, top, toNat_cat, BitVec.toNat_ofNat]
  omega
@[simp] theorem encUSh_settle (F : Nat) (x : UShift) : bit (encUSh F x) 30 = x.s := by
  refine bit_eq (fld_eq ?_)
  simp only [encUSh, top, toNat_cat, BitVec.toNat_ofNat]
  omega
@[simp] theorem encUSh_major (F : Nat) (x : UShift) : fld (encUSh F x) 24 6 = 0x06#6 := by
  refine fld_eq ?_
  simp only [encUSh, top, toNat_cat, BitVec.toNat_ofNat]
  omega
@[simp] theorem encUSh_d (F : Nat) (x : UShift) : fld (encUSh F x) 18 6 = x.d := by
  refine fld_eq ?_
  simp only [encUSh, top, toNat_cat, BitVec.toNat_ofNat]
  omega
@[simp] theorem encUSh_a (F : Nat) (x : UShift) : fld (encUSh F x) 12 6 = x.a := by
  refine fld_eq ?_
  simp only [encUSh, top, toNat_cat, BitVec.toNat_ofNat]
  omega
@[simp] theorem encUSh_fn (F : Nat) (x : UShift) : fld (encUSh F x) 10 2 = BitVec.ofNat 2 F := by
  refine fld_eq ?_
  simp only [encUSh, top, toNat_cat, BitVec.toNat_ofNat]
  omega
@[simp] theorem encUSh_z (F : Nat) (x : UShift) : fld (encUSh F x) 5 5 = 0#5 := by
  refine fld_eq ?_
  simp only [encUSh, top, toNat_cat, BitVec.toNat_ofNat]
  omega
@[simp] theorem encUSh_n (F : Nat) (x : UShift) : fld (encUSh F x) 0 5 = x.n := by
  refine fld_eq ?_
  simp only [encUSh, top, toNat_cat, BitVec.toNat_ofNat]
  omega

/-! ### encUJ -/

@[simp] theorem encUJ_set (M : Nat) (x : UBranch) : bit (encUJ M x) 31 = true := by
  refine bit_eq (fld_eq ?_)
  simp only [encUJ, top, toNat_cat, BitVec.toNat_ofNat]
  omega
@[simp] theorem encUJ_settle (M : Nat) (x : UBranch) : bit (encUJ M x) 30 = x.s := by
  refine bit_eq (fld_eq ?_)
  simp only [encUJ, top, toNat_cat, BitVec.toNat_ofNat]
  omega
@[simp] theorem encUJ_major (M : Nat) (x : UBranch) : fld (encUJ M x) 24 6 = BitVec.ofNat 6 M := by
  refine fld_eq ?_
  simp only [encUJ, top, toNat_cat, BitVec.toNat_ofNat]
  omega
@[simp] theorem encUJ_cond (M : Nat) (x : UBranch) : fld (encUJ M x) 22 2 = x.cond := by
  refine fld_eq ?_
  simp only [encUJ, top, toNat_cat, BitVec.toNat_ofNat]
  omega
@[simp] theorem encUJ_sc (M : Nat) (x : UBranch) : fld (encUJ M x) 16 6 = x.sc := by
  refine fld_eq ?_
  simp only [encUJ, top, toNat_cat, BitVec.toNat_ofNat]
  omega
@[simp] theorem encUJ_off (M : Nat) (x : UBranch) : fld (encUJ M x) 0 16 = x.off := by
  refine fld_eq ?_
  simp only [encUJ, top, toNat_cat, BitVec.toNat_ofNat]
  omega

/-! ### encGctl -/

@[simp] theorem encGctl_set (F : Nat) (x : UCode10) : bit (encGctl F x) 31 = true := by
  refine bit_eq (fld_eq ?_)
  simp only [encGctl, top, toNat_cat, BitVec.toNat_ofNat]
  omega
@[simp] theorem encGctl_settle (F : Nat) (x : UCode10) : bit (encGctl F x) 30 = x.s := by
  refine bit_eq (fld_eq ?_)
  simp only [encGctl, top, toNat_cat, BitVec.toNat_ofNat]
  omega
@[simp] theorem encGctl_major (F : Nat) (x : UCode10) : fld (encGctl F x) 24 6 = 0x16#6 := by
  refine fld_eq ?_
  simp only [encGctl, top, toNat_cat, BitVec.toNat_ofNat]
  omega
@[simp] theorem encGctl_z (F : Nat) (x : UCode10) : fld (encGctl F x) 12 12 = 0#12 := by
  refine fld_eq ?_
  simp only [encGctl, top, toNat_cat, BitVec.toNat_ofNat]
  omega
@[simp] theorem encGctl_fn (F : Nat) (x : UCode10) : fld (encGctl F x) 10 2 = BitVec.ofNat 2 F := by
  refine fld_eq ?_
  simp only [encGctl, top, toNat_cat, BitVec.toNat_ofNat]
  omega
@[simp] theorem encGctl_n (F : Nat) (x : UCode10) : fld (encGctl F x) 0 10 = x.n := by
  refine fld_eq ?_
  simp only [encGctl, top, toNat_cat, BitVec.toNat_ofNat]
  omega

/-! ### encBar -/

@[simp] theorem encBar_set (F : Nat) (x : UBar) : bit (encBar F x) 31 = true := by
  refine bit_eq (fld_eq ?_)
  simp only [encBar, top, toNat_cat, BitVec.toNat_ofNat]
  omega
@[simp] theorem encBar_settle (F : Nat) (x : UBar) : bit (encBar F x) 30 = x.s := by
  refine bit_eq (fld_eq ?_)
  simp only [encBar, top, toNat_cat, BitVec.toNat_ofNat]
  omega
@[simp] theorem encBar_major (F : Nat) (x : UBar) : fld (encBar F x) 24 6 = 0x17#6 := by
  refine fld_eq ?_
  simp only [encBar, top, toNat_cat, BitVec.toNat_ofNat]
  omega
@[simp] theorem encBar_z (F : Nat) (x : UBar) : fld (encBar F x) 12 12 = 0#12 := by
  refine fld_eq ?_
  simp only [encBar, top, toNat_cat, BitVec.toNat_ofNat]
  omega
@[simp] theorem encBar_fn (F : Nat) (x : UBar) : fld (encBar F x) 10 2 = BitVec.ofNat 2 F := by
  refine fld_eq ?_
  simp only [encBar, top, toNat_cat, BitVec.toNat_ofNat]
  omega
@[simp] theorem encBar_z4 (F : Nat) (x : UBar) : fld (encBar F x) 4 6 = 0#6 := by
  refine fld_eq ?_
  simp only [encBar, top, toNat_cat, BitVec.toNat_ofNat]
  omega
@[simp] theorem encBar_n (F : Nat) (x : UBar) : fld (encBar F x) 0 4 = x.n := by
  refine fld_eq ?_
  simp only [encBar, top, toNat_cat, BitVec.toNat_ofNat]
  omega

/-! ### encZ -/

@[simp] theorem encZ_set (F : Nat) (s : Bool) (z : BitVec 3) (a : BitVec 6) : bit (encZ F s z a) 31 = true := by
  refine bit_eq (fld_eq ?_)
  simp only [encZ, top, toNat_cat, BitVec.toNat_ofNat]
  omega
@[simp] theorem encZ_settle (F : Nat) (s : Bool) (z : BitVec 3) (a : BitVec 6) : bit (encZ F s z a) 30 = s := by
  refine bit_eq (fld_eq ?_)
  simp only [encZ, top, toNat_cat, BitVec.toNat_ofNat]
  omega
@[simp] theorem encZ_major (F : Nat) (s : Bool) (z : BitVec 3) (a : BitVec 6) : fld (encZ F s z a) 24 6 = 0x21#6 := by
  refine fld_eq ?_
  simp only [encZ, top, toNat_cat, BitVec.toNat_ofNat]
  omega
@[simp] theorem encZ_z0 (F : Nat) (s : Bool) (z : BitVec 3) (a : BitVec 6) : fld (encZ F s z a) 21 3 = 0#3 := by
  refine fld_eq ?_
  simp only [encZ, top, toNat_cat, BitVec.toNat_ofNat]
  omega
@[simp] theorem encZ_z (F : Nat) (s : Bool) (z : BitVec 3) (a : BitVec 6) : fld (encZ F s z a) 18 3 = z := by
  refine fld_eq ?_
  simp only [encZ, top, toNat_cat, BitVec.toNat_ofNat]
  omega
@[simp] theorem encZ_a (F : Nat) (s : Bool) (z : BitVec 3) (a : BitVec 6) : fld (encZ F s z a) 12 6 = a := by
  refine fld_eq ?_
  simp only [encZ, top, toNat_cat, BitVec.toNat_ofNat]
  omega
@[simp] theorem encZ_b (F : Nat) (s : Bool) (z : BitVec 3) (a : BitVec 6) : fld (encZ F s z a) 6 6 = 0#6 := by
  refine fld_eq ?_
  simp only [encZ, top, toNat_cat, BitVec.toNat_ofNat]
  omega
@[simp] theorem encZ_fn (F : Nat) (s : Bool) (z : BitVec 3) (a : BitVec 6) : fld (encZ F s z a) 0 6 = BitVec.ofNat 6 F := by
  refine fld_eq ?_
  simp only [encZ, top, toNat_cat, BitVec.toNat_ofNat]
  omega

/-! ### encZM -/

@[simp] theorem encZM_set (F : Nat) (x : ZMove) : bit (encZM F x) 31 = false := by
  refine bit_eq (fld_eq ?_)
  simp only [encZM, top, toNat_cat, BitVec.toNat_ofNat, ofB_false]
  omega
@[simp] theorem encZM_settle (F : Nat) (x : ZMove) : bit (encZM F x) 30 = x.s := by
  refine bit_eq (fld_eq ?_)
  simp only [encZM, top, toNat_cat, BitVec.toNat_ofNat, ofB_false]
  omega
@[simp] theorem encZM_major (F : Nat) (x : ZMove) : fld (encZM F x) 24 6 = 0x39#6 := by
  refine fld_eq ?_
  simp only [encZM, top, toNat_cat, BitVec.toNat_ofNat]
  omega
@[simp] theorem encZM_d (F : Nat) (x : ZMove) : fld (encZM F x) 17 7 = x.d := by
  refine fld_eq ?_
  simp only [encZM, top, toNat_cat, BitVec.toNat_ofNat]
  omega
@[simp] theorem encZM_z0 (F : Nat) (x : ZMove) : fld (encZM F x) 13 4 = 0#4 := by
  refine fld_eq ?_
  simp only [encZM, top, toNat_cat, BitVec.toNat_ofNat]
  omega
@[simp] theorem encZM_z (F : Nat) (x : ZMove) : fld (encZM F x) 10 3 = x.z := by
  refine fld_eq ?_
  simp only [encZM, top, toNat_cat, BitVec.toNat_ofNat]
  omega
@[simp] theorem encZM_fn (F : Nat) (x : ZMove) : fld (encZM F x) 0 2 = BitVec.ofNat 2 F := by
  refine fld_eq ?_
  simp only [encZM, top, toNat_cat, BitVec.toNat_ofNat]
  omega
@[simp] theorem encZM_src (F : Nat) (x : ZMove) : srcOf (encZM F x) = some x.b := by
  have h : fld (encZM F x) 2 8 = x.b.enc := by
    refine fld_eq ?_
    simp only [encZM, top, toNat_cat, BitVec.toNat_ofNat]
    omega
  exact srcOf_eq h

/-! ### encLX -/

@[simp] theorem encLX_set (M : Nat) (s : Bool) (d a b : BitVec 7) (f : BitVec 3) : bit (encLX M s d a b f) 31 = false := by
  refine bit_eq (fld_eq ?_)
  simp only [encLX, top, toNat_cat, BitVec.toNat_ofNat, ofB_false]
  omega
@[simp] theorem encLX_settle (M : Nat) (s : Bool) (d a b : BitVec 7) (f : BitVec 3) : bit (encLX M s d a b f) 30 = s := by
  refine bit_eq (fld_eq ?_)
  simp only [encLX, top, toNat_cat, BitVec.toNat_ofNat, ofB_false]
  omega
@[simp] theorem encLX_major (M : Nat) (s : Bool) (d a b : BitVec 7) (f : BitVec 3) : fld (encLX M s d a b f) 24 6 = BitVec.ofNat 6 M := by
  refine fld_eq ?_
  simp only [encLX, top, toNat_cat, BitVec.toNat_ofNat]
  omega
@[simp] theorem encLX_d (M : Nat) (s : Bool) (d a b : BitVec 7) (f : BitVec 3) : fld (encLX M s d a b f) 17 7 = d := by
  refine fld_eq ?_
  simp only [encLX, top, toNat_cat, BitVec.toNat_ofNat]
  omega
@[simp] theorem encLX_a (M : Nat) (s : Bool) (d a b : BitVec 7) (f : BitVec 3) : fld (encLX M s d a b f) 10 7 = a := by
  refine fld_eq ?_
  simp only [encLX, top, toNat_cat, BitVec.toNat_ofNat]
  omega
@[simp] theorem encLX_b (M : Nat) (s : Bool) (d a b : BitVec 7) (f : BitVec 3) : fld (encLX M s d a b f) 3 7 = b := by
  refine fld_eq ?_
  simp only [encLX, top, toNat_cat, BitVec.toNat_ofNat]
  omega
@[simp] theorem encLX_f (M : Nat) (s : Bool) (d a b : BitVec 7) (f : BitVec 3) : fld (encLX M s d a b f) 0 3 = f := by
  refine fld_eq ?_
  simp only [encLX, top, toNat_cat, BitVec.toNat_ofNat]
  omega

@[simp] theorem encLX_f12 (M : Nat) (s : Bool) (d a b : BitVec 7) (f : BitVec 3) : fld (encLX M s d a b f) 1 2 = f.extractLsb' 1 2 := by
  refine fld_eq ?_
  simp only [encLX, top, toNat_cat, BitVec.toNat_ofNat, BitVec.extractLsb'_toNat, Nat.shiftRight_eq_div_pow]
  omega
@[simp] theorem encLX_d3 (M : Nat) (s : Bool) (d a b : BitVec 7) (f : BitVec 3) : fld (encLX M s d a b f) 17 3 = d.extractLsb' 0 3 := by
  refine fld_eq ?_
  simp only [encLX, top, toNat_cat, BitVec.toNat_ofNat, BitVec.extractLsb'_toNat, Nat.shiftRight_eq_div_pow]
  omega
@[simp] theorem encLX_d4 (M : Nat) (s : Bool) (d a b : BitVec 7) (f : BitVec 3) : fld (encLX M s d a b f) 20 4 = d.extractLsb' 3 4 := by
  refine fld_eq ?_
  simp only [encLX, top, toNat_cat, BitVec.toNat_ofNat, BitVec.extractLsb'_toNat, Nat.shiftRight_eq_div_pow]
  omega
@[simp] theorem encLX_bit0 (M : Nat) (s : Bool) (d a b : BitVec 7) (f : BitVec 3) : bit (encLX M s d a b f) 0 = (f.extractLsb' 0 1 == 1#1) := by
  have h : fld (encLX M s d a b f) 0 1 = f.extractLsb' 0 1 := by
    refine fld_eq ?_
    simp only [encLX, top, toNat_cat, BitVec.toNat_ofNat, BitVec.extractLsb'_toNat, Nat.shiftRight_eq_div_pow]
    omega
  exact congrArg (fun v => v == 1#1) h
@[simp] theorem encLX_bit1 (M : Nat) (s : Bool) (d a b : BitVec 7) (f : BitVec 3) : bit (encLX M s d a b f) 1 = (f.extractLsb' 1 1 == 1#1) := by
  have h : fld (encLX M s d a b f) 1 1 = f.extractLsb' 1 1 := by
    refine fld_eq ?_
    simp only [encLX, top, toNat_cat, BitVec.toNat_ofNat, BitVec.extractLsb'_toNat, Nat.shiftRight_eq_div_pow]
    omega
  exact congrArg (fun v => v == 1#1) h
@[simp] theorem encLX_bit2 (M : Nat) (s : Bool) (d a b : BitVec 7) (f : BitVec 3) : bit (encLX M s d a b f) 2 = (f.extractLsb' 2 1 == 1#1) := by
  have h : fld (encLX M s d a b f) 2 1 = f.extractLsb' 2 1 := by
    refine fld_eq ?_
    simp only [encLX, top, toNat_cat, BitVec.toNat_ofNat, BitVec.extractLsb'_toNat, Nat.shiftRight_eq_div_pow]
    omega
  exact congrArg (fun v => v == 1#1) h
/-! ### encX -/

@[simp] theorem encX_f7 (op F : Nat) (rd rs1 rs2 : BitVec 5) : fld (encX op F rd rs1 rs2) 25 7 = 0#7 := by
  refine fld_eq ?_
  simp only [encX, toNat_cat, BitVec.toNat_ofNat]
  omega
@[simp] theorem encX_op (op F : Nat) (rd rs1 rs2 : BitVec 5) : fld (encX op F rd rs1 rs2) 0 7 = BitVec.ofNat 7 op := by
  refine fld_eq ?_
  simp only [encX, toNat_cat, BitVec.toNat_ofNat]
  omega
@[simp] theorem encX_f3 (op F : Nat) (rd rs1 rs2 : BitVec 5) : fld (encX op F rd rs1 rs2) 12 3 = BitVec.ofNat 3 F := by
  refine fld_eq ?_
  simp only [encX, toNat_cat, BitVec.toNat_ofNat]
  omega
@[simp] theorem encX_rd (op F : Nat) (rd rs1 rs2 : BitVec 5) : fld (encX op F rd rs1 rs2) 7 5 = rd := by
  refine fld_eq ?_
  simp only [encX, toNat_cat, BitVec.toNat_ofNat]
  omega
@[simp] theorem encX_rs1 (op F : Nat) (rd rs1 rs2 : BitVec 5) : fld (encX op F rd rs1 rs2) 15 5 = rs1 := by
  refine fld_eq ?_
  simp only [encX, toNat_cat, BitVec.toNat_ofNat]
  omega
@[simp] theorem encX_rs2 (op F : Nat) (rd rs1 rs2 : BitVec 5) : fld (encX op F rd rs1 rs2) 20 5 = rs2 := by
  refine fld_eq ?_
  simp only [encX, toNat_cat, BitVec.toNat_ofNat]
  omega

/-! ### tailCvt -/

@[simp] theorem tailCvt_fd (x : Conv) (p : Nat) : fld (tailCvt x p) 27 5 = BitVec.ofNat 5 x.fmtD.code := by
  refine fld_eq ?_
  simp only [tailCvt, toNat_cat, BitVec.toNat_ofNat]
  omega
@[simp] theorem tailCvt_fs (x : Conv) (p : Nat) : fld (tailCvt x p) 22 5 = BitVec.ofNat 5 x.fmtS.code := by
  refine fld_eq ?_
  simp only [tailCvt, toNat_cat, BitVec.toNat_ofNat]
  omega
@[simp] theorem tailCvt_rnd (x : Conv) (p : Nat) : fld (tailCvt x p) 19 3 = x.rnd.code := by
  refine fld_eq ?_
  simp only [tailCvt, toNat_cat, BitVec.toNat_ofNat]
  omega
@[simp] theorem tailCvt_sat (x : Conv) (p : Nat) : bit (tailCvt x p) 18 = x.sat := by
  refine bit_eq (fld_eq ?_)
  simp only [tailCvt, toNat_cat, BitVec.toNat_ofNat]
  omega
@[simp] theorem tailCvt_pack (x : Conv) (p : Nat) : fld (tailCvt x p) 16 2 = BitVec.ofNat 2 p := by
  refine fld_eq ?_
  simp only [tailCvt, toNat_cat, BitVec.toNat_ofNat]
  omega
@[simp] theorem tailCvt_z (x : Conv) (p : Nat) : fld (tailCvt x p) 0 16 = 0#16 := by
  refine fld_eq ?_
  simp only [tailCvt, toNat_cat, BitVec.toNat_ofNat]
  omega

/-! ### tailLdo -/

@[simp] theorem tailLdo_scope (x : LOrdered) (o : BitVec 2) (g : Bool) : fld (tailLdo x o g) 29 3 = x.scope := by
  refine fld_eq ?_
  simp only [tailLdo, toNat_cat, BitVec.toNat_ofNat]
  omega
@[simp] theorem tailLdo_o (x : LOrdered) (o : BitVec 2) (g : Bool) : fld (tailLdo x o g) 27 2 = o := by
  refine fld_eq ?_
  simp only [tailLdo, toNat_cat, BitVec.toNat_ofNat]
  omega
@[simp] theorem tailLdo_w (x : LOrdered) (o : BitVec 2) (g : Bool) : fld (tailLdo x o g) 24 3 = x.w.code := by
  refine fld_eq ?_
  simp only [tailLdo, toNat_cat, BitVec.toNat_ofNat]
  omega
@[simp] theorem tailLdo_g (x : LOrdered) (o : BitVec 2) (g : Bool) : bit (tailLdo x o g) 23 = g := by
  refine bit_eq (fld_eq ?_)
  simp only [tailLdo, toNat_cat, BitVec.toNat_ofNat]
  omega
@[simp] theorem tailLdo_sb (x : LOrdered) (o : BitVec 2) (g : Bool) : fld (tailLdo x o g) 17 6 = x.sb := by
  refine fld_eq ?_
  simp only [tailLdo, toNat_cat, BitVec.toNat_ofNat]
  omega
@[simp] theorem tailLdo_z (x : LOrdered) (o : BitVec 2) (g : Bool) : fld (tailLdo x o g) 0 17 = 0#17 := by
  refine fld_eq ?_
  simp only [tailLdo, toNat_cat, BitVec.toNat_ofNat]
  omega

/-! ### addiWord -/

@[simp] theorem addiWord_set (s : Bool) (d a : BitVec 7) (n : BitVec 10) : bit ((top false s 0x0A ++ d ++ a ++ n : Word)) 31 = false := by
  refine bit_eq (fld_eq ?_)
  simp only [top, toNat_cat, BitVec.toNat_ofNat, ofB_false]
  omega
@[simp] theorem addiWord_settle (s : Bool) (d a : BitVec 7) (n : BitVec 10) : bit ((top false s 0x0A ++ d ++ a ++ n : Word)) 30 = s := by
  refine bit_eq (fld_eq ?_)
  simp only [top, toNat_cat, BitVec.toNat_ofNat, ofB_false]
  omega
@[simp] theorem addiWord_major (s : Bool) (d a : BitVec 7) (n : BitVec 10) : fld ((top false s 0x0A ++ d ++ a ++ n : Word)) 24 6 = 0x0A#6 := by
  refine fld_eq ?_
  simp only [top, toNat_cat, BitVec.toNat_ofNat]
  omega
@[simp] theorem addiWord_d (s : Bool) (d a : BitVec 7) (n : BitVec 10) : fld ((top false s 0x0A ++ d ++ a ++ n : Word)) 17 7 = d := by
  refine fld_eq ?_
  simp only [top, toNat_cat, BitVec.toNat_ofNat]
  omega
@[simp] theorem addiWord_a (s : Bool) (d a : BitVec 7) (n : BitVec 10) : fld ((top false s 0x0A ++ d ++ a ++ n : Word)) 10 7 = a := by
  refine fld_eq ?_
  simp only [top, toNat_cat, BitVec.toNat_ofNat]
  omega
@[simp] theorem addiWord_n (s : Bool) (d a : BitVec 7) (n : BitVec 10) : fld ((top false s 0x0A ++ d ++ a ++ n : Word)) 0 10 = n := by
  refine fld_eq ?_
  simp only [top, toNat_cat, BitVec.toNat_ofNat]
  omega

/-! ### moviWord -/

@[simp] theorem moviWord_set (s : Bool) (d : BitVec 7) (n : BitVec 17) : bit ((top false s 0x0D ++ d ++ n : Word)) 31 = false := by
  refine bit_eq (fld_eq ?_)
  simp only [top, toNat_cat, BitVec.toNat_ofNat, ofB_false]
  omega
@[simp] theorem moviWord_settle (s : Bool) (d : BitVec 7) (n : BitVec 17) : bit ((top false s 0x0D ++ d ++ n : Word)) 30 = s := by
  refine bit_eq (fld_eq ?_)
  simp only [top, toNat_cat, BitVec.toNat_ofNat, ofB_false]
  omega
@[simp] theorem moviWord_major (s : Bool) (d : BitVec 7) (n : BitVec 17) : fld ((top false s 0x0D ++ d ++ n : Word)) 24 6 = 0x0D#6 := by
  refine fld_eq ?_
  simp only [top, toNat_cat, BitVec.toNat_ofNat]
  omega
@[simp] theorem moviWord_d (s : Bool) (d : BitVec 7) (n : BitVec 17) : fld ((top false s 0x0D ++ d ++ n : Word)) 17 7 = d := by
  refine fld_eq ?_
  simp only [top, toNat_cat, BitVec.toNat_ofNat]
  omega
@[simp] theorem moviWord_n (s : Bool) (d : BitVec 7) (n : BitVec 17) : fld ((top false s 0x0D ++ d ++ n : Word)) 0 17 = n := by
  refine fld_eq ?_
  simp only [top, toNat_cat, BitVec.toNat_ofNat]
  omega

/-! ### movwWord -/

@[simp] theorem movwWord_set (s : Bool) (d : BitVec 7) : bit ((top false s 0x0E ++ d ++ 0#17 : Word)) 31 = false := by
  refine bit_eq (fld_eq ?_)
  simp only [top, toNat_cat, BitVec.toNat_ofNat, ofB_false]
  omega
@[simp] theorem movwWord_settle (s : Bool) (d : BitVec 7) : bit ((top false s 0x0E ++ d ++ 0#17 : Word)) 30 = s := by
  refine bit_eq (fld_eq ?_)
  simp only [top, toNat_cat, BitVec.toNat_ofNat, ofB_false]
  omega
@[simp] theorem movwWord_major (s : Bool) (d : BitVec 7) : fld ((top false s 0x0E ++ d ++ 0#17 : Word)) 24 6 = 0x0E#6 := by
  refine fld_eq ?_
  simp only [top, toNat_cat, BitVec.toNat_ofNat]
  omega
@[simp] theorem movwWord_d (s : Bool) (d : BitVec 7) : fld ((top false s 0x0E ++ d ++ 0#17 : Word)) 17 7 = d := by
  refine fld_eq ?_
  simp only [top, toNat_cat, BitVec.toNat_ofNat]
  omega
@[simp] theorem movwWord_n (s : Bool) (d : BitVec 7) : fld ((top false s 0x0E ++ d ++ 0#17 : Word)) 0 17 = 0#17 := by
  refine fld_eq ?_
  simp only [top, toNat_cat, BitVec.toNat_ofNat]
  omega

/-! ### lsrdWord -/

@[simp] theorem lsrdWord_set (s : Bool) (d : BitVec 7) (n : BitVec 10) : bit ((top false s 0x0F ++ d ++ 0#7 ++ n : Word)) 31 = false := by
  refine bit_eq (fld_eq ?_)
  simp only [top, toNat_cat, BitVec.toNat_ofNat, ofB_false]
  omega
@[simp] theorem lsrdWord_settle (s : Bool) (d : BitVec 7) (n : BitVec 10) : bit ((top false s 0x0F ++ d ++ 0#7 ++ n : Word)) 30 = s := by
  refine bit_eq (fld_eq ?_)
  simp only [top, toNat_cat, BitVec.toNat_ofNat, ofB_false]
  omega
@[simp] theorem lsrdWord_major (s : Bool) (d : BitVec 7) (n : BitVec 10) : fld ((top false s 0x0F ++ d ++ 0#7 ++ n : Word)) 24 6 = 0x0F#6 := by
  refine fld_eq ?_
  simp only [top, toNat_cat, BitVec.toNat_ofNat]
  omega
@[simp] theorem lsrdWord_d (s : Bool) (d : BitVec 7) (n : BitVec 10) : fld ((top false s 0x0F ++ d ++ 0#7 ++ n : Word)) 17 7 = d := by
  refine fld_eq ?_
  simp only [top, toNat_cat, BitVec.toNat_ofNat]
  omega
@[simp] theorem lsrdWord_a (s : Bool) (d : BitVec 7) (n : BitVec 10) : fld ((top false s 0x0F ++ d ++ 0#7 ++ n : Word)) 10 7 = 0#7 := by
  refine fld_eq ?_
  simp only [top, toNat_cat, BitVec.toNat_ofNat]
  omega
@[simp] theorem lsrdWord_n (s : Bool) (d : BitVec 7) (n : BitVec 10) : fld ((top false s 0x0F ++ d ++ 0#7 ++ n : Word)) 0 10 = n := by
  refine fld_eq ?_
  simp only [top, toNat_cat, BitVec.toNat_ofNat]
  omega

/-! ### seedWord -/

@[simp] theorem seedWord_set (s : Bool) (a : BitVec 7) (b : Src) : bit ((top false s 0x19 ++ 0#7 ++ a ++ b.enc ++ 0#2 : Word)) 31 = false := by
  refine bit_eq (fld_eq ?_)
  simp only [top, toNat_cat, BitVec.toNat_ofNat, ofB_false]
  omega
@[simp] theorem seedWord_settle (s : Bool) (a : BitVec 7) (b : Src) : bit ((top false s 0x19 ++ 0#7 ++ a ++ b.enc ++ 0#2 : Word)) 30 = s := by
  refine bit_eq (fld_eq ?_)
  simp only [top, toNat_cat, BitVec.toNat_ofNat, ofB_false]
  omega
@[simp] theorem seedWord_major (s : Bool) (a : BitVec 7) (b : Src) : fld ((top false s 0x19 ++ 0#7 ++ a ++ b.enc ++ 0#2 : Word)) 24 6 = 0x19#6 := by
  refine fld_eq ?_
  simp only [top, toNat_cat, BitVec.toNat_ofNat]
  omega
@[simp] theorem seedWord_d (s : Bool) (a : BitVec 7) (b : Src) : fld ((top false s 0x19 ++ 0#7 ++ a ++ b.enc ++ 0#2 : Word)) 17 7 = 0#7 := by
  refine fld_eq ?_
  simp only [top, toNat_cat, BitVec.toNat_ofNat]
  omega
@[simp] theorem seedWord_a (s : Bool) (a : BitVec 7) (b : Src) : fld ((top false s 0x19 ++ 0#7 ++ a ++ b.enc ++ 0#2 : Word)) 10 7 = a := by
  refine fld_eq ?_
  simp only [top, toNat_cat, BitVec.toNat_ofNat]
  omega
@[simp] theorem seedWord_fn (s : Bool) (a : BitVec 7) (b : Src) : fld ((top false s 0x19 ++ 0#7 ++ a ++ b.enc ++ 0#2 : Word)) 0 2 = 0#2 := by
  refine fld_eq ?_
  simp only [top, toNat_cat, BitVec.toNat_ofNat]
  omega
@[simp] theorem seedWord_src (s : Bool) (a : BitVec 7) (b : Src) : srcOf ((top false s 0x19 ++ 0#7 ++ a ++ b.enc ++ 0#2 : Word)) = some b := by
  have h : fld ((top false s 0x19 ++ 0#7 ++ a ++ b.enc ++ 0#2 : Word)) 2 8 = b.enc := by
    refine fld_eq ?_
    simp only [top, toNat_cat, BitVec.toNat_ofNat]
    omega
  exact srcOf_eq h

/-! ### randWord -/

@[simp] theorem randWord_set (s : Bool) (d : BitVec 7) : bit ((top false s 0x19 ++ d ++ 0#15 ++ 1#2 : Word)) 31 = false := by
  refine bit_eq (fld_eq ?_)
  simp only [top, toNat_cat, BitVec.toNat_ofNat, ofB_false]
  omega
@[simp] theorem randWord_settle (s : Bool) (d : BitVec 7) : bit ((top false s 0x19 ++ d ++ 0#15 ++ 1#2 : Word)) 30 = s := by
  refine bit_eq (fld_eq ?_)
  simp only [top, toNat_cat, BitVec.toNat_ofNat, ofB_false]
  omega
@[simp] theorem randWord_major (s : Bool) (d : BitVec 7) : fld ((top false s 0x19 ++ d ++ 0#15 ++ 1#2 : Word)) 24 6 = 0x19#6 := by
  refine fld_eq ?_
  simp only [top, toNat_cat, BitVec.toNat_ofNat]
  omega
@[simp] theorem randWord_d (s : Bool) (d : BitVec 7) : fld ((top false s 0x19 ++ d ++ 0#15 ++ 1#2 : Word)) 17 7 = d := by
  refine fld_eq ?_
  simp only [top, toNat_cat, BitVec.toNat_ofNat]
  omega
@[simp] theorem randWord_z (s : Bool) (d : BitVec 7) : fld ((top false s 0x19 ++ d ++ 0#15 ++ 1#2 : Word)) 2 15 = 0#15 := by
  refine fld_eq ?_
  simp only [top, toNat_cat, BitVec.toNat_ofNat]
  omega
@[simp] theorem randWord_fn (s : Bool) (d : BitVec 7) : fld ((top false s 0x19 ++ d ++ 0#15 ++ 1#2 : Word)) 0 2 = 1#2 := by
  refine fld_eq ?_
  simp only [top, toNat_cat, BitVec.toNat_ofNat]
  omega

/-! ### rdlaneWord -/

@[simp] theorem rdlaneWord_set (s : Bool) (d : BitVec 6) (a : BitVec 7) (b : Src) : bit ((top false s 0x27 ++ 0#1 ++ d ++ a ++ b.enc ++ 0#2 : Word)) 31 = false := by
  refine bit_eq (fld_eq ?_)
  simp only [top, toNat_cat, BitVec.toNat_ofNat, ofB_false]
  omega
@[simp] theorem rdlaneWord_settle (s : Bool) (d : BitVec 6) (a : BitVec 7) (b : Src) : bit ((top false s 0x27 ++ 0#1 ++ d ++ a ++ b.enc ++ 0#2 : Word)) 30 = s := by
  refine bit_eq (fld_eq ?_)
  simp only [top, toNat_cat, BitVec.toNat_ofNat, ofB_false]
  omega
@[simp] theorem rdlaneWord_major (s : Bool) (d : BitVec 6) (a : BitVec 7) (b : Src) : fld ((top false s 0x27 ++ 0#1 ++ d ++ a ++ b.enc ++ 0#2 : Word)) 24 6 = 0x27#6 := by
  refine fld_eq ?_
  simp only [top, toNat_cat, BitVec.toNat_ofNat]
  omega
@[simp] theorem rdlaneWord_z (s : Bool) (d : BitVec 6) (a : BitVec 7) (b : Src) : bit ((top false s 0x27 ++ 0#1 ++ d ++ a ++ b.enc ++ 0#2 : Word)) 23 = false := by
  refine bit_eq (fld_eq ?_)
  simp only [top, toNat_cat, BitVec.toNat_ofNat, ofB_false]
  omega
@[simp] theorem rdlaneWord_d (s : Bool) (d : BitVec 6) (a : BitVec 7) (b : Src) : fld ((top false s 0x27 ++ 0#1 ++ d ++ a ++ b.enc ++ 0#2 : Word)) 17 6 = d := by
  refine fld_eq ?_
  simp only [top, toNat_cat, BitVec.toNat_ofNat]
  omega
@[simp] theorem rdlaneWord_a (s : Bool) (d : BitVec 6) (a : BitVec 7) (b : Src) : fld ((top false s 0x27 ++ 0#1 ++ d ++ a ++ b.enc ++ 0#2 : Word)) 10 7 = a := by
  refine fld_eq ?_
  simp only [top, toNat_cat, BitVec.toNat_ofNat]
  omega
@[simp] theorem rdlaneWord_fn (s : Bool) (d : BitVec 6) (a : BitVec 7) (b : Src) : fld ((top false s 0x27 ++ 0#1 ++ d ++ a ++ b.enc ++ 0#2 : Word)) 0 2 = 0#2 := by
  refine fld_eq ?_
  simp only [top, toNat_cat, BitVec.toNat_ofNat]
  omega
@[simp] theorem rdlaneWord_src (s : Bool) (d : BitVec 6) (a : BitVec 7) (b : Src) : srcOf ((top false s 0x27 ++ 0#1 ++ d ++ a ++ b.enc ++ 0#2 : Word)) = some b := by
  have h : fld ((top false s 0x27 ++ 0#1 ++ d ++ a ++ b.enc ++ 0#2 : Word)) 2 8 = b.enc := by
    refine fld_eq ?_
    simp only [top, toNat_cat, BitVec.toNat_ofNat]
    omega
  exact srcOf_eq h

/-! ### firstlaneWord -/

@[simp] theorem firstlaneWord_set (s : Bool) (d : BitVec 6) (a : BitVec 7) : bit ((top false s 0x27 ++ 0#1 ++ d ++ a ++ 0#8 ++ 1#2 : Word)) 31 = false := by
  refine bit_eq (fld_eq ?_)
  simp only [top, toNat_cat, BitVec.toNat_ofNat, ofB_false]
  omega
@[simp] theorem firstlaneWord_settle (s : Bool) (d : BitVec 6) (a : BitVec 7) : bit ((top false s 0x27 ++ 0#1 ++ d ++ a ++ 0#8 ++ 1#2 : Word)) 30 = s := by
  refine bit_eq (fld_eq ?_)
  simp only [top, toNat_cat, BitVec.toNat_ofNat, ofB_false]
  omega
@[simp] theorem firstlaneWord_major (s : Bool) (d : BitVec 6) (a : BitVec 7) : fld ((top false s 0x27 ++ 0#1 ++ d ++ a ++ 0#8 ++ 1#2 : Word)) 24 6 = 0x27#6 := by
  refine fld_eq ?_
  simp only [top, toNat_cat, BitVec.toNat_ofNat]
  omega
@[simp] theorem firstlaneWord_z (s : Bool) (d : BitVec 6) (a : BitVec 7) : bit ((top false s 0x27 ++ 0#1 ++ d ++ a ++ 0#8 ++ 1#2 : Word)) 23 = false := by
  refine bit_eq (fld_eq ?_)
  simp only [top, toNat_cat, BitVec.toNat_ofNat, ofB_false]
  omega
@[simp] theorem firstlaneWord_d (s : Bool) (d : BitVec 6) (a : BitVec 7) : fld ((top false s 0x27 ++ 0#1 ++ d ++ a ++ 0#8 ++ 1#2 : Word)) 17 6 = d := by
  refine fld_eq ?_
  simp only [top, toNat_cat, BitVec.toNat_ofNat]
  omega
@[simp] theorem firstlaneWord_a (s : Bool) (d : BitVec 6) (a : BitVec 7) : fld ((top false s 0x27 ++ 0#1 ++ d ++ a ++ 0#8 ++ 1#2 : Word)) 10 7 = a := by
  refine fld_eq ?_
  simp only [top, toNat_cat, BitVec.toNat_ofNat]
  omega
@[simp] theorem firstlaneWord_b (s : Bool) (d : BitVec 6) (a : BitVec 7) : fld ((top false s 0x27 ++ 0#1 ++ d ++ a ++ 0#8 ++ 1#2 : Word)) 2 8 = 0#8 := by
  refine fld_eq ?_
  simp only [top, toNat_cat, BitVec.toNat_ofNat]
  omega
@[simp] theorem firstlaneWord_fn (s : Bool) (d : BitVec 6) (a : BitVec 7) : fld ((top false s 0x27 ++ 0#1 ++ d ++ a ++ 0#8 ++ 1#2 : Word)) 0 2 = 1#2 := by
  refine fld_eq ?_
  simp only [top, toNat_cat, BitVec.toNat_ofNat]
  omega

/-! ### cltLoadWord -/

@[simp] theorem cltLoadWord_set (s : Bool) (d a : BitVec 7) (t : Src) (x : Bool) : bit ((top false s 0x2B ++ d ++ a ++ cltSrc t ++ ofB x ++ 0#1 : Word)) 31 = false := by
  refine bit_eq (fld_eq ?_)
  simp only [top, toNat_cat, BitVec.toNat_ofNat, ofB_false]
  omega
@[simp] theorem cltLoadWord_settle (s : Bool) (d a : BitVec 7) (t : Src) (x : Bool) : bit ((top false s 0x2B ++ d ++ a ++ cltSrc t ++ ofB x ++ 0#1 : Word)) 30 = s := by
  refine bit_eq (fld_eq ?_)
  simp only [top, toNat_cat, BitVec.toNat_ofNat, ofB_false]
  omega
@[simp] theorem cltLoadWord_major (s : Bool) (d a : BitVec 7) (t : Src) (x : Bool) : fld ((top false s 0x2B ++ d ++ a ++ cltSrc t ++ ofB x ++ 0#1 : Word)) 24 6 = 0x2B#6 := by
  refine fld_eq ?_
  simp only [top, toNat_cat, BitVec.toNat_ofNat]
  omega
@[simp] theorem cltLoadWord_d (s : Bool) (d a : BitVec 7) (t : Src) (x : Bool) : fld ((top false s 0x2B ++ d ++ a ++ cltSrc t ++ ofB x ++ 0#1 : Word)) 17 7 = d := by
  refine fld_eq ?_
  simp only [top, toNat_cat, BitVec.toNat_ofNat]
  omega
@[simp] theorem cltLoadWord_a (s : Bool) (d a : BitVec 7) (t : Src) (x : Bool) : fld ((top false s 0x2B ++ d ++ a ++ cltSrc t ++ ofB x ++ 0#1 : Word)) 10 7 = a := by
  refine fld_eq ?_
  simp only [top, toNat_cat, BitVec.toNat_ofNat]
  omega
@[simp] theorem cltLoadWord_src (s : Bool) (d a : BitVec 7) (t : Src) (x : Bool) : srcOf ((top false s 0x2B ++ d ++ a ++ cltSrc t ++ ofB x ++ 0#1 : Word)) = some t := by
  have h : fld ((top false s 0x2B ++ d ++ a ++ cltSrc t ++ ofB x ++ 0#1 : Word)) 2 8 = t.enc := by
    refine fld_eq ?_
    cases t <;> simp only [top, cltSrc, Src.enc, toNat_cat, BitVec.toNat_ofNat] <;> omega
  exact srcOf_eq h

@[simp] theorem cltLoadWord_b1 (s : Bool) (d a : BitVec 7) (t : Src) (x : Bool) : bit ((top false s 0x2B ++ d ++ a ++ cltSrc t ++ ofB x ++ 0#1 : Word)) 1 = x := by
  refine bit_eq (fld_eq ?_)
  cases t <;> simp only [top, cltSrc, toNat_cat, BitVec.toNat_ofNat, ofB_false] <;> omega
@[simp] theorem cltLoadWord_b0 (s : Bool) (d a : BitVec 7) (t : Src) (x : Bool) : bit ((top false s 0x2B ++ d ++ a ++ cltSrc t ++ ofB x ++ 0#1 : Word)) 0 = false := by
  refine bit_eq (fld_eq ?_)
  cases t <;> simp only [top, cltSrc, toNat_cat, BitVec.toNat_ofNat, ofB_false] <;> omega

/-! ### cltStoreWord -/

@[simp] theorem cltStoreWord_set (s : Bool) (d a : BitVec 7) (t : Src) : bit ((top false s 0x2B ++ d ++ a ++ cltSrc t ++ 0#1 ++ 1#1 : Word)) 31 = false := by
  refine bit_eq (fld_eq ?_)
  simp only [top, toNat_cat, BitVec.toNat_ofNat, ofB_false]
  omega
@[simp] theorem cltStoreWord_settle (s : Bool) (d a : BitVec 7) (t : Src) : bit ((top false s 0x2B ++ d ++ a ++ cltSrc t ++ 0#1 ++ 1#1 : Word)) 30 = s := by
  refine bit_eq (fld_eq ?_)
  simp only [top, toNat_cat, BitVec.toNat_ofNat, ofB_false]
  omega
@[simp] theorem cltStoreWord_major (s : Bool) (d a : BitVec 7) (t : Src) : fld ((top false s 0x2B ++ d ++ a ++ cltSrc t ++ 0#1 ++ 1#1 : Word)) 24 6 = 0x2B#6 := by
  refine fld_eq ?_
  simp only [top, toNat_cat, BitVec.toNat_ofNat]
  omega
@[simp] theorem cltStoreWord_d (s : Bool) (d a : BitVec 7) (t : Src) : fld ((top false s 0x2B ++ d ++ a ++ cltSrc t ++ 0#1 ++ 1#1 : Word)) 17 7 = d := by
  refine fld_eq ?_
  simp only [top, toNat_cat, BitVec.toNat_ofNat]
  omega
@[simp] theorem cltStoreWord_a (s : Bool) (d a : BitVec 7) (t : Src) : fld ((top false s 0x2B ++ d ++ a ++ cltSrc t ++ 0#1 ++ 1#1 : Word)) 10 7 = a := by
  refine fld_eq ?_
  simp only [top, toNat_cat, BitVec.toNat_ofNat]
  omega
@[simp] theorem cltStoreWord_src (s : Bool) (d a : BitVec 7) (t : Src) : srcOf ((top false s 0x2B ++ d ++ a ++ cltSrc t ++ 0#1 ++ 1#1 : Word)) = some t := by
  have h : fld ((top false s 0x2B ++ d ++ a ++ cltSrc t ++ 0#1 ++ 1#1 : Word)) 2 8 = t.enc := by
    refine fld_eq ?_
    cases t <;> simp only [top, cltSrc, Src.enc, toNat_cat, BitVec.toNat_ofNat] <;> omega
  exact srcOf_eq h

@[simp] theorem cltStoreWord_b1 (s : Bool) (d a : BitVec 7) (t : Src) : bit ((top false s 0x2B ++ d ++ a ++ cltSrc t ++ 0#1 ++ 1#1 : Word)) 1 = false := by
  refine bit_eq (fld_eq ?_)
  cases t <;> simp only [top, cltSrc, toNat_cat, BitVec.toNat_ofNat, ofB_false] <;> omega
@[simp] theorem cltStoreWord_b0 (s : Bool) (d a : BitVec 7) (t : Src) : bit ((top false s 0x2B ++ d ++ a ++ cltSrc t ++ 0#1 ++ 1#1 : Word)) 0 = true := by
  refine bit_eq (fld_eq ?_)
  cases t <;> simp only [top, cltSrc, toNat_cat, BitVec.toNat_ofNat, ofB_true] <;> omega

/-! ### smoviWord -/

@[simp] theorem smoviWord_set (s : Bool) (d : BitVec 6) (n : BitVec 18) : bit ((top true s 0x08 ++ d ++ n : Word)) 31 = true := by
  refine bit_eq (fld_eq ?_)
  simp only [top, toNat_cat, BitVec.toNat_ofNat]
  omega
@[simp] theorem smoviWord_settle (s : Bool) (d : BitVec 6) (n : BitVec 18) : bit ((top true s 0x08 ++ d ++ n : Word)) 30 = s := by
  refine bit_eq (fld_eq ?_)
  simp only [top, toNat_cat, BitVec.toNat_ofNat]
  omega
@[simp] theorem smoviWord_major (s : Bool) (d : BitVec 6) (n : BitVec 18) : fld ((top true s 0x08 ++ d ++ n : Word)) 24 6 = 0x08#6 := by
  refine fld_eq ?_
  simp only [top, toNat_cat, BitVec.toNat_ofNat]
  omega
@[simp] theorem smoviWord_d (s : Bool) (d : BitVec 6) (n : BitVec 18) : fld ((top true s 0x08 ++ d ++ n : Word)) 18 6 = d := by
  refine fld_eq ?_
  simp only [top, toNat_cat, BitVec.toNat_ofNat]
  omega
@[simp] theorem smoviWord_n (s : Bool) (d : BitVec 6) (n : BitVec 18) : fld ((top true s 0x08 ++ d ++ n : Word)) 0 18 = n := by
  refine fld_eq ?_
  simp only [top, toNat_cat, BitVec.toNat_ofNat]
  omega

/-! ### smovwWord -/

@[simp] theorem smovwWord_set (s : Bool) (d : BitVec 6) : bit ((top true s 0x09 ++ d ++ 0#18 : Word)) 31 = true := by
  refine bit_eq (fld_eq ?_)
  simp only [top, toNat_cat, BitVec.toNat_ofNat]
  omega
@[simp] theorem smovwWord_settle (s : Bool) (d : BitVec 6) : bit ((top true s 0x09 ++ d ++ 0#18 : Word)) 30 = s := by
  refine bit_eq (fld_eq ?_)
  simp only [top, toNat_cat, BitVec.toNat_ofNat]
  omega
@[simp] theorem smovwWord_major (s : Bool) (d : BitVec 6) : fld ((top true s 0x09 ++ d ++ 0#18 : Word)) 24 6 = 0x09#6 := by
  refine fld_eq ?_
  simp only [top, toNat_cat, BitVec.toNat_ofNat]
  omega
@[simp] theorem smovwWord_d (s : Bool) (d : BitVec 6) : fld ((top true s 0x09 ++ d ++ 0#18 : Word)) 18 6 = d := by
  refine fld_eq ?_
  simp only [top, toNat_cat, BitVec.toNat_ofNat]
  omega
@[simp] theorem smovwWord_n (s : Bool) (d : BitVec 6) : fld ((top true s 0x09 ++ d ++ 0#18 : Word)) 0 18 = 0#18 := by
  refine fld_eq ?_
  simp only [top, toNat_cat, BitVec.toNat_ofNat]
  omega

/-! ### srdWord -/

@[simp] theorem srdWord_set (s : Bool) (d : BitVec 6) (n : BitVec 12) : bit ((top true s 0x14 ++ d ++ 0#6 ++ n : Word)) 31 = true := by
  refine bit_eq (fld_eq ?_)
  simp only [top, toNat_cat, BitVec.toNat_ofNat]
  omega
@[simp] theorem srdWord_settle (s : Bool) (d : BitVec 6) (n : BitVec 12) : bit ((top true s 0x14 ++ d ++ 0#6 ++ n : Word)) 30 = s := by
  refine bit_eq (fld_eq ?_)
  simp only [top, toNat_cat, BitVec.toNat_ofNat]
  omega
@[simp] theorem srdWord_major (s : Bool) (d : BitVec 6) (n : BitVec 12) : fld ((top true s 0x14 ++ d ++ 0#6 ++ n : Word)) 24 6 = 0x14#6 := by
  refine fld_eq ?_
  simp only [top, toNat_cat, BitVec.toNat_ofNat]
  omega
@[simp] theorem srdWord_d (s : Bool) (d : BitVec 6) (n : BitVec 12) : fld ((top true s 0x14 ++ d ++ 0#6 ++ n : Word)) 18 6 = d := by
  refine fld_eq ?_
  simp only [top, toNat_cat, BitVec.toNat_ofNat]
  omega
@[simp] theorem srdWord_a (s : Bool) (d : BitVec 6) (n : BitVec 12) : fld ((top true s 0x14 ++ d ++ 0#6 ++ n : Word)) 12 6 = 0#6 := by
  refine fld_eq ?_
  simp only [top, toNat_cat, BitVec.toNat_ofNat]
  omega
@[simp] theorem srdWord_n (s : Bool) (d : BitVec 6) (n : BitVec 12) : fld ((top true s 0x14 ++ d ++ 0#6 ++ n : Word)) 0 12 = n := by
  refine fld_eq ?_
  simp only [top, toNat_cat, BitVec.toNat_ofNat]
  omega

/-! ### swrWord -/

@[simp] theorem swrWord_set (s : Bool) (a : BitVec 6) (n : BitVec 12) : bit ((top true s 0x15 ++ 0#6 ++ a ++ n : Word)) 31 = true := by
  refine bit_eq (fld_eq ?_)
  simp only [top, toNat_cat, BitVec.toNat_ofNat]
  omega
@[simp] theorem swrWord_settle (s : Bool) (a : BitVec 6) (n : BitVec 12) : bit ((top true s 0x15 ++ 0#6 ++ a ++ n : Word)) 30 = s := by
  refine bit_eq (fld_eq ?_)
  simp only [top, toNat_cat, BitVec.toNat_ofNat]
  omega
@[simp] theorem swrWord_major (s : Bool) (a : BitVec 6) (n : BitVec 12) : fld ((top true s 0x15 ++ 0#6 ++ a ++ n : Word)) 24 6 = 0x15#6 := by
  refine fld_eq ?_
  simp only [top, toNat_cat, BitVec.toNat_ofNat]
  omega
@[simp] theorem swrWord_d (s : Bool) (a : BitVec 6) (n : BitVec 12) : fld ((top true s 0x15 ++ 0#6 ++ a ++ n : Word)) 18 6 = 0#6 := by
  refine fld_eq ?_
  simp only [top, toNat_cat, BitVec.toNat_ofNat]
  omega
@[simp] theorem swrWord_a (s : Bool) (a : BitVec 6) (n : BitVec 12) : fld ((top true s 0x15 ++ 0#6 ++ a ++ n : Word)) 12 6 = a := by
  refine fld_eq ?_
  simp only [top, toNat_cat, BitVec.toNat_ofNat]
  omega
@[simp] theorem swrWord_n (s : Bool) (a : BitVec 6) (n : BitVec 12) : fld ((top true s 0x15 ++ 0#6 ++ a ++ n : Word)) 0 12 = n := by
  refine fld_eq ?_
  simp only [top, toNat_cat, BitVec.toNat_ofNat]
  omega

/-! ### fenceWord -/

@[simp] theorem fenceWord_set (s : Bool) (n : BitVec 3) : bit ((top true s 0x19 ++ 0#21 ++ n : Word)) 31 = true := by
  refine bit_eq (fld_eq ?_)
  simp only [top, toNat_cat, BitVec.toNat_ofNat]
  omega
@[simp] theorem fenceWord_settle (s : Bool) (n : BitVec 3) : bit ((top true s 0x19 ++ 0#21 ++ n : Word)) 30 = s := by
  refine bit_eq (fld_eq ?_)
  simp only [top, toNat_cat, BitVec.toNat_ofNat]
  omega
@[simp] theorem fenceWord_major (s : Bool) (n : BitVec 3) : fld ((top true s 0x19 ++ 0#21 ++ n : Word)) 24 6 = 0x19#6 := by
  refine fld_eq ?_
  simp only [top, toNat_cat, BitVec.toNat_ofNat]
  omega
@[simp] theorem fenceWord_z (s : Bool) (n : BitVec 3) : fld ((top true s 0x19 ++ 0#21 ++ n : Word)) 3 21 = 0#21 := by
  refine fld_eq ?_
  simp only [top, toNat_cat, BitVec.toNat_ofNat]
  omega
@[simp] theorem fenceWord_n (s : Bool) (n : BitVec 3) : fld ((top true s 0x19 ++ 0#21 ++ n : Word)) 0 3 = n := by
  refine fld_eq ?_
  simp only [top, toNat_cat, BitVec.toNat_ofNat]
  omega

/-! ### trapWord -/

@[simp] theorem trapWord_set (s : Bool) (n : BitVec 8) : bit ((top true s 0x28 ++ 0#16 ++ n : Word)) 31 = true := by
  refine bit_eq (fld_eq ?_)
  simp only [top, toNat_cat, BitVec.toNat_ofNat]
  omega
@[simp] theorem trapWord_settle (s : Bool) (n : BitVec 8) : bit ((top true s 0x28 ++ 0#16 ++ n : Word)) 30 = s := by
  refine bit_eq (fld_eq ?_)
  simp only [top, toNat_cat, BitVec.toNat_ofNat]
  omega
@[simp] theorem trapWord_major (s : Bool) (n : BitVec 8) : fld ((top true s 0x28 ++ 0#16 ++ n : Word)) 24 6 = 0x28#6 := by
  refine fld_eq ?_
  simp only [top, toNat_cat, BitVec.toNat_ofNat]
  omega
@[simp] theorem trapWord_z (s : Bool) (n : BitVec 8) : fld ((top true s 0x28 ++ 0#16 ++ n : Word)) 8 16 = 0#16 := by
  refine fld_eq ?_
  simp only [top, toNat_cat, BitVec.toNat_ofNat]
  omega
@[simp] theorem trapWord_n (s : Bool) (n : BitVec 8) : fld ((top true s 0x28 ++ 0#16 ++ n : Word)) 0 8 = n := by
  refine fld_eq ?_
  simp only [top, toNat_cat, BitVec.toNat_ofNat]
  omega

/-! ### copyWord -/

@[simp] theorem copyWord_set (s : Bool) (d a b : BitVec 6) (k h : BitVec 3) : bit ((top true s 0x1C ++ d ++ a ++ b ++ k ++ h : Word)) 31 = true := by
  refine bit_eq (fld_eq ?_)
  simp only [top, toNat_cat, BitVec.toNat_ofNat]
  omega
@[simp] theorem copyWord_settle (s : Bool) (d a b : BitVec 6) (k h : BitVec 3) : bit ((top true s 0x1C ++ d ++ a ++ b ++ k ++ h : Word)) 30 = s := by
  refine bit_eq (fld_eq ?_)
  simp only [top, toNat_cat, BitVec.toNat_ofNat]
  omega
@[simp] theorem copyWord_major (s : Bool) (d a b : BitVec 6) (k h : BitVec 3) : fld ((top true s 0x1C ++ d ++ a ++ b ++ k ++ h : Word)) 24 6 = 0x1C#6 := by
  refine fld_eq ?_
  simp only [top, toNat_cat, BitVec.toNat_ofNat]
  omega
@[simp] theorem copyWord_d (s : Bool) (d a b : BitVec 6) (k h : BitVec 3) : fld ((top true s 0x1C ++ d ++ a ++ b ++ k ++ h : Word)) 18 6 = d := by
  refine fld_eq ?_
  simp only [top, toNat_cat, BitVec.toNat_ofNat]
  omega
@[simp] theorem copyWord_a (s : Bool) (d a b : BitVec 6) (k h : BitVec 3) : fld ((top true s 0x1C ++ d ++ a ++ b ++ k ++ h : Word)) 12 6 = a := by
  refine fld_eq ?_
  simp only [top, toNat_cat, BitVec.toNat_ofNat]
  omega
@[simp] theorem copyWord_b (s : Bool) (d a b : BitVec 6) (k h : BitVec 3) : fld ((top true s 0x1C ++ d ++ a ++ b ++ k ++ h : Word)) 6 6 = b := by
  refine fld_eq ?_
  simp only [top, toNat_cat, BitVec.toNat_ofNat]
  omega
@[simp] theorem copyWord_k (s : Bool) (d a b : BitVec 6) (k h : BitVec 3) : fld ((top true s 0x1C ++ d ++ a ++ b ++ k ++ h : Word)) 3 3 = k := by
  refine fld_eq ?_
  simp only [top, toNat_cat, BitVec.toNat_ofNat]
  omega
@[simp] theorem copyWord_h (s : Bool) (d a b : BitVec 6) (k h : BitVec 3) : fld ((top true s 0x1C ++ d ++ a ++ b ++ k ++ h : Word)) 0 3 = h := by
  refine fld_eq ?_
  simp only [top, toNat_cat, BitVec.toNat_ofNat]
  omega

/-! ### wloadWord -/

@[simp] theorem wloadWord_set (s : Bool) (a b : BitVec 6) (k : BitVec 2) : bit ((top true s 0x20 ++ 0#6 ++ a ++ b ++ 0#4 ++ k : Word)) 31 = true := by
  refine bit_eq (fld_eq ?_)
  simp only [top, toNat_cat, BitVec.toNat_ofNat]
  omega
@[simp] theorem wloadWord_settle (s : Bool) (a b : BitVec 6) (k : BitVec 2) : bit ((top true s 0x20 ++ 0#6 ++ a ++ b ++ 0#4 ++ k : Word)) 30 = s := by
  refine bit_eq (fld_eq ?_)
  simp only [top, toNat_cat, BitVec.toNat_ofNat]
  omega
@[simp] theorem wloadWord_major (s : Bool) (a b : BitVec 6) (k : BitVec 2) : fld ((top true s 0x20 ++ 0#6 ++ a ++ b ++ 0#4 ++ k : Word)) 24 6 = 0x20#6 := by
  refine fld_eq ?_
  simp only [top, toNat_cat, BitVec.toNat_ofNat]
  omega
@[simp] theorem wloadWord_d (s : Bool) (a b : BitVec 6) (k : BitVec 2) : fld ((top true s 0x20 ++ 0#6 ++ a ++ b ++ 0#4 ++ k : Word)) 18 6 = 0#6 := by
  refine fld_eq ?_
  simp only [top, toNat_cat, BitVec.toNat_ofNat]
  omega
@[simp] theorem wloadWord_a (s : Bool) (a b : BitVec 6) (k : BitVec 2) : fld ((top true s 0x20 ++ 0#6 ++ a ++ b ++ 0#4 ++ k : Word)) 12 6 = a := by
  refine fld_eq ?_
  simp only [top, toNat_cat, BitVec.toNat_ofNat]
  omega
@[simp] theorem wloadWord_b (s : Bool) (a b : BitVec 6) (k : BitVec 2) : fld ((top true s 0x20 ++ 0#6 ++ a ++ b ++ 0#4 ++ k : Word)) 6 6 = b := by
  refine fld_eq ?_
  simp only [top, toNat_cat, BitVec.toNat_ofNat]
  omega
@[simp] theorem wloadWord_z (s : Bool) (a b : BitVec 6) (k : BitVec 2) : fld ((top true s 0x20 ++ 0#6 ++ a ++ b ++ 0#4 ++ k : Word)) 2 4 = 0#4 := by
  refine fld_eq ?_
  simp only [top, toNat_cat, BitVec.toNat_ofNat]
  omega
@[simp] theorem wloadWord_k (s : Bool) (a b : BitVec 6) (k : BitVec 2) : fld ((top true s 0x20 ++ 0#6 ++ a ++ b ++ 0#4 ++ k : Word)) 0 2 = k := by
  refine fld_eq ?_
  simp only [top, toNat_cat, BitVec.toNat_ofNat]
  omega

/-! ### putWord -/

@[simp] theorem putWord_set (s : Bool) (d a b : BitVec 6) (g : Bool) : bit ((top true s 0x25 ++ d ++ a ++ b ++ 0#5 ++ ofB g : Word)) 31 = true := by
  refine bit_eq (fld_eq ?_)
  simp only [top, toNat_cat, BitVec.toNat_ofNat]
  omega
@[simp] theorem putWord_settle (s : Bool) (d a b : BitVec 6) (g : Bool) : bit ((top true s 0x25 ++ d ++ a ++ b ++ 0#5 ++ ofB g : Word)) 30 = s := by
  refine bit_eq (fld_eq ?_)
  simp only [top, toNat_cat, BitVec.toNat_ofNat]
  omega
@[simp] theorem putWord_major (s : Bool) (d a b : BitVec 6) (g : Bool) : fld ((top true s 0x25 ++ d ++ a ++ b ++ 0#5 ++ ofB g : Word)) 24 6 = 0x25#6 := by
  refine fld_eq ?_
  simp only [top, toNat_cat, BitVec.toNat_ofNat]
  omega
@[simp] theorem putWord_d (s : Bool) (d a b : BitVec 6) (g : Bool) : fld ((top true s 0x25 ++ d ++ a ++ b ++ 0#5 ++ ofB g : Word)) 18 6 = d := by
  refine fld_eq ?_
  simp only [top, toNat_cat, BitVec.toNat_ofNat]
  omega
@[simp] theorem putWord_a (s : Bool) (d a b : BitVec 6) (g : Bool) : fld ((top true s 0x25 ++ d ++ a ++ b ++ 0#5 ++ ofB g : Word)) 12 6 = a := by
  refine fld_eq ?_
  simp only [top, toNat_cat, BitVec.toNat_ofNat]
  omega
@[simp] theorem putWord_b (s : Bool) (d a b : BitVec 6) (g : Bool) : fld ((top true s 0x25 ++ d ++ a ++ b ++ 0#5 ++ ofB g : Word)) 6 6 = b := by
  refine fld_eq ?_
  simp only [top, toNat_cat, BitVec.toNat_ofNat]
  omega
@[simp] theorem putWord_z (s : Bool) (d a b : BitVec 6) (g : Bool) : fld ((top true s 0x25 ++ d ++ a ++ b ++ 0#5 ++ ofB g : Word)) 1 5 = 0#5 := by
  refine fld_eq ?_
  simp only [top, toNat_cat, BitVec.toNat_ofNat]
  omega
@[simp] theorem putWord_g (s : Bool) (d a b : BitVec 6) (g : Bool) : bit ((top true s 0x25 ++ d ++ a ++ b ++ 0#5 ++ ofB g : Word)) 0 = g := by
  refine bit_eq (fld_eq ?_)
  simp only [top, toNat_cat, BitVec.toNat_ofNat]
  omega

/-! ### Tails -/

@[simp] theorem tailReduce_o (o : BitVec 5) : fld ((o ++ 0#27 : Word)) 27 5 = o := by
  refine fld_eq ?_
  simp only [toNat_cat, BitVec.toNat_ofNat]
  omega
@[simp] theorem tailReduce_z (o : BitVec 5) : fld ((o ++ 0#27 : Word)) 0 27 = 0#27 := by
  refine fld_eq ?_
  simp only [toNat_cat, BitVec.toNat_ofNat]
  omega

@[simp] theorem tailScan_o (o : BitVec 5) (e : Bool) : fld ((o ++ ofB e ++ 0#26 : Word)) 27 5 = o := by
  refine fld_eq ?_
  simp only [toNat_cat, BitVec.toNat_ofNat]
  omega
@[simp] theorem tailScan_e (o : BitVec 5) (e : Bool) : bit ((o ++ ofB e ++ 0#26 : Word)) 26 = e := by
  refine bit_eq (fld_eq ?_)
  simp only [toNat_cat, BitVec.toNat_ofNat]
  omega
@[simp] theorem tailScan_z (o : BitVec 5) (e : Bool) : fld ((o ++ ofB e ++ 0#26 : Word)) 0 26 = 0#26 := by
  refine fld_eq ?_
  simp only [toNat_cat, BitVec.toNat_ofNat]
  omega

@[simp] theorem tailAtt_o (o : BitVec 5) (w : Bool) (c : BitVec 7) (b : BitVec 6) : fld ((o ++ 0#6 ++ ofB w ++ c ++ b ++ 0#7 : Word)) 27 5 = o := by
  refine fld_eq ?_
  simp only [toNat_cat, BitVec.toNat_ofNat]
  omega
@[simp] theorem tailAtt_z5 (o : BitVec 5) (w : Bool) (c : BitVec 7) (b : BitVec 6) : fld ((o ++ 0#6 ++ ofB w ++ c ++ b ++ 0#7 : Word)) 22 5 = 0#5 := by
  refine fld_eq ?_
  simp only [toNat_cat, BitVec.toNat_ofNat]
  omega
@[simp] theorem tailAtt_z1 (o : BitVec 5) (w : Bool) (c : BitVec 7) (b : BitVec 6) : bit ((o ++ 0#6 ++ ofB w ++ c ++ b ++ 0#7 : Word)) 21 = false := by
  refine bit_eq (fld_eq ?_)
  simp only [toNat_cat, BitVec.toNat_ofNat, ofB_false]
  omega
@[simp] theorem tailAtt_w (o : BitVec 5) (w : Bool) (c : BitVec 7) (b : BitVec 6) : bit ((o ++ 0#6 ++ ofB w ++ c ++ b ++ 0#7 : Word)) 20 = w := by
  refine bit_eq (fld_eq ?_)
  simp only [toNat_cat, BitVec.toNat_ofNat]
  omega
@[simp] theorem tailAtt_c (o : BitVec 5) (w : Bool) (c : BitVec 7) (b : BitVec 6) : fld ((o ++ 0#6 ++ ofB w ++ c ++ b ++ 0#7 : Word)) 13 7 = c := by
  refine fld_eq ?_
  simp only [toNat_cat, BitVec.toNat_ofNat]
  omega
@[simp] theorem tailAtt_b (o : BitVec 5) (w : Bool) (c : BitVec 7) (b : BitVec 6) : fld ((o ++ 0#6 ++ ofB w ++ c ++ b ++ 0#7 : Word)) 7 6 = b := by
  refine fld_eq ?_
  simp only [toNat_cat, BitVec.toNat_ofNat]
  omega
@[simp] theorem tailAtt_z (o : BitVec 5) (w : Bool) (c : BitVec 7) (b : BitVec 6) : fld ((o ++ 0#6 ++ ofB w ++ c ++ b ++ 0#7 : Word)) 0 7 = 0#7 := by
  refine fld_eq ?_
  simp only [toNat_cat, BitVec.toNat_ofNat]
  omega

@[simp] theorem tailCltLoad_w (w : BitVec 3) (q : Bool) (b : BitVec 6) : fld ((w ++ 0#1 ++ ofB q ++ b ++ 0#21 : Word)) 29 3 = w := by
  refine fld_eq ?_
  simp only [toNat_cat, BitVec.toNat_ofNat]
  omega
@[simp] theorem tailCltLoad_o (w : BitVec 3) (q : Bool) (b : BitVec 6) : fld ((w ++ 0#1 ++ ofB q ++ b ++ 0#21 : Word)) 27 2 = (0#1 ++ ofB q : BitVec 2) := by
  refine fld_eq ?_
  simp only [toNat_cat, BitVec.toNat_ofNat]
  omega
@[simp] theorem tailCltLoad_b (w : BitVec 3) (q : Bool) (b : BitVec 6) : fld ((w ++ 0#1 ++ ofB q ++ b ++ 0#21 : Word)) 21 6 = b := by
  refine fld_eq ?_
  simp only [toNat_cat, BitVec.toNat_ofNat]
  omega
@[simp] theorem tailCltLoad_z (w : BitVec 3) (q : Bool) (b : BitVec 6) : fld ((w ++ 0#1 ++ ofB q ++ b ++ 0#21 : Word)) 0 21 = 0#21 := by
  refine fld_eq ?_
  simp only [toNat_cat, BitVec.toNat_ofNat]
  omega

@[simp] theorem tailCltStore_w (w : BitVec 3) (q : Bool) (b : BitVec 6) : fld ((w ++ ofB q ++ 0#1 ++ b ++ 0#21 : Word)) 29 3 = w := by
  refine fld_eq ?_
  simp only [toNat_cat, BitVec.toNat_ofNat]
  omega
@[simp] theorem tailCltStore_o (w : BitVec 3) (q : Bool) (b : BitVec 6) : fld ((w ++ ofB q ++ 0#1 ++ b ++ 0#21 : Word)) 27 2 = (ofB q ++ 0#1 : BitVec 2) := by
  refine fld_eq ?_
  simp only [toNat_cat, BitVec.toNat_ofNat]
  omega
@[simp] theorem tailCltStore_b (w : BitVec 3) (q : Bool) (b : BitVec 6) : fld ((w ++ ofB q ++ 0#1 ++ b ++ 0#21 : Word)) 21 6 = b := by
  refine fld_eq ?_
  simp only [toNat_cat, BitVec.toNat_ofNat]
  omega
@[simp] theorem tailCltStore_z (w : BitVec 3) (q : Bool) (b : BitVec 6) : fld ((w ++ ofB q ++ 0#1 ++ b ++ 0#21 : Word)) 0 21 = 0#21 := by
  refine fld_eq ?_
  simp only [toNat_cat, BitVec.toNat_ofNat]
  omega

@[simp] theorem tailAtom_o (o : BitVec 5) (p : BitVec 3) (r : BitVec 2) (w : Bool) (c : BitVec 7) (b : BitVec 6) : fld ((o ++ p ++ r ++ 0#1 ++ ofB w ++ c ++ b ++ 0#7 : Word)) 27 5 = o := by
  refine fld_eq ?_
  simp only [toNat_cat, BitVec.toNat_ofNat]
  omega
@[simp] theorem tailAtom_p (o : BitVec 5) (p : BitVec 3) (r : BitVec 2) (w : Bool) (c : BitVec 7) (b : BitVec 6) : fld ((o ++ p ++ r ++ 0#1 ++ ofB w ++ c ++ b ++ 0#7 : Word)) 24 3 = p := by
  refine fld_eq ?_
  simp only [toNat_cat, BitVec.toNat_ofNat]
  omega
@[simp] theorem tailAtom_r (o : BitVec 5) (p : BitVec 3) (r : BitVec 2) (w : Bool) (c : BitVec 7) (b : BitVec 6) : fld ((o ++ p ++ r ++ 0#1 ++ ofB w ++ c ++ b ++ 0#7 : Word)) 22 2 = r := by
  refine fld_eq ?_
  simp only [toNat_cat, BitVec.toNat_ofNat]
  omega
@[simp] theorem tailAtom_z1 (o : BitVec 5) (p : BitVec 3) (r : BitVec 2) (w : Bool) (c : BitVec 7) (b : BitVec 6) : bit ((o ++ p ++ r ++ 0#1 ++ ofB w ++ c ++ b ++ 0#7 : Word)) 21 = false := by
  refine bit_eq (fld_eq ?_)
  simp only [toNat_cat, BitVec.toNat_ofNat, ofB_false]
  omega
@[simp] theorem tailAtom_w (o : BitVec 5) (p : BitVec 3) (r : BitVec 2) (w : Bool) (c : BitVec 7) (b : BitVec 6) : bit ((o ++ p ++ r ++ 0#1 ++ ofB w ++ c ++ b ++ 0#7 : Word)) 20 = w := by
  refine bit_eq (fld_eq ?_)
  simp only [toNat_cat, BitVec.toNat_ofNat]
  omega
@[simp] theorem tailAtom_c (o : BitVec 5) (p : BitVec 3) (r : BitVec 2) (w : Bool) (c : BitVec 7) (b : BitVec 6) : fld ((o ++ p ++ r ++ 0#1 ++ ofB w ++ c ++ b ++ 0#7 : Word)) 13 7 = c := by
  refine fld_eq ?_
  simp only [toNat_cat, BitVec.toNat_ofNat]
  omega
@[simp] theorem tailAtom_b (o : BitVec 5) (p : BitVec 3) (r : BitVec 2) (w : Bool) (c : BitVec 7) (b : BitVec 6) : fld ((o ++ p ++ r ++ 0#1 ++ ofB w ++ c ++ b ++ 0#7 : Word)) 7 6 = b := by
  refine fld_eq ?_
  simp only [toNat_cat, BitVec.toNat_ofNat]
  omega
@[simp] theorem tailAtom_z (o : BitVec 5) (p : BitVec 3) (r : BitVec 2) (w : Bool) (c : BitVec 7) (b : BitVec 6) : fld ((o ++ p ++ r ++ 0#1 ++ ofB w ++ c ++ b ++ 0#7 : Word)) 0 7 = 0#7 := by
  refine fld_eq ?_
  simp only [toNat_cat, BitVec.toNat_ofNat]
  omega

@[simp] theorem tailRed_o (o : BitVec 5) (p : BitVec 3) (r w : Bool) (b : BitVec 6) : fld ((o ++ p ++ ofB r ++ 0#1 ++ 0#1 ++ ofB w ++ 0#7 ++ b ++ 0#7 : Word)) 27 5 = o := by
  refine fld_eq ?_
  simp only [toNat_cat, BitVec.toNat_ofNat]
  omega
@[simp] theorem tailRed_p (o : BitVec 5) (p : BitVec 3) (r w : Bool) (b : BitVec 6) : fld ((o ++ p ++ ofB r ++ 0#1 ++ 0#1 ++ ofB w ++ 0#7 ++ b ++ 0#7 : Word)) 24 3 = p := by
  refine fld_eq ?_
  simp only [toNat_cat, BitVec.toNat_ofNat]
  omega
@[simp] theorem tailRed_r (o : BitVec 5) (p : BitVec 3) (r w : Bool) (b : BitVec 6) : bit ((o ++ p ++ ofB r ++ 0#1 ++ 0#1 ++ ofB w ++ 0#7 ++ b ++ 0#7 : Word)) 23 = r := by
  refine bit_eq (fld_eq ?_)
  simp only [toNat_cat, BitVec.toNat_ofNat]
  omega
@[simp] theorem tailRed_z2 (o : BitVec 5) (p : BitVec 3) (r w : Bool) (b : BitVec 6) : bit ((o ++ p ++ ofB r ++ 0#1 ++ 0#1 ++ ofB w ++ 0#7 ++ b ++ 0#7 : Word)) 22 = false := by
  refine bit_eq (fld_eq ?_)
  simp only [toNat_cat, BitVec.toNat_ofNat, ofB_false]
  omega
@[simp] theorem tailRed_z1 (o : BitVec 5) (p : BitVec 3) (r w : Bool) (b : BitVec 6) : bit ((o ++ p ++ ofB r ++ 0#1 ++ 0#1 ++ ofB w ++ 0#7 ++ b ++ 0#7 : Word)) 21 = false := by
  refine bit_eq (fld_eq ?_)
  simp only [toNat_cat, BitVec.toNat_ofNat, ofB_false]
  omega
@[simp] theorem tailRed_w (o : BitVec 5) (p : BitVec 3) (r w : Bool) (b : BitVec 6) : bit ((o ++ p ++ ofB r ++ 0#1 ++ 0#1 ++ ofB w ++ 0#7 ++ b ++ 0#7 : Word)) 20 = w := by
  refine bit_eq (fld_eq ?_)
  simp only [toNat_cat, BitVec.toNat_ofNat]
  omega
@[simp] theorem tailRed_c (o : BitVec 5) (p : BitVec 3) (r w : Bool) (b : BitVec 6) : fld ((o ++ p ++ ofB r ++ 0#1 ++ 0#1 ++ ofB w ++ 0#7 ++ b ++ 0#7 : Word)) 13 7 = 0#7 := by
  refine fld_eq ?_
  simp only [toNat_cat, BitVec.toNat_ofNat]
  omega
@[simp] theorem tailRed_b (o : BitVec 5) (p : BitVec 3) (r w : Bool) (b : BitVec 6) : fld ((o ++ p ++ ofB r ++ 0#1 ++ 0#1 ++ ofB w ++ 0#7 ++ b ++ 0#7 : Word)) 7 6 = b := by
  refine fld_eq ?_
  simp only [toNat_cat, BitVec.toNat_ofNat]
  omega
@[simp] theorem tailRed_z (o : BitVec 5) (p : BitVec 3) (r w : Bool) (b : BitVec 6) : fld ((o ++ p ++ ofB r ++ 0#1 ++ 0#1 ++ ofB w ++ 0#7 ++ b ++ 0#7 : Word)) 0 7 = 0#7 := by
  refine fld_eq ?_
  simp only [toNat_cat, BitVec.toNat_ofNat]
  omega

@[simp] theorem tailWait_o (o : BitVec 5) (p : BitVec 3) (k : BitVec 4) : fld ((o ++ p ++ k ++ 0#20 : Word)) 27 5 = o := by
  refine fld_eq ?_
  simp only [toNat_cat, BitVec.toNat_ofNat]
  omega
@[simp] theorem tailWait_p (o : BitVec 5) (p : BitVec 3) (k : BitVec 4) : fld ((o ++ p ++ k ++ 0#20 : Word)) 24 3 = p := by
  refine fld_eq ?_
  simp only [toNat_cat, BitVec.toNat_ofNat]
  omega
@[simp] theorem tailWait_k (o : BitVec 5) (p : BitVec 3) (k : BitVec 4) : fld ((o ++ p ++ k ++ 0#20 : Word)) 20 4 = k := by
  refine fld_eq ?_
  simp only [toNat_cat, BitVec.toNat_ofNat]
  omega
@[simp] theorem tailWait_z (o : BitVec 5) (p : BitVec 3) (k : BitVec 4) : fld ((o ++ p ++ k ++ 0#20 : Word)) 0 20 = 0#20 := by
  refine fld_eq ?_
  simp only [toNat_cat, BitVec.toNat_ofNat]
  omega

@[simp] theorem tailMma_o (o : BitVec 5) (p : BitVec 3) : fld ((o ++ p ++ 0#24 : Word)) 27 5 = o := by
  refine fld_eq ?_
  simp only [toNat_cat, BitVec.toNat_ofNat]
  omega
@[simp] theorem tailMma_p (o : BitVec 5) (p : BitVec 3) : fld ((o ++ p ++ 0#24 : Word)) 24 3 = p := by
  refine fld_eq ?_
  simp only [toNat_cat, BitVec.toNat_ofNat]
  omega
@[simp] theorem tailMma_z (o : BitVec 5) (p : BitVec 3) : fld ((o ++ p ++ 0#24 : Word)) 0 24 = 0#24 := by
  refine fld_eq ?_
  simp only [toNat_cat, BitVec.toNat_ofNat]
  omega

@[simp] theorem tailPost_n (n : BitVec 6) (l : BitVec 3) (t w : Bool) : fld ((n ++ l ++ 0#4 ++ ofB t ++ ofB w ++ 0#17 : Word)) 26 6 = n := by
  refine fld_eq ?_
  simp only [toNat_cat, BitVec.toNat_ofNat]
  omega
@[simp] theorem tailPost_l (n : BitVec 6) (l : BitVec 3) (t w : Bool) : fld ((n ++ l ++ 0#4 ++ ofB t ++ ofB w ++ 0#17 : Word)) 23 3 = l := by
  refine fld_eq ?_
  simp only [toNat_cat, BitVec.toNat_ofNat]
  omega
@[simp] theorem tailPost_z4 (n : BitVec 6) (l : BitVec 3) (t w : Bool) : fld ((n ++ l ++ 0#4 ++ ofB t ++ ofB w ++ 0#17 : Word)) 19 4 = 0#4 := by
  refine fld_eq ?_
  simp only [toNat_cat, BitVec.toNat_ofNat]
  omega
@[simp] theorem tailPost_t (n : BitVec 6) (l : BitVec 3) (t w : Bool) : bit ((n ++ l ++ 0#4 ++ ofB t ++ ofB w ++ 0#17 : Word)) 18 = t := by
  refine bit_eq (fld_eq ?_)
  simp only [toNat_cat, BitVec.toNat_ofNat]
  omega
@[simp] theorem tailPost_w (n : BitVec 6) (l : BitVec 3) (t w : Bool) : bit ((n ++ l ++ 0#4 ++ ofB t ++ ofB w ++ 0#17 : Word)) 17 = w := by
  refine bit_eq (fld_eq ?_)
  simp only [toNat_cat, BitVec.toNat_ofNat]
  omega
@[simp] theorem tailPost_z (n : BitVec 6) (l : BitVec 3) (t w : Bool) : fld ((n ++ l ++ 0#4 ++ ofB t ++ ofB w ++ 0#17 : Word)) 0 17 = 0#17 := by
  refine fld_eq ?_
  simp only [toNat_cat, BitVec.toNat_ofNat]
  omega

@[simp] theorem tailCopy_c (c : BitVec 6) : fld ((c ++ 0#26 : Word)) 26 6 = c := by
  refine fld_eq ?_
  simp only [toNat_cat, BitVec.toNat_ofNat]
  omega
@[simp] theorem tailCopy_z (c : BitVec 6) : fld ((c ++ 0#26 : Word)) 0 26 = 0#26 := by
  refine fld_eq ?_
  simp only [toNat_cat, BitVec.toNat_ofNat]
  omega

@[simp] theorem tailWload_o (o : BitVec 5) (g : BitVec 2) : fld ((o ++ g ++ 0#25 : Word)) 27 5 = o := by
  refine fld_eq ?_
  simp only [toNat_cat, BitVec.toNat_ofNat]
  omega
@[simp] theorem tailWload_g (o : BitVec 5) (g : BitVec 2) : fld ((o ++ g ++ 0#25 : Word)) 25 2 = g := by
  refine fld_eq ?_
  simp only [toNat_cat, BitVec.toNat_ofNat]
  omega
@[simp] theorem tailWload_z (o : BitVec 5) (g : BitVec 2) : fld ((o ++ g ++ 0#25 : Word)) 0 25 = 0#25 := by
  refine fld_eq ?_
  simp only [toNat_cat, BitVec.toNat_ofNat]
  omega

@[simp] theorem tailPut_n (n : Bool) : bit ((ofB n ++ 0#31 : Word)) 31 = n := by
  refine bit_eq (fld_eq ?_)
  simp only [toNat_cat, BitVec.toNat_ofNat]
  omega
@[simp] theorem tailPut_z (n : Bool) : fld ((ofB n ++ 0#31 : Word)) 0 31 = 0#31 := by
  refine fld_eq ?_
  simp only [toNat_cat, BitVec.toNat_ofNat]
  omega

/-! ### Runs of zero fields, and small pieces -/

@[simp] theorem encLX_z10 (M : Nat) (s : Bool) (d a : BitVec 7) : fld (encLX M s d a 0#7 0#3) 0 10 = 0#10 := by
  refine fld_eq ?_
  simp only [encLX, top, toNat_cat, BitVec.toNat_ofNat]
  omega
@[simp] theorem encLX_z9 (M : Nat) (s : Bool) (d a : BitVec 7) : fld (encLX M s d a 0#7 0#3) 1 9 = 0#9 := by
  refine fld_eq ?_
  simp only [encLX, top, toNat_cat, BitVec.toNat_ofNat]
  omega
@[simp] theorem encLX_z9' (M : Nat) (s : Bool) (d a : BitVec 7) : fld (encLX M s d a 0#7 1#3) 1 9 = 0#9 := by
  refine fld_eq ?_
  simp only [encLX, top, toNat_cat, BitVec.toNat_ofNat]
  omega
@[simp] theorem encU0_z24 (M : Nat) (s : Bool) : fld (encU0 M 0 s) 0 24 = 0#24 := by
  refine fld_eq ?_
  simp only [encU0, top, toNat_cat, BitVec.toNat_ofNat]
  omega
@[simp] theorem encUU_z12 (M F : Nat) (s : Bool) (d : BitVec 6) : fld (encUU M F ⟨s, d, 0#6⟩) 6 12 = 0#12 := by
  refine fld_eq ?_
  simp only [encUU, top, toNat_cat, BitVec.toNat_ofNat]
  omega
@[simp] theorem encZ_z12 (F : Nat) (s : Bool) (z : BitVec 3) : fld (encZ F s z 0#6) 6 12 = 0#12 := by
  refine fld_eq ?_
  simp only [encZ, top, toNat_cat, BitVec.toNat_ofNat]
  omega
@[simp] theorem copyWord_b5 (s : Bool) (d a b : BitVec 6) (k : CopyDir) (h : BitVec 3) :
    bit (top true s 0x1C ++ d ++ a ++ b ++ k.code ++ h : Word) 5 = false := by
  refine bit_eq (fld_eq ?_)
  have hk : k.code.toNat < 4 := by cases k <;> decide
  simp only [top, toNat_cat, BitVec.toNat_ofNat, ofB_false]
  omega
theorem srcOk_of {w : Word} {b : Src} (h : srcOf w = some b) : bit w 2 = false ∨ bit w 9 = false := by
  unfold srcOf at h
  cases h2 : bit w 2 <;> cases h9 : bit w 9 <;> simp_all
@[simp] theorem cltLoadWord_ok (s : Bool) (d a : BitVec 7) (t : Src) (x : Bool) :
    (!bit (top false s 0x2B ++ d ++ a ++ cltSrc t ++ ofB x ++ 0#1 : Word) 2
      || !bit (top false s 0x2B ++ d ++ a ++ cltSrc t ++ ofB x ++ 0#1 : Word) 9) = true := by
  rcases srcOk_of (cltLoadWord_src s d a t x) with h | h <;> simp only [h, Bool.not_false, Bool.true_or, Bool.or_true]
@[simp] theorem cltStoreWord_ok (s : Bool) (d a : BitVec 7) (t : Src) :
    (!bit (top false s 0x2B ++ d ++ a ++ cltSrc t ++ 0#1 ++ 1#1 : Word) 2
      || !bit (top false s 0x2B ++ d ++ a ++ cltSrc t ++ 0#1 ++ 1#1 : Word) 9) = true := by
  rcases srcOk_of (cltStoreWord_src s d a t) with h | h <;> simp only [h, Bool.not_false, Bool.true_or, Bool.or_true]
@[simp] theorem retFx_hi (r : Bool) : BitVec.extractLsb' 1 2 (0#2 ++ ofB r : BitVec 3) = 0#2 := by cases r <;> rfl
@[simp] theorem retFx_lo (r : Bool) : (BitVec.extractLsb' 0 1 (0#2 ++ ofB r : BitVec 3) == 1#1) = r := by cases r <;> rfl
@[simp] theorem mmaFx_acc (a r : Bool) : (BitVec.extractLsb' 2 1 (ofB a ++ ofB r ++ 0#1 : BitVec 3) == 1#1) = a := by
  cases a <;> cases r <;> rfl
@[simp] theorem mmaFx_reuse (a r : Bool) : (BitVec.extractLsb' 1 1 (ofB a ++ ofB r ++ 0#1 : BitVec 3) == 1#1) = r := by
  cases a <;> cases r <;> rfl
@[simp] theorem mmaFx_z (a r : Bool) : (BitVec.extractLsb' 0 1 (ofB a ++ ofB r ++ 0#1 : BitVec 3) == 1#1) = false := by
  cases a <;> cases r <;> rfl
@[simp] theorem mmaTile_hi (z : BitVec 3) : BitVec.extractLsb' 3 4 (0#4 ++ z : BitVec 7) = 0#4 := by revert z; decide
@[simp] theorem mmaTile_lo (z : BitVec 3) : BitVec.extractLsb' 0 3 (0#4 ++ z : BitVec 7) = z := by revert z; decide
theorem loBit_eq (q : Bool) : (0#1 ++ ofB q : BitVec 2) = if q then 1#2 else 0#2 := by cases q <;> rfl
theorem hiBit_eq (q : Bool) : (ofB q ++ 0#1 : BitVec 2) = if q then 2#2 else 0#2 := by cases q <;> rfl

/-! ### Codes come back -/

@[simp] theorem MemW.ofCode_code (m : MemW) : MemW.ofCode m.code = some m := by cases m <;> rfl
@[simp] theorem Fmt.ofCode_code (f : Fmt) : Fmt.ofCode (BitVec.ofNat 5 f.code) = some f := by cases f <;> rfl
@[simp] theorem Rnd.ofCode_code (r : Rnd) : Rnd.ofCode r.code = some r := by cases r <;> rfl
@[simp] theorem RedOp.ofCode_code (o : RedOp) : RedOp.ofCode o.code = some o := by cases o <;> rfl
@[simp] theorem AtomOp.ofCode_code (o : AtomOp) : AtomOp.ofCode o.code = some o := by cases o <;> rfl
@[simp] theorem WaitCond.ofCode_code (c : WaitCond) : WaitCond.ofCode c.code = some c := by cases c <;> rfl
@[simp] theorem Order.ofCode_code (o : Order) : Order.ofCode o.code = o := by cases o <;> rfl
@[simp] theorem CopyDir.ofCode_code (d : CopyDir) : CopyDir.ofCode d.code = some d := by cases d <;> rfl

end Sys2Proof
end

