-- ==== Sys2Proof/Laws/State.lean ====
section
/-! SUPPORT. Which fields of the state each named update leaves alone: one lemma per field and update. -/

namespace Sys2Proof.Machine

/-! ### State.adjTeam -/

@[simp] theorem State.adjTeam_build (s : State) (id : Nat) (f : Team → Team) :
    (s.adjTeam id f).build = s.build := rfl
@[simp] theorem State.adjTeam_clock (s : State) (id : Nat) (f : Team → Team) :
    (s.adjTeam id f).clock = s.clock := rfl
@[simp] theorem State.adjTeam_actor (s : State) (id : Nat) (f : Team → Team) :
    (s.adjTeam id f).actor = s.actor := rfl
@[simp] theorem State.adjTeam_moves (s : State) (id : Nat) (f : Team → Team) :
    (s.adjTeam id f).moves = s.moves := rfl
@[simp] theorem State.adjTeam_free (s : State) (id : Nat) (f : Team → Team) :
    (s.adjTeam id f).free = s.free := rfl
@[simp] theorem State.adjTeam_fresh (s : State) (id : Nat) (f : Team → Team) :
    (s.adjTeam id f).fresh = s.fresh := rfl
@[simp] theorem State.adjTeam_mem (s : State) (id : Nat) (f : Team → Team) :
    (s.adjTeam id f).mem = s.mem := rfl
@[simp] theorem State.adjTeam_badMem (s : State) (id : Nat) (f : Team → Team) :
    (s.adjTeam id f).badMem = s.badMem := rfl
@[simp] theorem State.adjTeam_codeLog (s : State) (id : Nat) (f : Team → Team) :
    (s.adjTeam id f).codeLog = s.codeLog := rfl
@[simp] theorem State.adjTeam_ridge (s : State) (id : Nat) (f : Team → Team) :
    (s.adjTeam id f).ridge = s.ridge := rfl
@[simp] theorem State.adjTeam_cores (s : State) (id : Nat) (f : Team → Team) :
    (s.adjTeam id f).cores = s.cores := rfl
@[simp] theorem State.adjTeam_dir (s : State) (id : Nat) (f : Team → Team) :
    (s.adjTeam id f).dir = s.dir := rfl
@[simp] theorem State.adjTeam_waits (s : State) (id : Nat) (f : Team → Team) :
    (s.adjTeam id f).waits = s.waits := rfl
@[simp] theorem State.adjTeam_insts (s : State) (id : Nat) (f : Team → Team) :
    (s.adjTeam id f).insts = s.insts := rfl
@[simp] theorem State.adjTeam_faults (s : State) (id : Nat) (f : Team → Team) :
    (s.adjTeam id f).faults = s.faults := rfl
@[simp] theorem State.adjTeam_copies (s : State) (id : Nat) (f : Team → Team) :
    (s.adjTeam id f).copies = s.copies := rfl
@[simp] theorem State.adjTeam_subHomes (s : State) (id : Nat) (f : Team → Team) :
    (s.adjTeam id f).subHomes = s.subHomes := rfl
@[simp] theorem State.adjTeam_deliveries (s : State) (id : Nat) (f : Team → Team) :
    (s.adjTeam id f).deliveries = s.deliveries := rfl
@[simp] theorem State.adjTeam_fabric (s : State) (id : Nat) (f : Team → Team) :
    (s.adjTeam id f).fabric = s.fabric := rfl
@[simp] theorem State.adjTeam_harts (s : State) (id : Nat) (f : Team → Team) :
    (s.adjTeam id f).harts = s.harts := rfl
@[simp] theorem State.adjTeam_xfers (s : State) (id : Nat) (f : Team → Team) :
    (s.adjTeam id f).xfers = s.xfers := rfl
@[simp] theorem State.adjTeam_queues (s : State) (id : Nat) (f : Team → Team) :
    (s.adjTeam id f).queues = s.queues := rfl
@[simp] theorem State.adjTeam_lode (s : State) (id : Nat) (f : Team → Team) :
    (s.adjTeam id f).lode = s.lode := rfl
@[simp] theorem State.adjTeam_trn (s : State) (id : Nat) (f : Team → Team) :
    (s.adjTeam id f).trn = s.trn := rfl
@[simp] theorem State.adjTeam_regions (s : State) (id : Nat) (f : Team → Team) :
    (s.adjTeam id f).regions = s.regions := rfl
@[simp] theorem State.adjTeam_vifs (s : State) (id : Nat) (f : Team → Team) :
    (s.adjTeam id f).vifs = s.vifs := rfl
@[simp] theorem State.adjTeam_mgt (s : State) (id : Nat) (f : Team → Team) :
    (s.adjTeam id f).mgt = s.mgt := rfl

/-! ### State.adjGroup -/

@[simp] theorem State.adjGroup_build (s : State) (r : GRef) (f : Group → Group) :
    (s.adjGroup r f).build = s.build := rfl
@[simp] theorem State.adjGroup_clock (s : State) (r : GRef) (f : Group → Group) :
    (s.adjGroup r f).clock = s.clock := rfl
@[simp] theorem State.adjGroup_actor (s : State) (r : GRef) (f : Group → Group) :
    (s.adjGroup r f).actor = s.actor := rfl
@[simp] theorem State.adjGroup_moves (s : State) (r : GRef) (f : Group → Group) :
    (s.adjGroup r f).moves = s.moves := rfl
@[simp] theorem State.adjGroup_free (s : State) (r : GRef) (f : Group → Group) :
    (s.adjGroup r f).free = s.free := rfl
@[simp] theorem State.adjGroup_fresh (s : State) (r : GRef) (f : Group → Group) :
    (s.adjGroup r f).fresh = s.fresh := rfl
@[simp] theorem State.adjGroup_mem (s : State) (r : GRef) (f : Group → Group) :
    (s.adjGroup r f).mem = s.mem := rfl
@[simp] theorem State.adjGroup_badMem (s : State) (r : GRef) (f : Group → Group) :
    (s.adjGroup r f).badMem = s.badMem := rfl
@[simp] theorem State.adjGroup_codeLog (s : State) (r : GRef) (f : Group → Group) :
    (s.adjGroup r f).codeLog = s.codeLog := rfl
@[simp] theorem State.adjGroup_ridge (s : State) (r : GRef) (f : Group → Group) :
    (s.adjGroup r f).ridge = s.ridge := rfl
@[simp] theorem State.adjGroup_cores (s : State) (r : GRef) (f : Group → Group) :
    (s.adjGroup r f).cores = s.cores := rfl
@[simp] theorem State.adjGroup_dir (s : State) (r : GRef) (f : Group → Group) :
    (s.adjGroup r f).dir = s.dir := rfl
@[simp] theorem State.adjGroup_waits (s : State) (r : GRef) (f : Group → Group) :
    (s.adjGroup r f).waits = s.waits := rfl
@[simp] theorem State.adjGroup_insts (s : State) (r : GRef) (f : Group → Group) :
    (s.adjGroup r f).insts = s.insts := rfl
@[simp] theorem State.adjGroup_faults (s : State) (r : GRef) (f : Group → Group) :
    (s.adjGroup r f).faults = s.faults := rfl
@[simp] theorem State.adjGroup_copies (s : State) (r : GRef) (f : Group → Group) :
    (s.adjGroup r f).copies = s.copies := rfl
@[simp] theorem State.adjGroup_subHomes (s : State) (r : GRef) (f : Group → Group) :
    (s.adjGroup r f).subHomes = s.subHomes := rfl
@[simp] theorem State.adjGroup_deliveries (s : State) (r : GRef) (f : Group → Group) :
    (s.adjGroup r f).deliveries = s.deliveries := rfl
@[simp] theorem State.adjGroup_fabric (s : State) (r : GRef) (f : Group → Group) :
    (s.adjGroup r f).fabric = s.fabric := rfl
@[simp] theorem State.adjGroup_harts (s : State) (r : GRef) (f : Group → Group) :
    (s.adjGroup r f).harts = s.harts := rfl
@[simp] theorem State.adjGroup_xfers (s : State) (r : GRef) (f : Group → Group) :
    (s.adjGroup r f).xfers = s.xfers := rfl
@[simp] theorem State.adjGroup_queues (s : State) (r : GRef) (f : Group → Group) :
    (s.adjGroup r f).queues = s.queues := rfl
@[simp] theorem State.adjGroup_lode (s : State) (r : GRef) (f : Group → Group) :
    (s.adjGroup r f).lode = s.lode := rfl
@[simp] theorem State.adjGroup_trn (s : State) (r : GRef) (f : Group → Group) :
    (s.adjGroup r f).trn = s.trn := rfl
@[simp] theorem State.adjGroup_regions (s : State) (r : GRef) (f : Group → Group) :
    (s.adjGroup r f).regions = s.regions := rfl
@[simp] theorem State.adjGroup_vifs (s : State) (r : GRef) (f : Group → Group) :
    (s.adjGroup r f).vifs = s.vifs := rfl
@[simp] theorem State.adjGroup_mgt (s : State) (r : GRef) (f : Group → Group) :
    (s.adjGroup r f).mgt = s.mgt := rfl

/-! ### State.adjLane -/

@[simp] theorem State.adjLane_build (s : State) (r : GRef) (L : Nat) (f : Lane → Lane) :
    (s.adjLane r L f).build = s.build := rfl
@[simp] theorem State.adjLane_clock (s : State) (r : GRef) (L : Nat) (f : Lane → Lane) :
    (s.adjLane r L f).clock = s.clock := rfl
@[simp] theorem State.adjLane_actor (s : State) (r : GRef) (L : Nat) (f : Lane → Lane) :
    (s.adjLane r L f).actor = s.actor := rfl
@[simp] theorem State.adjLane_moves (s : State) (r : GRef) (L : Nat) (f : Lane → Lane) :
    (s.adjLane r L f).moves = s.moves := rfl
@[simp] theorem State.adjLane_free (s : State) (r : GRef) (L : Nat) (f : Lane → Lane) :
    (s.adjLane r L f).free = s.free := rfl
@[simp] theorem State.adjLane_fresh (s : State) (r : GRef) (L : Nat) (f : Lane → Lane) :
    (s.adjLane r L f).fresh = s.fresh := rfl
@[simp] theorem State.adjLane_mem (s : State) (r : GRef) (L : Nat) (f : Lane → Lane) :
    (s.adjLane r L f).mem = s.mem := rfl
@[simp] theorem State.adjLane_badMem (s : State) (r : GRef) (L : Nat) (f : Lane → Lane) :
    (s.adjLane r L f).badMem = s.badMem := rfl
@[simp] theorem State.adjLane_codeLog (s : State) (r : GRef) (L : Nat) (f : Lane → Lane) :
    (s.adjLane r L f).codeLog = s.codeLog := rfl
@[simp] theorem State.adjLane_ridge (s : State) (r : GRef) (L : Nat) (f : Lane → Lane) :
    (s.adjLane r L f).ridge = s.ridge := rfl
@[simp] theorem State.adjLane_cores (s : State) (r : GRef) (L : Nat) (f : Lane → Lane) :
    (s.adjLane r L f).cores = s.cores := rfl
@[simp] theorem State.adjLane_dir (s : State) (r : GRef) (L : Nat) (f : Lane → Lane) :
    (s.adjLane r L f).dir = s.dir := rfl
@[simp] theorem State.adjLane_waits (s : State) (r : GRef) (L : Nat) (f : Lane → Lane) :
    (s.adjLane r L f).waits = s.waits := rfl
@[simp] theorem State.adjLane_insts (s : State) (r : GRef) (L : Nat) (f : Lane → Lane) :
    (s.adjLane r L f).insts = s.insts := rfl
@[simp] theorem State.adjLane_faults (s : State) (r : GRef) (L : Nat) (f : Lane → Lane) :
    (s.adjLane r L f).faults = s.faults := rfl
@[simp] theorem State.adjLane_copies (s : State) (r : GRef) (L : Nat) (f : Lane → Lane) :
    (s.adjLane r L f).copies = s.copies := rfl
@[simp] theorem State.adjLane_subHomes (s : State) (r : GRef) (L : Nat) (f : Lane → Lane) :
    (s.adjLane r L f).subHomes = s.subHomes := rfl
@[simp] theorem State.adjLane_deliveries (s : State) (r : GRef) (L : Nat) (f : Lane → Lane) :
    (s.adjLane r L f).deliveries = s.deliveries := rfl
@[simp] theorem State.adjLane_fabric (s : State) (r : GRef) (L : Nat) (f : Lane → Lane) :
    (s.adjLane r L f).fabric = s.fabric := rfl
@[simp] theorem State.adjLane_harts (s : State) (r : GRef) (L : Nat) (f : Lane → Lane) :
    (s.adjLane r L f).harts = s.harts := rfl
@[simp] theorem State.adjLane_xfers (s : State) (r : GRef) (L : Nat) (f : Lane → Lane) :
    (s.adjLane r L f).xfers = s.xfers := rfl
@[simp] theorem State.adjLane_queues (s : State) (r : GRef) (L : Nat) (f : Lane → Lane) :
    (s.adjLane r L f).queues = s.queues := rfl
@[simp] theorem State.adjLane_lode (s : State) (r : GRef) (L : Nat) (f : Lane → Lane) :
    (s.adjLane r L f).lode = s.lode := rfl
@[simp] theorem State.adjLane_trn (s : State) (r : GRef) (L : Nat) (f : Lane → Lane) :
    (s.adjLane r L f).trn = s.trn := rfl
@[simp] theorem State.adjLane_regions (s : State) (r : GRef) (L : Nat) (f : Lane → Lane) :
    (s.adjLane r L f).regions = s.regions := rfl
@[simp] theorem State.adjLane_vifs (s : State) (r : GRef) (L : Nat) (f : Lane → Lane) :
    (s.adjLane r L f).vifs = s.vifs := rfl
@[simp] theorem State.adjLane_mgt (s : State) (r : GRef) (L : Nat) (f : Lane → Lane) :
    (s.adjLane r L f).mgt = s.mgt := rfl

/-! ### State.adjCore -/

@[simp] theorem State.adjCore_build (s : State) (c : Nat) (f : Core → Core) :
    (s.adjCore c f).build = s.build := rfl
@[simp] theorem State.adjCore_clock (s : State) (c : Nat) (f : Core → Core) :
    (s.adjCore c f).clock = s.clock := rfl
@[simp] theorem State.adjCore_actor (s : State) (c : Nat) (f : Core → Core) :
    (s.adjCore c f).actor = s.actor := rfl
@[simp] theorem State.adjCore_moves (s : State) (c : Nat) (f : Core → Core) :
    (s.adjCore c f).moves = s.moves := rfl
@[simp] theorem State.adjCore_free (s : State) (c : Nat) (f : Core → Core) :
    (s.adjCore c f).free = s.free := rfl
@[simp] theorem State.adjCore_fresh (s : State) (c : Nat) (f : Core → Core) :
    (s.adjCore c f).fresh = s.fresh := rfl
@[simp] theorem State.adjCore_mem (s : State) (c : Nat) (f : Core → Core) :
    (s.adjCore c f).mem = s.mem := rfl
@[simp] theorem State.adjCore_badMem (s : State) (c : Nat) (f : Core → Core) :
    (s.adjCore c f).badMem = s.badMem := rfl
@[simp] theorem State.adjCore_codeLog (s : State) (c : Nat) (f : Core → Core) :
    (s.adjCore c f).codeLog = s.codeLog := rfl
@[simp] theorem State.adjCore_ridge (s : State) (c : Nat) (f : Core → Core) :
    (s.adjCore c f).ridge = s.ridge := rfl
@[simp] theorem State.adjCore_dir (s : State) (c : Nat) (f : Core → Core) :
    (s.adjCore c f).dir = s.dir := rfl
@[simp] theorem State.adjCore_waits (s : State) (c : Nat) (f : Core → Core) :
    (s.adjCore c f).waits = s.waits := rfl
@[simp] theorem State.adjCore_teams (s : State) (c : Nat) (f : Core → Core) :
    (s.adjCore c f).teams = s.teams := rfl
@[simp] theorem State.adjCore_insts (s : State) (c : Nat) (f : Core → Core) :
    (s.adjCore c f).insts = s.insts := rfl
@[simp] theorem State.adjCore_faults (s : State) (c : Nat) (f : Core → Core) :
    (s.adjCore c f).faults = s.faults := rfl
@[simp] theorem State.adjCore_copies (s : State) (c : Nat) (f : Core → Core) :
    (s.adjCore c f).copies = s.copies := rfl
@[simp] theorem State.adjCore_subHomes (s : State) (c : Nat) (f : Core → Core) :
    (s.adjCore c f).subHomes = s.subHomes := rfl
@[simp] theorem State.adjCore_deliveries (s : State) (c : Nat) (f : Core → Core) :
    (s.adjCore c f).deliveries = s.deliveries := rfl
@[simp] theorem State.adjCore_fabric (s : State) (c : Nat) (f : Core → Core) :
    (s.adjCore c f).fabric = s.fabric := rfl
@[simp] theorem State.adjCore_harts (s : State) (c : Nat) (f : Core → Core) :
    (s.adjCore c f).harts = s.harts := rfl
@[simp] theorem State.adjCore_xfers (s : State) (c : Nat) (f : Core → Core) :
    (s.adjCore c f).xfers = s.xfers := rfl
@[simp] theorem State.adjCore_queues (s : State) (c : Nat) (f : Core → Core) :
    (s.adjCore c f).queues = s.queues := rfl
@[simp] theorem State.adjCore_lode (s : State) (c : Nat) (f : Core → Core) :
    (s.adjCore c f).lode = s.lode := rfl
@[simp] theorem State.adjCore_trn (s : State) (c : Nat) (f : Core → Core) :
    (s.adjCore c f).trn = s.trn := rfl
@[simp] theorem State.adjCore_regions (s : State) (c : Nat) (f : Core → Core) :
    (s.adjCore c f).regions = s.regions := rfl
@[simp] theorem State.adjCore_vifs (s : State) (c : Nat) (f : Core → Core) :
    (s.adjCore c f).vifs = s.vifs := rfl
@[simp] theorem State.adjCore_mgt (s : State) (c : Nat) (f : Core → Core) :
    (s.adjCore c f).mgt = s.mgt := rfl

/-! ### State.mapCores -/

@[simp] theorem State.mapCores_build (s : State) (f : Nat → Core → Core) :
    (s.mapCores f).build = s.build := rfl
@[simp] theorem State.mapCores_clock (s : State) (f : Nat → Core → Core) :
    (s.mapCores f).clock = s.clock := rfl
@[simp] theorem State.mapCores_actor (s : State) (f : Nat → Core → Core) :
    (s.mapCores f).actor = s.actor := rfl
@[simp] theorem State.mapCores_moves (s : State) (f : Nat → Core → Core) :
    (s.mapCores f).moves = s.moves := rfl
@[simp] theorem State.mapCores_free (s : State) (f : Nat → Core → Core) :
    (s.mapCores f).free = s.free := rfl
@[simp] theorem State.mapCores_fresh (s : State) (f : Nat → Core → Core) :
    (s.mapCores f).fresh = s.fresh := rfl
@[simp] theorem State.mapCores_mem (s : State) (f : Nat → Core → Core) :
    (s.mapCores f).mem = s.mem := rfl
@[simp] theorem State.mapCores_badMem (s : State) (f : Nat → Core → Core) :
    (s.mapCores f).badMem = s.badMem := rfl
@[simp] theorem State.mapCores_codeLog (s : State) (f : Nat → Core → Core) :
    (s.mapCores f).codeLog = s.codeLog := rfl
@[simp] theorem State.mapCores_ridge (s : State) (f : Nat → Core → Core) :
    (s.mapCores f).ridge = s.ridge := rfl
@[simp] theorem State.mapCores_dir (s : State) (f : Nat → Core → Core) :
    (s.mapCores f).dir = s.dir := rfl
@[simp] theorem State.mapCores_waits (s : State) (f : Nat → Core → Core) :
    (s.mapCores f).waits = s.waits := rfl
@[simp] theorem State.mapCores_teams (s : State) (f : Nat → Core → Core) :
    (s.mapCores f).teams = s.teams := rfl
@[simp] theorem State.mapCores_insts (s : State) (f : Nat → Core → Core) :
    (s.mapCores f).insts = s.insts := rfl
@[simp] theorem State.mapCores_faults (s : State) (f : Nat → Core → Core) :
    (s.mapCores f).faults = s.faults := rfl
@[simp] theorem State.mapCores_copies (s : State) (f : Nat → Core → Core) :
    (s.mapCores f).copies = s.copies := rfl
@[simp] theorem State.mapCores_subHomes (s : State) (f : Nat → Core → Core) :
    (s.mapCores f).subHomes = s.subHomes := rfl
@[simp] theorem State.mapCores_deliveries (s : State) (f : Nat → Core → Core) :
    (s.mapCores f).deliveries = s.deliveries := rfl
@[simp] theorem State.mapCores_fabric (s : State) (f : Nat → Core → Core) :
    (s.mapCores f).fabric = s.fabric := rfl
@[simp] theorem State.mapCores_harts (s : State) (f : Nat → Core → Core) :
    (s.mapCores f).harts = s.harts := rfl
@[simp] theorem State.mapCores_xfers (s : State) (f : Nat → Core → Core) :
    (s.mapCores f).xfers = s.xfers := rfl
@[simp] theorem State.mapCores_queues (s : State) (f : Nat → Core → Core) :
    (s.mapCores f).queues = s.queues := rfl
@[simp] theorem State.mapCores_lode (s : State) (f : Nat → Core → Core) :
    (s.mapCores f).lode = s.lode := rfl
@[simp] theorem State.mapCores_trn (s : State) (f : Nat → Core → Core) :
    (s.mapCores f).trn = s.trn := rfl
@[simp] theorem State.mapCores_regions (s : State) (f : Nat → Core → Core) :
    (s.mapCores f).regions = s.regions := rfl
@[simp] theorem State.mapCores_vifs (s : State) (f : Nat → Core → Core) :
    (s.mapCores f).vifs = s.vifs := rfl
@[simp] theorem State.mapCores_mgt (s : State) (f : Nat → Core → Core) :
    (s.mapCores f).mgt = s.mgt := rfl

/-! ### State.adjInst -/

@[simp] theorem State.adjInst_build (s : State) (id : Nat) (f : Inst → Inst) :
    (s.adjInst id f).build = s.build := rfl
@[simp] theorem State.adjInst_clock (s : State) (id : Nat) (f : Inst → Inst) :
    (s.adjInst id f).clock = s.clock := rfl
@[simp] theorem State.adjInst_actor (s : State) (id : Nat) (f : Inst → Inst) :
    (s.adjInst id f).actor = s.actor := rfl
@[simp] theorem State.adjInst_moves (s : State) (id : Nat) (f : Inst → Inst) :
    (s.adjInst id f).moves = s.moves := rfl
@[simp] theorem State.adjInst_free (s : State) (id : Nat) (f : Inst → Inst) :
    (s.adjInst id f).free = s.free := rfl
@[simp] theorem State.adjInst_fresh (s : State) (id : Nat) (f : Inst → Inst) :
    (s.adjInst id f).fresh = s.fresh := rfl
@[simp] theorem State.adjInst_mem (s : State) (id : Nat) (f : Inst → Inst) :
    (s.adjInst id f).mem = s.mem := rfl
@[simp] theorem State.adjInst_badMem (s : State) (id : Nat) (f : Inst → Inst) :
    (s.adjInst id f).badMem = s.badMem := rfl
@[simp] theorem State.adjInst_codeLog (s : State) (id : Nat) (f : Inst → Inst) :
    (s.adjInst id f).codeLog = s.codeLog := rfl
@[simp] theorem State.adjInst_ridge (s : State) (id : Nat) (f : Inst → Inst) :
    (s.adjInst id f).ridge = s.ridge := rfl
@[simp] theorem State.adjInst_cores (s : State) (id : Nat) (f : Inst → Inst) :
    (s.adjInst id f).cores = s.cores := rfl
@[simp] theorem State.adjInst_dir (s : State) (id : Nat) (f : Inst → Inst) :
    (s.adjInst id f).dir = s.dir := rfl
@[simp] theorem State.adjInst_waits (s : State) (id : Nat) (f : Inst → Inst) :
    (s.adjInst id f).waits = s.waits := rfl
@[simp] theorem State.adjInst_teams (s : State) (id : Nat) (f : Inst → Inst) :
    (s.adjInst id f).teams = s.teams := rfl
@[simp] theorem State.adjInst_faults (s : State) (id : Nat) (f : Inst → Inst) :
    (s.adjInst id f).faults = s.faults := rfl
@[simp] theorem State.adjInst_copies (s : State) (id : Nat) (f : Inst → Inst) :
    (s.adjInst id f).copies = s.copies := rfl
@[simp] theorem State.adjInst_subHomes (s : State) (id : Nat) (f : Inst → Inst) :
    (s.adjInst id f).subHomes = s.subHomes := rfl
@[simp] theorem State.adjInst_deliveries (s : State) (id : Nat) (f : Inst → Inst) :
    (s.adjInst id f).deliveries = s.deliveries := rfl
@[simp] theorem State.adjInst_fabric (s : State) (id : Nat) (f : Inst → Inst) :
    (s.adjInst id f).fabric = s.fabric := rfl
@[simp] theorem State.adjInst_harts (s : State) (id : Nat) (f : Inst → Inst) :
    (s.adjInst id f).harts = s.harts := rfl
@[simp] theorem State.adjInst_xfers (s : State) (id : Nat) (f : Inst → Inst) :
    (s.adjInst id f).xfers = s.xfers := rfl
@[simp] theorem State.adjInst_queues (s : State) (id : Nat) (f : Inst → Inst) :
    (s.adjInst id f).queues = s.queues := rfl
@[simp] theorem State.adjInst_lode (s : State) (id : Nat) (f : Inst → Inst) :
    (s.adjInst id f).lode = s.lode := rfl
@[simp] theorem State.adjInst_trn (s : State) (id : Nat) (f : Inst → Inst) :
    (s.adjInst id f).trn = s.trn := rfl
@[simp] theorem State.adjInst_regions (s : State) (id : Nat) (f : Inst → Inst) :
    (s.adjInst id f).regions = s.regions := rfl
@[simp] theorem State.adjInst_vifs (s : State) (id : Nat) (f : Inst → Inst) :
    (s.adjInst id f).vifs = s.vifs := rfl
@[simp] theorem State.adjInst_mgt (s : State) (id : Nat) (f : Inst → Inst) :
    (s.adjInst id f).mgt = s.mgt := rfl

/-! ### State.adjFq -/

@[simp] theorem State.adjFq_build (s : State) (k : Nat) (f : FQueue → FQueue) :
    (s.adjFq k f).build = s.build := rfl
@[simp] theorem State.adjFq_clock (s : State) (k : Nat) (f : FQueue → FQueue) :
    (s.adjFq k f).clock = s.clock := rfl
@[simp] theorem State.adjFq_actor (s : State) (k : Nat) (f : FQueue → FQueue) :
    (s.adjFq k f).actor = s.actor := rfl
@[simp] theorem State.adjFq_moves (s : State) (k : Nat) (f : FQueue → FQueue) :
    (s.adjFq k f).moves = s.moves := rfl
@[simp] theorem State.adjFq_free (s : State) (k : Nat) (f : FQueue → FQueue) :
    (s.adjFq k f).free = s.free := rfl
@[simp] theorem State.adjFq_fresh (s : State) (k : Nat) (f : FQueue → FQueue) :
    (s.adjFq k f).fresh = s.fresh := rfl
@[simp] theorem State.adjFq_mem (s : State) (k : Nat) (f : FQueue → FQueue) :
    (s.adjFq k f).mem = s.mem := rfl
@[simp] theorem State.adjFq_badMem (s : State) (k : Nat) (f : FQueue → FQueue) :
    (s.adjFq k f).badMem = s.badMem := rfl
@[simp] theorem State.adjFq_codeLog (s : State) (k : Nat) (f : FQueue → FQueue) :
    (s.adjFq k f).codeLog = s.codeLog := rfl
@[simp] theorem State.adjFq_ridge (s : State) (k : Nat) (f : FQueue → FQueue) :
    (s.adjFq k f).ridge = s.ridge := rfl
@[simp] theorem State.adjFq_cores (s : State) (k : Nat) (f : FQueue → FQueue) :
    (s.adjFq k f).cores = s.cores := rfl
@[simp] theorem State.adjFq_dir (s : State) (k : Nat) (f : FQueue → FQueue) :
    (s.adjFq k f).dir = s.dir := rfl
@[simp] theorem State.adjFq_waits (s : State) (k : Nat) (f : FQueue → FQueue) :
    (s.adjFq k f).waits = s.waits := rfl
@[simp] theorem State.adjFq_teams (s : State) (k : Nat) (f : FQueue → FQueue) :
    (s.adjFq k f).teams = s.teams := rfl
@[simp] theorem State.adjFq_insts (s : State) (k : Nat) (f : FQueue → FQueue) :
    (s.adjFq k f).insts = s.insts := rfl
@[simp] theorem State.adjFq_copies (s : State) (k : Nat) (f : FQueue → FQueue) :
    (s.adjFq k f).copies = s.copies := rfl
@[simp] theorem State.adjFq_subHomes (s : State) (k : Nat) (f : FQueue → FQueue) :
    (s.adjFq k f).subHomes = s.subHomes := rfl
@[simp] theorem State.adjFq_deliveries (s : State) (k : Nat) (f : FQueue → FQueue) :
    (s.adjFq k f).deliveries = s.deliveries := rfl
@[simp] theorem State.adjFq_fabric (s : State) (k : Nat) (f : FQueue → FQueue) :
    (s.adjFq k f).fabric = s.fabric := rfl
@[simp] theorem State.adjFq_harts (s : State) (k : Nat) (f : FQueue → FQueue) :
    (s.adjFq k f).harts = s.harts := rfl
@[simp] theorem State.adjFq_xfers (s : State) (k : Nat) (f : FQueue → FQueue) :
    (s.adjFq k f).xfers = s.xfers := rfl
@[simp] theorem State.adjFq_queues (s : State) (k : Nat) (f : FQueue → FQueue) :
    (s.adjFq k f).queues = s.queues := rfl
@[simp] theorem State.adjFq_lode (s : State) (k : Nat) (f : FQueue → FQueue) :
    (s.adjFq k f).lode = s.lode := rfl
@[simp] theorem State.adjFq_trn (s : State) (k : Nat) (f : FQueue → FQueue) :
    (s.adjFq k f).trn = s.trn := rfl
@[simp] theorem State.adjFq_regions (s : State) (k : Nat) (f : FQueue → FQueue) :
    (s.adjFq k f).regions = s.regions := rfl
@[simp] theorem State.adjFq_vifs (s : State) (k : Nat) (f : FQueue → FQueue) :
    (s.adjFq k f).vifs = s.vifs := rfl
@[simp] theorem State.adjFq_mgt (s : State) (k : Nat) (f : FQueue → FQueue) :
    (s.adjFq k f).mgt = s.mgt := rfl

/-! ### State.adjServed -/

@[simp] theorem State.adjServed_build (s : State) (h k : Nat) (f : Served → Served) :
    (s.adjServed h k f).build = s.build := rfl
@[simp] theorem State.adjServed_clock (s : State) (h k : Nat) (f : Served → Served) :
    (s.adjServed h k f).clock = s.clock := rfl
@[simp] theorem State.adjServed_actor (s : State) (h k : Nat) (f : Served → Served) :
    (s.adjServed h k f).actor = s.actor := rfl
@[simp] theorem State.adjServed_moves (s : State) (h k : Nat) (f : Served → Served) :
    (s.adjServed h k f).moves = s.moves := rfl
@[simp] theorem State.adjServed_free (s : State) (h k : Nat) (f : Served → Served) :
    (s.adjServed h k f).free = s.free := rfl
@[simp] theorem State.adjServed_fresh (s : State) (h k : Nat) (f : Served → Served) :
    (s.adjServed h k f).fresh = s.fresh := rfl
@[simp] theorem State.adjServed_mem (s : State) (h k : Nat) (f : Served → Served) :
    (s.adjServed h k f).mem = s.mem := rfl
@[simp] theorem State.adjServed_badMem (s : State) (h k : Nat) (f : Served → Served) :
    (s.adjServed h k f).badMem = s.badMem := rfl
@[simp] theorem State.adjServed_codeLog (s : State) (h k : Nat) (f : Served → Served) :
    (s.adjServed h k f).codeLog = s.codeLog := rfl
@[simp] theorem State.adjServed_ridge (s : State) (h k : Nat) (f : Served → Served) :
    (s.adjServed h k f).ridge = s.ridge := rfl
@[simp] theorem State.adjServed_cores (s : State) (h k : Nat) (f : Served → Served) :
    (s.adjServed h k f).cores = s.cores := rfl
@[simp] theorem State.adjServed_dir (s : State) (h k : Nat) (f : Served → Served) :
    (s.adjServed h k f).dir = s.dir := rfl
@[simp] theorem State.adjServed_waits (s : State) (h k : Nat) (f : Served → Served) :
    (s.adjServed h k f).waits = s.waits := rfl
@[simp] theorem State.adjServed_teams (s : State) (h k : Nat) (f : Served → Served) :
    (s.adjServed h k f).teams = s.teams := rfl
@[simp] theorem State.adjServed_insts (s : State) (h k : Nat) (f : Served → Served) :
    (s.adjServed h k f).insts = s.insts := rfl
@[simp] theorem State.adjServed_copies (s : State) (h k : Nat) (f : Served → Served) :
    (s.adjServed h k f).copies = s.copies := rfl
@[simp] theorem State.adjServed_subHomes (s : State) (h k : Nat) (f : Served → Served) :
    (s.adjServed h k f).subHomes = s.subHomes := rfl
@[simp] theorem State.adjServed_deliveries (s : State) (h k : Nat) (f : Served → Served) :
    (s.adjServed h k f).deliveries = s.deliveries := rfl
@[simp] theorem State.adjServed_fabric (s : State) (h k : Nat) (f : Served → Served) :
    (s.adjServed h k f).fabric = s.fabric := rfl
@[simp] theorem State.adjServed_harts (s : State) (h k : Nat) (f : Served → Served) :
    (s.adjServed h k f).harts = s.harts := rfl
@[simp] theorem State.adjServed_xfers (s : State) (h k : Nat) (f : Served → Served) :
    (s.adjServed h k f).xfers = s.xfers := rfl
@[simp] theorem State.adjServed_queues (s : State) (h k : Nat) (f : Served → Served) :
    (s.adjServed h k f).queues = s.queues := rfl
@[simp] theorem State.adjServed_lode (s : State) (h k : Nat) (f : Served → Served) :
    (s.adjServed h k f).lode = s.lode := rfl
@[simp] theorem State.adjServed_trn (s : State) (h k : Nat) (f : Served → Served) :
    (s.adjServed h k f).trn = s.trn := rfl
@[simp] theorem State.adjServed_regions (s : State) (h k : Nat) (f : Served → Served) :
    (s.adjServed h k f).regions = s.regions := rfl
@[simp] theorem State.adjServed_vifs (s : State) (h k : Nat) (f : Served → Served) :
    (s.adjServed h k f).vifs = s.vifs := rfl
@[simp] theorem State.adjServed_mgt (s : State) (h k : Nat) (f : Served → Served) :
    (s.adjServed h k f).mgt = s.mgt := rfl

/-! ### State.keepLogged -/

@[simp] theorem State.keepLogged_build (s : State) (f : List GutterEntry → List GutterEntry) :
    (s.keepLogged f).build = s.build := rfl
@[simp] theorem State.keepLogged_clock (s : State) (f : List GutterEntry → List GutterEntry) :
    (s.keepLogged f).clock = s.clock := rfl
@[simp] theorem State.keepLogged_actor (s : State) (f : List GutterEntry → List GutterEntry) :
    (s.keepLogged f).actor = s.actor := rfl
@[simp] theorem State.keepLogged_moves (s : State) (f : List GutterEntry → List GutterEntry) :
    (s.keepLogged f).moves = s.moves := rfl
@[simp] theorem State.keepLogged_free (s : State) (f : List GutterEntry → List GutterEntry) :
    (s.keepLogged f).free = s.free := rfl
@[simp] theorem State.keepLogged_fresh (s : State) (f : List GutterEntry → List GutterEntry) :
    (s.keepLogged f).fresh = s.fresh := rfl
@[simp] theorem State.keepLogged_mem (s : State) (f : List GutterEntry → List GutterEntry) :
    (s.keepLogged f).mem = s.mem := rfl
@[simp] theorem State.keepLogged_badMem (s : State) (f : List GutterEntry → List GutterEntry) :
    (s.keepLogged f).badMem = s.badMem := rfl
@[simp] theorem State.keepLogged_codeLog (s : State) (f : List GutterEntry → List GutterEntry) :
    (s.keepLogged f).codeLog = s.codeLog := rfl
@[simp] theorem State.keepLogged_ridge (s : State) (f : List GutterEntry → List GutterEntry) :
    (s.keepLogged f).ridge = s.ridge := rfl
@[simp] theorem State.keepLogged_dir (s : State) (f : List GutterEntry → List GutterEntry) :
    (s.keepLogged f).dir = s.dir := rfl
@[simp] theorem State.keepLogged_waits (s : State) (f : List GutterEntry → List GutterEntry) :
    (s.keepLogged f).waits = s.waits := rfl
@[simp] theorem State.keepLogged_teams (s : State) (f : List GutterEntry → List GutterEntry) :
    (s.keepLogged f).teams = s.teams := rfl
@[simp] theorem State.keepLogged_insts (s : State) (f : List GutterEntry → List GutterEntry) :
    (s.keepLogged f).insts = s.insts := rfl
@[simp] theorem State.keepLogged_copies (s : State) (f : List GutterEntry → List GutterEntry) :
    (s.keepLogged f).copies = s.copies := rfl
@[simp] theorem State.keepLogged_subHomes (s : State) (f : List GutterEntry → List GutterEntry) :
    (s.keepLogged f).subHomes = s.subHomes := rfl
@[simp] theorem State.keepLogged_deliveries (s : State) (f : List GutterEntry → List GutterEntry) :
    (s.keepLogged f).deliveries = s.deliveries := rfl
@[simp] theorem State.keepLogged_fabric (s : State) (f : List GutterEntry → List GutterEntry) :
    (s.keepLogged f).fabric = s.fabric := rfl
@[simp] theorem State.keepLogged_harts (s : State) (f : List GutterEntry → List GutterEntry) :
    (s.keepLogged f).harts = s.harts := rfl
@[simp] theorem State.keepLogged_xfers (s : State) (f : List GutterEntry → List GutterEntry) :
    (s.keepLogged f).xfers = s.xfers := rfl
@[simp] theorem State.keepLogged_queues (s : State) (f : List GutterEntry → List GutterEntry) :
    (s.keepLogged f).queues = s.queues := rfl
@[simp] theorem State.keepLogged_lode (s : State) (f : List GutterEntry → List GutterEntry) :
    (s.keepLogged f).lode = s.lode := rfl
@[simp] theorem State.keepLogged_trn (s : State) (f : List GutterEntry → List GutterEntry) :
    (s.keepLogged f).trn = s.trn := rfl
@[simp] theorem State.keepLogged_regions (s : State) (f : List GutterEntry → List GutterEntry) :
    (s.keepLogged f).regions = s.regions := rfl
@[simp] theorem State.keepLogged_vifs (s : State) (f : List GutterEntry → List GutterEntry) :
    (s.keepLogged f).vifs = s.vifs := rfl
@[simp] theorem State.keepLogged_mgt (s : State) (f : List GutterEntry → List GutterEntry) :
    (s.keepLogged f).mgt = s.mgt := rfl

/-! ### State.setLineDir -/

@[simp] theorem State.setLineDir_build (s : State) (l : Nat) (d : LineDir) :
    (s.setLineDir l d).build = s.build := rfl
@[simp] theorem State.setLineDir_clock (s : State) (l : Nat) (d : LineDir) :
    (s.setLineDir l d).clock = s.clock := rfl
@[simp] theorem State.setLineDir_actor (s : State) (l : Nat) (d : LineDir) :
    (s.setLineDir l d).actor = s.actor := rfl
@[simp] theorem State.setLineDir_moves (s : State) (l : Nat) (d : LineDir) :
    (s.setLineDir l d).moves = s.moves := rfl
@[simp] theorem State.setLineDir_free (s : State) (l : Nat) (d : LineDir) :
    (s.setLineDir l d).free = s.free := rfl
@[simp] theorem State.setLineDir_fresh (s : State) (l : Nat) (d : LineDir) :
    (s.setLineDir l d).fresh = s.fresh := rfl
@[simp] theorem State.setLineDir_mem (s : State) (l : Nat) (d : LineDir) :
    (s.setLineDir l d).mem = s.mem := rfl
@[simp] theorem State.setLineDir_badMem (s : State) (l : Nat) (d : LineDir) :
    (s.setLineDir l d).badMem = s.badMem := rfl
@[simp] theorem State.setLineDir_codeLog (s : State) (l : Nat) (d : LineDir) :
    (s.setLineDir l d).codeLog = s.codeLog := rfl
@[simp] theorem State.setLineDir_ridge (s : State) (l : Nat) (d : LineDir) :
    (s.setLineDir l d).ridge = s.ridge := rfl
@[simp] theorem State.setLineDir_cores (s : State) (l : Nat) (d : LineDir) :
    (s.setLineDir l d).cores = s.cores := rfl
@[simp] theorem State.setLineDir_waits (s : State) (l : Nat) (d : LineDir) :
    (s.setLineDir l d).waits = s.waits := rfl
@[simp] theorem State.setLineDir_teams (s : State) (l : Nat) (d : LineDir) :
    (s.setLineDir l d).teams = s.teams := rfl
@[simp] theorem State.setLineDir_insts (s : State) (l : Nat) (d : LineDir) :
    (s.setLineDir l d).insts = s.insts := rfl
@[simp] theorem State.setLineDir_faults (s : State) (l : Nat) (d : LineDir) :
    (s.setLineDir l d).faults = s.faults := rfl
@[simp] theorem State.setLineDir_copies (s : State) (l : Nat) (d : LineDir) :
    (s.setLineDir l d).copies = s.copies := rfl
@[simp] theorem State.setLineDir_subHomes (s : State) (l : Nat) (d : LineDir) :
    (s.setLineDir l d).subHomes = s.subHomes := rfl
@[simp] theorem State.setLineDir_deliveries (s : State) (l : Nat) (d : LineDir) :
    (s.setLineDir l d).deliveries = s.deliveries := rfl
@[simp] theorem State.setLineDir_fabric (s : State) (l : Nat) (d : LineDir) :
    (s.setLineDir l d).fabric = s.fabric := rfl
@[simp] theorem State.setLineDir_harts (s : State) (l : Nat) (d : LineDir) :
    (s.setLineDir l d).harts = s.harts := rfl
@[simp] theorem State.setLineDir_xfers (s : State) (l : Nat) (d : LineDir) :
    (s.setLineDir l d).xfers = s.xfers := rfl
@[simp] theorem State.setLineDir_queues (s : State) (l : Nat) (d : LineDir) :
    (s.setLineDir l d).queues = s.queues := rfl
@[simp] theorem State.setLineDir_lode (s : State) (l : Nat) (d : LineDir) :
    (s.setLineDir l d).lode = s.lode := rfl
@[simp] theorem State.setLineDir_trn (s : State) (l : Nat) (d : LineDir) :
    (s.setLineDir l d).trn = s.trn := rfl
@[simp] theorem State.setLineDir_regions (s : State) (l : Nat) (d : LineDir) :
    (s.setLineDir l d).regions = s.regions := rfl
@[simp] theorem State.setLineDir_vifs (s : State) (l : Nat) (d : LineDir) :
    (s.setLineDir l d).vifs = s.vifs := rfl
@[simp] theorem State.setLineDir_mgt (s : State) (l : Nat) (d : LineDir) :
    (s.setLineDir l d).mgt = s.mgt := rfl

/-! ### State.dropOwner -/

@[simp] theorem State.dropOwner_build (s : State) (g : Nat) :
    (s.dropOwner g).build = s.build := rfl
@[simp] theorem State.dropOwner_clock (s : State) (g : Nat) :
    (s.dropOwner g).clock = s.clock := rfl
@[simp] theorem State.dropOwner_actor (s : State) (g : Nat) :
    (s.dropOwner g).actor = s.actor := rfl
@[simp] theorem State.dropOwner_moves (s : State) (g : Nat) :
    (s.dropOwner g).moves = s.moves := rfl
@[simp] theorem State.dropOwner_free (s : State) (g : Nat) :
    (s.dropOwner g).free = s.free := rfl
@[simp] theorem State.dropOwner_fresh (s : State) (g : Nat) :
    (s.dropOwner g).fresh = s.fresh := rfl
@[simp] theorem State.dropOwner_mem (s : State) (g : Nat) :
    (s.dropOwner g).mem = s.mem := rfl
@[simp] theorem State.dropOwner_badMem (s : State) (g : Nat) :
    (s.dropOwner g).badMem = s.badMem := rfl
@[simp] theorem State.dropOwner_codeLog (s : State) (g : Nat) :
    (s.dropOwner g).codeLog = s.codeLog := rfl
@[simp] theorem State.dropOwner_ridge (s : State) (g : Nat) :
    (s.dropOwner g).ridge = s.ridge := rfl
@[simp] theorem State.dropOwner_cores (s : State) (g : Nat) :
    (s.dropOwner g).cores = s.cores := rfl
@[simp] theorem State.dropOwner_waits (s : State) (g : Nat) :
    (s.dropOwner g).waits = s.waits := rfl
@[simp] theorem State.dropOwner_teams (s : State) (g : Nat) :
    (s.dropOwner g).teams = s.teams := rfl
@[simp] theorem State.dropOwner_insts (s : State) (g : Nat) :
    (s.dropOwner g).insts = s.insts := rfl
@[simp] theorem State.dropOwner_faults (s : State) (g : Nat) :
    (s.dropOwner g).faults = s.faults := rfl
@[simp] theorem State.dropOwner_copies (s : State) (g : Nat) :
    (s.dropOwner g).copies = s.copies := rfl
@[simp] theorem State.dropOwner_subHomes (s : State) (g : Nat) :
    (s.dropOwner g).subHomes = s.subHomes := rfl
@[simp] theorem State.dropOwner_deliveries (s : State) (g : Nat) :
    (s.dropOwner g).deliveries = s.deliveries := rfl
@[simp] theorem State.dropOwner_fabric (s : State) (g : Nat) :
    (s.dropOwner g).fabric = s.fabric := rfl
@[simp] theorem State.dropOwner_harts (s : State) (g : Nat) :
    (s.dropOwner g).harts = s.harts := rfl
@[simp] theorem State.dropOwner_xfers (s : State) (g : Nat) :
    (s.dropOwner g).xfers = s.xfers := rfl
@[simp] theorem State.dropOwner_queues (s : State) (g : Nat) :
    (s.dropOwner g).queues = s.queues := rfl
@[simp] theorem State.dropOwner_lode (s : State) (g : Nat) :
    (s.dropOwner g).lode = s.lode := rfl
@[simp] theorem State.dropOwner_trn (s : State) (g : Nat) :
    (s.dropOwner g).trn = s.trn := rfl
@[simp] theorem State.dropOwner_regions (s : State) (g : Nat) :
    (s.dropOwner g).regions = s.regions := rfl
@[simp] theorem State.dropOwner_vifs (s : State) (g : Nat) :
    (s.dropOwner g).vifs = s.vifs := rfl
@[simp] theorem State.dropOwner_mgt (s : State) (g : Nat) :
    (s.dropOwner g).mgt = s.mgt := rfl

/-! ### State.grant -/

/-- An eviction from an RDC changes the directory alone. -/
theorem State.rdcEvict_dir (s : State) (h : Holder) : s.rdcEvict h = { s with dir := (s.rdcEvict h).dir } := by
  unfold State.rdcEvict
  split
  · rfl
  · split <;> rfl
/-- Making room in an RDC changes the directory alone. -/
theorem State.rdcRoom_dir (h : Holder) (n k : Nat) (s : State) :
    State.rdcRoom h n k s = { s with dir := (State.rdcRoom h n k s).dir } := by
  induction k generalizing s with
  | zero => rfl
  | succ k ih =>
    cases h with
    | node _ => rfl
    | chiplet c =>
      simp only [State.rdcRoom]
      split
      · rfl
      · rw [ih, State.rdcEvict_dir s]
/-- A grant changes the directory alone. -/
theorem State.grant_dir (s : State) (g : Nat) (o : Holder) : s.grant g o = { s with dir := (s.grant g o).dir } := by
  unfold State.grant
  rw [State.rdcRoom_dir]
@[simp] theorem State.grant_build (s : State) (g : Nat) (o : Holder) :
    (s.grant g o).build = s.build := by rw [State.grant_dir]
@[simp] theorem State.grant_clock (s : State) (g : Nat) (o : Holder) :
    (s.grant g o).clock = s.clock := by rw [State.grant_dir]
@[simp] theorem State.grant_actor (s : State) (g : Nat) (o : Holder) :
    (s.grant g o).actor = s.actor := by rw [State.grant_dir]
@[simp] theorem State.grant_moves (s : State) (g : Nat) (o : Holder) :
    (s.grant g o).moves = s.moves := by rw [State.grant_dir]
@[simp] theorem State.grant_free (s : State) (g : Nat) (o : Holder) :
    (s.grant g o).free = s.free := by rw [State.grant_dir]
@[simp] theorem State.grant_fresh (s : State) (g : Nat) (o : Holder) :
    (s.grant g o).fresh = s.fresh := by rw [State.grant_dir]
@[simp] theorem State.grant_mem (s : State) (g : Nat) (o : Holder) :
    (s.grant g o).mem = s.mem := by rw [State.grant_dir]
@[simp] theorem State.grant_badMem (s : State) (g : Nat) (o : Holder) :
    (s.grant g o).badMem = s.badMem := by rw [State.grant_dir]
@[simp] theorem State.grant_codeLog (s : State) (g : Nat) (o : Holder) :
    (s.grant g o).codeLog = s.codeLog := by rw [State.grant_dir]
@[simp] theorem State.grant_ridge (s : State) (g : Nat) (o : Holder) :
    (s.grant g o).ridge = s.ridge := by rw [State.grant_dir]
@[simp] theorem State.grant_cores (s : State) (g : Nat) (o : Holder) :
    (s.grant g o).cores = s.cores := by rw [State.grant_dir]
@[simp] theorem State.grant_waits (s : State) (g : Nat) (o : Holder) :
    (s.grant g o).waits = s.waits := by rw [State.grant_dir]
@[simp] theorem State.grant_teams (s : State) (g : Nat) (o : Holder) :
    (s.grant g o).teams = s.teams := by rw [State.grant_dir]
@[simp] theorem State.grant_insts (s : State) (g : Nat) (o : Holder) :
    (s.grant g o).insts = s.insts := by rw [State.grant_dir]
@[simp] theorem State.grant_faults (s : State) (g : Nat) (o : Holder) :
    (s.grant g o).faults = s.faults := by rw [State.grant_dir]
@[simp] theorem State.grant_copies (s : State) (g : Nat) (o : Holder) :
    (s.grant g o).copies = s.copies := by rw [State.grant_dir]
@[simp] theorem State.grant_subHomes (s : State) (g : Nat) (o : Holder) :
    (s.grant g o).subHomes = s.subHomes := by rw [State.grant_dir]
@[simp] theorem State.grant_deliveries (s : State) (g : Nat) (o : Holder) :
    (s.grant g o).deliveries = s.deliveries := by rw [State.grant_dir]
@[simp] theorem State.grant_fabric (s : State) (g : Nat) (o : Holder) :
    (s.grant g o).fabric = s.fabric := by rw [State.grant_dir]
@[simp] theorem State.grant_harts (s : State) (g : Nat) (o : Holder) :
    (s.grant g o).harts = s.harts := by rw [State.grant_dir]
@[simp] theorem State.grant_xfers (s : State) (g : Nat) (o : Holder) :
    (s.grant g o).xfers = s.xfers := by rw [State.grant_dir]
@[simp] theorem State.grant_queues (s : State) (g : Nat) (o : Holder) :
    (s.grant g o).queues = s.queues := by rw [State.grant_dir]
@[simp] theorem State.grant_lode (s : State) (g : Nat) (o : Holder) :
    (s.grant g o).lode = s.lode := by rw [State.grant_dir]
@[simp] theorem State.grant_trn (s : State) (g : Nat) (o : Holder) :
    (s.grant g o).trn = s.trn := by rw [State.grant_dir]
@[simp] theorem State.grant_regions (s : State) (g : Nat) (o : Holder) :
    (s.grant g o).regions = s.regions := by rw [State.grant_dir]
@[simp] theorem State.grant_vifs (s : State) (g : Nat) (o : Holder) :
    (s.grant g o).vifs = s.vifs := by rw [State.grant_dir]
@[simp] theorem State.grant_mgt (s : State) (g : Nat) (o : Holder) :
    (s.grant g o).mgt = s.mgt := by rw [State.grant_dir]

/-! ### State.recall -/

theorem State.setLineDirs_dir (f : State → Nat → Nat) (d : State → Nat → LineDir) (l : List Nat) (s : State) :
    l.foldl (fun s i => s.setLineDir (f s i) (d s i)) s
      = { s with dir := (l.foldl (fun s i => s.setLineDir (f s i) (d s i)) s).dir } := by
  induction l generalizing s with
  | nil => rfl
  | cons i l ih => rw [List.foldl_cons, ih]; rfl
/-- A recall changes the directory alone. -/
theorem State.recall_dir (s : State) (g : Nat) : s.recall g = { s with dir := (s.recall g).dir } := by
  unfold State.recall
  split
  · exact State.setLineDirs_dir (fun _ i => 4 * g + i) _ _ _
  · rfl
@[simp] theorem State.recall_build (s : State) (g : Nat) :
    (s.recall g).build = s.build := by rw [State.recall_dir]
@[simp] theorem State.recall_clock (s : State) (g : Nat) :
    (s.recall g).clock = s.clock := by rw [State.recall_dir]
@[simp] theorem State.recall_actor (s : State) (g : Nat) :
    (s.recall g).actor = s.actor := by rw [State.recall_dir]
@[simp] theorem State.recall_moves (s : State) (g : Nat) :
    (s.recall g).moves = s.moves := by rw [State.recall_dir]
@[simp] theorem State.recall_free (s : State) (g : Nat) :
    (s.recall g).free = s.free := by rw [State.recall_dir]
@[simp] theorem State.recall_fresh (s : State) (g : Nat) :
    (s.recall g).fresh = s.fresh := by rw [State.recall_dir]
@[simp] theorem State.recall_mem (s : State) (g : Nat) :
    (s.recall g).mem = s.mem := by rw [State.recall_dir]
@[simp] theorem State.recall_badMem (s : State) (g : Nat) :
    (s.recall g).badMem = s.badMem := by rw [State.recall_dir]
@[simp] theorem State.recall_codeLog (s : State) (g : Nat) :
    (s.recall g).codeLog = s.codeLog := by rw [State.recall_dir]
@[simp] theorem State.recall_ridge (s : State) (g : Nat) :
    (s.recall g).ridge = s.ridge := by rw [State.recall_dir]
@[simp] theorem State.recall_cores (s : State) (g : Nat) :
    (s.recall g).cores = s.cores := by rw [State.recall_dir]
@[simp] theorem State.recall_waits (s : State) (g : Nat) :
    (s.recall g).waits = s.waits := by rw [State.recall_dir]
@[simp] theorem State.recall_teams (s : State) (g : Nat) :
    (s.recall g).teams = s.teams := by rw [State.recall_dir]
@[simp] theorem State.recall_insts (s : State) (g : Nat) :
    (s.recall g).insts = s.insts := by rw [State.recall_dir]
@[simp] theorem State.recall_faults (s : State) (g : Nat) :
    (s.recall g).faults = s.faults := by rw [State.recall_dir]
@[simp] theorem State.recall_copies (s : State) (g : Nat) :
    (s.recall g).copies = s.copies := by rw [State.recall_dir]
@[simp] theorem State.recall_subHomes (s : State) (g : Nat) :
    (s.recall g).subHomes = s.subHomes := by rw [State.recall_dir]
@[simp] theorem State.recall_deliveries (s : State) (g : Nat) :
    (s.recall g).deliveries = s.deliveries := by rw [State.recall_dir]
@[simp] theorem State.recall_fabric (s : State) (g : Nat) :
    (s.recall g).fabric = s.fabric := by rw [State.recall_dir]
@[simp] theorem State.recall_harts (s : State) (g : Nat) :
    (s.recall g).harts = s.harts := by rw [State.recall_dir]
@[simp] theorem State.recall_xfers (s : State) (g : Nat) :
    (s.recall g).xfers = s.xfers := by rw [State.recall_dir]
@[simp] theorem State.recall_queues (s : State) (g : Nat) :
    (s.recall g).queues = s.queues := by rw [State.recall_dir]
@[simp] theorem State.recall_lode (s : State) (g : Nat) :
    (s.recall g).lode = s.lode := by rw [State.recall_dir]
@[simp] theorem State.recall_trn (s : State) (g : Nat) :
    (s.recall g).trn = s.trn := by rw [State.recall_dir]
@[simp] theorem State.recall_regions (s : State) (g : Nat) :
    (s.recall g).regions = s.regions := by rw [State.recall_dir]
@[simp] theorem State.recall_vifs (s : State) (g : Nat) :
    (s.recall g).vifs = s.vifs := by rw [State.recall_dir]
@[simp] theorem State.recall_mgt (s : State) (g : Nat) :
    (s.recall g).mgt = s.mgt := by rw [State.recall_dir]

/-! ### State.setRegion -/

@[simp] theorem State.setRegion_build (s : State) (q : Nat) (r : Region) :
    (s.setRegion q r).build = s.build := rfl
@[simp] theorem State.setRegion_clock (s : State) (q : Nat) (r : Region) :
    (s.setRegion q r).clock = s.clock := rfl
@[simp] theorem State.setRegion_actor (s : State) (q : Nat) (r : Region) :
    (s.setRegion q r).actor = s.actor := rfl
@[simp] theorem State.setRegion_moves (s : State) (q : Nat) (r : Region) :
    (s.setRegion q r).moves = s.moves := rfl
@[simp] theorem State.setRegion_free (s : State) (q : Nat) (r : Region) :
    (s.setRegion q r).free = s.free := rfl
@[simp] theorem State.setRegion_fresh (s : State) (q : Nat) (r : Region) :
    (s.setRegion q r).fresh = s.fresh := rfl
@[simp] theorem State.setRegion_mem (s : State) (q : Nat) (r : Region) :
    (s.setRegion q r).mem = s.mem := rfl
@[simp] theorem State.setRegion_badMem (s : State) (q : Nat) (r : Region) :
    (s.setRegion q r).badMem = s.badMem := rfl
@[simp] theorem State.setRegion_codeLog (s : State) (q : Nat) (r : Region) :
    (s.setRegion q r).codeLog = s.codeLog := rfl
@[simp] theorem State.setRegion_ridge (s : State) (q : Nat) (r : Region) :
    (s.setRegion q r).ridge = s.ridge := rfl
@[simp] theorem State.setRegion_cores (s : State) (q : Nat) (r : Region) :
    (s.setRegion q r).cores = s.cores := rfl
@[simp] theorem State.setRegion_dir (s : State) (q : Nat) (r : Region) :
    (s.setRegion q r).dir = s.dir := rfl
@[simp] theorem State.setRegion_waits (s : State) (q : Nat) (r : Region) :
    (s.setRegion q r).waits = s.waits := rfl
@[simp] theorem State.setRegion_teams (s : State) (q : Nat) (r : Region) :
    (s.setRegion q r).teams = s.teams := rfl
@[simp] theorem State.setRegion_insts (s : State) (q : Nat) (r : Region) :
    (s.setRegion q r).insts = s.insts := rfl
@[simp] theorem State.setRegion_faults (s : State) (q : Nat) (r : Region) :
    (s.setRegion q r).faults = s.faults := rfl
@[simp] theorem State.setRegion_copies (s : State) (q : Nat) (r : Region) :
    (s.setRegion q r).copies = s.copies := rfl
@[simp] theorem State.setRegion_subHomes (s : State) (q : Nat) (r : Region) :
    (s.setRegion q r).subHomes = s.subHomes := rfl
@[simp] theorem State.setRegion_deliveries (s : State) (q : Nat) (r : Region) :
    (s.setRegion q r).deliveries = s.deliveries := rfl
@[simp] theorem State.setRegion_fabric (s : State) (q : Nat) (r : Region) :
    (s.setRegion q r).fabric = s.fabric := rfl
@[simp] theorem State.setRegion_harts (s : State) (q : Nat) (r : Region) :
    (s.setRegion q r).harts = s.harts := rfl
@[simp] theorem State.setRegion_xfers (s : State) (q : Nat) (r : Region) :
    (s.setRegion q r).xfers = s.xfers := rfl
@[simp] theorem State.setRegion_queues (s : State) (q : Nat) (r : Region) :
    (s.setRegion q r).queues = s.queues := rfl
@[simp] theorem State.setRegion_lode (s : State) (q : Nat) (r : Region) :
    (s.setRegion q r).lode = s.lode := rfl
@[simp] theorem State.setRegion_trn (s : State) (q : Nat) (r : Region) :
    (s.setRegion q r).trn = s.trn := rfl
@[simp] theorem State.setRegion_vifs (s : State) (q : Nat) (r : Region) :
    (s.setRegion q r).vifs = s.vifs := rfl
@[simp] theorem State.setRegion_mgt (s : State) (q : Nat) (r : Region) :
    (s.setRegion q r).mgt = s.mgt := rfl

/-! ### State.adjSlot -/

@[simp] theorem State.adjSlot_build (s : State) (n : Nat) (f : QSlot → QSlot) :
    (s.adjSlot n f).build = s.build := rfl
@[simp] theorem State.adjSlot_clock (s : State) (n : Nat) (f : QSlot → QSlot) :
    (s.adjSlot n f).clock = s.clock := rfl
@[simp] theorem State.adjSlot_actor (s : State) (n : Nat) (f : QSlot → QSlot) :
    (s.adjSlot n f).actor = s.actor := rfl
@[simp] theorem State.adjSlot_moves (s : State) (n : Nat) (f : QSlot → QSlot) :
    (s.adjSlot n f).moves = s.moves := rfl
@[simp] theorem State.adjSlot_free (s : State) (n : Nat) (f : QSlot → QSlot) :
    (s.adjSlot n f).free = s.free := rfl
@[simp] theorem State.adjSlot_fresh (s : State) (n : Nat) (f : QSlot → QSlot) :
    (s.adjSlot n f).fresh = s.fresh := rfl
@[simp] theorem State.adjSlot_mem (s : State) (n : Nat) (f : QSlot → QSlot) :
    (s.adjSlot n f).mem = s.mem := rfl
@[simp] theorem State.adjSlot_badMem (s : State) (n : Nat) (f : QSlot → QSlot) :
    (s.adjSlot n f).badMem = s.badMem := rfl
@[simp] theorem State.adjSlot_codeLog (s : State) (n : Nat) (f : QSlot → QSlot) :
    (s.adjSlot n f).codeLog = s.codeLog := rfl
@[simp] theorem State.adjSlot_ridge (s : State) (n : Nat) (f : QSlot → QSlot) :
    (s.adjSlot n f).ridge = s.ridge := rfl
@[simp] theorem State.adjSlot_cores (s : State) (n : Nat) (f : QSlot → QSlot) :
    (s.adjSlot n f).cores = s.cores := rfl
@[simp] theorem State.adjSlot_dir (s : State) (n : Nat) (f : QSlot → QSlot) :
    (s.adjSlot n f).dir = s.dir := rfl
@[simp] theorem State.adjSlot_waits (s : State) (n : Nat) (f : QSlot → QSlot) :
    (s.adjSlot n f).waits = s.waits := rfl
@[simp] theorem State.adjSlot_teams (s : State) (n : Nat) (f : QSlot → QSlot) :
    (s.adjSlot n f).teams = s.teams := rfl
@[simp] theorem State.adjSlot_insts (s : State) (n : Nat) (f : QSlot → QSlot) :
    (s.adjSlot n f).insts = s.insts := rfl
@[simp] theorem State.adjSlot_faults (s : State) (n : Nat) (f : QSlot → QSlot) :
    (s.adjSlot n f).faults = s.faults := rfl
@[simp] theorem State.adjSlot_copies (s : State) (n : Nat) (f : QSlot → QSlot) :
    (s.adjSlot n f).copies = s.copies := rfl
@[simp] theorem State.adjSlot_subHomes (s : State) (n : Nat) (f : QSlot → QSlot) :
    (s.adjSlot n f).subHomes = s.subHomes := rfl
@[simp] theorem State.adjSlot_deliveries (s : State) (n : Nat) (f : QSlot → QSlot) :
    (s.adjSlot n f).deliveries = s.deliveries := rfl
@[simp] theorem State.adjSlot_fabric (s : State) (n : Nat) (f : QSlot → QSlot) :
    (s.adjSlot n f).fabric = s.fabric := rfl
@[simp] theorem State.adjSlot_harts (s : State) (n : Nat) (f : QSlot → QSlot) :
    (s.adjSlot n f).harts = s.harts := rfl
@[simp] theorem State.adjSlot_xfers (s : State) (n : Nat) (f : QSlot → QSlot) :
    (s.adjSlot n f).xfers = s.xfers := rfl
@[simp] theorem State.adjSlot_lode (s : State) (n : Nat) (f : QSlot → QSlot) :
    (s.adjSlot n f).lode = s.lode := rfl
@[simp] theorem State.adjSlot_trn (s : State) (n : Nat) (f : QSlot → QSlot) :
    (s.adjSlot n f).trn = s.trn := rfl
@[simp] theorem State.adjSlot_regions (s : State) (n : Nat) (f : QSlot → QSlot) :
    (s.adjSlot n f).regions = s.regions := rfl
@[simp] theorem State.adjSlot_vifs (s : State) (n : Nat) (f : QSlot → QSlot) :
    (s.adjSlot n f).vifs = s.vifs := rfl
@[simp] theorem State.adjSlot_mgt (s : State) (n : Nat) (f : QSlot → QSlot) :
    (s.adjSlot n f).mgt = s.mgt := rfl

/-! ### State.adjHart -/

@[simp] theorem State.adjHart_build (s : State) (h : Nat) (f : Hart → Hart) :
    (s.adjHart h f).build = s.build := rfl
@[simp] theorem State.adjHart_clock (s : State) (h : Nat) (f : Hart → Hart) :
    (s.adjHart h f).clock = s.clock := rfl
@[simp] theorem State.adjHart_actor (s : State) (h : Nat) (f : Hart → Hart) :
    (s.adjHart h f).actor = s.actor := rfl
@[simp] theorem State.adjHart_moves (s : State) (h : Nat) (f : Hart → Hart) :
    (s.adjHart h f).moves = s.moves := rfl
@[simp] theorem State.adjHart_free (s : State) (h : Nat) (f : Hart → Hart) :
    (s.adjHart h f).free = s.free := rfl
@[simp] theorem State.adjHart_fresh (s : State) (h : Nat) (f : Hart → Hart) :
    (s.adjHart h f).fresh = s.fresh := rfl
@[simp] theorem State.adjHart_mem (s : State) (h : Nat) (f : Hart → Hart) :
    (s.adjHart h f).mem = s.mem := rfl
@[simp] theorem State.adjHart_badMem (s : State) (h : Nat) (f : Hart → Hart) :
    (s.adjHart h f).badMem = s.badMem := rfl
@[simp] theorem State.adjHart_codeLog (s : State) (h : Nat) (f : Hart → Hart) :
    (s.adjHart h f).codeLog = s.codeLog := rfl
@[simp] theorem State.adjHart_ridge (s : State) (h : Nat) (f : Hart → Hart) :
    (s.adjHart h f).ridge = s.ridge := rfl
@[simp] theorem State.adjHart_cores (s : State) (h : Nat) (f : Hart → Hart) :
    (s.adjHart h f).cores = s.cores := rfl
@[simp] theorem State.adjHart_dir (s : State) (h : Nat) (f : Hart → Hart) :
    (s.adjHart h f).dir = s.dir := rfl
@[simp] theorem State.adjHart_waits (s : State) (h : Nat) (f : Hart → Hart) :
    (s.adjHart h f).waits = s.waits := rfl
@[simp] theorem State.adjHart_teams (s : State) (h : Nat) (f : Hart → Hart) :
    (s.adjHart h f).teams = s.teams := rfl
@[simp] theorem State.adjHart_insts (s : State) (h : Nat) (f : Hart → Hart) :
    (s.adjHart h f).insts = s.insts := rfl
@[simp] theorem State.adjHart_faults (s : State) (h : Nat) (f : Hart → Hart) :
    (s.adjHart h f).faults = s.faults := rfl
@[simp] theorem State.adjHart_copies (s : State) (h : Nat) (f : Hart → Hart) :
    (s.adjHart h f).copies = s.copies := rfl
@[simp] theorem State.adjHart_subHomes (s : State) (h : Nat) (f : Hart → Hart) :
    (s.adjHart h f).subHomes = s.subHomes := rfl
@[simp] theorem State.adjHart_deliveries (s : State) (h : Nat) (f : Hart → Hart) :
    (s.adjHart h f).deliveries = s.deliveries := rfl
@[simp] theorem State.adjHart_fabric (s : State) (h : Nat) (f : Hart → Hart) :
    (s.adjHart h f).fabric = s.fabric := rfl
@[simp] theorem State.adjHart_xfers (s : State) (h : Nat) (f : Hart → Hart) :
    (s.adjHart h f).xfers = s.xfers := rfl
@[simp] theorem State.adjHart_queues (s : State) (h : Nat) (f : Hart → Hart) :
    (s.adjHart h f).queues = s.queues := rfl
@[simp] theorem State.adjHart_lode (s : State) (h : Nat) (f : Hart → Hart) :
    (s.adjHart h f).lode = s.lode := rfl
@[simp] theorem State.adjHart_trn (s : State) (h : Nat) (f : Hart → Hart) :
    (s.adjHart h f).trn = s.trn := rfl
@[simp] theorem State.adjHart_regions (s : State) (h : Nat) (f : Hart → Hart) :
    (s.adjHart h f).regions = s.regions := rfl
@[simp] theorem State.adjHart_vifs (s : State) (h : Nat) (f : Hart → Hart) :
    (s.adjHart h f).vifs = s.vifs := rfl
@[simp] theorem State.adjHart_mgt (s : State) (h : Nat) (f : Hart → Hart) :
    (s.adjHart h f).mgt = s.mgt := rfl

/-! ### State.adjRing -/

@[simp] theorem State.adjRing_build (s : State) (c : Nat) (f : Ring → Ring) :
    (s.adjRing c f).build = s.build := rfl
@[simp] theorem State.adjRing_clock (s : State) (c : Nat) (f : Ring → Ring) :
    (s.adjRing c f).clock = s.clock := rfl
@[simp] theorem State.adjRing_actor (s : State) (c : Nat) (f : Ring → Ring) :
    (s.adjRing c f).actor = s.actor := rfl
@[simp] theorem State.adjRing_moves (s : State) (c : Nat) (f : Ring → Ring) :
    (s.adjRing c f).moves = s.moves := rfl
@[simp] theorem State.adjRing_free (s : State) (c : Nat) (f : Ring → Ring) :
    (s.adjRing c f).free = s.free := rfl
@[simp] theorem State.adjRing_fresh (s : State) (c : Nat) (f : Ring → Ring) :
    (s.adjRing c f).fresh = s.fresh := rfl
@[simp] theorem State.adjRing_mem (s : State) (c : Nat) (f : Ring → Ring) :
    (s.adjRing c f).mem = s.mem := rfl
@[simp] theorem State.adjRing_badMem (s : State) (c : Nat) (f : Ring → Ring) :
    (s.adjRing c f).badMem = s.badMem := rfl
@[simp] theorem State.adjRing_codeLog (s : State) (c : Nat) (f : Ring → Ring) :
    (s.adjRing c f).codeLog = s.codeLog := rfl
@[simp] theorem State.adjRing_ridge (s : State) (c : Nat) (f : Ring → Ring) :
    (s.adjRing c f).ridge = s.ridge := rfl
@[simp] theorem State.adjRing_cores (s : State) (c : Nat) (f : Ring → Ring) :
    (s.adjRing c f).cores = s.cores := rfl
@[simp] theorem State.adjRing_dir (s : State) (c : Nat) (f : Ring → Ring) :
    (s.adjRing c f).dir = s.dir := rfl
@[simp] theorem State.adjRing_waits (s : State) (c : Nat) (f : Ring → Ring) :
    (s.adjRing c f).waits = s.waits := rfl
@[simp] theorem State.adjRing_teams (s : State) (c : Nat) (f : Ring → Ring) :
    (s.adjRing c f).teams = s.teams := rfl
@[simp] theorem State.adjRing_insts (s : State) (c : Nat) (f : Ring → Ring) :
    (s.adjRing c f).insts = s.insts := rfl
@[simp] theorem State.adjRing_faults (s : State) (c : Nat) (f : Ring → Ring) :
    (s.adjRing c f).faults = s.faults := rfl
@[simp] theorem State.adjRing_copies (s : State) (c : Nat) (f : Ring → Ring) :
    (s.adjRing c f).copies = s.copies := rfl
@[simp] theorem State.adjRing_subHomes (s : State) (c : Nat) (f : Ring → Ring) :
    (s.adjRing c f).subHomes = s.subHomes := rfl
@[simp] theorem State.adjRing_deliveries (s : State) (c : Nat) (f : Ring → Ring) :
    (s.adjRing c f).deliveries = s.deliveries := rfl
@[simp] theorem State.adjRing_fabric (s : State) (c : Nat) (f : Ring → Ring) :
    (s.adjRing c f).fabric = s.fabric := rfl
@[simp] theorem State.adjRing_harts (s : State) (c : Nat) (f : Ring → Ring) :
    (s.adjRing c f).harts = s.harts := rfl
@[simp] theorem State.adjRing_xfers (s : State) (c : Nat) (f : Ring → Ring) :
    (s.adjRing c f).xfers = s.xfers := rfl
@[simp] theorem State.adjRing_queues (s : State) (c : Nat) (f : Ring → Ring) :
    (s.adjRing c f).queues = s.queues := rfl
@[simp] theorem State.adjRing_trn (s : State) (c : Nat) (f : Ring → Ring) :
    (s.adjRing c f).trn = s.trn := rfl
@[simp] theorem State.adjRing_regions (s : State) (c : Nat) (f : Ring → Ring) :
    (s.adjRing c f).regions = s.regions := rfl
@[simp] theorem State.adjRing_vifs (s : State) (c : Nat) (f : Ring → Ring) :
    (s.adjRing c f).vifs = s.vifs := rfl
@[simp] theorem State.adjRing_mgt (s : State) (c : Nat) (f : Ring → Ring) :
    (s.adjRing c f).mgt = s.mgt := rfl

/-! ### State.setInva -/

@[simp] theorem State.setInva_build (s : State) (m : Nat) (v : DWord) :
    (s.setInva m v).build = s.build := rfl
@[simp] theorem State.setInva_clock (s : State) (m : Nat) (v : DWord) :
    (s.setInva m v).clock = s.clock := rfl
@[simp] theorem State.setInva_actor (s : State) (m : Nat) (v : DWord) :
    (s.setInva m v).actor = s.actor := rfl
@[simp] theorem State.setInva_moves (s : State) (m : Nat) (v : DWord) :
    (s.setInva m v).moves = s.moves := rfl
@[simp] theorem State.setInva_free (s : State) (m : Nat) (v : DWord) :
    (s.setInva m v).free = s.free := rfl
@[simp] theorem State.setInva_fresh (s : State) (m : Nat) (v : DWord) :
    (s.setInva m v).fresh = s.fresh := rfl
@[simp] theorem State.setInva_mem (s : State) (m : Nat) (v : DWord) :
    (s.setInva m v).mem = s.mem := rfl
@[simp] theorem State.setInva_badMem (s : State) (m : Nat) (v : DWord) :
    (s.setInva m v).badMem = s.badMem := rfl
@[simp] theorem State.setInva_codeLog (s : State) (m : Nat) (v : DWord) :
    (s.setInva m v).codeLog = s.codeLog := rfl
@[simp] theorem State.setInva_ridge (s : State) (m : Nat) (v : DWord) :
    (s.setInva m v).ridge = s.ridge := rfl
@[simp] theorem State.setInva_cores (s : State) (m : Nat) (v : DWord) :
    (s.setInva m v).cores = s.cores := rfl
@[simp] theorem State.setInva_dir (s : State) (m : Nat) (v : DWord) :
    (s.setInva m v).dir = s.dir := rfl
@[simp] theorem State.setInva_waits (s : State) (m : Nat) (v : DWord) :
    (s.setInva m v).waits = s.waits := rfl
@[simp] theorem State.setInva_teams (s : State) (m : Nat) (v : DWord) :
    (s.setInva m v).teams = s.teams := rfl
@[simp] theorem State.setInva_insts (s : State) (m : Nat) (v : DWord) :
    (s.setInva m v).insts = s.insts := rfl
@[simp] theorem State.setInva_faults (s : State) (m : Nat) (v : DWord) :
    (s.setInva m v).faults = s.faults := rfl
@[simp] theorem State.setInva_copies (s : State) (m : Nat) (v : DWord) :
    (s.setInva m v).copies = s.copies := rfl
@[simp] theorem State.setInva_subHomes (s : State) (m : Nat) (v : DWord) :
    (s.setInva m v).subHomes = s.subHomes := rfl
@[simp] theorem State.setInva_deliveries (s : State) (m : Nat) (v : DWord) :
    (s.setInva m v).deliveries = s.deliveries := rfl
@[simp] theorem State.setInva_fabric (s : State) (m : Nat) (v : DWord) :
    (s.setInva m v).fabric = s.fabric := rfl
@[simp] theorem State.setInva_harts (s : State) (m : Nat) (v : DWord) :
    (s.setInva m v).harts = s.harts := rfl
@[simp] theorem State.setInva_xfers (s : State) (m : Nat) (v : DWord) :
    (s.setInva m v).xfers = s.xfers := rfl
@[simp] theorem State.setInva_queues (s : State) (m : Nat) (v : DWord) :
    (s.setInva m v).queues = s.queues := rfl
@[simp] theorem State.setInva_lode (s : State) (m : Nat) (v : DWord) :
    (s.setInva m v).lode = s.lode := rfl
@[simp] theorem State.setInva_regions (s : State) (m : Nat) (v : DWord) :
    (s.setInva m v).regions = s.regions := rfl
@[simp] theorem State.setInva_vifs (s : State) (m : Nat) (v : DWord) :
    (s.setInva m v).vifs = s.vifs := rfl
@[simp] theorem State.setInva_mgt (s : State) (m : Nat) (v : DWord) :
    (s.setInva m v).mgt = s.mgt := rfl

/-! ### State.setTd -/

@[simp] theorem State.setTd_build (s : State) (m n : Nat) (t : Td) :
    (s.setTd m n t).build = s.build := rfl
@[simp] theorem State.setTd_clock (s : State) (m n : Nat) (t : Td) :
    (s.setTd m n t).clock = s.clock := rfl
@[simp] theorem State.setTd_actor (s : State) (m n : Nat) (t : Td) :
    (s.setTd m n t).actor = s.actor := rfl
@[simp] theorem State.setTd_moves (s : State) (m n : Nat) (t : Td) :
    (s.setTd m n t).moves = s.moves := rfl
@[simp] theorem State.setTd_free (s : State) (m n : Nat) (t : Td) :
    (s.setTd m n t).free = s.free := rfl
@[simp] theorem State.setTd_fresh (s : State) (m n : Nat) (t : Td) :
    (s.setTd m n t).fresh = s.fresh := rfl
@[simp] theorem State.setTd_mem (s : State) (m n : Nat) (t : Td) :
    (s.setTd m n t).mem = s.mem := rfl
@[simp] theorem State.setTd_badMem (s : State) (m n : Nat) (t : Td) :
    (s.setTd m n t).badMem = s.badMem := rfl
@[simp] theorem State.setTd_codeLog (s : State) (m n : Nat) (t : Td) :
    (s.setTd m n t).codeLog = s.codeLog := rfl
@[simp] theorem State.setTd_ridge (s : State) (m n : Nat) (t : Td) :
    (s.setTd m n t).ridge = s.ridge := rfl
@[simp] theorem State.setTd_cores (s : State) (m n : Nat) (t : Td) :
    (s.setTd m n t).cores = s.cores := rfl
@[simp] theorem State.setTd_dir (s : State) (m n : Nat) (t : Td) :
    (s.setTd m n t).dir = s.dir := rfl
@[simp] theorem State.setTd_waits (s : State) (m n : Nat) (t : Td) :
    (s.setTd m n t).waits = s.waits := rfl
@[simp] theorem State.setTd_teams (s : State) (m n : Nat) (t : Td) :
    (s.setTd m n t).teams = s.teams := rfl
@[simp] theorem State.setTd_insts (s : State) (m n : Nat) (t : Td) :
    (s.setTd m n t).insts = s.insts := rfl
@[simp] theorem State.setTd_faults (s : State) (m n : Nat) (t : Td) :
    (s.setTd m n t).faults = s.faults := rfl
@[simp] theorem State.setTd_copies (s : State) (m n : Nat) (t : Td) :
    (s.setTd m n t).copies = s.copies := rfl
@[simp] theorem State.setTd_subHomes (s : State) (m n : Nat) (t : Td) :
    (s.setTd m n t).subHomes = s.subHomes := rfl
@[simp] theorem State.setTd_deliveries (s : State) (m n : Nat) (t : Td) :
    (s.setTd m n t).deliveries = s.deliveries := rfl
@[simp] theorem State.setTd_fabric (s : State) (m n : Nat) (t : Td) :
    (s.setTd m n t).fabric = s.fabric := rfl
@[simp] theorem State.setTd_harts (s : State) (m n : Nat) (t : Td) :
    (s.setTd m n t).harts = s.harts := rfl
@[simp] theorem State.setTd_xfers (s : State) (m n : Nat) (t : Td) :
    (s.setTd m n t).xfers = s.xfers := rfl
@[simp] theorem State.setTd_queues (s : State) (m n : Nat) (t : Td) :
    (s.setTd m n t).queues = s.queues := rfl
@[simp] theorem State.setTd_lode (s : State) (m n : Nat) (t : Td) :
    (s.setTd m n t).lode = s.lode := rfl
@[simp] theorem State.setTd_regions (s : State) (m n : Nat) (t : Td) :
    (s.setTd m n t).regions = s.regions := rfl
@[simp] theorem State.setTd_vifs (s : State) (m n : Nat) (t : Td) :
    (s.setTd m n t).vifs = s.vifs := rfl
@[simp] theorem State.setTd_mgt (s : State) (m n : Nat) (t : Td) :
    (s.setTd m n t).mgt = s.mgt := rfl

/-! ### State.setWin -/

@[simp] theorem State.setWin_build (s : State) (k : Nat) (v : BitVec 256) :
    (s.setWin k v).build = s.build := rfl
@[simp] theorem State.setWin_clock (s : State) (k : Nat) (v : BitVec 256) :
    (s.setWin k v).clock = s.clock := rfl
@[simp] theorem State.setWin_actor (s : State) (k : Nat) (v : BitVec 256) :
    (s.setWin k v).actor = s.actor := rfl
@[simp] theorem State.setWin_moves (s : State) (k : Nat) (v : BitVec 256) :
    (s.setWin k v).moves = s.moves := rfl
@[simp] theorem State.setWin_free (s : State) (k : Nat) (v : BitVec 256) :
    (s.setWin k v).free = s.free := rfl
@[simp] theorem State.setWin_fresh (s : State) (k : Nat) (v : BitVec 256) :
    (s.setWin k v).fresh = s.fresh := rfl
@[simp] theorem State.setWin_mem (s : State) (k : Nat) (v : BitVec 256) :
    (s.setWin k v).mem = s.mem := rfl
@[simp] theorem State.setWin_badMem (s : State) (k : Nat) (v : BitVec 256) :
    (s.setWin k v).badMem = s.badMem := rfl
@[simp] theorem State.setWin_codeLog (s : State) (k : Nat) (v : BitVec 256) :
    (s.setWin k v).codeLog = s.codeLog := rfl
@[simp] theorem State.setWin_ridge (s : State) (k : Nat) (v : BitVec 256) :
    (s.setWin k v).ridge = s.ridge := rfl
@[simp] theorem State.setWin_cores (s : State) (k : Nat) (v : BitVec 256) :
    (s.setWin k v).cores = s.cores := rfl
@[simp] theorem State.setWin_dir (s : State) (k : Nat) (v : BitVec 256) :
    (s.setWin k v).dir = s.dir := rfl
@[simp] theorem State.setWin_waits (s : State) (k : Nat) (v : BitVec 256) :
    (s.setWin k v).waits = s.waits := rfl
@[simp] theorem State.setWin_teams (s : State) (k : Nat) (v : BitVec 256) :
    (s.setWin k v).teams = s.teams := rfl
@[simp] theorem State.setWin_insts (s : State) (k : Nat) (v : BitVec 256) :
    (s.setWin k v).insts = s.insts := rfl
@[simp] theorem State.setWin_faults (s : State) (k : Nat) (v : BitVec 256) :
    (s.setWin k v).faults = s.faults := rfl
@[simp] theorem State.setWin_copies (s : State) (k : Nat) (v : BitVec 256) :
    (s.setWin k v).copies = s.copies := rfl
@[simp] theorem State.setWin_subHomes (s : State) (k : Nat) (v : BitVec 256) :
    (s.setWin k v).subHomes = s.subHomes := rfl
@[simp] theorem State.setWin_deliveries (s : State) (k : Nat) (v : BitVec 256) :
    (s.setWin k v).deliveries = s.deliveries := rfl
@[simp] theorem State.setWin_harts (s : State) (k : Nat) (v : BitVec 256) :
    (s.setWin k v).harts = s.harts := rfl
@[simp] theorem State.setWin_xfers (s : State) (k : Nat) (v : BitVec 256) :
    (s.setWin k v).xfers = s.xfers := rfl
@[simp] theorem State.setWin_queues (s : State) (k : Nat) (v : BitVec 256) :
    (s.setWin k v).queues = s.queues := rfl
@[simp] theorem State.setWin_lode (s : State) (k : Nat) (v : BitVec 256) :
    (s.setWin k v).lode = s.lode := rfl
@[simp] theorem State.setWin_trn (s : State) (k : Nat) (v : BitVec 256) :
    (s.setWin k v).trn = s.trn := rfl
@[simp] theorem State.setWin_regions (s : State) (k : Nat) (v : BitVec 256) :
    (s.setWin k v).regions = s.regions := rfl
@[simp] theorem State.setWin_vifs (s : State) (k : Nat) (v : BitVec 256) :
    (s.setWin k v).vifs = s.vifs := rfl
@[simp] theorem State.setWin_mgt (s : State) (k : Nat) (v : BitVec 256) :
    (s.setWin k v).mgt = s.mgt := rfl

/-! ### addDeferred -/

@[simp] theorem addDeferred_build (s : State) (r : GRef) (vs us : List Nat) (ls : List (Nat × Nat × Word)) (ws : List (Nat × Word)) (f : FFlags) (w : Nat) :
    (addDeferred s r vs us ls ws f w).build = s.build := rfl
@[simp] theorem addDeferred_clock (s : State) (r : GRef) (vs us : List Nat) (ls : List (Nat × Nat × Word)) (ws : List (Nat × Word)) (f : FFlags) (w : Nat) :
    (addDeferred s r vs us ls ws f w).clock = s.clock := rfl
@[simp] theorem addDeferred_actor (s : State) (r : GRef) (vs us : List Nat) (ls : List (Nat × Nat × Word)) (ws : List (Nat × Word)) (f : FFlags) (w : Nat) :
    (addDeferred s r vs us ls ws f w).actor = s.actor := rfl
@[simp] theorem addDeferred_moves (s : State) (r : GRef) (vs us : List Nat) (ls : List (Nat × Nat × Word)) (ws : List (Nat × Word)) (f : FFlags) (w : Nat) :
    (addDeferred s r vs us ls ws f w).moves = s.moves := rfl
@[simp] theorem addDeferred_free (s : State) (r : GRef) (vs us : List Nat) (ls : List (Nat × Nat × Word)) (ws : List (Nat × Word)) (f : FFlags) (w : Nat) :
    (addDeferred s r vs us ls ws f w).free = s.free := rfl
@[simp] theorem addDeferred_mem (s : State) (r : GRef) (vs us : List Nat) (ls : List (Nat × Nat × Word)) (ws : List (Nat × Word)) (f : FFlags) (w : Nat) :
    (addDeferred s r vs us ls ws f w).mem = s.mem := rfl
@[simp] theorem addDeferred_badMem (s : State) (r : GRef) (vs us : List Nat) (ls : List (Nat × Nat × Word)) (ws : List (Nat × Word)) (f : FFlags) (w : Nat) :
    (addDeferred s r vs us ls ws f w).badMem = s.badMem := rfl
@[simp] theorem addDeferred_codeLog (s : State) (r : GRef) (vs us : List Nat) (ls : List (Nat × Nat × Word)) (ws : List (Nat × Word)) (f : FFlags) (w : Nat) :
    (addDeferred s r vs us ls ws f w).codeLog = s.codeLog := rfl
@[simp] theorem addDeferred_ridge (s : State) (r : GRef) (vs us : List Nat) (ls : List (Nat × Nat × Word)) (ws : List (Nat × Word)) (f : FFlags) (w : Nat) :
    (addDeferred s r vs us ls ws f w).ridge = s.ridge := rfl
@[simp] theorem addDeferred_cores (s : State) (r : GRef) (vs us : List Nat) (ls : List (Nat × Nat × Word)) (ws : List (Nat × Word)) (f : FFlags) (w : Nat) :
    (addDeferred s r vs us ls ws f w).cores = s.cores := rfl
@[simp] theorem addDeferred_dir (s : State) (r : GRef) (vs us : List Nat) (ls : List (Nat × Nat × Word)) (ws : List (Nat × Word)) (f : FFlags) (w : Nat) :
    (addDeferred s r vs us ls ws f w).dir = s.dir := rfl
@[simp] theorem addDeferred_waits (s : State) (r : GRef) (vs us : List Nat) (ls : List (Nat × Nat × Word)) (ws : List (Nat × Word)) (f : FFlags) (w : Nat) :
    (addDeferred s r vs us ls ws f w).waits = s.waits := rfl
@[simp] theorem addDeferred_insts (s : State) (r : GRef) (vs us : List Nat) (ls : List (Nat × Nat × Word)) (ws : List (Nat × Word)) (f : FFlags) (w : Nat) :
    (addDeferred s r vs us ls ws f w).insts = s.insts := rfl
@[simp] theorem addDeferred_faults (s : State) (r : GRef) (vs us : List Nat) (ls : List (Nat × Nat × Word)) (ws : List (Nat × Word)) (f : FFlags) (w : Nat) :
    (addDeferred s r vs us ls ws f w).faults = s.faults := rfl
@[simp] theorem addDeferred_copies (s : State) (r : GRef) (vs us : List Nat) (ls : List (Nat × Nat × Word)) (ws : List (Nat × Word)) (f : FFlags) (w : Nat) :
    (addDeferred s r vs us ls ws f w).copies = s.copies := rfl
@[simp] theorem addDeferred_subHomes (s : State) (r : GRef) (vs us : List Nat) (ls : List (Nat × Nat × Word)) (ws : List (Nat × Word)) (f : FFlags) (w : Nat) :
    (addDeferred s r vs us ls ws f w).subHomes = s.subHomes := rfl
@[simp] theorem addDeferred_deliveries (s : State) (r : GRef) (vs us : List Nat) (ls : List (Nat × Nat × Word)) (ws : List (Nat × Word)) (f : FFlags) (w : Nat) :
    (addDeferred s r vs us ls ws f w).deliveries = s.deliveries := rfl
@[simp] theorem addDeferred_fabric (s : State) (r : GRef) (vs us : List Nat) (ls : List (Nat × Nat × Word)) (ws : List (Nat × Word)) (f : FFlags) (w : Nat) :
    (addDeferred s r vs us ls ws f w).fabric = s.fabric := rfl
@[simp] theorem addDeferred_harts (s : State) (r : GRef) (vs us : List Nat) (ls : List (Nat × Nat × Word)) (ws : List (Nat × Word)) (f : FFlags) (w : Nat) :
    (addDeferred s r vs us ls ws f w).harts = s.harts := rfl
@[simp] theorem addDeferred_xfers (s : State) (r : GRef) (vs us : List Nat) (ls : List (Nat × Nat × Word)) (ws : List (Nat × Word)) (f : FFlags) (w : Nat) :
    (addDeferred s r vs us ls ws f w).xfers = s.xfers := rfl
@[simp] theorem addDeferred_queues (s : State) (r : GRef) (vs us : List Nat) (ls : List (Nat × Nat × Word)) (ws : List (Nat × Word)) (f : FFlags) (w : Nat) :
    (addDeferred s r vs us ls ws f w).queues = s.queues := rfl
@[simp] theorem addDeferred_lode (s : State) (r : GRef) (vs us : List Nat) (ls : List (Nat × Nat × Word)) (ws : List (Nat × Word)) (f : FFlags) (w : Nat) :
    (addDeferred s r vs us ls ws f w).lode = s.lode := rfl
@[simp] theorem addDeferred_trn (s : State) (r : GRef) (vs us : List Nat) (ls : List (Nat × Nat × Word)) (ws : List (Nat × Word)) (f : FFlags) (w : Nat) :
    (addDeferred s r vs us ls ws f w).trn = s.trn := rfl
@[simp] theorem addDeferred_regions (s : State) (r : GRef) (vs us : List Nat) (ls : List (Nat × Nat × Word)) (ws : List (Nat × Word)) (f : FFlags) (w : Nat) :
    (addDeferred s r vs us ls ws f w).regions = s.regions := rfl
@[simp] theorem addDeferred_vifs (s : State) (r : GRef) (vs us : List Nat) (ls : List (Nat × Nat × Word)) (ws : List (Nat × Word)) (f : FFlags) (w : Nat) :
    (addDeferred s r vs us ls ws f w).vifs = s.vifs := rfl
@[simp] theorem addDeferred_mgt (s : State) (r : GRef) (vs us : List Nat) (ls : List (Nat × Nat × Word)) (ws : List (Nat × Word)) (f : FFlags) (w : Nat) :
    (addDeferred s r vs us ls ws f w).mgt = s.mgt := rfl

/-! ### writeLanes -/

@[simp] theorem writeLanes_build (c : Ctx) (d : Nat) (f : Nat → Word) (s : State) :
    (writeLanes c d f s).build = s.build := rfl
@[simp] theorem writeLanes_clock (c : Ctx) (d : Nat) (f : Nat → Word) (s : State) :
    (writeLanes c d f s).clock = s.clock := rfl
@[simp] theorem writeLanes_actor (c : Ctx) (d : Nat) (f : Nat → Word) (s : State) :
    (writeLanes c d f s).actor = s.actor := rfl
@[simp] theorem writeLanes_moves (c : Ctx) (d : Nat) (f : Nat → Word) (s : State) :
    (writeLanes c d f s).moves = s.moves := rfl
@[simp] theorem writeLanes_free (c : Ctx) (d : Nat) (f : Nat → Word) (s : State) :
    (writeLanes c d f s).free = s.free := rfl
@[simp] theorem writeLanes_fresh (c : Ctx) (d : Nat) (f : Nat → Word) (s : State) :
    (writeLanes c d f s).fresh = s.fresh := rfl
@[simp] theorem writeLanes_mem (c : Ctx) (d : Nat) (f : Nat → Word) (s : State) :
    (writeLanes c d f s).mem = s.mem := rfl
@[simp] theorem writeLanes_badMem (c : Ctx) (d : Nat) (f : Nat → Word) (s : State) :
    (writeLanes c d f s).badMem = s.badMem := rfl
@[simp] theorem writeLanes_codeLog (c : Ctx) (d : Nat) (f : Nat → Word) (s : State) :
    (writeLanes c d f s).codeLog = s.codeLog := rfl
@[simp] theorem writeLanes_ridge (c : Ctx) (d : Nat) (f : Nat → Word) (s : State) :
    (writeLanes c d f s).ridge = s.ridge := rfl
@[simp] theorem writeLanes_cores (c : Ctx) (d : Nat) (f : Nat → Word) (s : State) :
    (writeLanes c d f s).cores = s.cores := rfl
@[simp] theorem writeLanes_dir (c : Ctx) (d : Nat) (f : Nat → Word) (s : State) :
    (writeLanes c d f s).dir = s.dir := rfl
@[simp] theorem writeLanes_waits (c : Ctx) (d : Nat) (f : Nat → Word) (s : State) :
    (writeLanes c d f s).waits = s.waits := rfl
@[simp] theorem writeLanes_insts (c : Ctx) (d : Nat) (f : Nat → Word) (s : State) :
    (writeLanes c d f s).insts = s.insts := rfl
@[simp] theorem writeLanes_faults (c : Ctx) (d : Nat) (f : Nat → Word) (s : State) :
    (writeLanes c d f s).faults = s.faults := rfl
@[simp] theorem writeLanes_copies (c : Ctx) (d : Nat) (f : Nat → Word) (s : State) :
    (writeLanes c d f s).copies = s.copies := rfl
@[simp] theorem writeLanes_subHomes (c : Ctx) (d : Nat) (f : Nat → Word) (s : State) :
    (writeLanes c d f s).subHomes = s.subHomes := rfl
@[simp] theorem writeLanes_deliveries (c : Ctx) (d : Nat) (f : Nat → Word) (s : State) :
    (writeLanes c d f s).deliveries = s.deliveries := rfl
@[simp] theorem writeLanes_fabric (c : Ctx) (d : Nat) (f : Nat → Word) (s : State) :
    (writeLanes c d f s).fabric = s.fabric := rfl
@[simp] theorem writeLanes_harts (c : Ctx) (d : Nat) (f : Nat → Word) (s : State) :
    (writeLanes c d f s).harts = s.harts := rfl
@[simp] theorem writeLanes_xfers (c : Ctx) (d : Nat) (f : Nat → Word) (s : State) :
    (writeLanes c d f s).xfers = s.xfers := rfl
@[simp] theorem writeLanes_queues (c : Ctx) (d : Nat) (f : Nat → Word) (s : State) :
    (writeLanes c d f s).queues = s.queues := rfl
@[simp] theorem writeLanes_lode (c : Ctx) (d : Nat) (f : Nat → Word) (s : State) :
    (writeLanes c d f s).lode = s.lode := rfl
@[simp] theorem writeLanes_trn (c : Ctx) (d : Nat) (f : Nat → Word) (s : State) :
    (writeLanes c d f s).trn = s.trn := rfl
@[simp] theorem writeLanes_regions (c : Ctx) (d : Nat) (f : Nat → Word) (s : State) :
    (writeLanes c d f s).regions = s.regions := rfl
@[simp] theorem writeLanes_vifs (c : Ctx) (d : Nat) (f : Nat → Word) (s : State) :
    (writeLanes c d f s).vifs = s.vifs := rfl
@[simp] theorem writeLanes_mgt (c : Ctx) (d : Nat) (f : Nat → Word) (s : State) :
    (writeLanes c d f s).mgt = s.mgt := rfl

/-! ### writePairs -/

@[simp] theorem writePairs_build (c : Ctx) (d : Nat) (f : Nat → DWord) (s : State) :
    (writePairs c d f s).build = s.build := rfl
@[simp] theorem writePairs_clock (c : Ctx) (d : Nat) (f : Nat → DWord) (s : State) :
    (writePairs c d f s).clock = s.clock := rfl
@[simp] theorem writePairs_actor (c : Ctx) (d : Nat) (f : Nat → DWord) (s : State) :
    (writePairs c d f s).actor = s.actor := rfl
@[simp] theorem writePairs_moves (c : Ctx) (d : Nat) (f : Nat → DWord) (s : State) :
    (writePairs c d f s).moves = s.moves := rfl
@[simp] theorem writePairs_free (c : Ctx) (d : Nat) (f : Nat → DWord) (s : State) :
    (writePairs c d f s).free = s.free := rfl
@[simp] theorem writePairs_fresh (c : Ctx) (d : Nat) (f : Nat → DWord) (s : State) :
    (writePairs c d f s).fresh = s.fresh := rfl
@[simp] theorem writePairs_mem (c : Ctx) (d : Nat) (f : Nat → DWord) (s : State) :
    (writePairs c d f s).mem = s.mem := rfl
@[simp] theorem writePairs_badMem (c : Ctx) (d : Nat) (f : Nat → DWord) (s : State) :
    (writePairs c d f s).badMem = s.badMem := rfl
@[simp] theorem writePairs_codeLog (c : Ctx) (d : Nat) (f : Nat → DWord) (s : State) :
    (writePairs c d f s).codeLog = s.codeLog := rfl
@[simp] theorem writePairs_ridge (c : Ctx) (d : Nat) (f : Nat → DWord) (s : State) :
    (writePairs c d f s).ridge = s.ridge := rfl
@[simp] theorem writePairs_cores (c : Ctx) (d : Nat) (f : Nat → DWord) (s : State) :
    (writePairs c d f s).cores = s.cores := rfl
@[simp] theorem writePairs_dir (c : Ctx) (d : Nat) (f : Nat → DWord) (s : State) :
    (writePairs c d f s).dir = s.dir := rfl
@[simp] theorem writePairs_waits (c : Ctx) (d : Nat) (f : Nat → DWord) (s : State) :
    (writePairs c d f s).waits = s.waits := rfl
@[simp] theorem writePairs_insts (c : Ctx) (d : Nat) (f : Nat → DWord) (s : State) :
    (writePairs c d f s).insts = s.insts := rfl
@[simp] theorem writePairs_faults (c : Ctx) (d : Nat) (f : Nat → DWord) (s : State) :
    (writePairs c d f s).faults = s.faults := rfl
@[simp] theorem writePairs_copies (c : Ctx) (d : Nat) (f : Nat → DWord) (s : State) :
    (writePairs c d f s).copies = s.copies := rfl
@[simp] theorem writePairs_subHomes (c : Ctx) (d : Nat) (f : Nat → DWord) (s : State) :
    (writePairs c d f s).subHomes = s.subHomes := rfl
@[simp] theorem writePairs_deliveries (c : Ctx) (d : Nat) (f : Nat → DWord) (s : State) :
    (writePairs c d f s).deliveries = s.deliveries := rfl
@[simp] theorem writePairs_fabric (c : Ctx) (d : Nat) (f : Nat → DWord) (s : State) :
    (writePairs c d f s).fabric = s.fabric := rfl
@[simp] theorem writePairs_harts (c : Ctx) (d : Nat) (f : Nat → DWord) (s : State) :
    (writePairs c d f s).harts = s.harts := rfl
@[simp] theorem writePairs_xfers (c : Ctx) (d : Nat) (f : Nat → DWord) (s : State) :
    (writePairs c d f s).xfers = s.xfers := rfl
@[simp] theorem writePairs_queues (c : Ctx) (d : Nat) (f : Nat → DWord) (s : State) :
    (writePairs c d f s).queues = s.queues := rfl
@[simp] theorem writePairs_lode (c : Ctx) (d : Nat) (f : Nat → DWord) (s : State) :
    (writePairs c d f s).lode = s.lode := rfl
@[simp] theorem writePairs_trn (c : Ctx) (d : Nat) (f : Nat → DWord) (s : State) :
    (writePairs c d f s).trn = s.trn := rfl
@[simp] theorem writePairs_regions (c : Ctx) (d : Nat) (f : Nat → DWord) (s : State) :
    (writePairs c d f s).regions = s.regions := rfl
@[simp] theorem writePairs_vifs (c : Ctx) (d : Nat) (f : Nat → DWord) (s : State) :
    (writePairs c d f s).vifs = s.vifs := rfl
@[simp] theorem writePairs_mgt (c : Ctx) (d : Nat) (f : Nat → DWord) (s : State) :
    (writePairs c d f s).mgt = s.mgt := rfl

/-! ### raiseFlags -/

@[simp] theorem raiseFlags_build (c : Ctx) (f : FFlags) (s : State) :
    (raiseFlags c f s).build = s.build := rfl
@[simp] theorem raiseFlags_clock (c : Ctx) (f : FFlags) (s : State) :
    (raiseFlags c f s).clock = s.clock := rfl
@[simp] theorem raiseFlags_actor (c : Ctx) (f : FFlags) (s : State) :
    (raiseFlags c f s).actor = s.actor := rfl
@[simp] theorem raiseFlags_moves (c : Ctx) (f : FFlags) (s : State) :
    (raiseFlags c f s).moves = s.moves := rfl
@[simp] theorem raiseFlags_free (c : Ctx) (f : FFlags) (s : State) :
    (raiseFlags c f s).free = s.free := rfl
@[simp] theorem raiseFlags_fresh (c : Ctx) (f : FFlags) (s : State) :
    (raiseFlags c f s).fresh = s.fresh := rfl
@[simp] theorem raiseFlags_mem (c : Ctx) (f : FFlags) (s : State) :
    (raiseFlags c f s).mem = s.mem := rfl
@[simp] theorem raiseFlags_badMem (c : Ctx) (f : FFlags) (s : State) :
    (raiseFlags c f s).badMem = s.badMem := rfl
@[simp] theorem raiseFlags_codeLog (c : Ctx) (f : FFlags) (s : State) :
    (raiseFlags c f s).codeLog = s.codeLog := rfl
@[simp] theorem raiseFlags_ridge (c : Ctx) (f : FFlags) (s : State) :
    (raiseFlags c f s).ridge = s.ridge := rfl
@[simp] theorem raiseFlags_cores (c : Ctx) (f : FFlags) (s : State) :
    (raiseFlags c f s).cores = s.cores := rfl
@[simp] theorem raiseFlags_dir (c : Ctx) (f : FFlags) (s : State) :
    (raiseFlags c f s).dir = s.dir := rfl
@[simp] theorem raiseFlags_waits (c : Ctx) (f : FFlags) (s : State) :
    (raiseFlags c f s).waits = s.waits := rfl
@[simp] theorem raiseFlags_insts (c : Ctx) (f : FFlags) (s : State) :
    (raiseFlags c f s).insts = s.insts := rfl
@[simp] theorem raiseFlags_faults (c : Ctx) (f : FFlags) (s : State) :
    (raiseFlags c f s).faults = s.faults := rfl
@[simp] theorem raiseFlags_copies (c : Ctx) (f : FFlags) (s : State) :
    (raiseFlags c f s).copies = s.copies := rfl
@[simp] theorem raiseFlags_subHomes (c : Ctx) (f : FFlags) (s : State) :
    (raiseFlags c f s).subHomes = s.subHomes := rfl
@[simp] theorem raiseFlags_deliveries (c : Ctx) (f : FFlags) (s : State) :
    (raiseFlags c f s).deliveries = s.deliveries := rfl
@[simp] theorem raiseFlags_fabric (c : Ctx) (f : FFlags) (s : State) :
    (raiseFlags c f s).fabric = s.fabric := rfl
@[simp] theorem raiseFlags_harts (c : Ctx) (f : FFlags) (s : State) :
    (raiseFlags c f s).harts = s.harts := rfl
@[simp] theorem raiseFlags_xfers (c : Ctx) (f : FFlags) (s : State) :
    (raiseFlags c f s).xfers = s.xfers := rfl
@[simp] theorem raiseFlags_queues (c : Ctx) (f : FFlags) (s : State) :
    (raiseFlags c f s).queues = s.queues := rfl
@[simp] theorem raiseFlags_lode (c : Ctx) (f : FFlags) (s : State) :
    (raiseFlags c f s).lode = s.lode := rfl
@[simp] theorem raiseFlags_trn (c : Ctx) (f : FFlags) (s : State) :
    (raiseFlags c f s).trn = s.trn := rfl
@[simp] theorem raiseFlags_regions (c : Ctx) (f : FFlags) (s : State) :
    (raiseFlags c f s).regions = s.regions := rfl
@[simp] theorem raiseFlags_vifs (c : Ctx) (f : FFlags) (s : State) :
    (raiseFlags c f s).vifs = s.vifs := rfl
@[simp] theorem raiseFlags_mgt (c : Ctx) (f : FFlags) (s : State) :
    (raiseFlags c f s).mgt = s.mgt := rfl

/-! ### writeU -/

@[simp] theorem writeU_build (c : Ctx) (d : Nat) (v : Word) (s : State) :
    (writeU c d v s).build = s.build := rfl
@[simp] theorem writeU_clock (c : Ctx) (d : Nat) (v : Word) (s : State) :
    (writeU c d v s).clock = s.clock := rfl
@[simp] theorem writeU_actor (c : Ctx) (d : Nat) (v : Word) (s : State) :
    (writeU c d v s).actor = s.actor := rfl
@[simp] theorem writeU_moves (c : Ctx) (d : Nat) (v : Word) (s : State) :
    (writeU c d v s).moves = s.moves := rfl
@[simp] theorem writeU_free (c : Ctx) (d : Nat) (v : Word) (s : State) :
    (writeU c d v s).free = s.free := rfl
@[simp] theorem writeU_fresh (c : Ctx) (d : Nat) (v : Word) (s : State) :
    (writeU c d v s).fresh = s.fresh := rfl
@[simp] theorem writeU_mem (c : Ctx) (d : Nat) (v : Word) (s : State) :
    (writeU c d v s).mem = s.mem := rfl
@[simp] theorem writeU_badMem (c : Ctx) (d : Nat) (v : Word) (s : State) :
    (writeU c d v s).badMem = s.badMem := rfl
@[simp] theorem writeU_codeLog (c : Ctx) (d : Nat) (v : Word) (s : State) :
    (writeU c d v s).codeLog = s.codeLog := rfl
@[simp] theorem writeU_ridge (c : Ctx) (d : Nat) (v : Word) (s : State) :
    (writeU c d v s).ridge = s.ridge := rfl
@[simp] theorem writeU_cores (c : Ctx) (d : Nat) (v : Word) (s : State) :
    (writeU c d v s).cores = s.cores := rfl
@[simp] theorem writeU_dir (c : Ctx) (d : Nat) (v : Word) (s : State) :
    (writeU c d v s).dir = s.dir := rfl
@[simp] theorem writeU_waits (c : Ctx) (d : Nat) (v : Word) (s : State) :
    (writeU c d v s).waits = s.waits := rfl
@[simp] theorem writeU_insts (c : Ctx) (d : Nat) (v : Word) (s : State) :
    (writeU c d v s).insts = s.insts := rfl
@[simp] theorem writeU_faults (c : Ctx) (d : Nat) (v : Word) (s : State) :
    (writeU c d v s).faults = s.faults := rfl
@[simp] theorem writeU_copies (c : Ctx) (d : Nat) (v : Word) (s : State) :
    (writeU c d v s).copies = s.copies := rfl
@[simp] theorem writeU_subHomes (c : Ctx) (d : Nat) (v : Word) (s : State) :
    (writeU c d v s).subHomes = s.subHomes := rfl
@[simp] theorem writeU_deliveries (c : Ctx) (d : Nat) (v : Word) (s : State) :
    (writeU c d v s).deliveries = s.deliveries := rfl
@[simp] theorem writeU_fabric (c : Ctx) (d : Nat) (v : Word) (s : State) :
    (writeU c d v s).fabric = s.fabric := rfl
@[simp] theorem writeU_harts (c : Ctx) (d : Nat) (v : Word) (s : State) :
    (writeU c d v s).harts = s.harts := rfl
@[simp] theorem writeU_xfers (c : Ctx) (d : Nat) (v : Word) (s : State) :
    (writeU c d v s).xfers = s.xfers := rfl
@[simp] theorem writeU_queues (c : Ctx) (d : Nat) (v : Word) (s : State) :
    (writeU c d v s).queues = s.queues := rfl
@[simp] theorem writeU_lode (c : Ctx) (d : Nat) (v : Word) (s : State) :
    (writeU c d v s).lode = s.lode := rfl
@[simp] theorem writeU_trn (c : Ctx) (d : Nat) (v : Word) (s : State) :
    (writeU c d v s).trn = s.trn := rfl
@[simp] theorem writeU_regions (c : Ctx) (d : Nat) (v : Word) (s : State) :
    (writeU c d v s).regions = s.regions := rfl
@[simp] theorem writeU_vifs (c : Ctx) (d : Nat) (v : Word) (s : State) :
    (writeU c d v s).vifs = s.vifs := rfl
@[simp] theorem writeU_mgt (c : Ctx) (d : Nat) (v : Word) (s : State) :
    (writeU c d v s).mgt = s.mgt := rfl

/-! ### writeUPair -/

@[simp] theorem writeUPair_build (c : Ctx) (d : Nat) (v : DWord) (s : State) :
    (writeUPair c d v s).build = s.build := rfl
@[simp] theorem writeUPair_clock (c : Ctx) (d : Nat) (v : DWord) (s : State) :
    (writeUPair c d v s).clock = s.clock := rfl
@[simp] theorem writeUPair_actor (c : Ctx) (d : Nat) (v : DWord) (s : State) :
    (writeUPair c d v s).actor = s.actor := rfl
@[simp] theorem writeUPair_moves (c : Ctx) (d : Nat) (v : DWord) (s : State) :
    (writeUPair c d v s).moves = s.moves := rfl
@[simp] theorem writeUPair_free (c : Ctx) (d : Nat) (v : DWord) (s : State) :
    (writeUPair c d v s).free = s.free := rfl
@[simp] theorem writeUPair_fresh (c : Ctx) (d : Nat) (v : DWord) (s : State) :
    (writeUPair c d v s).fresh = s.fresh := rfl
@[simp] theorem writeUPair_mem (c : Ctx) (d : Nat) (v : DWord) (s : State) :
    (writeUPair c d v s).mem = s.mem := rfl
@[simp] theorem writeUPair_badMem (c : Ctx) (d : Nat) (v : DWord) (s : State) :
    (writeUPair c d v s).badMem = s.badMem := rfl
@[simp] theorem writeUPair_codeLog (c : Ctx) (d : Nat) (v : DWord) (s : State) :
    (writeUPair c d v s).codeLog = s.codeLog := rfl
@[simp] theorem writeUPair_ridge (c : Ctx) (d : Nat) (v : DWord) (s : State) :
    (writeUPair c d v s).ridge = s.ridge := rfl
@[simp] theorem writeUPair_cores (c : Ctx) (d : Nat) (v : DWord) (s : State) :
    (writeUPair c d v s).cores = s.cores := rfl
@[simp] theorem writeUPair_dir (c : Ctx) (d : Nat) (v : DWord) (s : State) :
    (writeUPair c d v s).dir = s.dir := rfl
@[simp] theorem writeUPair_waits (c : Ctx) (d : Nat) (v : DWord) (s : State) :
    (writeUPair c d v s).waits = s.waits := rfl
@[simp] theorem writeUPair_insts (c : Ctx) (d : Nat) (v : DWord) (s : State) :
    (writeUPair c d v s).insts = s.insts := rfl
@[simp] theorem writeUPair_faults (c : Ctx) (d : Nat) (v : DWord) (s : State) :
    (writeUPair c d v s).faults = s.faults := rfl
@[simp] theorem writeUPair_copies (c : Ctx) (d : Nat) (v : DWord) (s : State) :
    (writeUPair c d v s).copies = s.copies := rfl
@[simp] theorem writeUPair_subHomes (c : Ctx) (d : Nat) (v : DWord) (s : State) :
    (writeUPair c d v s).subHomes = s.subHomes := rfl
@[simp] theorem writeUPair_deliveries (c : Ctx) (d : Nat) (v : DWord) (s : State) :
    (writeUPair c d v s).deliveries = s.deliveries := rfl
@[simp] theorem writeUPair_fabric (c : Ctx) (d : Nat) (v : DWord) (s : State) :
    (writeUPair c d v s).fabric = s.fabric := rfl
@[simp] theorem writeUPair_harts (c : Ctx) (d : Nat) (v : DWord) (s : State) :
    (writeUPair c d v s).harts = s.harts := rfl
@[simp] theorem writeUPair_xfers (c : Ctx) (d : Nat) (v : DWord) (s : State) :
    (writeUPair c d v s).xfers = s.xfers := rfl
@[simp] theorem writeUPair_queues (c : Ctx) (d : Nat) (v : DWord) (s : State) :
    (writeUPair c d v s).queues = s.queues := rfl
@[simp] theorem writeUPair_lode (c : Ctx) (d : Nat) (v : DWord) (s : State) :
    (writeUPair c d v s).lode = s.lode := rfl
@[simp] theorem writeUPair_trn (c : Ctx) (d : Nat) (v : DWord) (s : State) :
    (writeUPair c d v s).trn = s.trn := rfl
@[simp] theorem writeUPair_regions (c : Ctx) (d : Nat) (v : DWord) (s : State) :
    (writeUPair c d v s).regions = s.regions := rfl
@[simp] theorem writeUPair_vifs (c : Ctx) (d : Nat) (v : DWord) (s : State) :
    (writeUPair c d v s).vifs = s.vifs := rfl
@[simp] theorem writeUPair_mgt (c : Ctx) (d : Nat) (v : DWord) (s : State) :
    (writeUPair c d v s).mgt = s.mgt := rfl

/-! ### deferLanes -/

@[simp] theorem deferLanes_build (c : Ctx) (d n : Nat) (f : Nat → List Word) (x : FFlags) (s : State) :
    (deferLanes c d n f x s).build = s.build := rfl
@[simp] theorem deferLanes_clock (c : Ctx) (d n : Nat) (f : Nat → List Word) (x : FFlags) (s : State) :
    (deferLanes c d n f x s).clock = s.clock := rfl
@[simp] theorem deferLanes_actor (c : Ctx) (d n : Nat) (f : Nat → List Word) (x : FFlags) (s : State) :
    (deferLanes c d n f x s).actor = s.actor := rfl
@[simp] theorem deferLanes_moves (c : Ctx) (d n : Nat) (f : Nat → List Word) (x : FFlags) (s : State) :
    (deferLanes c d n f x s).moves = s.moves := rfl
@[simp] theorem deferLanes_free (c : Ctx) (d n : Nat) (f : Nat → List Word) (x : FFlags) (s : State) :
    (deferLanes c d n f x s).free = s.free := rfl
@[simp] theorem deferLanes_mem (c : Ctx) (d n : Nat) (f : Nat → List Word) (x : FFlags) (s : State) :
    (deferLanes c d n f x s).mem = s.mem := rfl
@[simp] theorem deferLanes_badMem (c : Ctx) (d n : Nat) (f : Nat → List Word) (x : FFlags) (s : State) :
    (deferLanes c d n f x s).badMem = s.badMem := rfl
@[simp] theorem deferLanes_codeLog (c : Ctx) (d n : Nat) (f : Nat → List Word) (x : FFlags) (s : State) :
    (deferLanes c d n f x s).codeLog = s.codeLog := rfl
@[simp] theorem deferLanes_ridge (c : Ctx) (d n : Nat) (f : Nat → List Word) (x : FFlags) (s : State) :
    (deferLanes c d n f x s).ridge = s.ridge := rfl
@[simp] theorem deferLanes_cores (c : Ctx) (d n : Nat) (f : Nat → List Word) (x : FFlags) (s : State) :
    (deferLanes c d n f x s).cores = s.cores := rfl
@[simp] theorem deferLanes_dir (c : Ctx) (d n : Nat) (f : Nat → List Word) (x : FFlags) (s : State) :
    (deferLanes c d n f x s).dir = s.dir := rfl
@[simp] theorem deferLanes_waits (c : Ctx) (d n : Nat) (f : Nat → List Word) (x : FFlags) (s : State) :
    (deferLanes c d n f x s).waits = s.waits := rfl
@[simp] theorem deferLanes_insts (c : Ctx) (d n : Nat) (f : Nat → List Word) (x : FFlags) (s : State) :
    (deferLanes c d n f x s).insts = s.insts := rfl
@[simp] theorem deferLanes_faults (c : Ctx) (d n : Nat) (f : Nat → List Word) (x : FFlags) (s : State) :
    (deferLanes c d n f x s).faults = s.faults := rfl
@[simp] theorem deferLanes_copies (c : Ctx) (d n : Nat) (f : Nat → List Word) (x : FFlags) (s : State) :
    (deferLanes c d n f x s).copies = s.copies := rfl
@[simp] theorem deferLanes_subHomes (c : Ctx) (d n : Nat) (f : Nat → List Word) (x : FFlags) (s : State) :
    (deferLanes c d n f x s).subHomes = s.subHomes := rfl
@[simp] theorem deferLanes_deliveries (c : Ctx) (d n : Nat) (f : Nat → List Word) (x : FFlags) (s : State) :
    (deferLanes c d n f x s).deliveries = s.deliveries := rfl
@[simp] theorem deferLanes_fabric (c : Ctx) (d n : Nat) (f : Nat → List Word) (x : FFlags) (s : State) :
    (deferLanes c d n f x s).fabric = s.fabric := rfl
@[simp] theorem deferLanes_harts (c : Ctx) (d n : Nat) (f : Nat → List Word) (x : FFlags) (s : State) :
    (deferLanes c d n f x s).harts = s.harts := rfl
@[simp] theorem deferLanes_xfers (c : Ctx) (d n : Nat) (f : Nat → List Word) (x : FFlags) (s : State) :
    (deferLanes c d n f x s).xfers = s.xfers := rfl
@[simp] theorem deferLanes_queues (c : Ctx) (d n : Nat) (f : Nat → List Word) (x : FFlags) (s : State) :
    (deferLanes c d n f x s).queues = s.queues := rfl
@[simp] theorem deferLanes_lode (c : Ctx) (d n : Nat) (f : Nat → List Word) (x : FFlags) (s : State) :
    (deferLanes c d n f x s).lode = s.lode := rfl
@[simp] theorem deferLanes_trn (c : Ctx) (d n : Nat) (f : Nat → List Word) (x : FFlags) (s : State) :
    (deferLanes c d n f x s).trn = s.trn := rfl
@[simp] theorem deferLanes_regions (c : Ctx) (d n : Nat) (f : Nat → List Word) (x : FFlags) (s : State) :
    (deferLanes c d n f x s).regions = s.regions := rfl
@[simp] theorem deferLanes_vifs (c : Ctx) (d n : Nat) (f : Nat → List Word) (x : FFlags) (s : State) :
    (deferLanes c d n f x s).vifs = s.vifs := rfl
@[simp] theorem deferLanes_mgt (c : Ctx) (d n : Nat) (f : Nat → List Word) (x : FFlags) (s : State) :
    (deferLanes c d n f x s).mgt = s.mgt := rfl

/-! ### deferUni -/

@[simp] theorem deferUni_build (c : Ctx) (d : Nat) (l : List Word) (s : State) :
    (deferUni c d l s).build = s.build := rfl
@[simp] theorem deferUni_clock (c : Ctx) (d : Nat) (l : List Word) (s : State) :
    (deferUni c d l s).clock = s.clock := rfl
@[simp] theorem deferUni_actor (c : Ctx) (d : Nat) (l : List Word) (s : State) :
    (deferUni c d l s).actor = s.actor := rfl
@[simp] theorem deferUni_moves (c : Ctx) (d : Nat) (l : List Word) (s : State) :
    (deferUni c d l s).moves = s.moves := rfl
@[simp] theorem deferUni_free (c : Ctx) (d : Nat) (l : List Word) (s : State) :
    (deferUni c d l s).free = s.free := rfl
@[simp] theorem deferUni_mem (c : Ctx) (d : Nat) (l : List Word) (s : State) :
    (deferUni c d l s).mem = s.mem := rfl
@[simp] theorem deferUni_badMem (c : Ctx) (d : Nat) (l : List Word) (s : State) :
    (deferUni c d l s).badMem = s.badMem := rfl
@[simp] theorem deferUni_codeLog (c : Ctx) (d : Nat) (l : List Word) (s : State) :
    (deferUni c d l s).codeLog = s.codeLog := rfl
@[simp] theorem deferUni_ridge (c : Ctx) (d : Nat) (l : List Word) (s : State) :
    (deferUni c d l s).ridge = s.ridge := rfl
@[simp] theorem deferUni_cores (c : Ctx) (d : Nat) (l : List Word) (s : State) :
    (deferUni c d l s).cores = s.cores := rfl
@[simp] theorem deferUni_dir (c : Ctx) (d : Nat) (l : List Word) (s : State) :
    (deferUni c d l s).dir = s.dir := rfl
@[simp] theorem deferUni_waits (c : Ctx) (d : Nat) (l : List Word) (s : State) :
    (deferUni c d l s).waits = s.waits := rfl
@[simp] theorem deferUni_insts (c : Ctx) (d : Nat) (l : List Word) (s : State) :
    (deferUni c d l s).insts = s.insts := rfl
@[simp] theorem deferUni_faults (c : Ctx) (d : Nat) (l : List Word) (s : State) :
    (deferUni c d l s).faults = s.faults := rfl
@[simp] theorem deferUni_copies (c : Ctx) (d : Nat) (l : List Word) (s : State) :
    (deferUni c d l s).copies = s.copies := rfl
@[simp] theorem deferUni_subHomes (c : Ctx) (d : Nat) (l : List Word) (s : State) :
    (deferUni c d l s).subHomes = s.subHomes := rfl
@[simp] theorem deferUni_deliveries (c : Ctx) (d : Nat) (l : List Word) (s : State) :
    (deferUni c d l s).deliveries = s.deliveries := rfl
@[simp] theorem deferUni_fabric (c : Ctx) (d : Nat) (l : List Word) (s : State) :
    (deferUni c d l s).fabric = s.fabric := rfl
@[simp] theorem deferUni_harts (c : Ctx) (d : Nat) (l : List Word) (s : State) :
    (deferUni c d l s).harts = s.harts := rfl
@[simp] theorem deferUni_xfers (c : Ctx) (d : Nat) (l : List Word) (s : State) :
    (deferUni c d l s).xfers = s.xfers := rfl
@[simp] theorem deferUni_queues (c : Ctx) (d : Nat) (l : List Word) (s : State) :
    (deferUni c d l s).queues = s.queues := rfl
@[simp] theorem deferUni_lode (c : Ctx) (d : Nat) (l : List Word) (s : State) :
    (deferUni c d l s).lode = s.lode := rfl
@[simp] theorem deferUni_trn (c : Ctx) (d : Nat) (l : List Word) (s : State) :
    (deferUni c d l s).trn = s.trn := rfl
@[simp] theorem deferUni_regions (c : Ctx) (d : Nat) (l : List Word) (s : State) :
    (deferUni c d l s).regions = s.regions := rfl
@[simp] theorem deferUni_vifs (c : Ctx) (d : Nat) (l : List Word) (s : State) :
    (deferUni c d l s).vifs = s.vifs := rfl
@[simp] theorem deferUni_mgt (c : Ctx) (d : Nat) (l : List Word) (s : State) :
    (deferUni c d l s).mgt = s.mgt := rfl

/-! ### afterIssue -/

@[simp] theorem afterIssue_build (c : Ctx) (b : Bool) (s : State) :
    (afterIssue c b s).build = s.build := rfl
@[simp] theorem afterIssue_clock (c : Ctx) (b : Bool) (s : State) :
    (afterIssue c b s).clock = s.clock := rfl
@[simp] theorem afterIssue_actor (c : Ctx) (b : Bool) (s : State) :
    (afterIssue c b s).actor = s.actor := rfl
@[simp] theorem afterIssue_moves (c : Ctx) (b : Bool) (s : State) :
    (afterIssue c b s).moves = s.moves := rfl
@[simp] theorem afterIssue_free (c : Ctx) (b : Bool) (s : State) :
    (afterIssue c b s).free = s.free := rfl
@[simp] theorem afterIssue_fresh (c : Ctx) (b : Bool) (s : State) :
    (afterIssue c b s).fresh = s.fresh := rfl
@[simp] theorem afterIssue_mem (c : Ctx) (b : Bool) (s : State) :
    (afterIssue c b s).mem = s.mem := rfl
@[simp] theorem afterIssue_badMem (c : Ctx) (b : Bool) (s : State) :
    (afterIssue c b s).badMem = s.badMem := rfl
@[simp] theorem afterIssue_codeLog (c : Ctx) (b : Bool) (s : State) :
    (afterIssue c b s).codeLog = s.codeLog := rfl
@[simp] theorem afterIssue_ridge (c : Ctx) (b : Bool) (s : State) :
    (afterIssue c b s).ridge = s.ridge := rfl
@[simp] theorem afterIssue_cores (c : Ctx) (b : Bool) (s : State) :
    (afterIssue c b s).cores = s.cores := rfl
@[simp] theorem afterIssue_dir (c : Ctx) (b : Bool) (s : State) :
    (afterIssue c b s).dir = s.dir := rfl
@[simp] theorem afterIssue_waits (c : Ctx) (b : Bool) (s : State) :
    (afterIssue c b s).waits = s.waits := rfl
@[simp] theorem afterIssue_insts (c : Ctx) (b : Bool) (s : State) :
    (afterIssue c b s).insts = s.insts := rfl
@[simp] theorem afterIssue_faults (c : Ctx) (b : Bool) (s : State) :
    (afterIssue c b s).faults = s.faults := rfl
@[simp] theorem afterIssue_copies (c : Ctx) (b : Bool) (s : State) :
    (afterIssue c b s).copies = s.copies := rfl
@[simp] theorem afterIssue_subHomes (c : Ctx) (b : Bool) (s : State) :
    (afterIssue c b s).subHomes = s.subHomes := rfl
@[simp] theorem afterIssue_deliveries (c : Ctx) (b : Bool) (s : State) :
    (afterIssue c b s).deliveries = s.deliveries := rfl
@[simp] theorem afterIssue_fabric (c : Ctx) (b : Bool) (s : State) :
    (afterIssue c b s).fabric = s.fabric := rfl
@[simp] theorem afterIssue_harts (c : Ctx) (b : Bool) (s : State) :
    (afterIssue c b s).harts = s.harts := rfl
@[simp] theorem afterIssue_xfers (c : Ctx) (b : Bool) (s : State) :
    (afterIssue c b s).xfers = s.xfers := rfl
@[simp] theorem afterIssue_queues (c : Ctx) (b : Bool) (s : State) :
    (afterIssue c b s).queues = s.queues := rfl
@[simp] theorem afterIssue_lode (c : Ctx) (b : Bool) (s : State) :
    (afterIssue c b s).lode = s.lode := rfl
@[simp] theorem afterIssue_trn (c : Ctx) (b : Bool) (s : State) :
    (afterIssue c b s).trn = s.trn := rfl
@[simp] theorem afterIssue_regions (c : Ctx) (b : Bool) (s : State) :
    (afterIssue c b s).regions = s.regions := rfl
@[simp] theorem afterIssue_vifs (c : Ctx) (b : Bool) (s : State) :
    (afterIssue c b s).vifs = s.vifs := rfl
@[simp] theorem afterIssue_mgt (c : Ctx) (b : Bool) (s : State) :
    (afterIssue c b s).mgt = s.mgt := rfl

/-! ### setPcs -/

@[simp] theorem setPcs_build (s : State) (r : GRef) (l : List (Nat × DWord)) : (setPcs s r l).build = s.build := by
  induction l generalizing s with
  | nil => rfl
  | cons x l ih => simpa [setPcs] using ih (s.adjLane r x.1 fun ln => { ln with pc := x.2 })
@[simp] theorem setPcs_clock (s : State) (r : GRef) (l : List (Nat × DWord)) : (setPcs s r l).clock = s.clock := by
  induction l generalizing s with
  | nil => rfl
  | cons x l ih => simpa [setPcs] using ih (s.adjLane r x.1 fun ln => { ln with pc := x.2 })
@[simp] theorem setPcs_actor (s : State) (r : GRef) (l : List (Nat × DWord)) : (setPcs s r l).actor = s.actor := by
  induction l generalizing s with
  | nil => rfl
  | cons x l ih => simpa [setPcs] using ih (s.adjLane r x.1 fun ln => { ln with pc := x.2 })
@[simp] theorem setPcs_moves (s : State) (r : GRef) (l : List (Nat × DWord)) : (setPcs s r l).moves = s.moves := by
  induction l generalizing s with
  | nil => rfl
  | cons x l ih => simpa [setPcs] using ih (s.adjLane r x.1 fun ln => { ln with pc := x.2 })
@[simp] theorem setPcs_free (s : State) (r : GRef) (l : List (Nat × DWord)) : (setPcs s r l).free = s.free := by
  induction l generalizing s with
  | nil => rfl
  | cons x l ih => simpa [setPcs] using ih (s.adjLane r x.1 fun ln => { ln with pc := x.2 })
@[simp] theorem setPcs_fresh (s : State) (r : GRef) (l : List (Nat × DWord)) : (setPcs s r l).fresh = s.fresh := by
  induction l generalizing s with
  | nil => rfl
  | cons x l ih => simpa [setPcs] using ih (s.adjLane r x.1 fun ln => { ln with pc := x.2 })
@[simp] theorem setPcs_mem (s : State) (r : GRef) (l : List (Nat × DWord)) : (setPcs s r l).mem = s.mem := by
  induction l generalizing s with
  | nil => rfl
  | cons x l ih => simpa [setPcs] using ih (s.adjLane r x.1 fun ln => { ln with pc := x.2 })
@[simp] theorem setPcs_badMem (s : State) (r : GRef) (l : List (Nat × DWord)) : (setPcs s r l).badMem = s.badMem := by
  induction l generalizing s with
  | nil => rfl
  | cons x l ih => simpa [setPcs] using ih (s.adjLane r x.1 fun ln => { ln with pc := x.2 })
@[simp] theorem setPcs_codeLog (s : State) (r : GRef) (l : List (Nat × DWord)) : (setPcs s r l).codeLog = s.codeLog := by
  induction l generalizing s with
  | nil => rfl
  | cons x l ih => simpa [setPcs] using ih (s.adjLane r x.1 fun ln => { ln with pc := x.2 })
@[simp] theorem setPcs_ridge (s : State) (r : GRef) (l : List (Nat × DWord)) : (setPcs s r l).ridge = s.ridge := by
  induction l generalizing s with
  | nil => rfl
  | cons x l ih => simpa [setPcs] using ih (s.adjLane r x.1 fun ln => { ln with pc := x.2 })
@[simp] theorem setPcs_cores (s : State) (r : GRef) (l : List (Nat × DWord)) : (setPcs s r l).cores = s.cores := by
  induction l generalizing s with
  | nil => rfl
  | cons x l ih => simpa [setPcs] using ih (s.adjLane r x.1 fun ln => { ln with pc := x.2 })
@[simp] theorem setPcs_dir (s : State) (r : GRef) (l : List (Nat × DWord)) : (setPcs s r l).dir = s.dir := by
  induction l generalizing s with
  | nil => rfl
  | cons x l ih => simpa [setPcs] using ih (s.adjLane r x.1 fun ln => { ln with pc := x.2 })
@[simp] theorem setPcs_waits (s : State) (r : GRef) (l : List (Nat × DWord)) : (setPcs s r l).waits = s.waits := by
  induction l generalizing s with
  | nil => rfl
  | cons x l ih => simpa [setPcs] using ih (s.adjLane r x.1 fun ln => { ln with pc := x.2 })
@[simp] theorem setPcs_insts (s : State) (r : GRef) (l : List (Nat × DWord)) : (setPcs s r l).insts = s.insts := by
  induction l generalizing s with
  | nil => rfl
  | cons x l ih => simpa [setPcs] using ih (s.adjLane r x.1 fun ln => { ln with pc := x.2 })
@[simp] theorem setPcs_faults (s : State) (r : GRef) (l : List (Nat × DWord)) : (setPcs s r l).faults = s.faults := by
  induction l generalizing s with
  | nil => rfl
  | cons x l ih => simpa [setPcs] using ih (s.adjLane r x.1 fun ln => { ln with pc := x.2 })
@[simp] theorem setPcs_copies (s : State) (r : GRef) (l : List (Nat × DWord)) : (setPcs s r l).copies = s.copies := by
  induction l generalizing s with
  | nil => rfl
  | cons x l ih => simpa [setPcs] using ih (s.adjLane r x.1 fun ln => { ln with pc := x.2 })
@[simp] theorem setPcs_subHomes (s : State) (r : GRef) (l : List (Nat × DWord)) : (setPcs s r l).subHomes = s.subHomes := by
  induction l generalizing s with
  | nil => rfl
  | cons x l ih => simpa [setPcs] using ih (s.adjLane r x.1 fun ln => { ln with pc := x.2 })
@[simp] theorem setPcs_deliveries (s : State) (r : GRef) (l : List (Nat × DWord)) : (setPcs s r l).deliveries = s.deliveries := by
  induction l generalizing s with
  | nil => rfl
  | cons x l ih => simpa [setPcs] using ih (s.adjLane r x.1 fun ln => { ln with pc := x.2 })
@[simp] theorem setPcs_fabric (s : State) (r : GRef) (l : List (Nat × DWord)) : (setPcs s r l).fabric = s.fabric := by
  induction l generalizing s with
  | nil => rfl
  | cons x l ih => simpa [setPcs] using ih (s.adjLane r x.1 fun ln => { ln with pc := x.2 })
@[simp] theorem setPcs_harts (s : State) (r : GRef) (l : List (Nat × DWord)) : (setPcs s r l).harts = s.harts := by
  induction l generalizing s with
  | nil => rfl
  | cons x l ih => simpa [setPcs] using ih (s.adjLane r x.1 fun ln => { ln with pc := x.2 })
@[simp] theorem setPcs_xfers (s : State) (r : GRef) (l : List (Nat × DWord)) : (setPcs s r l).xfers = s.xfers := by
  induction l generalizing s with
  | nil => rfl
  | cons x l ih => simpa [setPcs] using ih (s.adjLane r x.1 fun ln => { ln with pc := x.2 })
@[simp] theorem setPcs_queues (s : State) (r : GRef) (l : List (Nat × DWord)) : (setPcs s r l).queues = s.queues := by
  induction l generalizing s with
  | nil => rfl
  | cons x l ih => simpa [setPcs] using ih (s.adjLane r x.1 fun ln => { ln with pc := x.2 })
@[simp] theorem setPcs_lode (s : State) (r : GRef) (l : List (Nat × DWord)) : (setPcs s r l).lode = s.lode := by
  induction l generalizing s with
  | nil => rfl
  | cons x l ih => simpa [setPcs] using ih (s.adjLane r x.1 fun ln => { ln with pc := x.2 })
@[simp] theorem setPcs_trn (s : State) (r : GRef) (l : List (Nat × DWord)) : (setPcs s r l).trn = s.trn := by
  induction l generalizing s with
  | nil => rfl
  | cons x l ih => simpa [setPcs] using ih (s.adjLane r x.1 fun ln => { ln with pc := x.2 })
@[simp] theorem setPcs_regions (s : State) (r : GRef) (l : List (Nat × DWord)) : (setPcs s r l).regions = s.regions := by
  induction l generalizing s with
  | nil => rfl
  | cons x l ih => simpa [setPcs] using ih (s.adjLane r x.1 fun ln => { ln with pc := x.2 })
@[simp] theorem setPcs_vifs (s : State) (r : GRef) (l : List (Nat × DWord)) : (setPcs s r l).vifs = s.vifs := by
  induction l generalizing s with
  | nil => rfl
  | cons x l ih => simpa [setPcs] using ih (s.adjLane r x.1 fun ln => { ln with pc := x.2 })
@[simp] theorem setPcs_mgt (s : State) (r : GRef) (l : List (Nat × DWord)) : (setPcs s r l).mgt = s.mgt := by
  induction l generalizing s with
  | nil => rfl
  | cons x l ih => simpa [setPcs] using ih (s.adjLane r x.1 fun ln => { ln with pc := x.2 })

end Sys2Proof.Machine
end

