-- ==== Sys2Proof/Laws/Memory.lean ====
section
/-! SUPPORT. Sparse maps and memories: read after write, and that every memory operation keeps the canonical form. -/

namespace Sys2Proof.Machine

/-! ### Sparse maps -/

theorem Sparse.wfFrom_mono {α : Type} [DecidableEq α] {d : α} {m : Sparse α} {a b : Nat} (h : a ≤ b)
    (hm : Sparse.wfFrom d b m = true) : Sparse.wfFrom d a m = true := by
  cases m with
  | nil => rfl
  | cons e r =>
    obtain ⟨k, v⟩ := e
    simp only [Sparse.wfFrom, Bool.and_eq_true, decide_eq_true_eq] at hm ⊢
    exact ⟨⟨by omega, hm.1.2⟩, hm.2⟩

theorem Sparse.wfFrom_filter {α : Type} [DecidableEq α] (d : α) (p : Nat × α → Bool) (m : Sparse α) (lo : Nat)
    (hm : Sparse.wfFrom d lo m = true) : Sparse.wfFrom d lo (m.filter p) = true := by
  induction m generalizing lo with
  | nil => rfl
  | cons e r ih =>
    obtain ⟨k, v⟩ := e
    simp only [Sparse.wfFrom, Bool.and_eq_true, decide_eq_true_eq] at hm
    obtain ⟨⟨h1, h2⟩, h3⟩ := hm
    simp only [List.filter]
    split
    · simp only [Sparse.wfFrom, Bool.and_eq_true, decide_eq_true_eq]
      exact ⟨⟨h1, h2⟩, ih (k + 1) h3⟩
    · exact Sparse.wfFrom_mono (by omega) (ih (k + 1) h3)

theorem Sparse.wfFrom_insert {α : Type} [DecidableEq α] (d : α) (m : Sparse α) (lo k : Nat) (v : α) (hk : lo ≤ k) (hv : v ≠ d)
    (hm : Sparse.wfFrom d lo m = true) : Sparse.wfFrom d lo (Sparse.insert m k v) = true := by
  induction m generalizing lo with
  | nil => simp [Sparse.insert, Sparse.wfFrom, hk, hv]
  | cons e r ih =>
    obtain ⟨k', v'⟩ := e
    simp only [Sparse.wfFrom, Bool.and_eq_true, decide_eq_true_eq] at hm
    obtain ⟨⟨h1, h2⟩, h3⟩ := hm
    simp only [Sparse.insert]
    split
    · simp only [Sparse.wfFrom, Bool.and_eq_true, decide_eq_true_eq]
      exact ⟨⟨hk, hv⟩, ⟨by omega, h2⟩, h3⟩
    · split
      · simp only [Sparse.wfFrom, Bool.and_eq_true, decide_eq_true_eq]
        exact ⟨⟨hk, hv⟩, by subst_vars; exact h3⟩
      · simp only [Sparse.wfFrom, Bool.and_eq_true, decide_eq_true_eq]
        exact ⟨⟨h1, h2⟩, ih (k' + 1) (by omega) h3⟩

/-- A set from a lower bound on keeps the form. -/
theorem Sparse.wfFrom_set {α : Type} [DecidableEq α] (d : α) (m : Sparse α) (lo k : Nat) (v : α) (hk : lo ≤ k)
    (hm : Sparse.wfFrom d lo m = true) : Sparse.wfFrom d lo (Sparse.set d m k v) = true := by
  unfold Sparse.set
  split
  · exact Sparse.wfFrom_filter d _ m lo hm
  · exact Sparse.wfFrom_insert d m lo k v hk ‹_› hm

/-- A set keeps the form. -/
theorem Sparse.wf_set {α : Type} [DecidableEq α] {d : α} {m : Sparse α} (k : Nat) (v : α) (hm : Sparse.wf d m = true) :
    Sparse.wf d (Sparse.set d m k v) = true := Sparse.wfFrom_set d m 0 k v (Nat.zero_le k) hm

/-- A change of every value keeps the form. -/
theorem Sparse.wfFrom_mapKey {α : Type} [DecidableEq α] (d : α) (f : Nat → α → α) (m : Sparse α) (lo : Nat)
    (hm : Sparse.wfFrom d lo m = true) : Sparse.wfFrom d lo (Sparse.mapKey d f m) = true := by
  induction m generalizing lo with
  | nil => rfl
  | cons e r ih =>
    obtain ⟨k, v⟩ := e
    simp only [Sparse.wfFrom, Bool.and_eq_true, decide_eq_true_eq] at hm
    simp only [Sparse.mapKey]
    split
    · exact Sparse.wfFrom_mono (by omega) (ih (k + 1) hm.2)
    · simp only [Sparse.wfFrom, Bool.and_eq_true, decide_eq_true_eq]
      exact ⟨⟨hm.1.1, ‹_›⟩, ih (k + 1) hm.2⟩
theorem Sparse.wf_mapKey {α : Type} [DecidableEq α] {d : α} {m : Sparse α} (f : Nat → α → α) (hm : Sparse.wf d m = true) :
    Sparse.wf d (Sparse.mapKey d f m) = true := Sparse.wfFrom_mapKey d f m 0 hm

theorem Sparse.get_insert {α : Type} (d : α) (m : Sparse α) (k j : Nat) (v : α) :
    Sparse.get d (Sparse.insert m k v) j = if j = k then v else Sparse.get d m j := by
  induction m with
  | nil => rfl
  | cons e r ih =>
    obtain ⟨k', v'⟩ := e
    simp only [Sparse.insert]
    split
    · simp only [Sparse.get]
    · split
      · subst_vars
        simp only [Sparse.get]
        split <;> rfl
      · simp only [Sparse.get, ih]
        split
        · subst_vars
          rw [if_neg (by omega)]
        · rfl
theorem Sparse.get_filter_ne {α : Type} (d : α) (m : Sparse α) (k j : Nat) :
    Sparse.get d (m.filter fun e => decide (e.1 ≠ k)) j = if j = k then d else Sparse.get d m j := by
  induction m with
  | nil => simp [Sparse.get]
  | cons e r ih =>
    obtain ⟨k', v'⟩ := e
    by_cases hk : k' = k
    · subst hk
      simp only [List.filter, ne_eq, not_true_eq_false, decide_false, Sparse.get]
      simp only [ne_eq] at ih
      rw [ih]
      split <;> rfl
    · simp only [List.filter, ne_eq, hk, not_false_eq_true, decide_true, Sparse.get]
      simp only [ne_eq] at ih
      rw [ih]
      split
      · subst_vars
        rw [if_neg hk]
      · rfl
/-- Read after write. -/
@[simp] theorem Sparse.get_set {α : Type} [DecidableEq α] (d : α) (m : Sparse α) (k j : Nat) (v : α) :
    Sparse.get d (Sparse.set d m k v) j = if j = k then v else Sparse.get d m j := by
  unfold Sparse.set
  split
  · subst_vars
    exact Sparse.get_filter_ne _ m k j
  · exact Sparse.get_insert d m k j v

/-! ### Bytes -/

theorem readByte_writeByte (m : Mem) (a b : Nat) (x : Byte) :
    readByte (writeByte m a x) b = if b = a then x else readByte m b := Sparse.get_set 0 m a b x
theorem wf_writeByte {m : Mem} (a : Nat) (x : Byte) (hm : Memory.wf m = true) : Memory.wf (writeByte m a x) = true :=
  Sparse.wf_set a x hm
theorem wf_writeBytes {m : Mem} (a : Nat) (l : List Byte) (hm : Memory.wf m = true) :
    Memory.wf (writeBytes m a l) = true := by
  induction l generalizing m a with
  | nil => exact hm
  | cons b l ih => exact ih (a + 1) (wf_writeByte a b hm)
theorem wf_writeLE {m : Mem} (a n v : Nat) (hm : Memory.wf m = true) : Memory.wf (writeLE m a n v) = true :=
  wf_writeBytes a _ hm
theorem wf_clearRange {m : Mem} (a n : Nat) (hm : Memory.wf m = true) : Memory.wf (clearRange m a n) = true :=
  Sparse.wfFrom_filter _ _ m 0 hm
theorem wf_pasteMem {m : Mem} (a n : Nat) (src : Mem) (hm : Memory.wf m = true) : Memory.wf (pasteMem m a n src) = true := by
  unfold pasteMem
  generalize hc : clearRange m a n = m0
  have h0 : Memory.wf m0 = true := hc ▸ wf_clearRange a n hm
  clear hc
  induction src generalizing m0 with
  | nil => exact h0
  | cons c r ih =>
    simp only [List.foldl_cons]
    split
    · exact ih _ (wf_writeByte _ _ h0)
    · exact ih _ h0
theorem wf_sliceMem {m : Mem} (a n : Nat) (hm : Memory.wf m = true) : Memory.wf (sliceMem m a n) = true := by
  unfold sliceMem Memory.wf Sparse.wf
  have key : ∀ (l : Mem) (lo lo' : Nat), Sparse.wfFrom (0 : Byte) lo l = true → (∀ c ∈ l, a ≤ c.1 ∧ lo' ≤ c.1 - a) →
      Sparse.wfFrom (0 : Byte) lo' (l.map fun c => (c.1 - a, c.2)) = true := by
    intro l
    induction l with
    | nil => intro lo lo' _ _; rfl
    | cons e r ih =>
      intro lo lo' h hb
      obtain ⟨k, v⟩ := e
      simp only [Sparse.wfFrom, Bool.and_eq_true, decide_eq_true_eq] at h
      have hk := hb (k, v) (by simp)
      simp only [List.map_cons, Sparse.wfFrom, Bool.and_eq_true, decide_eq_true_eq]
      refine ⟨⟨hk.2, h.1.2⟩, ih (k + 1) _ h.2 ?_⟩
      intro c hc
      have h1 := hb c (by simp [hc])
      have h2 : ∀ (l : Mem) (lo : Nat), Sparse.wfFrom (0 : Byte) lo l = true → ∀ c ∈ l, lo ≤ c.1 := by
        intro l
        induction l with
        | nil => intro _ _ c hc; cases hc
        | cons e r ih2 =>
          intro lo h c hc
          obtain ⟨k, v⟩ := e
          simp only [Sparse.wfFrom, Bool.and_eq_true, decide_eq_true_eq] at h
          rcases List.mem_cons.1 hc with rfl | hc
          · exact h.1.1
          · have := ih2 (k + 1) h.2 c hc; omega
      have := h2 r (k + 1) h.2 c hc
      omega
  refine key _ 0 0 (Sparse.wfFrom_filter _ _ m 0 hm) ?_
  intro c hc
  have := (List.mem_filter.1 hc).2
  simp only [Bool.and_eq_true, decide_eq_true_eq] at this
  exact ⟨this.1, Nat.zero_le _⟩

/-- Bytes outside a write are as before. -/
theorem readByte_writeBytes_outside (m : Mem) (a b : Nat) (l : List Byte) (h : b < a ∨ a + l.length ≤ b) :
    readByte (writeBytes m a l) b = readByte m b := by
  induction l generalizing m a with
  | nil => rfl
  | cons x l ih =>
    simp only [List.length_cons] at h
    rw [writeBytes, ih _ (a + 1) (by omega), readByte_writeByte, if_neg (by omega)]
/-- A written byte reads back. -/
theorem readByte_writeBytes_inside (m : Mem) (a i : Nat) (l : List Byte) (h : i < l.length) :
    readByte (writeBytes m a l) (a + i) = l[i] := by
  induction l generalizing m a i with
  | nil => simp at h
  | cons x l ih =>
    cases i with
    | zero => rw [writeBytes, readByte_writeBytes_outside _ _ _ _ (by omega), Nat.add_zero, readByte_writeByte, if_pos rfl]; rfl
    | succ j =>
      simp only [List.length_cons] at h
      rw [writeBytes, show a + (j + 1) = a + 1 + j by omega, ih _ (a + 1) j (by omega)]
      rfl

/-! ### Tables in memory -/

theorem wf_setInvEntry {m : Mem} (b : Build) (c i : Nat) (e : InvEntry) (hm : Memory.wf m = true) :
    Memory.wf (setInvEntry b m c i e) = true := wf_writeLE _ _ _ hm
theorem wf_markAccessed {m : Mem} (b : Build) (pa : Nat) (hm : Memory.wf m = true) : Memory.wf (markAccessed b m pa) = true := by
  simp only [markAccessed]; split
  · exact wf_setInvEntry b _ _ _ hm
  · exact hm
theorem wf_markDirty {m : Mem} (b : Build) (pa : Nat) (hm : Memory.wf m = true) : Memory.wf (markDirty b m pa) = true := by
  simp only [markDirty]; split
  · exact wf_setInvEntry b _ _ _ hm
  · exact hm
theorem wf_markLost {m : Mem} (b : Build) (pa : Nat) (hm : Memory.wf m = true) : Memory.wf (markLost b m pa) = true := by
  simp only [markLost]; split
  · exact hm
  split
  · exact wf_setInvEntry b _ _ _ (wf_writeByte _ _ hm)
  · exact wf_writeByte _ _ hm
theorem wf_clearLost {m : Mem} (b : Build) (pa : Nat) (hm : Memory.wf m = true) : Memory.wf (clearLost b m pa) = true := by
  simp only [clearLost]; split
  · exact wf_setInvEntry b _ _ _ (wf_writeByte _ _ hm)
  · exact wf_writeByte _ _ hm
theorem wf_placeTree {m : Mem} (hm : Memory.wf m = true) : Memory.wf (placeTree m) = true := wf_writeLE _ _ _ (wf_writeLE _ _ _ hm)
theorem wf_placePasid {m : Mem} (s : State) (hm : Memory.wf m = true) : Memory.wf (placePasid s m) = true := wf_writeLE _ _ _ hm

/-! ### The state -/

theorem wf_setPasidState {s : State} (p st : Nat) (h : Memory.wf s.mem = true) : Memory.wf (setPasidState s p st).mem = true :=
  wf_writeByte _ _ h
theorem wf_relink {m : Mem} (b : Build) (c i : Nat) (nv : Bool) (nx n j : Nat) (hm : Memory.wf m = true) :
    Memory.wf (relink b m c i nv nx n j) = true := by
  induction n generalizing j with
  | zero => exact hm
  | succ n ih =>
    simp only [relink]
    split
    · exact wf_setInvEntry b _ _ _ hm
    · split
      · exact ih _
      · exact hm
theorem wf_ite {p : Prop} [Decidable p] {x y : Mem} (hx : Memory.wf x = true) (hy : Memory.wf y = true) :
    Memory.wf (if p then x else y) = true := by split <;> assumption
theorem wf_unlinkEntry {m : Mem} (b : Build) (c i : Nat) (hm : Memory.wf m = true) : Memory.wf (unlinkEntry b m c i) = true :=
  wf_ite (wf_writeLE _ _ _ (wf_setInvEntry b _ _ _ hm)) (wf_relink b _ _ _ _ _ _ (wf_setInvEntry b _ _ _ hm))

/-- What a write at the home does to memory. -/
theorem homeStore_mem (s : State) (pa : Nat) (bs : List Byte) :
    (homeStore s pa bs).mem = if ridgeBase ≤ pa ∨ bs.isEmpty = true then s.mem
      else markDirty s.build (writeBytes s.mem pa bs) pa := by
  unfold homeStore; split <;> rfl
@[simp] theorem invalidateLine_mem (s : State) (l : Nat) : (s.invalidateLine l).mem = s.mem := rfl
@[simp] theorem invalidateLine_build (s : State) (l : Nat) : (s.invalidateLine l).build = s.build := rfl
theorem foldl_mem {α : Type} (f : State → α → State) (h : ∀ s a, (f s a).mem = s.mem) (l : List α) (s : State) :
    (l.foldl f s).mem = s.mem := by
  induction l generalizing s with
  | nil => rfl
  | cons a l ih => rw [List.foldl_cons, ih, h]
theorem foldl_build {α : Type} (f : State → α → State) (h : ∀ s a, (f s a).build = s.build) (l : List α) (s : State) :
    (l.foldl f s).build = s.build := by
  induction l generalizing s with
  | nil => rfl
  | cons a l ih => rw [List.foldl_cons, ih, h]
theorem wf_homeStore {s : State} (pa : Nat) (bs : List Byte) (h : Memory.wf s.mem = true) :
    Memory.wf (homeStore s pa bs).mem = true := by
  rw [homeStore_mem]; split
  · exact h
  · exact wf_markDirty _ _ (wf_writeBytes _ _ h)
theorem homeWrite_mem (s : State) (pa : Nat) (bs : List Byte) :
    (homeWrite s pa bs).mem = if ridgeBase ≤ pa ∨ bs.isEmpty = true then s.mem
      else markDirty s.build (writeBytes s.mem pa bs) pa := by
  simp only [homeWrite, homeStore_mem, foldl_mem _ invalidateLine_mem, foldl_mem _ State.recall_mem,
    foldl_build _ invalidateLine_build, foldl_build _ State.recall_build]
theorem wf_homeWrite {s : State} (pa : Nat) (bs : List Byte) (h : Memory.wf s.mem = true) :
    Memory.wf (homeWrite s pa bs).mem = true := by
  rw [homeWrite_mem]; split
  · exact h
  · exact wf_markDirty _ _ (wf_writeBytes _ _ h)
theorem wf_noteAccess {s : State} (pa kind : Nat) (h : Memory.wf s.mem = true) : Memory.wf (noteAccess s pa kind).mem = true := by
  simp only [noteAccess]; split
  · exact wf_markAccessed _ _ h
  · exact h
theorem adjPin_mem (s : State) (pa : Nat) (f : Nat → Nat) :
    (adjPin s pa f).mem = if pa < localBytes s.build ∧ (invEntry s.build s.mem (stackOf s.build pa) (frameIdx s.build pa)).valid
      then setInvEntry s.build s.mem (stackOf s.build pa) (frameIdx s.build pa)
        { invEntry s.build s.mem (stackOf s.build pa) (frameIdx s.build pa) with
          pin := f (invEntry s.build s.mem (stackOf s.build pa) (frameIdx s.build pa)).pin }
      else s.mem := apply_ite State.mem _ _ _
theorem wf_adjPin {s : State} (pa : Nat) (f : Nat → Nat) (h : Memory.wf s.mem = true) : Memory.wf (adjPin s pa f).mem = true := by
  rw [adjPin_mem]
  exact wf_ite (wf_setInvEntry _ _ _ _ h) h
theorem wf_discardFrame {s : State} (c i pa : Nat) (h : Memory.wf s.mem = true) :
    Memory.wf (unlinkEntry s.build (writeLE (clearRange s.mem pa 65536) (lostAddr s.build c i) 16 0) c i) = true :=
  wf_unlinkEntry _ _ _ (wf_writeLE _ _ _ (wf_clearRange _ _ h))
theorem wf_reset : Memory.wf State.reset.mem = true := rfl

end Sys2Proof.Machine
end

