-- ==== Sys2Proof/Laws/Group.lean ====
section
/-! SUPPORT. Groups and lanes: reading a register after it is written, one lane after lanes are changed, and how
changes of one group of the state compose. -/

namespace Sys2Proof.Machine

/-! ### Elements of a list -/

@[simp] theorem length_adjAt {α : Type} (f : α → α) (l : List α) (i : Nat) : (adjAt f l i).length = l.length := by
  induction l generalizing i with
  | nil => rfl
  | cons x r ih => cases i <;> simp [adjAt, ih]
theorem getElem?_adjAt {α : Type} (f : α → α) (l : List α) (i j : Nat) :
    (adjAt f l i)[j]? = if i = j then l[j]?.map f else l[j]? := by
  induction l generalizing i j with
  | nil => simp [adjAt]
  | cons x r ih =>
    cases i <;> cases j <;> simp [adjAt, ih]
theorem adjAt_comp {α : Type} (f h : α → α) (l : List α) (i : Nat) :
    adjAt h (adjAt f l i) i = adjAt (fun x => h (f x)) l i := by
  induction l generalizing i with
  | nil => rfl
  | cons x r ih => cases i <;> simp [adjAt, ih]
theorem adjAt_eq_set {α : Type} {f : α → α} {l : List α} {i : Nat} {x : α} (h : l[i]? = some x) :
    adjAt f l i = l.set i (f x) := by
  induction l generalizing i with
  | nil => simp at h
  | cons y r ih =>
    cases i with
    | zero => simp at h; subst h; rfl
    | succ j => simp at h; simp [adjAt, ih h]

/-! ### Lanes -/

theorem Lane.reg_setReg (l : Lane) (v w : Nat) (x : Word) : (l.setReg v x).reg w = if w = v then x else l.reg w :=
  Sparse.get_set 0 l.regs v w x
/-- One lane after one lane is changed. -/
theorem Group.lane_adjLane (g : Group) (L K : Nat) (f : Lane → Lane) :
    (g.adjLane L f).lane K = if L = K ∧ K < g.lanes.length then f (g.lane K) else g.lane K := by
  simp only [Group.adjLane, Group.lane, List.getD_eq_getElem?_getD, getElem?_adjAt]
  by_cases h : L = K
  · by_cases hk : K < g.lanes.length
    · simp [h, hk]
    · simp [h, hk]
  · simp [h]
@[simp] theorem Group.lanes_length_adjLane (g : Group) (L : Nat) (f : Lane → Lane) :
    (g.adjLane L f).lanes.length = g.lanes.length := length_adjAt f g.lanes L
/-- One lane after a list of lanes is changed, each in a way that a second time changes nothing. -/
theorem Group.lane_foldl_adjLane (f : Nat → Lane → Lane) (hf : ∀ L l, f L (f L l) = f L l) (I : List Nat) (g : Group)
    (K : Nat) :
    (I.foldl (fun g L => g.adjLane L (f L)) g).lane K
      = if K ∈ I ∧ K < g.lanes.length then f K (g.lane K) else g.lane K := by
  induction I generalizing g with
  | nil => simp
  | cons L I ih =>
    rw [List.foldl_cons, ih, Group.lane_adjLane, Group.lanes_length_adjLane]
    by_cases hk : K < g.lanes.length
    · by_cases hL : L = K
      · subst hL
        by_cases hI : L ∈ I <;> simp [hI, hk, hf]
      · by_cases hI : K ∈ I
        · simp [hI, hk, hL]
        · simp [hI, hk, hL, Ne.symm hL]
    · simp [hk]
theorem Group.foldl_adjLane_eq (f : Nat → Lane → Lane) (I : List Nat) (g : Group) :
    I.foldl (fun g L => g.adjLane L (f L)) g
      = { g with lanes := (I.foldl (fun g L => g.adjLane L (f L)) g).lanes } := by
  induction I generalizing g with
  | nil => rfl
  | cons L I ih => rw [List.foldl_cons, ih]; rfl
@[simp] theorem Group.lanes_length_foldl_adjLane (f : Nat → Lane → Lane) (I : List Nat) (g : Group) :
    (I.foldl (fun g L => g.adjLane L (f L)) g).lanes.length = g.lanes.length := by
  induction I generalizing g with
  | nil => rfl
  | cons L I ih => rw [List.foldl_cons, ih, Group.lanes_length_adjLane]

/-! ### Writing registers -/

theorem Group.lane_writeLane (g : Group) (L K v : Nat) (x : Word) :
    (g.writeLane L v x).lane K = if L = K ∧ K < g.lanes.length then (g.lane K).setReg v x else g.lane K :=
  Group.lane_adjLane g L K fun l => l.setReg v x
/-- ReadLane after WriteLane (R49). -/
theorem Group.readLane_writeLane (g : Group) (L K v w : Nat) (x : Word) :
    (g.writeLane L v x).readLane K w = if L = K ∧ w = v ∧ K < g.lanes.length then x else g.readLane K w := by
  simp only [Group.readLane, Group.lane_writeLane]
  by_cases h : L = K ∧ K < g.lanes.length
  · rw [if_pos h, Lane.reg_setReg]
    by_cases hv : w = v
    · simp [h, hv]
    · simp [hv]
  · rw [if_neg h, if_neg]
    exact fun q => h ⟨q.1, q.2.2⟩
/-- ReadUni after WriteUni: s0 reads 0 and discards writes (R37, R49). -/
theorem Group.readUni_writeUni (g : Group) (u w : Nat) (x : Word) :
    (g.writeUni u x).readUni w = if w = u ∧ u ≠ 0 then x else g.readUni w := by
  unfold Group.writeUni
  by_cases hu : u = 0
  · simp [hu]
  · simp only [hu, if_false, Group.readUni, Sparse.get_set]
    by_cases hw : w = 0
    · subst hw
      simp [Ne.symm hu]
    · by_cases h : w = u <;> simp [h, hu, hw]
theorem Group.writeUni_eq (g : Group) (u : Nat) (x : Word) :
    g.writeUni u x = { g with uregs := (g.writeUni u x).uregs, badU := (g.writeUni u x).badU } := by
  unfold Group.writeUni; split <;> rfl
@[simp] theorem Group.readUni_zero (g : Group) : g.readUni 0 = 0 := rfl

/-- Lanes after one register of each of a list of lanes is written. -/
theorem Group.foldl_writeLane_eq (d : Nat) (f : Nat → Word) (I : List Nat) (g : Group) :
    I.foldl (fun g L => g.writeLane L d (f L)) g
      = { g with
          lanes := (I.foldl (fun g L => g.adjLane L fun l => l.setReg d (f L)) g).lanes
          badV := (I.foldl (fun g L => g.writeLane L d (f L)) g).badV } := by
  suffices h : ∀ g h : Group, g.lanes = h.lanes →
      (I.foldl (fun g L => g.writeLane L d (f L)) g)
        = { g with
            lanes := (I.foldl (fun g L => g.adjLane L fun l => l.setReg d (f L)) h).lanes
            badV := (I.foldl (fun g L => g.writeLane L d (f L)) g).badV } from h g g rfl
  induction I with
  | nil => intro g h hl; cases g; simp only [List.foldl_nil] at *; simp only [hl]
  | cons L I ih =>
    intro g h hl
    rw [List.foldl_cons, List.foldl_cons, ih (g.writeLane L d (f L)) (h.adjLane L fun l => l.setReg d (f L))]
    · rfl
    · simp only [Group.writeLane, Group.adjLane, hl]
/-- One register of one lane after one register of each of a list of lanes is written. -/
theorem Group.readLane_foldl_writeLane (d : Nat) (f : Nat → Word) (I : List Nat) (g : Group) (K w : Nat) :
    (I.foldl (fun g L => g.writeLane L d (f L)) g).readLane K w
      = if K ∈ I ∧ w = d ∧ K < g.lanes.length then f K else g.readLane K w := by
  induction I generalizing g with
  | nil => simp
  | cons L I ih =>
    rw [List.foldl_cons, ih, Group.readLane_writeLane]
    have hl : (g.writeLane L d (f L)).lanes.length = g.lanes.length := Group.lanes_length_adjLane g L _
    rw [hl]
    by_cases hL : L = K
    · subst hL
      by_cases hw : w = d ∧ L < g.lanes.length
      · by_cases hI : L ∈ I <;> simp [hI, hw]
      · simp [hw]
    · simp [hL, Ne.symm hL]

/-! ### Changes of one group of the state -/

theorem State.adjTeam_comp (s : State) (id : Nat) (f h : Team → Team) (hf : ∀ t, (f t).id = t.id) :
    (s.adjTeam id f).adjTeam id h = s.adjTeam id fun t => h (f t) := by
  simp only [State.adjTeam, List.map_map]
  congr 1
  apply List.map_congr_left
  intro t _
  simp only [Function.comp]
  by_cases ht : t.id = id <;> simp [ht, hf]
theorem State.adjGroup_comp (s : State) (r : GRef) (f h : Group → Group) :
    (s.adjGroup r f).adjGroup r h = s.adjGroup r fun g => h (f g) := by
  refine (State.adjTeam_comp s r.team (fun t => { t with groups := adjAt f t.groups r.grp })
    (fun t => { t with groups := adjAt h t.groups r.grp }) fun _ => rfl).trans ?_
  simp only [adjAt_comp]
  rfl
theorem State.team_adjTeam (s : State) (id k : Nat) (f : Team → Team) (hf : ∀ t, (f t).id = t.id) :
    (s.adjTeam id f).team k = if k = id then (s.team k).map f else s.team k := by
  simp only [State.team, State.adjTeam, List.find?_map]
  have h : (fun t : Team => t.id == k) ∘ (fun t : Team => if t.id = id then f t else t) = fun t => t.id == k := by
    funext t
    simp only [Function.comp]
    split <;> simp [hf]
  rw [h]
  cases hq : List.find? (fun t : Team => t.id == k) s.teams with
  | none => simp
  | some t =>
    have : t.id = k := by simpa using List.find?_some hq
    subst this
    by_cases hk : t.id = id <;> simp [hk]
theorem foldl_adjLane_state (s : State) (r : GRef) (f : Nat × DWord → Lane → Lane) (l : List (Nat × DWord)) :
    l.foldl (fun s x => s.adjLane r x.1 (f x)) s
      = if l = [] then s else s.adjGroup r fun g => l.foldl (fun g x => g.adjLane x.1 (f x)) g := by
  induction l generalizing s with
  | nil => rfl
  | cons x l ih =>
    rw [List.foldl_cons, ih]
    cases l with
    | nil => rfl
    | cons y l =>
      simp only [reduceCtorEq, if_false, State.adjLane, State.adjGroup_comp, List.foldl_cons]
theorem setPcs_eq (s : State) (r : GRef) (l : List (Nat × DWord)) (h : l ≠ []) :
    setPcs s r l = s.adjGroup r fun g => l.foldl (fun g x => g.adjLane x.1 fun ln => { ln with pc := x.2 }) g := by
  unfold setPcs
  rw [foldl_adjLane_state s r (fun x ln => { ln with pc := x.2 }) l, if_neg h]

end Sys2Proof.Machine
end

