-- ==== Sys2Proof/Laws/Ops.lean ====
section
/-! SUPPORT. The shared operations: an instruction that passes the checks runs its body, and an instruction whose body
changes only its group leaves exactly those changes. -/

namespace Sys2Proof.Machine

/-! ### The acting group -/

/-- What a context says of its state. -/
theorem ctx_spec {s : State} {c : Ctx} (h : s.ctx = some c) :
    c.s = s ∧ s.actor = .group c.r ∧ s.team c.r.team = some c.t ∧ c.t.groups[c.r.grp]? = some c.g
      ∧ c.I = c.g.issueSet.1 ∧ c.pc = c.g.issueSet.2 := by
  unfold State.ctx at h
  split at h
  · rename_i r hr
    cases ht : s.team r.team with
    | none => simp [ht] at h
    | some t =>
      cases hg : t.groups[r.grp]? with
      | none => simp [ht, hg] at h
      | some g =>
        simp only [ht, hg, Option.some.injEq] at h
        subst h
        exact ⟨rfl, hr, ht, hg, rfl, rfl⟩
  · contradiction
/-- Issuing lanes can issue: they are there, live and not parked (R134). -/
theorem issueSet_cands (g : Group) : ∀ L ∈ g.issueSet.1, L ∈ g.cands := by
  intro L h
  unfold Group.issueSet at h
  simp only at h
  split at h
  · rename_i L' ls heq
    have : L ∈ List.filter (fun L => g.cands.contains L) g.held := h
    have := (List.mem_filter.1 this).2
    simpa using this
  · exact (List.mem_filter.1 h).1
theorem cands_lt {g : Group} {L : Nat} (h : L ∈ g.cands) : L < g.lanes.length := by
  unfold Group.cands at h
  exact List.mem_range.1 (List.mem_filter.1 h).1
theorem Issues.lt {s : State} {c : Ctx} {n : Names} {p : Bool} (h : Issues s c n p) : ∀ L ∈ c.I, L < c.g.lanes.length := by
  intro L hL
  rw [(ctx_spec h.ctx).2.2.2.2.1] at hL
  exact cands_lt (issueSet_cands _ L hL)

/-! ### The checks -/

/-- An instruction that passes the checks runs its body. -/
theorem issue_eq {s : State} {c : Ctx} {n : Names} {priv : Bool} (h : Issues s c n priv) (len : Nat) (settle : Bool)
    (body : Ctx → Res) : issue s n len settle priv body = finish c.free len settle (body c.free) := by
  have hs : c.s = s := (ctx_spec h.ctx).1
  have hm : (priv && !c.g.inHandler) = false := by
    cases hp : priv
    · rfl
    · simp [h.mode hp]
  have h1 := h.names
  have h2 := h.settled
  have h3 := h.sound
  unfold issue
  rw [h.ctx]
  simp only [Ctx.free, hs]
  rw [if_neg (by simp [h1]), if_neg (by simp [hm]), if_neg (by simpa [unsettled] using h2), if_neg (by simpa [sourceBad] using h3)]
  rfl

/-! ### Changes of the acting group -/

/-- What the body of an instruction leaves in its group: the changes e, before the PCs and the bookkeeping. -/
structure Changes (c : Ctx) (e : Effect) (h : Group) : Prop where
  count : h.lanes.length = c.g.lanes.length
  regs : ∀ L v, h.readLane L v = if L ∈ c.I then (e.lane L v).getD (c.g.readLane L v) else c.g.readLane L v
  unis : ∀ u, h.readUni u = if u = 0 then 0 else (e.uni u).getD (c.g.readUni u)
  rngs : ∀ L, (h.lane L).rng = if L ∈ c.I then (e.rng L).getD (c.g.lane L).rng else (c.g.lane L).rng
  lanes : ∀ L, (h.lane L).pc = (c.g.lane L).pc ∧ (h.lane L).exited = (c.g.lane L).exited
    ∧ (h.lane L).park = (c.g.lane L).park
  rest : h = { c.g with
    lanes := h.lanes, uregs := h.uregs, fflags := e.flags c.g.fflags, tile := e.tile.getD c.g.tile
    deferred := c.g.deferred ++ e.later, storeQ := c.g.storeQ ++ e.queue, park := none
    readyAt := e.readyAt.getD c.g.readyAt, badV := h.badV, badU := h.badU }

/-- A projection of lanes that each change keeps is kept. -/
theorem foldl_adjLane_proj {β : Type} (π : Lane → β) (f : Nat → Lane → Lane) (hf : ∀ L l, π (f L l) = π l) (I : List Nat)
    (g : Group) (K : Nat) : π ((I.foldl (fun g L => g.adjLane L (f L)) g).lane K) = π (g.lane K) := by
  induction I generalizing g with
  | nil => rfl
  | cons L I ih =>
    rw [List.foldl_cons, ih, Group.lane_adjLane]
    split
    · exact hf L _
    · rfl
theorem ageLanes_eq (g : Group) (cands issuing : List Nat) :
    g.ageLanes cands issuing = { g with lanes := (g.ageLanes cands issuing).lanes } := by
  unfold Group.ageLanes
  exact Group.foldl_adjLane_eq (fun L l => { l with age := if issuing.contains L then 0 else min (l.age + 1) 64 }) cands g
theorem ageLanes_length (g : Group) (cands issuing : List Nat) : (g.ageLanes cands issuing).lanes.length = g.lanes.length := by
  unfold Group.ageLanes
  exact Group.lanes_length_foldl_adjLane (fun L l => { l with age := if issuing.contains L then 0 else min (l.age + 1) 64 }) cands g
theorem ageLanes_proj {β : Type} (π : Lane → β) (hπ : ∀ (l : Lane) (n : Nat), π { l with age := n } = π l) (g : Group)
    (cands issuing : List Nat) (K : Nat) : π ((g.ageLanes cands issuing).lane K) = π (g.lane K) := by
  unfold Group.ageLanes
  exact foldl_adjLane_proj π (fun L l => { l with age := if issuing.contains L then 0 else min (l.age + 1) 64 })
    (fun L l => hπ l _) cands g K

theorem countIssue_eq (g : Group) (c : Ctx) : g.countIssue c = { g with lanes := (g.countIssue c).lanes } := by
  unfold Group.countIssue
  split
  · exact ageLanes_eq _ _ _
  · rfl
theorem countIssue_length (g : Group) (c : Ctx) : (g.countIssue c).lanes.length = g.lanes.length := by
  unfold Group.countIssue
  split
  · exact ageLanes_length _ _ _
  · rfl
theorem countIssue_proj {β : Type} (π : Lane → β) (hπ : ∀ (l : Lane) (n : Nat), π { l with age := n } = π l) (g : Group)
    (c : Ctx) (K : Nat) : π ((g.countIssue c).lane K) = π (g.lane K) := by
  unfold Group.countIssue
  split
  · exact ageLanes_proj π hπ _ _ _ K
  · rfl

/-- The bookkeeping of an issue, on the group (R134, R145). -/
def afterGroup (c : Ctx) (settle : Bool) (g : Group) : Group :=
  let g : Group := { g with lastIssue := c.s.clock + 1, needs := false }
  if g.pending.isSome || (g.inHandler && !c.g.inHandler) then g
  else
    let g := if c.g.inHandler && !g.inHandler then g else g.countIssue c
    let g : Group := { g with held := [], settling := settle }
    if settle ∧ g.park = none ∧ g.deferred ≠ [] then { g with park := some .settle } else g

theorem afterIssue_eq (c : Ctx) (settle : Bool) (s : State) :
    afterIssue c settle s = s.adjTeam c.r.team fun t =>
      { t with hang := 0, groups := adjAt (afterGroup c settle) t.groups c.r.grp } := by
  refine (State.adjTeam_comp s c.r.team (fun t => { t with hang := 0 })
    (fun t => { t with groups := adjAt (afterGroup c settle) t.groups c.r.grp }) fun _ => rfl).trans ?_
  rfl

/-- Setting the PCs of the issuing lanes. -/
def pcGroup (l : List (Nat × DWord)) (g : Group) : Group := l.foldl (fun g x => g.adjLane x.1 fun ln => { ln with pc := x.2 }) g

theorem adjAt_same {α : Type} (f : α → α) (hf : ∀ x, f x = x) (l : List α) (i : Nat) : adjAt f l i = l := by
  induction l generalizing i with
  | nil => rfl
  | cons x r ih => cases i <;> simp [adjAt, hf, ih]
theorem State.adjGroup_same (s : State) (r : GRef) (f : Group → Group) (hf : ∀ g, f g = g) : s.adjGroup r f = s := by
  unfold State.adjGroup State.adjTeam
  have : (fun t : Team => if t.id = r.team then { t with groups := adjAt f t.groups r.grp } else t) = id := by
    funext t
    split
    · simp only [adjAt_same f hf, id]
    · rfl
  rw [this, List.map_id]
theorem setPcs_group (s : State) (r : GRef) (l : List (Nat × DWord)) : setPcs s r l = s.adjGroup r (pcGroup l) := by
  cases l with
  | nil => exact (State.adjGroup_same s r _ fun _ => rfl).symm
  | cons x l => exact setPcs_eq s r (x :: l) (by simp)

theorem pcGroup_map (I : List Nat) (p : Nat → DWord) (g : Group) :
    pcGroup (I.map fun L => (L, p L)) g = I.foldl (fun g L => g.adjLane L fun ln => { ln with pc := p L }) g := by
  simp only [pcGroup, List.foldl_map]

/-- What the bookkeeping of an issue keeps. -/
theorem afterGroup_spec (c : Ctx) (settle : Bool) (k : Group) :
    afterGroup c settle k = { k with
      lanes := (afterGroup c settle k).lanes, lastIssue := (afterGroup c settle k).lastIssue
      park := (afterGroup c settle k).park, held := (afterGroup c settle k).held
      settling := (afterGroup c settle k).settling, needs := false } := by
  unfold afterGroup
  simp only
  split
  · rfl
  · split
    · split <;> rfl
    · rw [countIssue_eq]
      split <;> rfl
theorem afterGroup_length (c : Ctx) (settle : Bool) (k : Group) : (afterGroup c settle k).lanes.length = k.lanes.length := by
  unfold afterGroup
  simp only
  split
  · rfl
  · split
    · split <;> rfl
    · split
      · exact countIssue_length _ _
      · exact countIssue_length _ _
theorem afterGroup_lane {β : Type} (π : Lane → β) (hπ : ∀ (l : Lane) (n : Nat), π { l with age := n } = π l) (c : Ctx)
    (settle : Bool) (k : Group) (K : Nat) : π ((afterGroup c settle k).lane K) = π (k.lane K) := by
  unfold afterGroup
  simp only
  split
  · rfl
  · split
    · split <;> rfl
    · split
      · exact countIssue_proj π hπ _ _ K
      · exact countIssue_proj π hπ _ _ K
theorem afterGroup_park (c : Ctx) (settle : Bool) (k : Group) (hp : k.pending = none) (hi : k.inHandler = c.g.inHandler) :
    (afterGroup c settle k).park = if settle = true ∧ k.park = none ∧ k.deferred ≠ [] then some .settle else k.park := by
  have h1 : (c.g.inHandler && !k.inHandler) = false := by simp [hi]
  unfold afterGroup
  simp only
  rw [if_neg (by simp [hp, hi]), apply_ite Group.park]
  simp only [h1, Bool.false_eq_true, if_false]
  rw [countIssue_eq]

/-- The group after a body with changes e, its PCs and the bookkeeping. -/
theorem groupDid_of {c : Ctx} {e : Effect} {h : Group} (settle : Bool) (pc : Nat → DWord) (hc : Changes c e h)
    (hl : ∀ L ∈ c.I, L < c.g.lanes.length) :
    GroupDid c settle pc e (afterGroup c.free settle (pcGroup (c.I.map fun L => (L, pc L)) h)) := by
  rw [pcGroup_map]
  have hlane : ∀ K, (c.I.foldl (fun g L => g.adjLane L fun ln => { ln with pc := pc L }) h).lane K
      = if K ∈ c.I then { h.lane K with pc := pc K } else h.lane K := by
    intro K
    rw [Group.lane_foldl_adjLane (fun L ln => { ln with pc := pc L }) (fun _ _ => rfl)]
    by_cases hK : K ∈ c.I
    · rw [if_pos ⟨hK, hc.count ▸ hl K hK⟩, if_pos hK]
    · rw [if_neg (fun q => hK q.1), if_neg hK]
  have heq : (c.I.foldl (fun g L => g.adjLane L fun ln => { ln with pc := pc L }) h)
      = { h with lanes := (c.I.foldl (fun g L => g.adjLane L fun ln => { ln with pc := pc L }) h).lanes } :=
    Group.foldl_adjLane_eq (fun L ln => { ln with pc := pc L }) c.I h
  have hlen : (c.I.foldl (fun g L => g.adjLane L fun ln => { ln with pc := pc L }) h).lanes.length = h.lanes.length :=
    Group.lanes_length_foldl_adjLane (fun L ln => { ln with pc := pc L }) c.I h
  generalize (c.I.foldl (fun g L => g.adjLane L fun ln => { ln with pc := pc L }) h) = k at hlane heq hlen
  have hr := hc.rest
  have hs := afterGroup_spec c.free settle k
  have hln := fun {β : Type} (π : Lane → β) (hπ : ∀ (l : Lane) (n : Nat), π { l with age := n } = π l) K =>
    afterGroup_lane π hπ c.free settle k K
  refine ⟨?_, ?_, ?_, ?_, ?_, ?_, ?_, ?_⟩
  · rw [afterGroup_length, hlen, hc.count]
  · intro L v
    have h1 : (afterGroup c.free settle k).readLane L v = k.readLane L v := hln (fun l => l.reg v) (fun _ _ => rfl) L
    rw [h1, ← hc.regs]
    simp only [Group.readLane, hlane]
    split <;> rfl
  · intro u
    rw [hs, ← hc.unis, heq]
    rfl
  · intro L
    have h1 := hln (fun l => l.pc) (fun _ _ => rfl) L
    rw [h1, hlane]
    split
    · rfl
    · exact (hc.lanes L).1
  · intro L
    have h1 := hln (fun l => l.rng) (fun _ _ => rfl) L
    rw [h1, ← hc.rngs, hlane]
    split <;> rfl
  · intro L
    have h1 := hln (fun l => (l.exited, l.park)) (fun _ _ => rfl) L
    simp only [Prod.mk.injEq] at h1
    rw [h1.1, h1.2, ← (hc.lanes L).2.1, ← (hc.lanes L).2.2, hlane]
    split <;> exact ⟨rfl, rfl⟩
  · generalize afterGroup c.free settle k = m at hs ⊢
    rw [hs, heq, hr]
  · intro hp
    have hpk : k.pending = none := by rw [heq, hr]; exact hp
    have hik : k.inHandler = c.free.g.inHandler := by rw [heq, hr]; rfl
    rw [afterGroup_park c.free settle k hpk hik, heq, hr]
    simp

/-- The state after a body that changed its group by F, its PCs and the bookkeeping. -/
theorem didIn_of {s : State} {c : Ctx} {n : Names} {p : Bool} (hi : Issues s c n p) {u base : State} {e : Effect}
    {F : Group → Group} (settle : Bool) (pc : Nat → DWord)
    (hu : u = { base with teams := (c.free.s.adjGroup c.r F).teams, fresh := base.fresh + e.later.length })
    (hF : Changes c e (F c.g.free)) :
    DidIn base c settle pc e (afterIssue c.free settle (setPcs u c.r (c.I.map fun L => (L, pc L)))) := by
  obtain ⟨hs, _, ht, hg, _, _⟩ := ctx_spec hi.ctx
  refine ⟨_, groupDid_of settle pc hF hi.lt, ?_⟩
  rw [afterIssue_eq, setPcs_group, hu]
  generalize hP : pcGroup (c.I.map fun L => (L, pc L)) = P
  generalize hA : afterGroup c.free settle = A
  have h0 : ∀ f : Group → Group, c.free.s.adjGroup c.r f = c.s.adjGroup c.r fun g => f g.free := fun f =>
    State.adjGroup_comp c.s c.r Group.free f
  have h1 : (c.free.s.adjGroup c.r F).adjGroup c.r P = c.s.adjGroup c.r fun g => P (F g.free) := by
    rw [State.adjGroup_comp, h0]
  have h2 : (c.s.adjGroup c.r fun g => P (F g.free)).adjTeam c.r.team
        (fun t => { t with hang := 0, groups := adjAt A t.groups c.r.grp })
      = c.s.adjTeam c.r.team fun t => { t with hang := 0, groups := adjAt (fun g => A (P (F g.free))) t.groups c.r.grp } := by
    refine (State.adjTeam_comp c.s c.r.team (fun t => { t with groups := adjAt (fun g => P (F g.free)) t.groups c.r.grp })
      (fun t => { t with hang := 0, groups := adjAt A t.groups c.r.grp }) fun _ => rfl).trans ?_
    simp only [adjAt_comp]
  have hteam : ∀ v : State, v.teams = (c.free.s.adjGroup c.r F).teams → ∀ id,
      ((v.adjGroup c.r P).adjTeam c.r.team fun t => { t with hang := 0, groups := adjAt A t.groups c.r.grp }).team id
        = (c.s.adjTeam c.r.team fun t => { t with hang := 0, groups := adjAt (fun g => A (P (F g.free))) t.groups c.r.grp }).team id := by
    intro v hv id
    rw [← h2, ← h1]
    simp only [State.team, State.adjTeam, State.adjGroup, hv]
  refine ⟨rfl, ?_, ?_⟩
  · intro id hid
    exact (hteam { base with teams := (c.free.s.adjGroup c.r F).teams, fresh := base.fresh + e.later.length } rfl id).trans
      ((State.team_adjTeam _ _ _ _ (by intro _; rfl)).trans (if_neg hid))
  · exact (hteam { base with teams := (c.free.s.adjGroup c.r F).teams, fresh := base.fresh + e.later.length } rfl c.r.team).trans
      ((State.team_adjTeam _ _ _ _ (by intro _; rfl)).trans ((if_pos rfl).trans
        (by rw [hs, ht, Option.map_some, adjAt_eq_set hg])))

/-- An instruction that passes the checks and whose body changes its group by F and the rest to `base`. -/
theorem issue_did {s : State} {c : Ctx} {n : Names} {p : Bool} (hi : Issues s c n p) {len : Nat} {settle : Bool}
    {body : Ctx → Res} {base : State} {e : Effect} {F : Group → Group}
    (hb : body c.free = .ok { base with teams := (c.free.s.adjGroup c.r F).teams, fresh := base.fresh + e.later.length })
    (hF : Changes c e (F c.g.free)) :
    ∃ t, issue s n len settle p body = .next t ∧ DidIn base c settle (fun _ => c.pc + BitVec.ofNat 64 len) e t := by
  refine ⟨_, ?_, didIn_of hi settle _ rfl hF⟩
  rw [issue_eq hi, hb]
  rfl

/-! ### The changes of the shared shapes -/

@[simp] theorem Group.free_lanes (g : Group) : g.free.lanes = g.lanes := rfl
@[simp] theorem Group.free_lane (g : Group) (L : Nat) : g.free.lane L = g.lane L := rfl
@[simp] theorem Group.free_readLane (g : Group) (L v : Nat) : g.free.readLane L v = g.readLane L v := rfl
@[simp] theorem Group.free_readUni (g : Group) (u : Nat) : g.free.readUni u = g.readUni u := rfl

/-- No change. -/
theorem changes_none (c : Ctx) : Changes c {} c.g.free where
  count := rfl
  regs L v := by simp
  unis u := by by_cases h : u = 0 <;> simp [h]
  rngs L := by simp
  lanes L := ⟨rfl, rfl, rfl⟩
  rest := by simp [Group.free]

/-- The fields the changes of an instruction do not touch, and those they do. -/
theorem Changes.raise {c : Ctx} {e : Effect} {h : Group} (H : Changes c e h) (f : FFlags) :
    Changes c { e with flags := fun x => e.flags x ||| f } (h.raise f) where
  count := H.count
  regs := H.regs
  unis := H.unis
  rngs := H.rngs
  lanes := H.lanes
  rest := by
    have := H.rest
    unfold Group.raise
    rw [this]
/-- One uniform register written. -/
theorem Changes.writeUni {c : Ctx} {e : Effect} {h : Group} (H : Changes c e h) (d : Nat) (x : Word) :
    Changes c { e with uni := fun u => if u = d then some x else e.uni u } (h.writeUni d x) := by
  have heq := Group.writeUni_eq h d x
  refine ⟨?_, ?_, ?_, ?_, ?_, ?_⟩
  · rw [heq]; exact H.count
  · intro L v; rw [heq]; exact H.regs L v
  · intro u
    rw [Group.readUni_writeUni]
    by_cases hu : u = 0
    · subst hu
      by_cases hd : d = 0
      · simp [hd]
      · simp [Ne.symm hd]
    · rw [if_neg hu]
      by_cases hd : u = d
      · subst hd
        simp [hu]
      · have := H.unis u
        rw [if_neg hu] at this
        simp [hd, this]
  · intro L; rw [heq]; exact H.rngs L
  · intro L; rw [heq]; exact H.lanes L
  · have := H.rest
    rw [heq, this]

/-- The lanes after each of a list of lanes is changed. -/
theorem foldl_lanes {op : Group → Nat → Group} {φ : Nat → Lane → Lane}
    (hop : ∀ g L, op g L = { g.adjLane L (φ L) with badV := (op g L).badV }) (I : List Nat) (g : Group) :
    I.foldl op g = { g with lanes := (I.foldl (fun g L => g.adjLane L (φ L)) g).lanes, badV := (I.foldl op g).badV } := by
  suffices h : ∀ g k : Group, g.lanes = k.lanes → (I.foldl op g)
      = { g with lanes := (I.foldl (fun g L => g.adjLane L (φ L)) k).lanes, badV := (I.foldl op g).badV } from h g g rfl
  induction I with
  | nil => intro g k hl; cases g; simp only [List.foldl_nil] at *; simp only [hl]
  | cons L I ih =>
    intro g k hl
    rw [List.foldl_cons, List.foldl_cons, ih (op g L) (k.adjLane L (φ L))]
    · rw [hop]
      rfl
    · rw [hop]
      simp only [Group.adjLane, hl]
/-- What lanes read after each of a list of lanes is changed in the same registers. -/
theorem foldl_lane_reads {φ : Nat → Lane → Lane} {lane : Nat → Nat → Option Word} {rng : Nat → Option Word}
    (hreg : ∀ L l v, (φ L l).reg v = (lane L v).getD (l.reg v)) (hrng : ∀ L l, (φ L l).rng = (rng L).getD l.rng)
    (I : List Nat) (g : Group) (hl : ∀ L ∈ I, L < g.lanes.length) (K : Nat) :
    (∀ v, ((I.foldl (fun g L => g.adjLane L (φ L)) g).lane K).reg v
        = if K ∈ I then (lane K v).getD ((g.lane K).reg v) else (g.lane K).reg v)
      ∧ ((I.foldl (fun g L => g.adjLane L (φ L)) g).lane K).rng
        = if K ∈ I then (rng K).getD (g.lane K).rng else (g.lane K).rng := by
  induction I generalizing g with
  | nil => simp
  | cons L I ih =>
    have h := ih (g.adjLane L (φ L)) (fun L' hL' => by
      rw [Group.lanes_length_adjLane]
      exact hl L' (List.mem_cons_of_mem _ hL'))
    rw [List.foldl_cons]
    have hLt := hl L List.mem_cons_self
    by_cases hK : L = K
    · subst hK
      have h1 : (g.adjLane L (φ L)).lane L = φ L (g.lane L) := by
        rw [Group.lane_adjLane, if_pos ⟨rfl, hLt⟩]
      rw [h1] at h
      constructor
      · intro v
        rw [h.1 v, if_pos List.mem_cons_self, hreg]
        split <;> cases lane L v <;> rfl
      · rw [h.2, if_pos List.mem_cons_self, hrng]
        split <;> cases rng L <;> rfl
    · have h1 : (g.adjLane L (φ L)).lane K = g.lane K := by
        rw [Group.lane_adjLane, if_neg (fun q => hK q.1)]
      rw [h1] at h
      have h2 : (K ∈ L :: I) ↔ K ∈ I := by simp [Ne.symm hK]
      simp only [h2]
      exact h
/-- Registers and stochastic states of the issuing lanes changed. -/
theorem Changes.fold {c : Ctx} {e : Effect} {h : Group} (H : Changes c e h) (hl : ∀ L ∈ c.I, L < c.g.lanes.length)
    {op : Group → Nat → Group} {φ : Nat → Lane → Lane} {lane : Nat → Nat → Option Word} {rng : Nat → Option Word}
    (hop : ∀ g L, op g L = { g.adjLane L (φ L) with badV := (op g L).badV })
    (hreg : ∀ L l v, (φ L l).reg v = (lane L v).getD (l.reg v)) (hrng : ∀ L l, (φ L l).rng = (rng L).getD l.rng)
    (hkeep : ∀ L l, (φ L l).pc = l.pc ∧ (φ L l).exited = l.exited ∧ (φ L l).park = l.park) :
    Changes c { e with lane := fun L v => (lane L v).or (e.lane L v), rng := fun L => (rng L).or (e.rng L) }
      (c.I.foldl op h) := by
  have hl' : ∀ L ∈ c.I, L < h.lanes.length := fun L hL => H.count ▸ hl L hL
  have hreads := fun K => foldl_lane_reads hreg hrng c.I h hl' K
  have heq := foldl_lanes hop c.I h
  have hlen := Group.lanes_length_foldl_adjLane φ c.I h
  have hkp := foldl_adjLane_proj (fun l => (l.pc, l.exited, l.park)) φ
    (fun L l => by rw [(hkeep L l).1, (hkeep L l).2.1, (hkeep L l).2.2]) c.I h
  generalize c.I.foldl (fun g L => g.adjLane L (φ L)) h = k at hreads heq hlen hkp
  have hlane : ∀ K, (c.I.foldl op h).lane K = k.lane K := by intro K; rw [heq]; rfl
  refine ⟨?_, ?_, ?_, ?_, ?_, ?_⟩
  · rw [heq]
    exact hlen.trans H.count
  · intro L v
    rw [Group.readLane, hlane, (hreads L).1 v, ← Group.readLane, H.regs]
    by_cases hL : L ∈ c.I
    · simp only [if_pos hL]
      cases lane L v <;> simp
    · simp only [if_neg hL]
  · intro u
    rw [heq]
    exact H.unis u
  · intro L
    rw [hlane, (hreads L).2, H.rngs]
    by_cases hL : L ∈ c.I
    · simp only [if_pos hL]
      cases rng L <;> simp
    · simp only [if_neg hL]
  · intro L
    have := hkp L
    simp only [Prod.mk.injEq] at this
    rw [hlane, this.1, this.2.1, this.2.2]
    exact H.lanes L
  · have := H.rest
    rw [heq, this]

/-- A result made outstanding. -/
theorem Changes.defer {c : Ctx} {e : Effect} {h : Group} (H : Changes c e h) (d : Deferred) :
    Changes c { e with later := e.later ++ [d] } { h with deferred := h.deferred ++ [d] } where
  count := H.count
  regs := H.regs
  unis := H.unis
  rngs := H.rngs
  lanes := H.lanes
  rest := by
    have := H.rest
    rw [this]
    simp
/-- Entries put into the store queue. -/
theorem Changes.enqueue {c : Ctx} {e : Effect} {h : Group} (H : Changes c e h) (es : List SqEntry) :
    Changes c { e with queue := e.queue ++ es } { h with storeQ := h.storeQ ++ es } where
  count := H.count
  regs := H.regs
  unis := H.unis
  rngs := H.rngs
  lanes := H.lanes
  rest := by
    have := H.rest
    rw [this]
    simp
/-- The tile size set. -/
theorem Changes.setTile {c : Ctx} {e : Effect} {h : Group} (H : Changes c e h) (z : Nat) :
    Changes c { e with tile := some z } { h with tile := z } where
  count := H.count
  regs := H.regs
  unis := H.unis
  rngs := H.rngs
  lanes := H.lanes
  rest := by
    have := H.rest
    rw [this]
    simp
/-- Flags changed. -/
theorem Changes.setFlags {c : Ctx} {e : Effect} {h : Group} (H : Changes c e h) (f : FFlags → FFlags) :
    Changes c { e with flags := fun x => f (e.flags x) } { h with fflags := f h.fflags } where
  count := H.count
  regs := H.regs
  unis := H.unis
  rngs := H.rngs
  lanes := H.lanes
  rest := by
    have := H.rest
    rw [this]
theorem Changes.of_eq {c : Ctx} {e e' : Effect} {h h' : Group} (H : Changes c e h) (he : e = e') (hh : h = h') :
    Changes c e' h' := by subst he hh; exact H

/-- One register of each issuing lane written. -/
theorem changes_lane {c : Ctx} (hl : ∀ L ∈ c.I, L < c.g.lanes.length) (d : BitVec 7) (f : Nat → Word) :
    Changes c { lane := oneReg d f } (c.I.foldl (fun g L => g.writeLane L d.toNat (f L)) c.g.free) := by
  refine ((changes_none c).fold hl (φ := fun L l => l.setReg d.toNat (f L)) (lane := oneReg d f) (rng := fun _ => none)
    (fun _ _ => rfl) ?_ (fun _ _ => rfl) (fun _ _ => ⟨rfl, rfl, rfl⟩)).of_eq (by simp) rfl
  intro L l v
  rw [Lane.reg_setReg]
  unfold oneReg
  split <;> rfl
/-- One pair of each issuing lane written. -/
theorem changes_pair {c : Ctx} (hl : ∀ L ∈ c.I, L < c.g.lanes.length) (d : BitVec 7) (f : Nat → DWord) :
    Changes c { lane := pairReg d f } (c.I.foldl (fun g L => g.writeLanePair L d.toNat (f L)) c.g.free) := by
  refine ((changes_none c).fold hl
    (φ := fun L l => (l.setReg d.toNat ((f L).extractLsb' 0 32)).setReg (d.toNat + 1) ((f L).extractLsb' 32 32))
    (lane := pairReg d f) (rng := fun _ => none) ?_ ?_ (fun _ _ => rfl) (fun _ _ => ⟨rfl, rfl, rfl⟩)).of_eq (by simp) rfl
  · intro g L
    simp only [Group.writeLanePair, Group.writeLane, Group.adjLane, adjAt_comp]
  · intro L l v
    rw [Lane.reg_setReg, Lane.reg_setReg]
    unfold pairReg
    by_cases h1 : v = d.toNat
    · subst h1
      rw [if_neg (by omega), if_pos rfl, if_pos rfl]
      rfl
    · rw [if_neg h1, if_neg h1]
      split <;> rfl
/-- One uniform register written. -/
theorem changes_uni (c : Ctx) (d : BitVec 6) (x : Word) :
    Changes c { uni := oneUni d x } (c.g.free.writeUni d.toNat x) := (changes_none c).writeUni d.toNat x
/-- One uniform pair written. -/
theorem changes_uniPair (c : Ctx) (d : BitVec 6) (x : DWord) :
    Changes c { uni := pairUni d x } (c.g.free.writeUniPair d.toNat x) := by
  refine (((changes_none c).writeUni d.toNat _).writeUni (d.toNat + 1) _).of_eq ?_ rfl
  simp only [Effect.mk.injEq, true_and, and_true]
  funext u
  unfold pairUni
  by_cases h1 : u = d.toNat
  · subst h1
    rw [if_neg (by omega), if_pos rfl, if_pos rfl]
  · rw [if_neg h1, if_neg h1]

end Sys2Proof.Machine
end

