-- ==== Sys2Proof/Laws/PerInstr.lean ====
section
/-! SUPPORT. The family HeadWord: how many words an instruction has is read off its first word (R29, R33). One lemma
per constructor. -/

namespace Sys2Proof.Laws.HeadWord

/-- The first of an instruction's words says whether a second belongs to it; the fused sequence, which is four
instructions, and a word with no instruction stand outside. -/
def Statement (i : Instr) : Prop :=
  (∀ x, i ≠ .fusedExpSum x) → (∀ w, i ≠ .illegalWord w) → ∀ w l, encode i = w :: l →
    (isTwoWord w = false ∧ l = []) ∨ (isTwoWord w = true ∧ ∃ t, l = [t])

/-- The words of a service core are one word each. -/
theorem xkrov_head (op f : Nat) (rd rs1 rs2 : BitVec 5) : isTwoWord (encX op f rd rs1 rs2) = false := by
  have h31 : bit (encX op f rd rs1 rs2) 31 = false := by
    refine bit_eq (fld_eq ?_)
    simp only [encX, toNat_cat, BitVec.toNat_ofNat, ofB_false]
    omega
  have h24 : (fld (encX op f rd rs1 rs2) 24 6).toNat = 0 ∨ (fld (encX op f rd rs1 rs2) 24 6).toNat = 1 := by
    have h : fld (encX op f rd rs1 rs2) 24 6 = BitVec.ofNat 6 (rs2.toNat / 16) := by
      refine fld_eq ?_
      simp only [encX, toNat_cat, BitVec.toNat_ofNat]
      omega
    rw [h, BitVec.toNat_ofNat]
    omega
  rcases h24 with h | h <;> simp only [isTwoWord, h31, h] <;> decide

theorem add : ∀ x0, Statement (.add x0) := by intro x0 _ _ _ _ h; cases h; simp [isTwoWord]
theorem sub : ∀ x0, Statement (.sub x0) := by intro x0 _ _ _ _ h; cases h; simp [isTwoWord]
theorem min : ∀ x0, Statement (.min x0) := by intro x0 _ _ _ _ h; cases h; simp [isTwoWord]
theorem max : ∀ x0, Statement (.max x0) := by intro x0 _ _ _ _ h; cases h; simp [isTwoWord]
theorem minu : ∀ x0, Statement (.minu x0) := by intro x0 _ _ _ _ h; cases h; simp [isTwoWord]
theorem maxu : ∀ x0, Statement (.maxu x0) := by intro x0 _ _ _ _ h; cases h; simp [isTwoWord]
theorem abs : ∀ x0, Statement (.abs x0) := by intro x0 _ _ _ _ h; cases h; simp [isTwoWord]
theorem neg : ∀ x0, Statement (.neg x0) := by intro x0 _ _ _ _ h; cases h; simp [isTwoWord]
theorem mul : ∀ x0, Statement (.mul x0) := by intro x0 _ _ _ _ h; cases h; simp [isTwoWord]
theorem mulhi : ∀ x0, Statement (.mulhi x0) := by intro x0 _ _ _ _ h; cases h; simp [isTwoWord]
theorem mulhiu : ∀ x0, Statement (.mulhiu x0) := by intro x0 _ _ _ _ h; cases h; simp [isTwoWord]
theorem mad : ∀ x0, Statement (.mad x0) := by intro x0 _ _ _ _ h; cases h; simp [isTwoWord]
theorem and : ∀ x0, Statement (.and x0) := by intro x0 _ _ _ _ h; cases h; simp [isTwoWord]
theorem or : ∀ x0, Statement (.or x0) := by intro x0 _ _ _ _ h; cases h; simp [isTwoWord]
theorem xor : ∀ x0, Statement (.xor x0) := by intro x0 _ _ _ _ h; cases h; simp [isTwoWord]
theorem andn : ∀ x0, Statement (.andn x0) := by intro x0 _ _ _ _ h; cases h; simp [isTwoWord]
theorem shl : ∀ x0, Statement (.shl x0) := by intro x0 _ _ _ _ h; cases h; simp [isTwoWord]
theorem shr : ∀ x0, Statement (.shr x0) := by intro x0 _ _ _ _ h; cases h; simp [isTwoWord]
theorem sar : ∀ x0, Statement (.sar x0) := by intro x0 _ _ _ _ h; cases h; simp [isTwoWord]
theorem rol : ∀ x0, Statement (.rol x0) := by intro x0 _ _ _ _ h; cases h; simp [isTwoWord]
theorem popc : ∀ x0, Statement (.popc x0) := by intro x0 _ _ _ _ h; cases h; simp [isTwoWord]
theorem clz : ∀ x0, Statement (.clz x0) := by intro x0 _ _ _ _ h; cases h; simp [isTwoWord]
theorem ctz : ∀ x0, Statement (.ctz x0) := by intro x0 _ _ _ _ h; cases h; simp [isTwoWord]
theorem brev : ∀ x0, Statement (.brev x0) := by intro x0 _ _ _ _ h; cases h; simp [isTwoWord]
theorem bfeu : ∀ x0, Statement (.bfeu x0) := by intro x0 _ _ _ _ h; cases h; simp [isTwoWord]
theorem bfes : ∀ x0, Statement (.bfes x0) := by intro x0 _ _ _ _ h; cases h; simp [isTwoWord]
theorem bfi : ∀ x0, Statement (.bfi x0) := by intro x0 _ _ _ _ h; cases h; simp [isTwoWord]
theorem prmt : ∀ x0, Statement (.prmt x0) := by intro x0 _ _ _ _ h; cases h; simp [isTwoWord]
theorem seq : ∀ x0, Statement (.seq x0) := by intro x0 _ _ _ _ h; cases h; simp [isTwoWord]
theorem sne : ∀ x0, Statement (.sne x0) := by intro x0 _ _ _ _ h; cases h; simp [isTwoWord]
theorem slt : ∀ x0, Statement (.slt x0) := by intro x0 _ _ _ _ h; cases h; simp [isTwoWord]
theorem sltu : ∀ x0, Statement (.sltu x0) := by intro x0 _ _ _ _ h; cases h; simp [isTwoWord]
theorem sel : ∀ x0, Statement (.sel x0) := by intro x0 _ _ _ _ h; cases h; simp [isTwoWord]
theorem mov : ∀ x0, Statement (.mov x0) := by intro x0 _ _ _ _ h; cases h; simp [isTwoWord]
theorem add64 : ∀ x0, Statement (.add64 x0) := by intro x0 _ _ _ _ h; cases h; simp [isTwoWord]
theorem sub64 : ∀ x0, Statement (.sub64 x0) := by intro x0 _ _ _ _ h; cases h; simp [isTwoWord]
theorem shl64 : ∀ x0, Statement (.shl64 x0) := by intro x0 _ _ _ _ h; cases h; simp [isTwoWord]
theorem shr64 : ∀ x0, Statement (.shr64 x0) := by intro x0 _ _ _ _ h; cases h; simp [isTwoWord]
theorem addi : ∀ x0, Statement (.addi x0) := by intro x0 _ _ _ _ h; cases h; simp [isTwoWord]
theorem shli : ∀ x0, Statement (.shli x0) := by intro x0 _ _ _ _ h; cases h; simp [isTwoWord]
theorem shri : ∀ x0, Statement (.shri x0) := by intro x0 _ _ _ _ h; cases h; simp [isTwoWord]
theorem sari : ∀ x0, Statement (.sari x0) := by intro x0 _ _ _ _ h; cases h; simp [isTwoWord]
theorem roli : ∀ x0, Statement (.roli x0) := by intro x0 _ _ _ _ h; cases h; simp [isTwoWord]
theorem andi : ∀ x0, Statement (.andi x0) := by intro x0 _ _ _ _ h; cases h; simp [isTwoWord]
theorem ori : ∀ x0, Statement (.ori x0) := by intro x0 _ _ _ _ h; cases h; simp [isTwoWord]
theorem xori : ∀ x0, Statement (.xori x0) := by intro x0 _ _ _ _ h; cases h; simp [isTwoWord]
theorem andni : ∀ x0, Statement (.andni x0) := by intro x0 _ _ _ _ h; cases h; simp [isTwoWord]
theorem movi : ∀ x0, Statement (.movi x0) := by intro x0 _ _ _ _ h; cases h; simp [isTwoWord]
theorem movw : ∀ x0, Statement (.movw x0) := by intro x0 _ _ _ _ h; cases h; simp [isTwoWord]
theorem lsrd : ∀ x0, Statement (.lsrd x0) := by intro x0 _ _ _ _ h; cases h; simp [isTwoWord]
theorem fadd : ∀ x0, Statement (.fadd x0) := by intro x0 _ _ _ _ h; cases h; simp [isTwoWord]
theorem fsub : ∀ x0, Statement (.fsub x0) := by intro x0 _ _ _ _ h; cases h; simp [isTwoWord]
theorem fmul : ∀ x0, Statement (.fmul x0) := by intro x0 _ _ _ _ h; cases h; simp [isTwoWord]
theorem fmin : ∀ x0, Statement (.fmin x0) := by intro x0 _ _ _ _ h; cases h; simp [isTwoWord]
theorem fmax : ∀ x0, Statement (.fmax x0) := by intro x0 _ _ _ _ h; cases h; simp [isTwoWord]
theorem fabs : ∀ x0, Statement (.fabs x0) := by intro x0 _ _ _ _ h; cases h; simp [isTwoWord]
theorem fneg : ∀ x0, Statement (.fneg x0) := by intro x0 _ _ _ _ h; cases h; simp [isTwoWord]
theorem fcpsgn : ∀ x0, Statement (.fcpsgn x0) := by intro x0 _ _ _ _ h; cases h; simp [isTwoWord]
theorem ffma : ∀ x0, Statement (.ffma x0) := by intro x0 _ _ _ _ h; cases h; simp [isTwoWord]
theorem ffms : ∀ x0, Statement (.ffms x0) := by intro x0 _ _ _ _ h; cases h; simp [isTwoWord]
theorem fnma : ∀ x0, Statement (.fnma x0) := by intro x0 _ _ _ _ h; cases h; simp [isTwoWord]
theorem fnms : ∀ x0, Statement (.fnms x0) := by intro x0 _ _ _ _ h; cases h; simp [isTwoWord]
theorem feq : ∀ x0, Statement (.feq x0) := by intro x0 _ _ _ _ h; cases h; simp [isTwoWord]
theorem flt : ∀ x0, Statement (.flt x0) := by intro x0 _ _ _ _ h; cases h; simp [isTwoWord]
theorem fle : ∀ x0, Statement (.fle x0) := by intro x0 _ _ _ _ h; cases h; simp [isTwoWord]
theorem fUn : ∀ x0, Statement (.fUn x0) := by intro x0 _ _ _ _ h; cases h; simp [isTwoWord]
theorem fclass : ∀ x0, Statement (.fclass x0) := by intro x0 _ _ _ _ h; cases h; simp [isTwoWord]
theorem fscale : ∀ x0, Statement (.fscale x0) := by intro x0 _ _ _ _ h; cases h; simp [isTwoWord]
theorem fgetexp : ∀ x0, Statement (.fgetexp x0) := by intro x0 _ _ _ _ h; cases h; simp [isTwoWord]
theorem hadd2 : ∀ x0, Statement (.hadd2 x0) := by intro x0 _ _ _ _ h; cases h; simp [isTwoWord]
theorem hmul2 : ∀ x0, Statement (.hmul2 x0) := by intro x0 _ _ _ _ h; cases h; simp [isTwoWord]
theorem hfma2 : ∀ x0, Statement (.hfma2 x0) := by intro x0 _ _ _ _ h; cases h; simp [isTwoWord]
theorem hmax2 : ∀ x0, Statement (.hmax2 x0) := by intro x0 _ _ _ _ h; cases h; simp [isTwoWord]
theorem badd2 : ∀ x0, Statement (.badd2 x0) := by intro x0 _ _ _ _ h; cases h; simp [isTwoWord]
theorem bmul2 : ∀ x0, Statement (.bmul2 x0) := by intro x0 _ _ _ _ h; cases h; simp [isTwoWord]
theorem bfma2 : ∀ x0, Statement (.bfma2 x0) := by intro x0 _ _ _ _ h; cases h; simp [isTwoWord]
theorem bmax2 : ∀ x0, Statement (.bmax2 x0) := by intro x0 _ _ _ _ h; cases h; simp [isTwoWord]
theorem rcp : ∀ x0, Statement (.rcp x0) := by intro x0 _ _ _ _ h; cases h; simp [isTwoWord]
theorem rsq : ∀ x0, Statement (.rsq x0) := by intro x0 _ _ _ _ h; cases h; simp [isTwoWord]
theorem sqrt : ∀ x0, Statement (.sqrt x0) := by intro x0 _ _ _ _ h; cases h; simp [isTwoWord]
theorem exp2 : ∀ x0, Statement (.exp2 x0) := by intro x0 _ _ _ _ h; cases h; simp [isTwoWord]
theorem log2 : ∀ x0, Statement (.log2 x0) := by intro x0 _ _ _ _ h; cases h; simp [isTwoWord]
theorem sin : ∀ x0, Statement (.sin x0) := by intro x0 _ _ _ _ h; cases h; simp [isTwoWord]
theorem cos : ∀ x0, Statement (.cos x0) := by intro x0 _ _ _ _ h; cases h; simp [isTwoWord]
theorem tanh : ∀ x0, Statement (.tanh x0) := by intro x0 _ _ _ _ h; cases h; simp [isTwoWord]
theorem fusedExpSum : ∀ x0, Statement (.fusedExpSum x0) := by intro x0 h; exact absurd rfl (h _)
theorem cvt : ∀ x0, Statement (.cvt x0) := by intro x0 _ _ _ _ h; cases h; simp [isTwoWord]
theorem pcvt : ∀ x0, Statement (.pcvt x0) := by intro x0 _ _ _ _ h; cases h; simp [isTwoWord]
theorem seed : ∀ x0, Statement (.seed x0) := by intro x0 _ _ _ _ h; cases h; simp [isTwoWord]
theorem rand : ∀ x0, Statement (.rand x0) := by intro x0 _ _ _ _ h; cases h; simp [isTwoWord]
theorem hdot2 : ∀ x0, Statement (.hdot2 x0) := by intro x0 _ _ _ _ h; cases h; simp [isTwoWord]
theorem bdot2 : ∀ x0, Statement (.bdot2 x0) := by intro x0 _ _ _ _ h; cases h; simp [isTwoWord]
theorem i8dot4 : ∀ x0, Statement (.i8dot4 x0) := by intro x0 _ _ _ _ h; cases h; simp [isTwoWord]
theorem u8dot4 : ∀ x0, Statement (.u8dot4 x0) := by intro x0 _ _ _ _ h; cases h; simp [isTwoWord]
theorem bnz : ∀ x0, Statement (.bnz x0) := by intro x0 _ _ _ _ h; cases h; simp [isTwoWord]
theorem bz : ∀ x0, Statement (.bz x0) := by intro x0 _ _ _ _ h; cases h; simp [isTwoWord]
theorem jmpl : ∀ x0, Statement (.jmpl x0) := by intro x0 _ _ _ _ h; cases h; simp [isTwoWord]
theorem calll : ∀ x0, Statement (.calll x0) := by intro x0 _ _ _ _ h; cases h; simp [isTwoWord]
theorem retl : ∀ x0, Statement (.retl x0) := by intro x0 _ _ _ _ h; cases h; simp [isTwoWord]
theorem any : ∀ x0, Statement (.any x0) := by intro x0 _ _ _ _ h; cases h; simp [isTwoWord]
theorem all : ∀ x0, Statement (.all x0) := by intro x0 _ _ _ _ h; cases h; simp [isTwoWord]
theorem ballot : ∀ x0, Statement (.ballot x0) := by intro x0 _ _ _ _ h; cases h; simp [isTwoWord]
theorem uni : ∀ x0, Statement (.uni x0) := by intro x0 _ _ _ _ h; cases h; simp [isTwoWord]
theorem shflIdx : ∀ x0, Statement (.shflIdx x0) := by intro x0 _ _ _ _ h; cases h; simp [isTwoWord]
theorem shflUp : ∀ x0, Statement (.shflUp x0) := by intro x0 _ _ _ _ h; cases h; simp [isTwoWord]
theorem shflDown : ∀ x0, Statement (.shflDown x0) := by intro x0 _ _ _ _ h; cases h; simp [isTwoWord]
theorem shflXor : ∀ x0, Statement (.shflXor x0) := by intro x0 _ _ _ _ h; cases h; simp [isTwoWord]
theorem reduce : ∀ x0, Statement (.reduce x0) := by intro x0 _ _ _ _ h; cases h; simp [isTwoWord]
theorem scan : ∀ x0, Statement (.scan x0) := by intro x0 _ _ _ _ h; cases h; simp [isTwoWord]
theorem rdlane : ∀ x0, Statement (.rdlane x0) := by intro x0 _ _ _ _ h; cases h; simp [isTwoWord]
theorem firstlane : ∀ x0, Statement (.firstlane x0) := by intro x0 _ _ _ _ h; cases h; simp [isTwoWord]
theorem ldt : ∀ x0, Statement (.ldt x0) := by intro x0 _ _ _ _ h; cases h; simp [isTwoWord]
theorem stt : ∀ x0, Statement (.stt x0) := by intro x0 _ _ _ _ h; cases h; simp [isTwoWord]
theorem att : ∀ x0, Statement (.att x0) := by intro x0 _ _ _ _ h; cases h; simp [isTwoWord]
theorem cltLoad : ∀ x0, Statement (.cltLoad x0) := by intro x0 _ _ _ _ h; cases h; simp [isTwoWord]
theorem cltStore : ∀ x0, Statement (.cltStore x0) := by intro x0 _ _ _ _ h; cases h; simp [isTwoWord]
theorem ld : ∀ x0, Statement (.ld x0) := by intro x0 _ _ _ _ h; cases h; simp [isTwoWord]
theorem st : ∀ x0, Statement (.st x0) := by intro x0 _ _ _ _ h; cases h; simp [isTwoWord]
theorem ldo : ∀ x0, Statement (.ldo x0) := by intro x0 _ _ _ _ h; cases h; simp [isTwoWord]
theorem sto : ∀ x0, Statement (.sto x0) := by intro x0 _ _ _ _ h; cases h; simp [isTwoWord]
theorem stog : ∀ x0, Statement (.stog x0) := by intro x0 _ _ _ _ h; cases h; simp [isTwoWord]
theorem atom : ∀ x0, Statement (.atom x0) := by intro x0 _ _ _ _ h; cases h; simp [isTwoWord]
theorem red : ∀ x0, Statement (.red x0) := by intro x0 _ _ _ _ h; cases h; simp [isTwoWord]
theorem waita : ∀ x0, Statement (.waita x0) := by intro x0 _ _ _ _ h; cases h; simp [isTwoWord]
theorem wakea : ∀ x0, Statement (.wakea x0) := by intro x0 _ _ _ _ h; cases h; simp [isTwoWord]
theorem mma : ∀ x0, Statement (.mma x0) := by intro x0 _ _ _ _ h; cases h; simp [isTwoWord]
theorem zrd : ∀ x0, Statement (.zrd x0) := by intro x0 _ _ _ _ h; cases h; simp [isTwoWord]
theorem zwr : ∀ x0, Statement (.zwr x0) := by intro x0 _ _ _ _ h; cases h; simp [isTwoWord]
theorem post : ∀ x0, Statement (.post x0) := by intro x0 _ _ _ _ h; cases h; simp [isTwoWord]
theorem postTry : ∀ x0, Statement (.postTry x0) := by intro x0 _ _ _ _ h; cases h; simp [isTwoWord]
theorem postWait : ∀ x0, Statement (.postWait x0) := by intro x0 _ _ _ _ h; cases h; simp [isTwoWord]
theorem saluAdd : ∀ x0, Statement (.saluAdd x0) := by intro x0 _ _ _ _ h; cases h; simp [isTwoWord]
theorem saluSub : ∀ x0, Statement (.saluSub x0) := by intro x0 _ _ _ _ h; cases h; simp [isTwoWord]
theorem saluMin : ∀ x0, Statement (.saluMin x0) := by intro x0 _ _ _ _ h; cases h; simp [isTwoWord]
theorem saluMax : ∀ x0, Statement (.saluMax x0) := by intro x0 _ _ _ _ h; cases h; simp [isTwoWord]
theorem saluMinu : ∀ x0, Statement (.saluMinu x0) := by intro x0 _ _ _ _ h; cases h; simp [isTwoWord]
theorem saluMaxu : ∀ x0, Statement (.saluMaxu x0) := by intro x0 _ _ _ _ h; cases h; simp [isTwoWord]
theorem saluAbs : ∀ x0, Statement (.saluAbs x0) := by intro x0 _ _ _ _ h; cases h; simp [isTwoWord]
theorem saluNeg : ∀ x0, Statement (.saluNeg x0) := by intro x0 _ _ _ _ h; cases h; simp [isTwoWord]
theorem saluMul : ∀ x0, Statement (.saluMul x0) := by intro x0 _ _ _ _ h; cases h; simp [isTwoWord]
theorem saluMulhi : ∀ x0, Statement (.saluMulhi x0) := by intro x0 _ _ _ _ h; cases h; simp [isTwoWord]
theorem saluMulhiu : ∀ x0, Statement (.saluMulhiu x0) := by intro x0 _ _ _ _ h; cases h; simp [isTwoWord]
theorem saluMad : ∀ x0, Statement (.saluMad x0) := by intro x0 _ _ _ _ h; cases h; simp [isTwoWord]
theorem saluAnd : ∀ x0, Statement (.saluAnd x0) := by intro x0 _ _ _ _ h; cases h; simp [isTwoWord]
theorem saluOr : ∀ x0, Statement (.saluOr x0) := by intro x0 _ _ _ _ h; cases h; simp [isTwoWord]
theorem saluXor : ∀ x0, Statement (.saluXor x0) := by intro x0 _ _ _ _ h; cases h; simp [isTwoWord]
theorem saluAndn : ∀ x0, Statement (.saluAndn x0) := by intro x0 _ _ _ _ h; cases h; simp [isTwoWord]
theorem saluShl : ∀ x0, Statement (.saluShl x0) := by intro x0 _ _ _ _ h; cases h; simp [isTwoWord]
theorem saluShr : ∀ x0, Statement (.saluShr x0) := by intro x0 _ _ _ _ h; cases h; simp [isTwoWord]
theorem saluSar : ∀ x0, Statement (.saluSar x0) := by intro x0 _ _ _ _ h; cases h; simp [isTwoWord]
theorem saluRol : ∀ x0, Statement (.saluRol x0) := by intro x0 _ _ _ _ h; cases h; simp [isTwoWord]
theorem saluPopc : ∀ x0, Statement (.saluPopc x0) := by intro x0 _ _ _ _ h; cases h; simp [isTwoWord]
theorem saluClz : ∀ x0, Statement (.saluClz x0) := by intro x0 _ _ _ _ h; cases h; simp [isTwoWord]
theorem saluCtz : ∀ x0, Statement (.saluCtz x0) := by intro x0 _ _ _ _ h; cases h; simp [isTwoWord]
theorem saluBrev : ∀ x0, Statement (.saluBrev x0) := by intro x0 _ _ _ _ h; cases h; simp [isTwoWord]
theorem saluBfeu : ∀ x0, Statement (.saluBfeu x0) := by intro x0 _ _ _ _ h; cases h; simp [isTwoWord]
theorem saluBfes : ∀ x0, Statement (.saluBfes x0) := by intro x0 _ _ _ _ h; cases h; simp [isTwoWord]
theorem saluBfi : ∀ x0, Statement (.saluBfi x0) := by intro x0 _ _ _ _ h; cases h; simp [isTwoWord]
theorem saluPrmt : ∀ x0, Statement (.saluPrmt x0) := by intro x0 _ _ _ _ h; cases h; simp [isTwoWord]
theorem saluSeq : ∀ x0, Statement (.saluSeq x0) := by intro x0 _ _ _ _ h; cases h; simp [isTwoWord]
theorem saluSne : ∀ x0, Statement (.saluSne x0) := by intro x0 _ _ _ _ h; cases h; simp [isTwoWord]
theorem saluSlt : ∀ x0, Statement (.saluSlt x0) := by intro x0 _ _ _ _ h; cases h; simp [isTwoWord]
theorem saluSltu : ∀ x0, Statement (.saluSltu x0) := by intro x0 _ _ _ _ h; cases h; simp [isTwoWord]
theorem saluSel : ∀ x0, Statement (.saluSel x0) := by intro x0 _ _ _ _ h; cases h; simp [isTwoWord]
theorem saluMov : ∀ x0, Statement (.saluMov x0) := by intro x0 _ _ _ _ h; cases h; simp [isTwoWord]
theorem salu64Add64 : ∀ x0, Statement (.salu64Add64 x0) := by intro x0 _ _ _ _ h; cases h; simp [isTwoWord]
theorem salu64Sub64 : ∀ x0, Statement (.salu64Sub64 x0) := by intro x0 _ _ _ _ h; cases h; simp [isTwoWord]
theorem salu64Shl64 : ∀ x0, Statement (.salu64Shl64 x0) := by intro x0 _ _ _ _ h; cases h; simp [isTwoWord]
theorem salu64Shr64 : ∀ x0, Statement (.salu64Shr64 x0) := by intro x0 _ _ _ _ h; cases h; simp [isTwoWord]
theorem saddi : ∀ x0, Statement (.saddi x0) := by intro x0 _ _ _ _ h; cases h; simp [isTwoWord]
theorem sandi : ∀ x0, Statement (.sandi x0) := by intro x0 _ _ _ _ h; cases h; simp [isTwoWord]
theorem sori : ∀ x0, Statement (.sori x0) := by intro x0 _ _ _ _ h; cases h; simp [isTwoWord]
theorem sxori : ∀ x0, Statement (.sxori x0) := by intro x0 _ _ _ _ h; cases h; simp [isTwoWord]
theorem sshli : ∀ x0, Statement (.sshli x0) := by intro x0 _ _ _ _ h; cases h; simp [isTwoWord]
theorem sshri : ∀ x0, Statement (.sshri x0) := by intro x0 _ _ _ _ h; cases h; simp [isTwoWord]
theorem ssari : ∀ x0, Statement (.ssari x0) := by intro x0 _ _ _ _ h; cases h; simp [isTwoWord]
theorem sroli : ∀ x0, Statement (.sroli x0) := by intro x0 _ _ _ _ h; cases h; simp [isTwoWord]
theorem sslti : ∀ x0, Statement (.sslti x0) := by intro x0 _ _ _ _ h; cases h; simp [isTwoWord]
theorem smovi : ∀ x0, Statement (.smovi x0) := by intro x0 _ _ _ _ h; cases h; simp [isTwoWord]
theorem smovw : ∀ x0, Statement (.smovw x0) := by intro x0 _ _ _ _ h; cases h; simp [isTwoWord]
theorem bra : ∀ x0, Statement (.bra x0) := by intro x0 _ _ _ _ h; cases h; simp [isTwoWord]
theorem call : ∀ x0, Statement (.call x0) := by intro x0 _ _ _ _ h; cases h; simp [isTwoWord]
theorem jmpr : ∀ x0, Statement (.jmpr x0) := by intro x0 _ _ _ _ h; cases h; simp [isTwoWord]
theorem ret : ∀ x0, Statement (.ret x0) := by intro x0 _ _ _ _ h; cases h; simp [isTwoWord]
theorem exit : ∀ x0, Statement (.exit x0) := by intro x0 _ _ _ _ h; cases h; simp [isTwoWord]
theorem srd : ∀ x0, Statement (.srd x0) := by intro x0 _ _ _ _ h; cases h; simp [isTwoWord]
theorem swr : ∀ x0, Statement (.swr x0) := by intro x0 _ _ _ _ h; cases h; simp [isTwoWord]
theorem settile : ∀ x0, Statement (.settile x0) := by intro x0 _ _ _ _ h; cases h; simp [isTwoWord]
theorem sleep : ∀ x0, Statement (.sleep x0) := by intro x0 _ _ _ _ h; cases h; simp [isTwoWord]
theorem yield : ∀ x0, Statement (.yield x0) := by intro x0 _ _ _ _ h; cases h; simp [isTwoWord]
theorem barArrive : ∀ x0, Statement (.barArrive x0) := by intro x0 _ _ _ _ h; cases h; simp [isTwoWord]
theorem barWait : ∀ x0, Statement (.barWait x0) := by intro x0 _ _ _ _ h; cases h; simp [isTwoWord]
theorem barSync : ∀ x0, Statement (.barSync x0) := by intro x0 _ _ _ _ h; cases h; simp [isTwoWord]
theorem lduW : ∀ x0, Statement (.lduW x0) := by intro x0 _ _ _ _ h; cases h; simp [isTwoWord]
theorem lduD : ∀ x0, Statement (.lduD x0) := by intro x0 _ _ _ _ h; cases h; simp [isTwoWord]
theorem stuW : ∀ x0, Statement (.stuW x0) := by intro x0 _ _ _ _ h; cases h; simp [isTwoWord]
theorem fence : ∀ x0, Statement (.fence x0) := by intro x0 _ _ _ _ h; cases h; simp [isTwoWord]
theorem discard : ∀ x0, Statement (.discard x0) := by intro x0 _ _ _ _ h; cases h; simp [isTwoWord]
theorem pref : ∀ x0, Statement (.pref x0) := by intro x0 _ _ _ _ h; cases h; simp [isTwoWord]
theorem claim : ∀ x0, Statement (.claim x0) := by intro x0 _ _ _ _ h; cases h; simp [isTwoWord]
theorem shareJoin : ∀ x0, Statement (.shareJoin x0) := by intro x0 _ _ _ _ h; cases h; simp [isTwoWord]
theorem shareLeave : ∀ x0, Statement (.shareLeave x0) := by intro x0 _ _ _ _ h; cases h; simp [isTwoWord]
theorem shareSub : ∀ x0, Statement (.shareSub x0) := by intro x0 _ _ _ _ h; cases h; simp [isTwoWord]
theorem shareUnsub : ∀ x0, Statement (.shareUnsub x0) := by intro x0 _ _ _ _ h; cases h; simp [isTwoWord]
theorem copy : ∀ x0, Statement (.copy x0) := by intro x0 _ _ _ _ h; cases h; simp [isTwoWord]
theorem expect : ∀ x0, Statement (.expect x0) := by intro x0 _ _ _ _ h; cases h; simp [isTwoWord]
theorem arrive : ∀ x0, Statement (.arrive x0) := by intro x0 _ _ _ _ h; cases h; simp [isTwoWord]
theorem waitg : ∀ x0, Statement (.waitg x0) := by intro x0 _ _ _ _ h; cases h; simp [isTwoWord]
theorem testg : ∀ x0, Statement (.testg x0) := by intro x0 _ _ _ _ h; cases h; simp [isTwoWord]
theorem cbInit : ∀ x0, Statement (.cbInit x0) := by intro x0 _ _ _ _ h; cases h; simp [isTwoWord]
theorem cbAcq : ∀ x0, Statement (.cbAcq x0) := by intro x0 _ _ _ _ h; cases h; simp [isTwoWord]
theorem cbCommit : ∀ x0, Statement (.cbCommit x0) := by intro x0 _ _ _ _ h; cases h; simp [isTwoWord]
theorem cbWait : ∀ x0, Statement (.cbWait x0) := by intro x0 _ _ _ _ h; cases h; simp [isTwoWord]
theorem cbRel : ∀ x0, Statement (.cbRel x0) := by intro x0 _ _ _ _ h; cases h; simp [isTwoWord]
theorem wload : ∀ x0, Statement (.wload x0) := by intro x0 _ _ _ _ h; cases h; simp [isTwoWord]
theorem zclr : ∀ x0, Statement (.zclr x0) := by intro x0 _ _ _ _ h; cases h; simp [isTwoWord]
theorem zstt : ∀ x0, Statement (.zstt x0) := by intro x0 _ _ _ _ h; cases h; simp [isTwoWord]
theorem zldt : ∀ x0, Statement (.zldt x0) := by intro x0 _ _ _ _ h; cases h; simp [isTwoWord]
theorem wact : ∀ x0, Statement (.wact x0) := by intro x0 _ _ _ _ h; cases h; simp [isTwoWord]
theorem kset : ∀ x0, Statement (.kset x0) := by intro x0 _ _ _ _ h; cases h; simp [isTwoWord]
theorem nodeq : ∀ x0, Statement (.nodeq x0) := by intro x0 _ _ _ _ h; cases h; simp [isTwoWord]
theorem put : ∀ x0, Statement (.put x0) := by intro x0 _ _ _ _ h; cases h; simp [isTwoWord]
theorem get : ∀ x0, Statement (.get x0) := by intro x0 _ _ _ _ h; cases h; simp [isTwoWord]
theorem wcwait : ∀ x0, Statement (.wcwait x0) := by intro x0 _ _ _ _ h; cases h; simp [isTwoWord]
theorem wcrd : ∀ x0, Statement (.wcrd x0) := by intro x0 _ _ _ _ h; cases h; simp [isTwoWord]
theorem wcreset : ∀ x0, Statement (.wcreset x0) := by intro x0 _ _ _ _ h; cases h; simp [isTwoWord]
theorem trap : ∀ x0, Statement (.trap x0) := by intro x0 _ _ _ _ h; cases h; simp [isTwoWord]
theorem rte : ∀ x0, Statement (.rte x0) := by intro x0 _ _ _ _ h; cases h; simp [isTwoWord]
theorem grprd : ∀ x0, Statement (.grprd x0) := by intro x0 _ _ _ _ h; cases h; simp [isTwoWord]
theorem grpwr : ∀ x0, Statement (.grpwr x0) := by intro x0 _ _ _ _ h; cases h; simp [isTwoWord]
theorem grpres : ∀ x0, Statement (.grpres x0) := by intro x0 _ _ _ _ h; cases h; simp [isTwoWord]
theorem grpstop : ∀ x0, Statement (.grpstop x0) := by intro x0 _ _ _ _ h; cases h; simp [isTwoWord]
theorem grplist : ∀ x0, Statement (.grplist x0) := by intro x0 _ _ _ _ h; cases h; simp [isTwoWord]
theorem illegalWord : ∀ x0, Statement (.illegalWord x0) := by intro x0 _ h; exact absurd rfl (h _)
theorem instructionFetchFault : ∀ x0, Statement (.instructionFetchFault x0) := by intro x0 _ _ _ _ h; cases h
theorem bfx : ∀ x0, Statement (.bfx x0) := by intro x0 _ _ _ _ h; cases h; exact .inl ⟨xkrov_head .., rfl⟩
theorem lodeh : ∀ x0, Statement (.lodeh x0) := by intro x0 _ _ _ _ h; cases h; exact .inl ⟨xkrov_head .., rfl⟩
theorem swait : ∀ x0, Statement (.swait x0) := by intro x0 _ _ _ _ h; cases h; exact .inl ⟨xkrov_head .., rfl⟩
theorem fqpop : ∀ x0, Statement (.fqpop x0) := by intro x0 _ _ _ _ h; cases h; exact .inl ⟨xkrov_head .., rfl⟩
theorem wakegComplete : ∀ x0, Statement (.wakegComplete x0) := by
  intro x0 _ _ _ _ h; cases h; exact .inl ⟨xkrov_head .., rfl⟩
theorem wakegRefuse : ∀ x0, Statement (.wakegRefuse x0) := by
  intro x0 _ _ _ _ h; cases h; exact .inl ⟨xkrov_head .., rfl⟩
theorem wakegDecline : ∀ x0, Statement (.wakegDecline x0) := by
  intro x0 _ _ _ _ h; cases h; exact .inl ⟨xkrov_head .., rfl⟩
theorem wakegRequeue : ∀ x0, Statement (.wakegRequeue x0) := by
  intro x0 _ _ _ _ h; cases h; exact .inl ⟨xkrov_head .., rfl⟩
theorem glreplay : ∀ x0, Statement (.glreplay x0) := by intro x0 _ _ _ _ h; cases h; exact .inl ⟨xkrov_head .., rfl⟩
theorem pginst : ∀ x0, Statement (.pginst x0) := by intro x0 _ _ _ _ h; cases h; exact .inl ⟨xkrov_head .., rfl⟩
theorem pgevict : ∀ x0, Statement (.pgevict x0) := by intro x0 _ _ _ _ h; cases h; exact .inl ⟨xkrov_head .., rfl⟩
theorem rfetch : ∀ x0, Statement (.rfetch x0) := by intro x0 _ _ _ _ h; cases h; exact .inl ⟨xkrov_head .., rfl⟩
theorem ueread : ∀ x0, Statement (.ueread x0) := by intro x0 _ _ _ _ h; cases h; exact .inl ⟨xkrov_head .., rfl⟩
theorem uewrite : ∀ x0, Statement (.uewrite x0) := by intro x0 _ _ _ _ h; cases h; exact .inl ⟨xkrov_head .., rfl⟩
theorem lodeq : ∀ x0, Statement (.lodeq x0) := by intro x0 _ _ _ _ h; cases h; exact .inl ⟨xkrov_head .., rfl⟩
theorem dispatchRun : ∀ x0, Statement (.dispatchRun x0) := by
  intro x0 _ _ _ _ h; cases h; exact .inl ⟨xkrov_head .., rfl⟩
theorem dispatchStop : ∀ x0, Statement (.dispatchStop x0) := by
  intro x0 _ _ _ _ h; cases h; exact .inl ⟨xkrov_head .., rfl⟩
theorem dispatchPreempt : ∀ x0, Statement (.dispatchPreempt x0) := by
  intro x0 _ _ _ _ h; cases h; exact .inl ⟨xkrov_head .., rfl⟩
theorem qsave : ∀ x0, Statement (.qsave x0) := by intro x0 _ _ _ _ h; cases h; exact .inl ⟨xkrov_head .., rfl⟩
theorem qload : ∀ x0, Statement (.qload x0) := by intro x0 _ _ _ _ h; cases h; exact .inl ⟨xkrov_head .., rfl⟩
theorem fenceConditionsMet : ∀ x0, Statement (.fenceConditionsMet x0) := by intro x0 _ _ _ _ h; cases h
theorem shareChangeDone : ∀ x0, Statement (.shareChangeDone x0) := by intro x0 _ _ _ _ h; cases h
theorem subscriptionRegister : ∀ x0, Statement (.subscriptionRegister x0) := by intro x0 _ _ _ _ h; cases h
theorem subscriptionDelivery : ∀ x0, Statement (.subscriptionDelivery x0) := by intro x0 _ _ _ _ h; cases h
theorem copyQueueFree : ∀ x0, Statement (.copyQueueFree x0) := by intro x0 _ _ _ _ h; cases h
theorem copyArrival : ∀ x0, Statement (.copyArrival x0) := by intro x0 _ _ _ _ h; cases h
theorem copyError : ∀ x0, Statement (.copyError x0) := by intro x0 _ _ _ _ h; cases h
theorem wloadComplete : ∀ x0, Statement (.wloadComplete x0) := by intro x0 _ _ _ _ h; cases h
theorem matrixQueueFree : ∀ x0, Statement (.matrixQueueFree x0) := by intro x0 _ _ _ _ h; cases h
theorem matrixEntryPerform : ∀ x0, Statement (.matrixEntryPerform x0) := by intro x0 _ _ _ _ h; cases h
theorem mmaRoundExecute : ∀ x0, Statement (.mmaRoundExecute x0) := by intro x0 _ _ _ _ h; cases h
theorem slotBoundary : ∀ x0, Statement (.slotBoundary x0) := by intro x0 _ _ _ _ h; cases h
theorem fabricPortFree : ∀ x0, Statement (.fabricPortFree x0) := by intro x0 _ _ _ _ h; cases h
theorem putGetComplete : ∀ x0, Statement (.putGetComplete x0) := by intro x0 _ _ _ _ h; cases h
theorem windowRequestArrival : ∀ x0, Statement (.windowRequestArrival x0) := by intro x0 _ _ _ _ h; cases h
theorem deferredResultLand : ∀ x0, Statement (.deferredResultLand x0) := by intro x0 _ _ _ _ h; cases h
theorem sfuEnter : ∀ x0, Statement (.sfuEnter x0) := by intro x0 _ _ _ _ h; cases h
theorem registerUnitRelease : ∀ x0, Statement (.registerUnitRelease x0) := by intro x0 _ _ _ _ h; cases h
theorem storeQueueLeave : ∀ x0, Statement (.storeQueueLeave x0) := by intro x0 _ _ _ _ h; cases h
theorem faultQueueFree : ∀ x0, Statement (.faultQueueFree x0) := by intro x0 _ _ _ _ h; cases h
theorem gutterOverflowRelease : ∀ x0, Statement (.gutterOverflowRelease x0) := by intro x0 _ _ _ _ h; cases h
theorem gutterReplay : ∀ x0, Statement (.gutterReplay x0) := by intro x0 _ _ _ _ h; cases h
theorem grainRefusal : ∀ x0, Statement (.grainRefusal x0) := by intro x0 _ _ _ _ h; cases h
theorem homeRead : ∀ x0, Statement (.homeRead x0) := by intro x0 _ _ _ _ h; cases h
theorem homePartialStore : ∀ x0, Statement (.homePartialStore x0) := by intro x0 _ _ _ _ h; cases h
theorem homeFullGrainWrite : ∀ x0, Statement (.homeFullGrainWrite x0) := by intro x0 _ _ _ _ h; cases h
theorem homeAtomic : ∀ x0, Statement (.homeAtomic x0) := by intro x0 _ _ _ _ h; cases h
theorem fCopyEviction : ∀ x0, Statement (.fCopyEviction x0) := by intro x0 _ _ _ _ h; cases h
theorem mGrainEviction : ∀ x0, Statement (.mGrainEviction x0) := by intro x0 _ _ _ _ h; cases h
theorem grainLostMark : ∀ x0, Statement (.grainLostMark x0) := by intro x0 _ _ _ _ h; cases h
theorem invalidationDeliveryFailure : ∀ x0, Statement (.invalidationDeliveryFailure x0) := by
  intro x0 _ _ _ _ h; cases h
theorem declarationTimeout : ∀ x0, Statement (.declarationTimeout x0) := by intro x0 _ _ _ _ h; cases h
theorem waitaTimeout : ∀ x0, Statement (.waitaTimeout x0) := by intro x0 _ _ _ _ h; cases h
theorem sleepWake : ∀ x0, Statement (.sleepWake x0) := by intro x0 _ _ _ _ h; cases h
theorem hangExpiry : ∀ x0, Statement (.hangExpiry x0) := by intro x0 _ _ _ _ h; cases h
theorem faultDeadline : ∀ x0, Statement (.faultDeadline x0) := by intro x0 _ _ _ _ h; cases h
theorem recordArrival : ∀ x0, Statement (.recordArrival x0) := by intro x0 _ _ _ _ h; cases h
theorem binTimerExpiry : ∀ x0, Statement (.binTimerExpiry x0) := by intro x0 _ _ _ _ h; cases h
theorem drainCut : ∀ x0, Statement (.drainCut x0) := by intro x0 _ _ _ _ h; cases h
theorem sheafLaunch : ∀ x0, Statement (.sheafLaunch x0) := by intro x0 _ _ _ _ h; cases h
theorem postWaitServe : ∀ x0, Statement (.postWaitServe x0) := by intro x0 _ _ _ _ h; cases h
theorem postWaitStall : ∀ x0, Statement (.postWaitStall x0) := by intro x0 _ _ _ _ h; cases h
theorem instanceStallDrain : ∀ x0, Statement (.instanceStallDrain x0) := by intro x0 _ _ _ _ h; cases h
theorem instanceComplete : ∀ x0, Statement (.instanceComplete x0) := by intro x0 _ _ _ _ h; cases h
theorem preemptSave : ∀ x0, Statement (.preemptSave x0) := by intro x0 _ _ _ _ h; cases h
theorem teamResume : ∀ x0, Statement (.teamResume x0) := by intro x0 _ _ _ _ h; cases h
theorem hostsharedToAccelDone : ∀ x0, Statement (.hostsharedToAccelDone x0) := by intro x0 _ _ _ _ h; cases h
theorem hostSnoop : ∀ x0, Statement (.hostSnoop x0) := by intro x0 _ _ _ _ h; cases h
theorem swaitReturn : ∀ x0, Statement (.swaitReturn x0) := by intro x0 _ _ _ _ h; cases h
theorem transferDone : ∀ x0, Statement (.transferDone x0) := by intro x0 _ _ _ _ h; cases h
theorem transferTimeout : ∀ x0, Statement (.transferTimeout x0) := by intro x0 _ _ _ _ h; cases h
theorem transferServe : ∀ x0, Statement (.transferServe x0) := by intro x0 _ _ _ _ h; cases h
theorem lodeLookup : ∀ x0, Statement (.lodeLookup x0) := by intro x0 _ _ _ _ h; cases h
theorem lodeCas : ∀ x0, Statement (.lodeCas x0) := by intro x0 _ _ _ _ h; cases h
theorem lodeAddhold : ∀ x0, Statement (.lodeAddhold x0) := by intro x0 _ _ _ _ h; cases h
theorem lodeDrophold : ∀ x0, Statement (.lodeDrophold x0) := by intro x0 _ _ _ _ h; cases h
theorem lodeInsert : ∀ x0, Statement (.lodeInsert x0) := by intro x0 _ _ _ _ h; cases h
theorem lodeInval : ∀ x0, Statement (.lodeInval x0) := by intro x0 _ _ _ _ h; cases h
theorem lodeAck : ∀ x0, Statement (.lodeAck x0) := by intro x0 _ _ _ _ h; cases h
theorem lodeRdreq : ∀ x0, Statement (.lodeRdreq x0) := by intro x0 _ _ _ _ h; cases h
theorem invalRingArrival : ∀ x0, Statement (.invalRingArrival x0) := by intro x0 _ _ _ _ h; cases h
theorem qpktNop : ∀ x0, Statement (.qpktNop x0) := by intro x0 _ _ _ _ h; cases h
theorem qpktStart : ∀ x0, Statement (.qpktStart x0) := by intro x0 _ _ _ _ h; cases h
theorem qpktWait : ∀ x0, Statement (.qpktWait x0) := by intro x0 _ _ _ _ h; cases h
theorem qpktSignal : ∀ x0, Statement (.qpktSignal x0) := by intro x0 _ _ _ _ h; cases h
theorem qpktFence : ∀ x0, Statement (.qpktFence x0) := by intro x0 _ _ _ _ h; cases h
theorem qpktBarrier : ∀ x0, Statement (.qpktBarrier x0) := by intro x0 _ _ _ _ h; cases h
theorem qpktTimestamp : ∀ x0, Statement (.qpktTimestamp x0) := by intro x0 _ _ _ _ h; cases h
theorem signalReevaluate : ∀ x0, Statement (.signalReevaluate x0) := by intro x0 _ _ _ _ h; cases h
theorem signalPollTimer : ∀ x0, Statement (.signalPollTimer x0) := by intro x0 _ _ _ _ h; cases h
theorem notifyWrite : ∀ x0, Statement (.notifyWrite x0) := by intro x0 _ _ _ _ h; cases h
theorem fqhArmWrite : ∀ x0, Statement (.fqhArmWrite x0) := by intro x0 _ _ _ _ h; cases h
theorem fqhPopRead : Statement (.fqhPopRead) := by intro _ _ _ _ h; cases h
theorem fqhDoneLowWrite : ∀ x0, Statement (.fqhDoneLowWrite x0) := by intro x0 _ _ _ _ h; cases h
theorem fqhRefuse : ∀ x0, Statement (.fqhRefuse x0) := by intro x0 _ _ _ _ h; cases h
theorem fqhReturn : ∀ x0, Statement (.fqhReturn x0) := by intro x0 _ _ _ _ h; cases h
theorem trnModeWrite : ∀ x0, Statement (.trnModeWrite x0) := by intro x0 _ _ _ _ h; cases h
theorem trnInvPages : ∀ x0, Statement (.trnInvPages x0) := by intro x0 _ _ _ _ h; cases h
theorem trnInvPasidPages : ∀ x0, Statement (.trnInvPasidPages x0) := by intro x0 _ _ _ _ h; cases h
theorem trnInvPasidAll : ∀ x0, Statement (.trnInvPasidAll x0) := by intro x0 _ _ _ _ h; cases h
theorem trnInvAll : ∀ x0, Statement (.trnInvAll x0) := by intro x0 _ _ _ _ h; cases h
theorem invalidationComplete : ∀ x0, Statement (.invalidationComplete x0) := by intro x0 _ _ _ _ h; cases h
theorem teardownStart : ∀ x0, Statement (.teardownStart x0) := by intro x0 _ _ _ _ h; cases h
theorem teardownDrained : ∀ x0, Statement (.teardownDrained x0) := by intro x0 _ _ _ _ h; cases h
theorem sltEntryWrite : ∀ x0, Statement (.sltEntryWrite x0) := by intro x0 _ _ _ _ h; cases h
theorem windowEntryWrite : ∀ x0, Statement (.windowEntryWrite x0) := by intro x0 _ _ _ _ h; cases h
theorem vifCfgWrite : ∀ x0, Statement (.vifCfgWrite x0) := by intro x0 _ _ _ _ h; cases h
theorem hfrHoldWrite : ∀ x0, Statement (.hfrHoldWrite x0) := by intro x0 _ _ _ _ h; cases h
theorem hfrXackWrite : ∀ x0, Statement (.hfrXackWrite x0) := by intro x0 _ _ _ _ h; cases h
theorem hfrIrtailWrite : ∀ x0, Statement (.hfrIrtailWrite x0) := by intro x0 _ _ _ _ h; cases h
theorem registerWrite : ∀ x0, Statement (.registerWrite x0) := by intro x0 _ _ _ _ h; cases h
theorem planeDown : ∀ x0, Statement (.planeDown x0) := by intro x0 _ _ _ _ h; cases h
theorem uePathDown : ∀ x0, Statement (.uePathDown x0) := by intro x0 _ _ _ _ h; cases h
theorem nodeSilentTimeout : ∀ x0, Statement (.nodeSilentTimeout x0) := by intro x0 _ _ _ _ h; cases h
theorem declarationConfirm : ∀ x0, Statement (.declarationConfirm x0) := by intro x0 _ _ _ _ h; cases h
theorem hostReset : Statement (.hostReset) := by intro _ _ _ _ h; cases h
theorem boot : ∀ x0, Statement (.boot x0) := by intro x0 _ _ _ _ h; cases h
theorem spdmMeasurementRequest : ∀ x0, Statement (.spdmMeasurementRequest x0) := by intro x0 _ _ _ _ h; cases h
theorem spdmCounterRead : ∀ x0, Statement (.spdmCounterRead x0) := by intro x0 _ _ _ _ h; cases h
theorem serviceCoreFence : ∀ x0, Statement (.serviceCoreFence x0) := by intro x0 _ _ _ _ h; cases h
theorem serviceCoreAmo : ∀ x0, Statement (.serviceCoreAmo x0) := by intro x0 _ _ _ _ h; cases h
theorem xkrovCsrWrite : ∀ x0, Statement (.xkrovCsrWrite x0) := by intro x0 _ _ _ _ h; cases h
theorem nodeRejoin : ∀ x0, Statement (.nodeRejoin x0) := by intro x0 _ _ _ _ h; cases h
theorem hostsharedAccelHoldExpiry : ∀ x0, Statement (.hostsharedAccelHoldExpiry x0) := by intro x0 _ _ _ _ h; cases h
theorem hostsharedTransferDeadline : ∀ x0, Statement (.hostsharedTransferDeadline x0) := by
  intro x0 _ _ _ _ h; cases h
theorem nodeqAnswer : ∀ x0, Statement (.nodeqAnswer x0) := by intro x0 _ _ _ _ h; cases h
theorem wcrdAnswer : ∀ x0, Statement (.wcrdAnswer x0) := by intro x0 _ _ _ _ h; cases h
theorem discardComplete : ∀ x0, Statement (.discardComplete x0) := by intro x0 _ _ _ _ h; cases h
theorem unsubComplete : ∀ x0, Statement (.unsubComplete x0) := by intro x0 _ _ _ _ h; cases h

end Sys2Proof.Laws.HeadWord
end

