-- ==== Sys2Proof/Laws/Shapes.lean ====
section
/-! SUPPORT. One lemma per shared shape of lane and uniform instructions: it answers a next state, and which. -/

namespace Sys2Proof.Machine

/-! ### Lane shapes -/

theorem lrOp3_did {s : State} {c : Ctx} {old : Bool} {x : LR} (h : Issues s c (LR.names x old) false)
    (f : Word → Word → Word → Word) : ∃ t, lrOp3 old x s f = .next t ∧ Did c x.s 4
      { lane := oneReg x.d fun L => f (c.g.readLane L x.a.toNat) (c.g.src L x.b) (c.g.readLane L x.d.toNat) } t :=
  issue_did h (e := { lane := oneReg x.d fun L => f (c.g.readLane L x.a.toNat) (c.g.src L x.b) (c.g.readLane L x.d.toNat) })
    rfl (changes_lane h.lt _ _)
theorem lrOp_did {s : State} {c : Ctx} {x : LR} (h : Issues s c (LR.names x false) false) (f : Word → Word → Word) :
    ∃ t, lrOp x s f = .next t ∧ Did c x.s 4
      { lane := oneReg x.d fun L => f (c.g.readLane L x.a.toNat) (c.g.src L x.b) } t :=
  lrOp3_did h fun a b _ => f a b
theorem lrFlagOp_did {s : State} {c : Ctx} {old : Bool} {x : LR} (h : Issues s c (LR.names x old) false)
    (f : Word → Word → Word → Word × FFlags) : ∃ t, lrFlagOp old x s f = .next t ∧ Did c x.s 4
      { lane := oneReg x.d fun L => (f (c.g.readLane L x.a.toNat) (c.g.src L x.b) (c.g.readLane L x.d.toNat)).1
        flags := fun o => o ||| orFlags (c.I.map fun L =>
          (f (c.g.readLane L x.a.toNat) (c.g.src L x.b) (c.g.readLane L x.d.toNat)).2) } t := by
  refine issue_did h (F := fun g => (c.I.foldl (fun g L => g.writeLane L x.d.toNat
    (f (c.g.readLane L x.a.toNat) (c.g.src L x.b) (c.g.readLane L x.d.toNat)).1) g).raise (orFlags (c.I.map fun L =>
      (f (c.g.readLane L x.a.toNat) (c.g.src L x.b) (c.g.readLane L x.d.toNat)).2))) ?_ ((changes_lane h.lt _ _).raise _)
  exact congrArg Res.ok (State.adjGroup_comp _ _ _ _)
theorem luOp_did {s : State} {c : Ctx} {x : LU} (h : Issues s c (LU.names x) false) (f : Word → Word) :
    ∃ t, luOp x s f = .next t ∧ Did c x.s 4 { lane := oneReg x.d fun L => f (c.g.readLane L x.a.toNat) } t :=
  issue_did h (e := { lane := oneReg x.d fun L => f (c.g.readLane L x.a.toNat) }) rfl (changes_lane h.lt _ _)
theorem lrPairOp_did {s : State} {c : Ctx} {x : LR}
    (h : Issues s c (Names.add (writesV (runOf x.d.toNat 2)) (Names.add (readsV (runOf x.a.toNat 2)) (Src.pairNames x.b))) false)
    (f : DWord → DWord → DWord) : ∃ t, lrPairOp x s f = .next t ∧ Did c x.s 4
      { lane := pairReg x.d fun L => f (c.g.lanePair L x.a.toNat) (c.g.srcPair L x.b) } t :=
  issue_did h (e := { lane := pairReg x.d fun L => f (c.g.lanePair L x.a.toNat) (c.g.srcPair L x.b) }) rfl
    (changes_pair h.lt _ _)
theorem lrShift64_did {s : State} {c : Ctx} {x : LR}
    (h : Issues s c (Names.add (writesV (runOf x.d.toNat 2)) (Names.add (readsV (runOf x.a.toNat 2)) (Src.names x.b))) false)
    (f : DWord → Nat → DWord) : ∃ t, lrShift64 x s f = .next t ∧ Did c x.s 4
      { lane := pairReg x.d fun L => f (c.g.lanePair L x.a.toNat) (shAmt64 (c.g.src L x.b)) } t :=
  issue_did h (e := { lane := pairReg x.d fun L => f (c.g.lanePair L x.a.toNat) (shAmt64 (c.g.src L x.b)) }) rfl
    (changes_pair h.lt _ _)
theorem limmOp_did {s : State} {c : Ctx} {d a : BitVec 7}
    (h : Issues s c (Names.add (writesV [d.toNat]) (readsV [a.toNat])) false) (settle : Bool) (f : Word → Word) :
    ∃ t, limmOp settle d a s f = .next t ∧ Did c settle 4 { lane := oneReg d fun L => f (c.g.readLane L a.toNat) } t :=
  issue_did h (e := { lane := oneReg d fun L => f (c.g.readLane L a.toNat) }) rfl (changes_lane h.lt _ _)
theorem lconst_did {s : State} {c : Ctx} {d : BitVec 7} (h : Issues s c (writesV [d.toNat]) false) (settle : Bool)
    (len : Nat) (f : Ctx → Nat → Word) :
    ∃ t, lconst settle len d s f = .next t ∧ Did c settle len { lane := oneReg d fun L => f c.free L } t :=
  issue_did h (e := { lane := oneReg d fun L => f c.free L }) rfl (changes_lane h.lt _ _)

/-! ### Uniform shapes -/

theorem urOp3_did {s : State} {c : Ctx} {old : Bool} {x : UR} (h : Issues s c (UR.names x old) false)
    (f : Word → Word → Word → Word) : ∃ t, urOp3 old x s f = .next t ∧ Did c x.s 4
      { uni := oneUni x.d (f (c.g.readUni x.a.toNat) (c.g.readUni x.b.toNat) (c.g.readUni x.d.toNat)) } t :=
  issue_did h (e := { uni := oneUni x.d (f (c.g.readUni x.a.toNat) (c.g.readUni x.b.toNat) (c.g.readUni x.d.toNat)) })
    rfl (changes_uni c _ _)
theorem urOp_did {s : State} {c : Ctx} {x : UR} (h : Issues s c (UR.names x false) false) (f : Word → Word → Word) :
    ∃ t, urOp x s f = .next t ∧ Did c x.s 4 { uni := oneUni x.d (f (c.g.readUni x.a.toNat) (c.g.readUni x.b.toNat)) } t :=
  urOp3_did h fun a b _ => f a b
theorem uuOp_did {s : State} {c : Ctx} {x : UU} (h : Issues s c (Names.add (writesU [x.d.toNat]) (readsU [x.a.toNat])) false)
    (f : Word → Word) : ∃ t, uuOp x s f = .next t ∧ Did c x.s 4 { uni := oneUni x.d (f (c.g.readUni x.a.toNat)) } t :=
  issue_did h (e := { uni := oneUni x.d (f (c.g.readUni x.a.toNat)) }) rfl (changes_uni c _ _)
theorem urPairOp_did {s : State} {c : Ctx} {x : UR}
    (h : Issues s c (Names.add (writesU (runOf x.d.toNat 2)) (readsU (runOf x.a.toNat 2 ++ runOf x.b.toNat 2))) false)
    (f : DWord → DWord → DWord) : ∃ t, urPairOp x s f = .next t ∧ Did c x.s 4
      { uni := pairUni x.d (f (c.g.uniPair x.a.toNat) (c.g.uniPair x.b.toNat)) } t :=
  issue_did h (e := { uni := pairUni x.d (f (c.g.uniPair x.a.toNat) (c.g.uniPair x.b.toNat)) }) rfl (changes_uniPair c _ _)
theorem urShift64_did {s : State} {c : Ctx} {x : UR}
    (h : Issues s c (Names.add (writesU (runOf x.d.toNat 2)) (readsU (x.b.toNat :: runOf x.a.toNat 2))) false)
    (f : DWord → Nat → DWord) : ∃ t, urShift64 x s f = .next t ∧ Did c x.s 4
      { uni := pairUni x.d (f (c.g.uniPair x.a.toNat) (shAmt64 (c.g.readUni x.b.toNat))) } t :=
  issue_did h (e := { uni := pairUni x.d (f (c.g.uniPair x.a.toNat) (shAmt64 (c.g.readUni x.b.toNat))) }) rfl
    (changes_uniPair c _ _)
theorem uimmOp_did {s : State} {c : Ctx} {d a : BitVec 6}
    (h : Issues s c (Names.add (writesU [d.toNat]) (readsU [a.toNat])) false) (settle : Bool) (f : Word → Word) :
    ∃ t, uimmOp settle d a s f = .next t ∧ Did c settle 4 { uni := oneUni d (f (c.g.readUni a.toNat)) } t :=
  issue_did h (e := { uni := oneUni d (f (c.g.readUni a.toNat)) }) rfl (changes_uni c _ _)
theorem uconst_did {s : State} {c : Ctx} {d : BitVec 6} (h : Issues s c (writesU [d.toNat]) false) (settle : Bool)
    (len : Nat) (v : Word) : ∃ t, uconst settle len d v s = .next t ∧ Did c settle len { uni := oneUni d v } t :=
  issue_did h (e := { uni := oneUni d v }) rfl (changes_uni c _ _)

/-! ### Transfers -/

/-- An instruction that passes the checks and whose body sets every PC. -/
theorem issue_moved {s : State} {c : Ctx} {n : Names} {p : Bool} (hi : Issues s c n p) {len : Nat} {settle : Bool}
    {body : Ctx → Res} {base : State} {e : Effect} {F : Group → Group} (pc : Nat → DWord)
    (hb : body c.free = .moved (setPcs
      { base with teams := (c.free.s.adjGroup c.r F).teams, fresh := base.fresh + e.later.length } c.r
      (c.I.map fun L => (L, pc L))))
    (hF : Changes c e (F c.g.free)) :
    ∃ t, issue s n len settle p body = .next t ∧ DidIn base c settle pc e t := by
  refine ⟨_, ?_, didIn_of hi settle pc rfl hF⟩
  rw [issue_eq hi, hb]
  rfl
/-- An instruction that passes the checks and whose body traps. -/
theorem issue_trapped {s : State} {c : Ctx} {n : Names} {p : Bool} (hi : Issues s c n p) {len : Nat} {settle : Bool}
    {body : Ctx → Res} {cause : Cause} {addr : DWord} {info : Word} (hb : body c.free = .trap (c.free.mkTrap cause addr info)) :
    issue s n len settle p body = .next (c.trapped cause addr info) := by
  rw [issue_eq hi, hb]
  rfl

theorem low2_eq {x : DWord} : x.extractLsb' 0 2 = 0 ↔ x.toNat % 4 = 0 := by
  rw [← BitVec.toNat_inj]
  simp
theorem target_aligned {pc : DWord} (h : pc.toNat % 4 = 0) (off : BitVec 16) : (branchTarget (pc + 4) off).extractLsb' 0 2 = 0 := by
  rw [low2_eq]
  unfold branchTarget
  have h4 : (4 : DWord).toNat = 4 := rfl
  simp only [BitVec.toNat_add, BitVec.toNat_shiftLeft, Nat.shiftLeft_eq, h4]
  omega
theorem next_aligned {pc : DWord} (h : pc.toNat % 4 = 0) : (pc + 4).extractLsb' 0 2 = 0 := by
  rw [low2_eq]
  have h4 : (4 : DWord).toNat = 4 := rfl
  simp only [BitVec.toNat_add, h4]
  omega
theorem branchTarget_eq (n : DWord) (off : BitVec 16) : branchTarget n off = target n off := by
  unfold branchTarget target
  congr 1
  have h4 : BitVec.ofInt 64 4 = BitVec.twoPow 64 2 := rfl
  rw [BitVec.ofInt_mul, h4, BitVec.shiftLeft_eq_mul_twoPow, BitVec.mul_comm]
  rfl
/-- What a transfer does to the group besides its lanes' PCs: it is not ready in the next cycle (R140). -/
theorem Changes.notNext {c : Ctx} {e : Effect} {h : Group} (H : Changes c e h) (n : Nat) :
    Changes c { e with readyAt := some n } { h with readyAt := n } where
  count := H.count
  regs := H.regs
  unis := H.unis
  rngs := H.rngs
  lanes := H.lanes
  rest := by
    have := H.rest
    rw [this]
    rfl
theorem holdNext_setPcs (c : Ctx) (u : State) (r : GRef) (hr : c.r = r) (l : List (Nat × DWord)) :
    holdNext c (setPcs u r l) = setPcs (holdNext c u) r l := by
  subst hr
  induction l generalizing u with
  | nil => rfl
  | cons x l ih =>
    simp only [setPcs, List.foldl_cons] at ih ⊢
    rw [ih]
    congr 1
    simp only [holdNext, State.adjLane, State.adjGroup_comp]
    rfl
theorem transfer_ok {c : Ctx} {lane : Bool} {tgt : Nat → DWord} {u : State} (h : ∀ L ∈ c.I, (tgt L).extractLsb' 0 2 = 0) :
    transfer c.free lane tgt u = .moved (setPcs (holdNext c.free u) c.r (c.I.map fun L => (L, tgt L))) := by
  unfold transfer
  have : c.free.I.find? (fun L => decide ((tgt L).extractLsb' 0 2 ≠ 0)) = none := by
    rw [List.find?_eq_none]
    intro L hL
    simp [h L hL]
  rw [this]
  exact congrArg Res.moved (holdNext_setPcs c.free u c.r rfl _)
theorem transfer_did {s : State} {c : Ctx} {n : Names} {p : Bool} (hi : Issues s c n p) {len : Nat} {settle lane : Bool}
    {body : Ctx → Res} {e : Effect} {F : Group → Group} (pc : Nat → DWord)
    (hb : body c.free = transfer c.free lane pc (c.free.s.adjGroup c.r F)) (hl : e.later = [])
    (ha : ∀ L ∈ c.I, (pc L).extractLsb' 0 2 = 0)
    (hF : Changes c e (F c.g.free)) :
    ∃ t, issue s n len settle p body = .next t ∧ DidAt c settle pc { e with readyAt := some (c.s.clock + 2) } t := by
  refine issue_moved hi pc (F := fun g => { F g with readyAt := c.s.clock + 2 }) ?_ (hF.notNext _)
  have hr := State.adjGroup_comp c.free.s c.r F fun g => { g with readyAt := c.s.clock + 2 }
  rw [hb, transfer_ok ha]
  refine (congrArg (fun u => Res.moved (setPcs u c.r (c.I.map fun L => (L, pc L)))) hr).trans ?_
  simp only [hl]
  rfl


end Sys2Proof.Machine
end

