-- ==== Sys2Proof/Tests/Slice0.lean ====
section
/-! SUPPORT. Tests: an ill-formed term for each check, words the spec prints and what they decode to, single steps whose
results the spec's examples give, and for every statement a concrete state that meets its hypotheses. -/

open Sys2Proof Sys2Proof.Machine

namespace Sys2Proof.Tests

/-! ### Ill-formed instructions -/

/-- R46: the all-zero word stands for no instruction. -/
theorem test_wf_zero_word : Instr.wf (.add ⟨false, 0, 0, .lane 0⟩) = false := by decide
/-- R99, R106: an odd register in a pair. -/
theorem test_wf_pairs : ∀ i ∈ [Instr.add64 ⟨false, 3, 2, .lane 4⟩, .add64 ⟨false, 4, 3, .lane 4⟩, .add64 ⟨false, 4, 2, .uni 9⟩,
    .sub64 ⟨false, 4, 2, .lane 5⟩, .shl64 ⟨false, 5, 2, .lane 5⟩, .shr64 ⟨false, 4, 1, .lane 5⟩, .salu64Add64 ⟨false, 1, 2, 4⟩,
    .salu64Sub64 ⟨false, 2, 2, 5⟩, .salu64Shl64 ⟨false, 2, 3, 5⟩, .salu64Shr64 ⟨false, 3, 2, 5⟩], i.wf = false := by decide
/-- R38, R39, R147, R159: a special register that is not there, and SETTILE past 4. -/
theorem test_wf_specials : ∀ i ∈ [Instr.lsrd ⟨false, 1, 5⟩, .srd ⟨false, 1, 0x046⟩, .srd ⟨false, 3, 0x012⟩, .swr ⟨false, 1, 0x01D⟩,
    .settile ⟨false, 5⟩], i.wf = false := by decide
/-- R67, R123, R127, R129: formats CVT does not take, a run that is not aligned, and a fused sequence of three
registers. -/
theorem test_wf_formats : ∀ i ∈ [Instr.cvt ⟨false, 1, 2, .mxe4m3, .fp32, .rne, false⟩, .cvt ⟨false, 1, 2, .fp32, .qa4, .rne, false⟩,
    .pcvt ⟨false, 8, 2, .e4m3, .fp32, .rne, false⟩, .pcvt ⟨false, 1, 4, .fp32, .e4m3, .rne, false⟩,
    .fusedExpSum ⟨false, 10, 11, 12, 10⟩], i.wf = false := by decide
/-- R34, R42, R150, R155, R157: jump pairs, votes, runs and bases. -/
theorem test_wf_lane_forms : ∀ i ∈ [Instr.jmpl ⟨false, 3⟩, .retl ⟨false, 3⟩, .calll ⟨false, 3, 2⟩, .calll ⟨false, 2, 3⟩,
    .ballot ⟨false, 3, 2⟩, .reduce ⟨false, 3, 2, .iadd64⟩, .scan ⟨false, 2, 3, .iadd64, true⟩, .ldt ⟨false, 3, 1, 0, .b64, false⟩,
    .ldt ⟨false, 3, 1, 0, .b32, true⟩, .stt ⟨false, 6, 1, 0, .b128⟩, .cltLoad ⟨false, 2, 1, .uni 0, .b128, false, true, 0⟩,
    .cltStore ⟨false, 3, 1, .uni 0, .b64, false, 0⟩, .ld ⟨false, 3, 1, 0, .b32, false⟩, .ld ⟨false, 3, 1, 7, .b32, false⟩,
    .st ⟨false, 3, 1, 0, .b32⟩, .ldo ⟨false, 3, 2, 3, true, .b64, 0⟩, .sto ⟨false, 2, 2, 3, true, .b32, 5⟩,
    .stog ⟨false, 2, 2, 3, true, .b128, 0⟩], i.wf = false := by decide
/-- R171, R198, R202: an operation at a width it has not, a compare register without CAS, a destination without a
return. -/
theorem test_wf_atomics : ∀ i ∈ [Instr.att ⟨false, true, 2, 1, 4, .inc, true, 0, 0⟩, .att ⟨false, true, 2, 1, 4, .add, false, 6, 0⟩,
    .att ⟨false, false, 2, 1, 4, .add, false, 0, 0⟩, .att ⟨false, true, 3, 1, 4, .add, true, 0, 0⟩,
    .atom ⟨false, true, 2, 1, 4, .add, 3, .rlx, false, 0, 0⟩, .atom ⟨false, true, 2, 2, 5, .add, 3, .rlx, true, 0, 0⟩,
    .atom ⟨false, true, 2, 2, 4, .fadd, 3, .rlx, true, 0, 0⟩, .atom ⟨false, false, 2, 2, 4, .add, 3, .rlx, false, 0, 0⟩,
    .red ⟨false, 2, 4, .xchg, 3, false, false, 0⟩, .red ⟨false, 2, 4, .cas, 3, false, false, 0⟩,
    .red ⟨false, 1, 4, .add, 3, false, false, 0⟩, .red ⟨false, 2, 5, .add, 3, false, true, 0⟩,
    .waita ⟨false, 3, 2, 4, .eq, 3, 0⟩, .waita ⟨false, 2, 3, 4, .eq, 3, 0⟩, .wakea ⟨false, 3, 4, 3, 0⟩], i.wf = false := by decide
/-- R272, R277, R281, R297: formats, runs and pairs of the matrix and posting instructions. -/
theorem test_wf_matrix : ∀ i ∈ [Instr.mma ⟨false, 0, 8, 0, false, false, .int32, 0⟩, .mma ⟨false, 0, 4, 0, false, false, .int8, 0⟩,
    .mma ⟨false, 0, 8, 1, false, false, .int8, 0⟩, .mma ⟨false, 0, 8, 0, false, false, .mxe4m3, 0⟩,
    .mma ⟨false, 0, 8, 3, false, false, .mxe2m1, 0⟩, .zrd ⟨false, 3, 0, .uni 0⟩, .zwr ⟨false, 3, 0, .uni 0⟩,
    .wload ⟨false, 1, 0, 0, .int32, 0⟩, .wload ⟨false, 1, 2, 0, .int8, 0⟩, .wload ⟨false, 1, 0, 0, .qa4, 0⟩,
    .wload ⟨false, 1, 0, 0, .int8, 1⟩, .wload ⟨false, 1, 2, 0, .qa4, 3⟩, .wload ⟨false, 1, 0, 3, .fp16, 0⟩,
    .post ⟨false, 1, 2, 3, 0, 0⟩, .postTry ⟨false, 1, 2, 3, 0, 0⟩, .postWait ⟨false, 1, 2, 3, 0, 0⟩], i.wf = false := by decide
/-- R42, R151, R152, R206, R256, R261, R362, R410: pairs and fields of the uniform set. -/
theorem test_wf_uniform_forms : ∀ i ∈ [Instr.bra ⟨false, 0, 1, 4⟩, .call ⟨false, 0, 1, 4⟩, .jmpr ⟨false, 3⟩, .lduW ⟨false, 1, 3, 0⟩,
    .lduD ⟨false, 1, 2, 0⟩, .lduD ⟨false, 2, 3, 0⟩, .stuW ⟨false, 1, 3, 0⟩, .discard ⟨false, 3, 1⟩, .pref ⟨false, 3, 1⟩,
    .claim ⟨false, 3, 1⟩, .shareSub ⟨false, 1, 3, 2⟩, .copy ⟨false, 1, 3, 2, .g2t, 0, 0⟩, .copy ⟨false, 1, 2, 2, .g2t, 0, 3⟩,
    .copy ⟨false, 1, 2, 59, .g2t, 0, 0⟩, .cbAcq ⟨false, 3, 1⟩, .cbWait ⟨false, 3, 1⟩, .put ⟨false, 0, 2, 4, false⟩,
    .put ⟨false, 1, 3, 4, false⟩, .get ⟨false, 1, 2, 5, false⟩, .get ⟨false, 1, 2, 4, true⟩, .grprd ⟨false, 3, 1, 2⟩,
    .grpwr ⟨false, 3, 1, 2⟩, .grplist ⟨false, 3⟩], i.wf = false := by decide
/-- R373: LR with a nonzero rs2. -/
theorem test_wf_lr : Instr.wf (.serviceCoreAmo ⟨.lr, true, false, false, 1, 2, 3⟩) = false := by decide

/-! ### Words the spec prints, family by family -/

/-- The words decode to the instruction. -/
def reads (l : List (List Word × Instr)) : Bool :=
  l.all fun p => decide (decodeWords p.1 = .ok (p.2, p.1.length))

/-- The example tables of sections 02, 04 and 17 to 20: integer, immediate and move words. -/
theorem test_decode_integer : reads [([0x0204042C], .mul ⟨false, 2, 1, .uni 5⟩), ([0x09080844], .add64 ⟨false, 4, 2, .uni 8⟩),
    ([0x060E1835], .bfes ⟨false, 7, 6, .uni 6⟩), ([0x001E3C70], .add ⟨false, 15, 15, .lane 14⟩), ([0x03204035], .or ⟨false, 16, 16, .uni 6⟩),
    ([0x07040427], .sltu ⟨false, 2, 1, .uni 4⟩), ([0x07060413], .sltu ⟨false, 3, 1, .lane 2⟩), ([0x0B040402], .shli ⟨false, 2, 1, 2⟩),
    ([0x0B040502], .shri ⟨false, 2, 1, 2⟩), ([0x0A060FFF], .addi ⟨false, 3, 3, -1⟩), ([0x0C0E1810], .andi ⟨false, 7, 6, 16⟩),
    ([0x0D0C00B7], .movi ⟨false, 6, 0xB7⟩), ([0x0E020000, 0x01010101], .movw ⟨false, 1, 0x01010101⟩),
    ([0x0F020000], .lsrd ⟨false, 1, 0⟩)] = true := by decide +kernel
/-- Sections 04, 14, 17 and 20: uniform words. -/
theorem test_decode_uniform : reads [([0x80186140], .saluAdd ⟨false, 6, 6, 5⟩), ([0x80000000], .saluAdd ⟨false, 0, 0, 0⟩),
    ([0xC0000000], .saluAdd ⟨true, 0, 0, 0⟩), ([0x81D34D80], .salu64Add64 ⟨false, 52, 52, 54⟩), ([0x82186FFF], .saddi ⟨false, 6, 6, -1⟩),
    ([0x82C30FF5], .saddi ⟨false, 48, 48, -11⟩), ([0x86184001], .sshli ⟨false, 6, 4, 1⟩), ([0x871C6003], .sslti ⟨false, 7, 6, 3⟩),
    ([0x8814000C], .smovi ⟨false, 5, 12⟩), ([0x89200000, 0xFFFFFFF8], .smovw ⟨false, 8, 0xFFFFFFF8⟩),
    ([0x94080016], .srd ⟨false, 2, 0x016⟩), ([0x94CC0041], .srd ⟨false, 51, 0x041⟩)] = true := by decide +kernel
/-- Sections 02, 05, 18 and 20: floating point, special functions and dots. -/
theorem test_decode_float : reads [([0x12080C64], .ffma ⟨false, 4, 3, .uni 12⟩), ([0x10060C20], .fadd ⟨false, 3, 3, .lane 4⟩),
    ([0x11142858], .fmax ⟨false, 10, 10, .lane 11⟩), ([0x10182C51], .fsub ⟨false, 12, 11, .lane 10⟩), ([0x57183018], .exp2 ⟨true, 12, 12⟩),
    ([0x57305C00], .rcp ⟨true, 24, 23⟩), ([0x102850C2], .fmul ⟨false, 20, 20, .lane 24⟩)] = true := by decide +kernel
/-- Section 05: the four words of a fused exponent-sum sequence. -/
theorem test_decode_fused : decodeFused 0x11142858 0x10182C51 0x57183018 0x101A3460 = some (.fusedExpSum ⟨false, 10, 11, 12, 13⟩) ∧
    decodeFused 0x11204028 0x102A1481 0x572A5418 0x102C58A8 = some (.fusedExpSum ⟨false, 16, 5, 21, 22⟩) := by decide +kernel
/-- Section 05: the PCVT of the conversion example. -/
theorem test_decode_conversion : reads [([0x18100000, 0x18050000], .pcvt ⟨false, 8, 0, .e4m3, .fp32, .rne, true⟩)] = true := by
  decide +kernel
/-- Sections 06, 14, 17, 19 and 20: control flow, votes, exchanges, barriers. -/
theorem test_decode_control : reads [([0x20040003], .bnz ⟨false, 2, false, 3⟩), ([0x2006FFFE], .bnz ⟨false, 3, false, -2⟩),
    ([0x21040004], .bz ⟨false, 2, false, 4⟩), ([0x90000002], .bra ⟨false, 0, 0, 2⟩), ([0x9047001B], .bra ⟨false, 1, 7, 27⟩),
    ([0x9086FFFB], .bra ⟨false, 2, 6, -5⟩), ([0x93000000], .exit false), ([0x96000002], .settile ⟨false, 2⟩),
    ([0x97000802], .barSync ⟨false, 2⟩), ([0x23100800], .any ⟨false, 8, 2⟩), ([0x23100801], .all ⟨false, 8, 2⟩),
    ([0x23100802], .ballot ⟨false, 8, 2⟩), ([0x23100803], .uni ⟨false, 8, 2⟩), ([0x24100C3E], .shflDown ⟨false, 8, 3, .uni 7⟩),
    ([0x25100C00, 0], .reduce ⟨false, 8, 3, .iadd⟩), ([0x652E5800, 0x48000000], .reduce ⟨true, 23, 22, .fadd⟩),
    ([0x65204000, 0x58000000], .reduce ⟨true, 16, 16, .fmax⟩), ([0x26100C00, 0x04000000], .scan ⟨false, 8, 3, .iadd, true⟩)] = true := by
  decide +kernel
/-- Sections 07, 11, 18 and 20: team memory and clusters. -/
theorem test_decode_team_memory : reads [([0x29040404], .stt ⟨false, 2, 1, 0, .b32⟩), ([0x29060800], .stt ⟨false, 3, 2, 0, .b8⟩),
    ([0x293800C8], .stt ⟨false, 28, 0, 12, .b128⟩), ([0x680A0C54], .ldt ⟨true, 5, 3, 5, .b32, false⟩),
    ([0x28100A64], .ldt ⟨false, 8, 2, 38, .b32, false⟩), ([0x2B0A1019, 0x50000000], .cltStore ⟨false, 5, 4, .lane 3, .b32, true, 0⟩),
    ([0x6B0C2038, 0x48000000], .cltLoad ⟨true, 6, 8, .lane 7, .b32, false, true, 0⟩),
    ([0x6B122C50, 0x40000000], .cltLoad ⟨true, 9, 11, .lane 10, .b32, false, false, 0⟩)] = true := by decide +kernel
/-- Sections 02, 08, 12, 17 and 19: global memory. -/
theorem test_decode_global_memory : reads [([0x2C060884], .ld ⟨false, 3, 2, 8, .b32, false⟩), ([0x6C0808A4], .ld ⟨true, 4, 2, 10, .b32, false⟩),
    ([0x2D0808A4], .st ⟨false, 4, 2, 10, .b32⟩), ([0xD8302010], .lduW ⟨true, 12, 2, 16⟩), ([0x9F282008], .lduD ⟨false, 10, 2, 8⟩),
    ([0x2E223001, 0x72100000], .sto ⟨false, 17, 12, 3, true, .b32, 8⟩), ([0x2E0E1401, 0x92100000], .sto ⟨false, 7, 5, 4, true, .b32, 8⟩),
    ([0x6F080011, 0x03000400], .atom ⟨true, true, 4, 0, 2, .add, 3, .rlx, false, 0, 8⟩),
    ([0x30000028, 0x05000400], .red ⟨false, 0, 5, .add, 5, false, false, 8⟩),
    ([0x31080830, 0x0CA00000], .waita ⟨false, 4, 2, 6, .ne, 4, 10⟩), ([0x312048B0, 0x2DA00000], .waita ⟨false, 16, 18, 22, .geu, 5, 10⟩),
    ([0x31001801, 0x03000000], .wakea ⟨false, 6, 0, 3, 0⟩), ([0x31002861, 0x04000000], .wakea ⟨false, 10, 12, 4, 0⟩)] = true := by
  decide +kernel
/-- Sections 10, 11, 12, 14, 16 and 18: copies, arrival words, buffers, the matrix array, records, windows, the
handler. -/
theorem test_decode_units : reads [([0x9C508280, 0], .copy ⟨false, 20, 8, 10, .g2t, 0, 0⟩), ([0x9C9C8841, 0], .copy ⟨false, 39, 8, 33, .g2t, 1, 0⟩),
    ([0x9D014540], .expect ⟨false, 20, 21⟩), ([0x9D5D4582], .waitg ⟨false, 23, 20, 22⟩), ([0x9E00C000], .cbInit ⟨false, 12⟩),
    ([0x9E98C001], .cbAcq ⟨false, 38, 12⟩), ([0x9E00C3C2], .cbCommit ⟨false, 12, 15⟩), ([0x9E98C003], .cbWait ⟨false, 38, 12⟩),
    ([0x9E00C004], .cbRel ⟨false, 12⟩), ([0xA0000002, 0x70000000], .wload ⟨false, 0, 0, 2, .int8, 0⟩),
    ([0xA0000402, 0x90000000], .wload ⟨false, 0, 16, 2, .qa4, 0⟩), ([0xA1000003], .wact false), ([0xA1000004], .kset ⟨false, 0, 0⟩),
    ([0x38002000, 0x70000000], .mma ⟨false, 0, 8, 0, false, false, .int8, 0⟩),
    ([0x38002004, 0x70000000], .mma ⟨false, 0, 8, 0, true, false, .int8, 0⟩),
    ([0x38002002, 0x18000000], .mma ⟨false, 0, 8, 0, false, true, .e4m3, 0⟩), ([0x790C0014], .zrd ⟨true, 6, 0, .uni 2⟩),
    ([0x392800F5], .zwr ⟨false, 20, 0, .uni 30⟩), ([0xA1053001], .zstt ⟨false, 1, 19⟩),
    ([0x7C080800, 0x04040000], .postTry ⟨true, 4, 2, 0, 1, 0⟩), ([0x3C1C1840, 0x10000000], .post ⟨false, 14, 6, 8, 4, 0⟩),
    ([0xA5508280, 0x80000000], .put ⟨false, 20, 8, 10, true⟩), ([0xA65D5580], .wcwait ⟨false, 23, 21, 22⟩),
    ([0xA9D33C81], .grprd ⟨false, 52, 51, 50⟩), ([0xA9D33C82], .grpwr ⟨false, 52, 51, 50⟩), ([0xA9000000], .rte false),
    ([0xA8000040], .trap ⟨false, 0x40⟩)] = true := by decide +kernel
/-- Sections 15, 21 and 22: Xkrov. -/
theorem test_decode_xkrov : ∀ p ∈ [((0x0062A38B : Word), (0 : DWord), Instr.swait ⟨7, 5, 6⟩), (0x000A350B, 0, .fqpop ⟨10, 20⟩),
    (0x0155678B, 0, .pginst ⟨15, 10, 21⟩), (0x0005580B, 0, .glreplay ⟨16, 10⟩), (0x00E5488B, 0, .wakegComplete ⟨17, 10, 14⟩),
    (0x0125488B, 2, .wakegDecline ⟨17, 10, 18⟩), (0x0115C02B, 1, .dispatchStop ⟨0, 11, 17⟩), (0x0005C02B, 0, .dispatchRun ⟨0, 11, 0⟩),
    (0x0105D02B, 0, .qsave ⟨0, 11, 16⟩), (0x0105E62B, 0, .qload ⟨12, 11, 16⟩), (0x007362AB, 0, .qload ⟨5, 6, 7⟩)],
    decodeXkrov p.1 p.2.1 = some p.2.2 := by decide +kernel
/-- Section 04: words that are caught at decode. -/
theorem test_decode_illegal : ([0x00000000, 0x0908084C, 0x0B0404E2, 0x080E1C02, 0x80000262, 0x80884046].all fun w : Word =>
    !(decodeWords [w]).isOk) = true := by decide +kernel


/-! ### States for the witnesses -/

/-- A lane at 0x2000 with register 1 the team-memory offset 16 × L, pair 2 the address 0x4000 + 16 × L, register 4 its
number, pair 6 the address 0x2000. -/
def laneOf (L : Nat) : Lane :=
  [(1, 16 * L), (2, 0x4000 + 16 * L), (4, L), (6, 0x2000)].foldl (fun l e => l.setReg e.1 (BitVec.ofNat 32 e.2))
    { pc := 0x2000, age := 0, exited := false, park := none, regs := [], rng := 0x6A09E667 }
/-- A group of eight such lanes with some uniform registers. -/
def groupOf (us : List (Nat × Nat)) : Group :=
  us.foldl (fun g e => g.writeUni e.1 (BitVec.ofNat 32 e.2)) { Group.start 0x2000 8 0 0 with lanes := (List.range 8).map laneOf }
/-- A machine whose acting group is one of a team that f forms. -/
def machine (us : List (Nat × Nat)) (f : Team → Team) : State :=
  { State.reset with
    actor := .group ⟨1, 0⟩, teams := [f { placeTeam State.reset 1 with groups := [groupOf us] }], clock := 100, fresh := 7
    mem := placePasid State.reset (placeTree []), trn := { State.reset.trn with normal := true } }
/-- The same with its first group changed. -/
def withGroup (us : List (Nat × Nat)) (f : Group → Group) : State :=
  machine us fun t => { t with groups := t.groups.map f }
/-- The plain one. -/
def base : State := machine [] id

/-- The checks of `Issues`, and p. -/
def meets (s : State) (n : Names) (priv : Bool) (p : Ctx → Bool) : Bool :=
  match s.ctx with
  | none => false
  | some c => namesOk c.t n && (!priv || c.g.inHandler) && !(unsettled c.g n) && !(sourceBad c.g c.I n) && p c

theorem issues_of_meets {s : State} {n : Names} {priv : Bool} {p : Ctx → Bool} (h : meets s n priv p = true) :
    ∃ c, Issues s c n priv ∧ p c = true := by
  unfold meets at h
  split at h
  · cases h
  · rename_i c hc
    simp only [Bool.and_eq_true, Bool.or_eq_true, Bool.not_eq_true'] at h
    obtain ⟨⟨⟨⟨h1, h2⟩, h3⟩, h4⟩, h5⟩ := h
    exact ⟨c, ⟨hc, h1, fun hp => by simpa [hp] using h2, h3, h4⟩, h5⟩

theorem issues_with {s : State} {n : Names} {priv : Bool} {P : Ctx → Prop} [DecidablePred P]
    (h : meets s n priv (fun c => decide (P c)) = true) : ∃ c, Issues s c n priv ∧ P c :=
  let ⟨c, hi, hp⟩ := issues_of_meets h
  ⟨c, hi, of_decide_eq_true hp⟩

/-- The instruction with these names issues. -/
def Ready (s : State) (n : Names) (priv : Bool) : Prop := ∃ c, Issues s c n priv
theorem ready_of {s : State} {n : Names} {priv : Bool} (h : meets s n priv (fun _ => true) = true) : Ready s n priv :=
  let ⟨c, hi, _⟩ := issues_of_meets h
  ⟨c, hi⟩
/-- Each of the instructions with these names issues. -/
theorem ready_all {s : State} {priv : Bool} {l : List Names} (h : (l.all fun n => meets s n priv fun _ => true) = true) :
    ∀ n ∈ l, Ready s n priv := fun n hn => ready_of (List.all_eq_true.mp h n hn)

/-! ### Hypotheses of the statements on lanes and uniform registers: the first and the last register numbers -/

theorem test_LaneIntegers_met : ∀ n ∈ [LR.names ⟨false, 127, 0, .lane 127⟩ false, LR.names ⟨true, 0, 127, .uni 63⟩ false,
    LR.names ⟨false, 127, 0, .uni 0⟩ true, LU.names ⟨true, 0, 127⟩], Ready base n false := ready_all (by decide +kernel)
theorem test_UniformIntegers_met : ∀ n ∈ [UR.names ⟨false, 63, 0, 63⟩ false, UR.names ⟨true, 0, 63, 0⟩ true,
    Names.add (writesU [63]) (readsU [0])], Ready base n false := ready_all (by decide +kernel)
theorem test_PairArithmetic_met : ∀ n ∈ [Names.add (writesV (runOf 126 2)) (Names.add (readsV (runOf 0 2)) (Src.pairNames (.lane 126))),
    Names.add (writesV (runOf 0 2)) (Names.add (readsV (runOf 126 2)) (Src.names (.uni 63))),
    Names.add (writesU (runOf 62 2)) (readsU (runOf 0 2 ++ runOf 62 2)), Names.add (writesU (runOf 0 2)) (readsU (63 :: runOf 62 2))],
    Ready base n false := ready_all (by decide +kernel)
theorem test_ImmediatesAndConstants_met : ∀ n ∈ [Names.add (writesV [127]) (readsV [0]), writesV [0], Names.add (writesU [63]) (readsU [0]),
    writesU [0]], Ready base n false := ready_all (by decide +kernel)
theorem test_FloatResults_met : ∀ n ∈ [LR.names ⟨false, 127, 0, .lane 127⟩ false, LR.names ⟨false, 0, 127, .uni 63⟩ true,
    LU.names ⟨false, 127, 0⟩], Ready base n false := ready_all (by decide +kernel)
theorem test_SpecialFunctions_met : Ready base (LU.names ⟨true, 127, 0⟩) false ∧ (⟨false, 10, 11, 12, 13⟩ : Fused).wf = true ∧
    Ready base (Names.add (readsV [10, 11, 13]) (writesV [10, 12, 13])) false :=
  ⟨ready_of (by decide +kernel), by decide, ready_of (by decide +kernel)⟩
theorem test_ConversionAndRandom_met : ∀ n ∈ [Names.add (writesV [127]) (readsV [0]),
    Names.add (writesV (runOf 8 (Conv.runD ⟨false, 8, 0, .e4m3, .fp32, .rs, true⟩)))
      (readsV (runOf 0 (Conv.runS ⟨false, 8, 0, .e4m3, .fp32, .rs, true⟩))),
    Names.add (readsV [0]) (Src.names (.uni 63)), writesV [127]], Ready base n false := ready_all (by decide +kernel)

/-- Lane 0 holds 0 in register 4 and the others do not; register 6 is not 0 in any lane, register 8 is 0 in all. -/
theorem test_ControlTransfers_met :
    (∃ c, Issues base c (readsV [4]) false ∧ c.pc.toNat % 4 = 0 ∧ (∃ L ∈ c.I, c.g.readLane L 4 = 0) ∧ ∃ L ∈ c.I, c.g.readLane L 4 ≠ 0) ∧
    (∃ c, Issues base c (readsV [6]) false ∧ c.pc.toNat % 4 = 0 ∧ c.I ≠ [] ∧ ∀ L ∈ c.I, c.g.readLane L 6 ≠ 0) ∧
    (∃ c, Issues base c (readsV [8]) false ∧ c.pc.toNat % 4 = 0 ∧ c.I ≠ [] ∧ ∀ L ∈ c.I, c.g.readLane L 8 = 0) ∧
    (∃ c, Issues base c (readsV (runOf 6 2)) false ∧ c.I ≠ [] ∧ ∀ L ∈ c.I, (c.g.lanePair L 6).toNat % 4 = 0) ∧
    (∃ c, Issues base c (Names.add (writesV (runOf 126 2)) (readsV (runOf 6 2))) false ∧ ∀ L ∈ c.I, (c.g.lanePair L 6).toNat % 4 = 0) ∧
    (∀ v ∈ [(0, 0), (0, 1), (0x80000000, 2), (0x80000000, 3), (0x7FFFFFFF, 3)],
      Ready (machine [(1, v.1)] id) (Names.add (readsU [1]) (writesU [62, 63])) false) ∧
    (∃ c, Issues (machine [(62, 0x2004)] id) c (readsU [62, 63]) false ∧ (c.g.uniPair 62).toNat % 4 = 0) :=
  ⟨issues_with (by decide +kernel), issues_with (by decide +kernel), issues_with (by decide +kernel), issues_with (by decide +kernel),
    issues_with (by decide +kernel), fun v hv => ready_of ((by decide +kernel : ∀ v ∈ [(0, 0), (0, 1), (0x80000000, 2), (0x80000000, 3),
      (0x7FFFFFFF, 3)], meets (machine [(1, v.1)] id) (Names.add (readsU [1]) (writesU [62, 63])) false (fun _ => true) = true) v hv),
    issues_with (by decide +kernel)⟩

/-! ### Hypotheses of the statements on control, lanes and barriers -/

theorem test_AccessTraps_met :
    (∃ c, Issues base c (readsV [4]) false ∧ (∃ L ∈ c.I, c.g.readLane L 4 = 0) ∧ ∃ L ∈ c.I, c.g.readLane L 4 ≠ 0) ∧
    (∃ c, Issues base c (readsV (runOf 4 2)) false ∧ c.I = [0] ++ 1 :: [2, 3, 4, 5, 6, 7] ∧ (c.g.lanePair 0 4).toNat % 4 = 0 ∧
      (c.g.lanePair 1 4).toNat % 4 ≠ 0) ∧
    (∃ c, Issues base c (memNames true 127 .b32 9 4) false ∧ c.I = [0] ++ 1 :: [2, 3, 4, 5, 6, 7] ∧
      (∀ M ∈ [0], ((c.g.readUni 9).toNat + (c.g.readLane M 4).toNat) % 2 ^ 32 % 4 = 0 ∧
        ((c.g.readUni 9).toNat + (c.g.readLane M 4).toNat) % 2 ^ 32 + 4 ≤ c.t.window) ∧
      ((c.g.readUni 9).toNat + (c.g.readLane 1 4).toNat) % 2 ^ 32 % 4 ≠ 0) ∧
    (∃ c, Issues (machine [(9, 4080)] id) c (Names.add (readsV (1 :: runOf 4 4)) (readsU [9])) false ∧
      c.I = [0] ++ 1 :: [2, 3, 4, 5, 6, 7] ∧
      (∀ M ∈ [0], ((c.g.readUni 9).toNat + (c.g.readLane M 1).toNat) % 2 ^ 32 % 16 = 0 ∧
        ((c.g.readUni 9).toNat + (c.g.readLane M 1).toNat) % 2 ^ 32 + 16 ≤ c.t.window) ∧
      ((c.g.readUni 9).toNat + (c.g.readLane 1 1).toNat) % 2 ^ 32 % 16 = 0 ∧
      c.t.window < ((c.g.readUni 9).toNat + (c.g.readLane 1 1).toNat) % 2 ^ 32 + 16) ∧
    (∃ c, Issues (machine [(8, 0x4001)] id) c (memNames true 127 .b32 8 4) false ∧
      (laneAccs c 8 4 4 (.read 4)).head? = some ⟨0, 0x4001, 4, .read 4⟩) ∧
    (∃ c, Issues (machine [(8, 0x10000)] id) c (memNames false 127 .b32 8 1) false ∧
      (laneAccs c 8 1 4 (.write 4)).head? = some ⟨0, 0x10000, 4, .write 4⟩ ∧
      translate c.free.s c.t.pasid 0x10000 (.write 4) = .trap cTranslation 15) ∧
    ∃ c, Issues (machine [(8, 0x10000)] id) c (Names.add (writesV (atomRegs false 127)) (Names.add (readsV (atomRegs false 5))
        (Names.add {} (addrNames 8 1)))) false ∧ (laneAccs c 8 1 4 (.atomic .add false 3)).head? = some ⟨0, 0x10000, 4, .atomic .add false 3⟩ ∧
      translate c.free.s c.t.pasid 0x10000 (.atomic .add false 3) = .trap cTranslation 15 :=
  ⟨issues_with (by decide +kernel), issues_with (by decide +kernel), issues_with (by decide +kernel), issues_with (by decide +kernel),
    issues_with (by decide +kernel), issues_with (by decide +kernel), issues_with (by decide +kernel)⟩

/-- In the second machine lane 3 holds a bad word in register 4, which RDLANE and SHFL here do not read (R91). -/
theorem test_LaneExchanges_met :
    (∀ n ∈ [LU.names ⟨false, 127, 4⟩, Names.add (writesV (runOf 126 2)) (readsV [4]),
      Names.add (writesV (runOf 126 (redRegs .iadd64))) (readsV (runOf 0 (redRegs .iadd64)))], Ready base n false) ∧
    (∀ s ∈ [base, withGroup [(63, 64 + 5)] fun g => { g with badV := [(3, 4)] }],
      (∃ c, Issues s c (Names.add (writesU [63]) (Names.add (writesV [4]) (Src.named (.uni 63)))) false ∧
        c.I = 0 :: [1, 2, 3, 4, 5, 6, 7] ∧ lanesBad c.g [(c.g.src 0 (.uni 63)).toNat % 64 % c.t.width] 4 = false) ∧
      ∃ c, Issues s c (Names.add (writesU [63]) (writesV [4])) false ∧ c.I = 0 :: [1, 2, 3, 4, 5, 6, 7] ∧
        lanesBad c.g [0] 4 = false) ∧
    (∃ c, Issues base c (Names.add (writesU [1]) (Names.add (writesV [127]) (Src.named (.lane 4)))) false ∧
      c.I = 0 :: [1, 2, 3, 4, 5, 6, 7] ∧ lanesBad c.g [0] 4 = false ∧ lanesBad c.g [(c.g.src 0 (.lane 4)).toNat % 64 % c.t.width] 127 = false) ∧
    ∃ c, Issues (withGroup [(63, 4)] fun g => { g with tile := 4, badV := [(9, 4)] }) c (shflNames ⟨false, 127, 4, .uni 63⟩) false ∧
      ∀ f ∈ [fun L : Nat => L - L % c.g.tile + (c.g.src L (.uni 63)).toNat % c.g.tile, fun L => if (c.g.src L (.uni 63)).toNat > L % c.g.tile
          then L else L - (c.g.src L (.uni 63)).toNat, fun L => if L % c.g.tile + (c.g.src L (.uni 63)).toNat ≥ c.g.tile then L
          else L + (c.g.src L (.uni 63)).toNat, fun L => L - L % c.g.tile + (L % c.g.tile ^^^ (c.g.src L (.uni 63)).toNat % c.g.tile)],
        lanesBad c.g (c.I.map f) 4 = false :=
  ⟨ready_all (by decide +kernel), fun s hs => by
    simp only [List.mem_cons, List.not_mem_nil, or_false] at hs
    rcases hs with rfl | rfl <;> exact ⟨issues_with (by decide +kernel), issues_with (by decide +kernel)⟩,
    issues_with (by decide +kernel), by
      obtain ⟨c, hi, h⟩ := issues_with (s := withGroup [(63, 4)] fun g => { g with tile := 4, badV := [(9, 4)] })
        (n := shflNames ⟨false, 127, 4, .uni 63⟩) (priv := false) (P := fun c =>
          (lanesBad c.g (c.I.map fun L => L - L % c.g.tile + (c.g.src L (.uni 63)).toNat % c.g.tile) 4 = false ∧
           lanesBad c.g (c.I.map fun L => if (c.g.src L (.uni 63)).toNat > L % c.g.tile then L else L - (c.g.src L (.uni 63)).toNat) 4 = false) ∧
          lanesBad c.g (c.I.map fun L => if L % c.g.tile + (c.g.src L (.uni 63)).toNat ≥ c.g.tile then L
            else L + (c.g.src L (.uni 63)).toNat) 4 = false ∧
          lanesBad c.g (c.I.map fun L => L - L % c.g.tile + (L % c.g.tile ^^^ (c.g.src L (.uni 63)).toNat % c.g.tile)) 4 = false) (by decide +kernel)
      refine ⟨c, hi, fun f hf => ?_⟩
      simp only [List.mem_cons, List.not_mem_nil, or_false] at hf
      rcases hf with rfl | rfl | rfl | rfl <;> [exact h.1.1; exact h.1.2; exact h.2.1; exact h.2.2]⟩

theorem test_IntegerTrees_met : ∃ l m : List Word, l.length = 64 ∧ l.Perm m ∧ l ≠ m :=
  ⟨1 :: List.replicate 63 0, List.replicate 63 0 ++ [1], by decide, by
    simpa using (List.perm_append_comm (l₁ := [(1 : Word)]) (l₂ := List.replicate 63 0)), by decide⟩

/-- The wake of a SLEEP at its cycle and one cycle before it; an EXIT that leaves lane 7 at another PC. -/
theorem test_GroupControlAndExit_met : Ready base {} false ∧ Ready base (readsU [63]) false ∧
    (∀ w ∈ [100, 101], ∃ g, (withGroup [] fun g => { g with park := some (.sleep w true), held := [0, 7] }).group ⟨1, 0⟩ = some g ∧
      g.park = some (.sleep w true) ∧ g.pending = none ∧ g.held.Nodup) ∧
    (∃ c, Issues (withGroup [] fun g => g.adjLane 7 fun l => { l with pc := 0x3000 }) c {} false ∧
      (∃ L, L < c.g.lanes.length ∧ L ∉ c.I ∧ (c.g.lane L).exited = false) ∧ ∀ k ∈ c.t.kregState, k.2 = .idle) :=
  ⟨ready_of (by decide +kernel), ready_of (by decide +kernel), fun w hw => by
    simp only [List.mem_cons, List.not_mem_nil, or_false] at hw
    rcases hw with rfl | rfl
    · exact ⟨_, rfl, rfl, rfl, by decide⟩
    · exact ⟨_, rfl, rfl, rfl, by decide⟩,
    by
      obtain ⟨c, hi, h⟩ := issues_with (s := withGroup [] fun g => g.adjLane 7 fun l => { l with pc := 0x3000 }) (n := {})
        (priv := false) (P := fun c => (7 < c.g.lanes.length ∧ 7 ∉ c.I ∧ (c.g.lane 7).exited = false) ∧
          ∀ k ∈ c.t.kregState, k.2 = .idle) (by decide +kernel)
      exact ⟨c, hi, ⟨7, h.1⟩, h.2⟩⟩

/-- A frame as an ALIGN trap of lanes 0 and 1 leaves it. -/
def someFrame : Frame :=
  { trap := ⟨cMisalign, 0x4001, 0x2C060884, 0x17, 0⟩, pc := 0x2000, issuing := 0xFF, live := 0xFF
    pcs := (List.range 8).map fun L => (L, 0x2000), uregs := [(48, 7), (63, 9)], vregs := [(0, [(120, 5), (127, 6)])], tile := 8 }
/-- The acting group in the handler. -/
def handling (us : List (Nat × Nat)) : State := withGroup us fun g => { g with inHandler := true, frame := some someFrame }

/-- In the second machine a result into register 9 is outstanding. -/
theorem test_SpecialRegisterReads_met : (∀ n ∈ [writesU [63], writesU (runOf 62 2)], Ready base n false) ∧
    (∃ c, Issues (withGroup [] fun g => { g with deferred := [⟨1, [9], [], [], [], 0, 0⟩] }) c (writesU [63]) false ∧ c.g.deferred ≠ []) ∧
    ∀ n ∈ [writesU [63], writesU (runOf 62 2)], ∃ c, Issues (handling []) c n true ∧ c.g.frame = some someFrame :=
  ⟨ready_all (by decide +kernel), issues_with (by decide +kernel), fun n hn => by
    simp only [List.mem_cons, List.not_mem_nil, or_false] at hn
    rcases hn with rfl | rfl <;> exact issues_with (by decide +kernel)⟩

/-- A team of two groups whose barrier 2 has these arrivals. -/
def atBarrier (count : Nat) (a : Sparse Nat) (q : List SqEntry) : State :=
  machine [] fun t => { t with
    barriers := [(2, ⟨3, count⟩)]
    groups := t.groups.map (fun g => { g with arrivals := a, storeQ := q }) ++ [groupOf []] }
theorem test_Barriers_met :
    (∀ p ∈ [(0, ([(2, 4)] : Sparse Nat)), (0, []), (1, []), (1, [(2, 3)])], ∃ t g, (atBarrier p.1 p.2 []).team 1 = some t ∧
      t.groups[0]? = some g ∧ g.exited = false ∧ (t.bar 2) = ⟨3, p.1⟩ ∧ (t.groups.filter fun h => !h.exited).length = 2) ∧
    (∃ c, Issues (atBarrier 1 [] []) c {} false ∧ coreDrained (atBarrier 1 [] []) c.r = true ∧ c.g.exited = false ∧
      ((arrive c.t c.r.grp 2).bar 2).gen ≠ (c.t.bar 2).gen) ∧
    (∃ c, Issues (atBarrier 0 [] []) c {} false ∧ coreDrained (atBarrier 0 [] []) c.r = true ∧ c.g.exited = false ∧
      ((arrive c.t c.r.grp 2).bar 2).gen = (c.t.bar 2).gen) ∧
    (∃ c, Issues (atBarrier 0 [] [barEntry 1 90]) c {} false ∧ coreDrained (atBarrier 0 [] [barEntry 1 90]) c.r = false) ∧
    (∃ c, Issues (atBarrier 0 [(2, 3)] []) c {} false ∧ c.g.barHeld 2 = false ∧
      Sparse.get 0 c.g.arrivals 2 ≠ (c.t.bar 2).gen + 1) ∧
    (∃ c, Issues (atBarrier 1 [(2, 4)] []) c {} false ∧ c.g.barHeld 2 = false ∧
      Sparse.get 0 c.g.arrivals 2 = (c.t.bar 2).gen + 1) ∧
    ∃ c, Issues (atBarrier 1 [] [barEntry 2 90]) c {} false ∧ c.g.barHeld 2 = true :=
  ⟨fun p hp => by
    simp only [List.mem_cons, List.not_mem_nil, or_false] at hp
    rcases hp with rfl | rfl | rfl | rfl <;> exact ⟨_, _, rfl, rfl, by decide +kernel, by decide +kernel, by decide +kernel⟩,
    issues_with (by decide +kernel), issues_with (by decide +kernel), issues_with (by decide +kernel), issues_with (by decide +kernel),
    issues_with (by decide +kernel), issues_with (by decide +kernel)⟩

/-! ### Hypotheses of the statements on team memory, clusters and subscriptions -/

theorem acts_with {s : State} {n : Names} {priv : Bool} {k : Nat} {off : Ctx → Nat} {P : Ctx → Prop} [DecidablePred P]
    (h : meets s n priv (fun c => decide ((off c % k = 0 ∧ off c + k ≤ c.t.window ∧ softHit c.t (off c) k = false ∧
      acquirePending s c.t.core c.r c.g = false ∧ coreDrained s c.r = true) ∧ P c)) = true) :
    ∃ c, Issues s c n priv ∧ ActsAt s c k (off c) ∧ P c :=
  let ⟨c, hi, h, hp⟩ := issues_with h
  ⟨c, hi, ⟨h.1, h.2.1, h.2.2.1, h.2.2.2.1, h.2.2.2.2⟩, hp⟩

/-- The last 16 bytes of the window are the last offsets a group of eight lanes reaches with these registers. -/
theorem test_TeamLoadsAndStores_met :
    ∀ p ∈ [(Names.add (writesV (runOf 124 4)) (Names.add (readsV [1]) (readsU [9])), 16), (Names.add (readsV (1 :: runOf 124 4)) (readsU [9]), 16)],
      ∃ c, Issues (machine [(9, 3968)] id) c p.1 false ∧ (acquirePending (machine [(9, 3968)] id) c.t.core c.r c.g = false ∧
        packBefore c = false ∧ storeRoom c.g c.I.length = true) ∧
        (∃ L ∈ c.I, ((c.g.readUni 9).toNat + (c.g.readLane L 1).toNat) % 2 ^ 32 + p.2 = c.t.window) ∧
        ∀ L ∈ c.I, ((c.g.readUni 9).toNat + (c.g.readLane L 1).toNat) % 2 ^ 32 % p.2 = 0 ∧
          ((c.g.readUni 9).toNat + (c.g.readLane L 1).toNat) % 2 ^ 32 + p.2 ≤ c.t.window ∧
          softHit c.t (((c.g.readUni 9).toNat + (c.g.readLane L 1).toNat) % 2 ^ 32) p.2 = false := fun p hp => by
  simp only [List.mem_cons, List.not_mem_nil, or_false] at hp
  rcases hp with rfl | rfl <;> exact issues_with (by decide +kernel)

theorem test_TeamAtomics_met :
    (∃ c, Issues base c (Names.add (writesV (atomRegs true 126)) (Names.add (readsV (1 :: atomRegs true 4)) (Names.add (readsV (atomRegs true 6))
        (readsU [0])))) false ∧ (acquirePending base c.t.core c.r c.g = false ∧ packBefore c = false) ∧ coreDrained base c.r = true ∧
      ∀ L ∈ c.I, ((c.g.readUni 0).toNat + (c.g.readLane L 1).toNat) % 2 ^ 32 % 8 = 0 ∧
        ((c.g.readUni 0).toNat + (c.g.readLane L 1).toNat) % 2 ^ 32 + 8 ≤ c.t.window ∧
        softHit c.t (((c.g.readUni 0).toNat + (c.g.readLane L 1).toNat) % 2 ^ 32) 8 = false) ∧
    (∃ c, Issues (withGroup [] fun g => { g with storeQ := [barEntry 1 90] }) c (Names.add {} (Names.add (readsV (1 :: atomRegs false 4))
        (Names.add {} (readsU [0])))) false ∧
      (acquirePending (withGroup [] fun g => { g with storeQ := [barEntry 1 90] }) c.t.core c.r c.g = false ∧ packBefore c = false ∧
        storeRoom c.g c.I.length = true) ∧
      coreDrained (withGroup [] fun g => { g with storeQ := [barEntry 1 90] }) c.r = false ∧
      ∀ L ∈ c.I, ((c.g.readUni 0).toNat + (c.g.readLane L 1).toNat) % 2 ^ 32 % 4 = 0 ∧
        ((c.g.readUni 0).toNat + (c.g.readLane L 1).toNat) % 2 ^ 32 + 4 ≤ c.t.window ∧
        softHit c.t (((c.g.readUni 0).toNat + (c.g.readLane L 1).toNat) % 2 ^ 32) 4 = false) ∧
    ((0xFFFFFFFF : DWord).toNat < 2 ^ 32 ∧ (0 : DWord).toNat < 2 ^ 32) :=
  ⟨issues_with (by decide +kernel), issues_with (by decide +kernel), by decide⟩

/-- A cluster of one team that shares 256 bytes of its window from 512 on. -/
def sharing (us : List (Nat × Nat)) : State := machine us fun t => { t with share := some ⟨512, 256, true⟩ }
/-- A team whose two groups wait in SHARE.LEAVE, with a share window or without. -/
def leaving (w : Option Share) : State := machine [] fun t => { t with
  share := w
  groups := (t.groups ++ [groupOf []]).map fun g => { g with park := some (.share none 90 true) } }
/-- The last bytes of a share window: eight lanes of 16 bytes from offset 128 on. -/
theorem test_ClustersAndShareWindows_met :
    (∀ p ∈ [Names.add (writesV (runOf 4 4)) (Names.add (readsV [1]) (Names.add (Src.names (.uni 0)) (readsU [9]))),
        Names.add (readsV (1 :: runOf 4 4)) (Names.add (Src.names (.uni 0)) (readsU [9]))],
      ∃ c, Issues (sharing [(9, 128)]) c p false ∧ (acquirePending (sharing [(9, 128)]) c.t.core c.r c.g = false ∧
          storeRoom c.g c.I.length = true) ∧
        ∀ L ∈ c.I, clusterMate c (c.g.src L (.uni 0)).toNat = some c.t ∧ c.t.shareFor c.t.clusterTeam = some ⟨512, 256, true⟩ ∧
          (c.g.src L (.uni 0)).toNat < c.t.clusterW * c.t.clusterH ∧
          ((c.g.readUni 9).toNat + (c.g.readLane L 1).toNat) % 2 ^ 32 % 16 = 0 ∧
          ((c.g.readUni 9).toNat + (c.g.readLane L 1).toNat) % 2 ^ 32 + 16 ≤ 256 ∧
          softHit c.t (512 + ((c.g.readUni 9).toNat + (c.g.readLane L 1).toNat) % 2 ^ 32) 16 = false) ∧
    (∀ v ∈ [(3840, 256), (0, 2 ^ 31 + 4096)], ∃ c, Issues (machine [(1, v.1), (2, v.2)] id) c (readsU [1, 2]) false ∧
      (c.g.readUni 1).toNat % 256 = 0 ∧ (c.g.readUni 2).toNat % 2 ^ 20 % 256 = 0 ∧ 0 < (c.g.readUni 2).toNat % 2 ^ 20 ∧
      (c.g.readUni 2).toNat % 2 ^ 20 ≤ 524288 ∧ (c.g.readUni 2).toNat / 2 ^ 20 % 2 ^ 11 = 0 ∧
      (c.g.readUni 1).toNat + (c.g.readUni 2).toNat % 2 ^ 20 ≤ c.t.window) ∧
    ∀ w ∈ [none, some ⟨512, 256, true⟩], ∃ t g, (leaving w).team 1 = some t ∧ t.groups[0]? = some g ∧
      g.park = some (.share none 90 true) ∧ (∀ h ∈ t.groups, h.park = some (.share none 90 true)) ∧ t.share = w ∧
      oldClt (leaving w) t = false := by
  refine ⟨fun p hp => ?_, fun v hv => ?_, fun w hw => ?_⟩
  · simp only [List.mem_cons, List.not_mem_nil, or_false] at hp
    rcases hp with rfl | rfl <;> exact issues_with (by decide +kernel)
  · simp only [List.mem_cons, List.not_mem_nil, or_false] at hv
    rcases hv with rfl | rfl <;> exact issues_with (by decide +kernel)
  · simp only [List.mem_cons, List.not_mem_nil, or_false] at hw
    rcases hw with rfl | rfl <;> exact ⟨_, _, rfl, rfl, by decide +kernel⟩

/-- A team with a subscription block at 4080, whose LOCAL is 0 and whose LENGTH is 128. -/
def subscribing (f : Team → Team) : State :=
  machine [(2, 0x4000), (4, 4080)] fun t => f { t with tmem := writeBytes [] 4080 (leBytes 4 0 ++ leBytes 4 128) }
/-- Its one subscription. -/
def someSub : Sub := ⟨0, 4080, 0x4000, 128, 0, true, false⟩
theorem test_Subscriptions_met :
    (∃ c, Issues (subscribing id) c (Names.add (writesU [63]) (readsU (4 :: runOf 2 2))) false ∧ (c.g.uniPair 2).toNat = 0x4000 ∧
      (c.g.readUni 4).toNat = 4080 ∧ c.t.window = 4096 ∧ subBlock c.g c.t 4080 = (0, 128) ∧
      place (subscribing id) c.t.pasid 0x4000 .subscribe = .at 0x4000 1 ∧
      homeOf (subscribing id).build 0x4000 = chipletOfCore c.t.core ∧
      acquirePending (subscribing id) c.t.core c.r c.g = false ∧ pageWaits (subscribing id) c.t.pasid 0 = false) ∧
    (∃ c, Issues (subscribing fun t => { t with subs := [someSub] }) c (readsU [0]) false ∧ ∃ u ∈ c.t.subs, u.handle = (c.g.readUni 0).toNat) ∧
    (∃ c, Issues (subscribing id) c (readsU [0]) false ∧ ∀ u ∈ c.t.subs, u.handle ≠ (c.g.readUni 0).toNat) ∧
    (∃ t g, (subscribing fun t => { t with groups := t.groups.map fun g => { g with park := some (.subRegister 63 0x4000 4080 true) } }).team 1
        = some t ∧ t.groups[0]? = some g ∧ g.park = some (.subRegister 63 0x4000 4080 true) ∧ subBlock g t 4080 = (0, 128) ∧
      pageWaits (subscribing id) t.pasid 0 = false ∧
      (∀ q ∈ grainsOf 0x4000 128, (subscribing id).engineOwned (q * 512) = false) ∧ t.subs = [] ∧ subEntriesAt (subscribing id) 0 < 256) ∧
    (∃ t g, (subscribing fun t => { t with
          subs := [someSub], groups := t.groups.map fun g => { g with park := some (.unsub 0 true) } }).team 1 = some t ∧
      t.groups[0]? = some g ∧ g.park = some (.unsub someSub.handle true) ∧ t.subs.find? (fun v => v.handle == someSub.handle) = some someSub ∧
      ∀ d ∈ (subscribing id).deliveries, d.team ≠ t.id) ∧
    ∃ t, ({ subscribing fun t => { t with subs := [someSub] } with
          deliveries := [⟨1, 1, 0, [6], 1⟩, ⟨1, 0, 127, [5], 1⟩] } : State).deliveries[1]? = some ⟨1, 0, 127, [5], 1⟩ ∧
      (subscribing fun t => { t with subs := [someSub] }).team 1 = some t ∧ t.place = .running ∧
      t.subs.find? (fun v => v.handle == 0) = some someSub ∧
      ∀ e ∈ [(⟨1, 1, 0, [6], 1⟩ : Delivery), ⟨1, 0, 127, [5], 1⟩].take 1, e.team = 1 → e.handle ≠ 0 := by
  refine ⟨issues_with (by decide +kernel), issues_with (by decide +kernel), issues_with (by decide +kernel), ⟨_, _, rfl, rfl, ?_⟩,
    ⟨_, _, rfl, rfl, ?_⟩, _, rfl, rfl, ?_⟩ <;> decide +kernel

/-- A team with an arrival word at 4080 and the group's uniform registers 1 at its offset and 2 at 1. -/
def awaiting (a : Arrival) : State := machine [(1, 4080), (2, 1)] fun t => { t with tmem := writeBytes [] 4080 a.bytes }
theorem test_ArrivalWords_met :
    (∃ c, Issues (awaiting ⟨3, 1, 0, 1⟩) c (readsU [1, 2]) false ∧ ActsAt (awaiting ⟨3, 1, 0, 1⟩) c 16 (c.g.readUni 1).toNat ∧
      (c.g.readUni 1).toNat + 16 = c.t.window ∧ ∀ h ∈ c.t.groups, h.awaits c.t (c.g.readUni 1).toNat = none) ∧
    (∃ t g, (withGroup [] fun g => { g with park := some (.waitg 5 4080 1 true) }).team 1 = some t ∧ t.groups[0]? = some g ∧
      g.park = some (.waitg 5 4080 1 true)) ∧
    ∀ p ∈ [((⟨0, 0, 2, 0⟩ : Arrival), true, false), (⟨3, 1, 1, 1⟩, false, false), (⟨3, 1, 1, 3⟩, false, true), (⟨3, 4, 1, 5⟩, false, true)],
      ∃ c, Issues (awaiting p.1) c (Names.add (writesU [63]) (readsU [1, 2])) false ∧
        ((c.g.readUni 1).toNat % 16 = 0 ∧ (c.g.readUni 1).toNat + 16 = c.t.window ∧ softHit c.t (c.g.readUni 1).toNat 16 = false ∧
          acquirePending (awaiting p.1) c.t.core c.r c.g = false) ∧
        Arrival.ofBytes (teamView c.g c.t (c.g.readUni 1).toNat 16) = p.1 ∧ decide ((p.1.gen - c.g.readUni 2).toInt > 0) = p.2.1 ∧
        p.1.bad = p.2.2 := by
  refine ⟨acts_with (by decide +kernel), ⟨_, _, rfl, rfl, rfl⟩, fun p hp => ?_⟩
  simp only [List.mem_cons, List.not_mem_nil, or_false] at hp
  rcases hp with rfl | rfl | rfl | rfl <;> exact issues_with (by decide +kernel)

/-- A team with a circular buffer of two stages at 32, whose stages leave the window by one byte. -/
def overflowing : State :=
  machine [(1, 32), (2, 128)] fun t => { t with
    tmem := writeBytes [] 32 ([3841, 128, 2, 64, 1, 0, 0, 0].flatMap fun w => leBytes 4 w) }
/-- A team with a circular buffer of two stages at 32, its stages at 256 and its arrival words at 64, of generation
gen. -/
def buffering (head cmt tail cpos gen : Nat) (f : Group → Group) : State :=
  machine [(1, 32), (2, 128)] fun t => { t with
    groups := t.groups.map f
    tmem := writeBytes (writeBytes [] 32 ([256, 128, 2, 64, head, cmt, tail, cpos].flatMap fun w => leBytes 4 w)) 64
      (Arrival.bytes ⟨0, 0, BitVec.ofNat 32 gen, 0⟩ ++ Arrival.bytes ⟨0, 0, BitVec.ofNat 32 gen, 0⟩) }
/-- The stages filled and taken up to one less than they may be, and as many as they may be; a stage that has come and
one that has not, with a claim held and without. -/
theorem test_CircularBuffers_met :
    (∃ c, Issues (buffering 0 0 0 0 0 id) c (readsU [1]) false ∧ ActsAt (buffering 0 0 0 0 0 id) c 32 (c.g.readUni 1).toNat ∧
      (c.cb (c.g.readUni 1).toNat).fault c.t.window (c.g.readUni 1).toNat = none) ∧
    (∃ c, Issues (buffering 1 0 0 0 0 id) c (Names.add (writesU (runOf 62 2)) (readsU [1])) false ∧
      ActsAt (buffering 1 0 0 0 0 id) c 32 (c.g.readUni 1).toNat ∧ (c.cb 32).outside c.t.window 32 = none ∧ (c.g.readUni 1).toNat = 32 ∧
      ((c.cb 32).head - (c.cb 32).tail).toNat < (c.cb 32).nstage ∧ c.t.groups.length = 1) ∧
    (∃ c, Issues (buffering 2 0 0 0 0 id) c (Names.add (writesU (runOf 62 2)) (readsU [1])) false ∧
      ActsAt (buffering 2 0 0 0 0 id) c 32 (c.g.readUni 1).toNat ∧ (c.cb 32).outside c.t.window 32 = none ∧ (c.g.readUni 1).toNat = 32 ∧
      (c.cb 32).nstage ≤ ((c.cb 32).head - (c.cb 32).tail).toNat ∧ c.g.park = none) ∧
    (∃ c, Issues (buffering 1 0 0 0 0 id) c (readsU [1, 2]) false ∧ ActsAt (buffering 1 0 0 0 0 id) c 32 (c.g.readUni 1).toNat ∧
      (c.cb 32).outside c.t.window 32 = none ∧ (c.cb 32).cmt.toNat < (c.cb 32).head.toNat ∧
      ∀ h ∈ c.t.groups, h.awaits c.t ((c.cb 32).word (c.cb 32).cmt) = none) ∧
    (∃ c, Issues (buffering 1 1 0 0 0 id) c (readsU [1, 2]) false ∧ ActsAt (buffering 1 1 0 0 0 id) c 32 (c.g.readUni 1).toNat ∧
      (c.cb 32).outside c.t.window 32 = none ∧ (c.cb 32).head.toNat ≤ (c.cb 32).cmt.toNat) ∧
    (∀ gen ∈ [0, 1], ∃ c, Issues (buffering 1 1 0 0 gen id) c (Names.add (writesU (runOf 62 2)) (readsU [1])) false ∧
      ActsAt (buffering 1 1 0 0 gen id) c 32 (c.g.readUni 1).toNat ∧ (c.cb 32).outside c.t.window 32 = none ∧ c.g.claims = [] ∧
      ((c.t.stored (32 + 28) (leBytes 4 1)).arrival ((c.cb 32).word 0)).gen = BitVec.ofNat 32 gen) ∧
    (∀ gen ∈ [0, 1], ∃ c, Issues (buffering 1 1 0 1 gen fun g => { g with claims := [(32, 0x2000, 0)] }) c
        (Names.add (writesU (runOf 62 2)) (readsU [1])) false ∧
      c.g.claims.find? (fun k => k.1 == 32 && k.2.1 == c.pc) = some (32, 0x2000, 0) ∧ (c.t.arrival ((c.cb 32).word 0)).gen = BitVec.ofNat 32 gen) ∧
    (∃ c, Issues (buffering 1 1 0 1 1 id) c (readsU [1]) false ∧ ActsAt (buffering 1 1 0 1 1 id) c 32 (c.g.readUni 1).toNat ∧
      (c.cb 32).outside c.t.window 32 = none ∧ (c.cb 32).tail.toNat < (c.cb 32).cpos.toNat) ∧
    (∃ c, Issues (buffering 1 1 1 1 1 id) c (readsU [1]) false ∧ ActsAt (buffering 1 1 1 1 1 id) c 32 (c.g.readUni 1).toNat ∧
      (c.cb 32).outside c.t.window 32 = none ∧ (c.cb 32).cpos.toNat ≤ (c.cb 32).tail.toNat) ∧
    (∃ c, Issues overflowing c (readsU [1]) false ∧ ActsAt overflowing c 32 (c.g.readUni 1).toNat ∧ c.g.claims = [] ∧
      (c.cb 32).outside c.t.window 32 = some 0) ∧
    ∃ t g, (buffering 1 1 0 1 1 fun g => { g with park := some (.cbWait 62 32 0 true) }).team 1 = some t ∧ t.groups[0]? = some g ∧
      g.park = some (.cbWait 62 32 0 true) := by
  refine ⟨acts_with (by decide +kernel), acts_with (by decide +kernel), acts_with (by decide +kernel), acts_with (by decide +kernel),
    acts_with (by decide +kernel), fun gen hg => ?_, fun gen hg => ?_, acts_with (by decide +kernel), acts_with (by decide +kernel),
    acts_with (by decide +kernel), _, _, rfl, rfl, rfl⟩
  · simp only [List.mem_cons, List.not_mem_nil, or_false] at hg
    rcases hg with rfl | rfl <;> exact acts_with (by decide +kernel)
  · simp only [List.mem_cons, List.not_mem_nil, or_false] at hg
    rcases hg with rfl | rfl <;> exact issues_with (by decide +kernel)

/-! ### Hypotheses of the statements on global memory and copies -/

/-- The accesses with their places. -/
def placed (c : Ctx) (accs : List Acc) : List Placed := accs.map fun a => (a, place c.s c.t.pasid a.va a.use)
/-- The access passes the checks of R190. -/
def allowedB (c : Ctx) (a : Acc) : Bool :=
  decide (a.va % a.n = 0) && (match translate c.s c.t.pasid a.va a.use with | .trap _ _ => false | _ => true)
/-- The checks of `Storable`. -/
def storableB (c : Ctx) (accs : List Acc) : Bool := accs.all (allowedB c) && !(acquirePending c.s c.t.core c.r c.g)
/-- The checks of `Placeable`. -/
def placeableB (c : Ctx) (accs : List Acc) : Bool :=
  storableB c accs && (placed c accs).all fun p =>
    (match p.2 with | .miss _ _ _ => false | .at pa _ => regionReady c.s pa | _ => true) && !(Placed.waits c.s c.t.core c.t.pasid p)

theorem allowed_of {c : Ctx} {a : Acc} (h : allowedB c a = true) :
    a.va % a.n = 0 ∧ ∀ k n, translate c.s c.t.pasid a.va a.use ≠ .trap k n := by
  simp only [allowedB, Bool.and_eq_true, decide_eq_true_eq] at h
  exact ⟨h.1, fun k n ht => by simp [ht] at h⟩
theorem storable_of {c : Ctx} {accs : List Acc} (h : storableB c accs = true) : Storable c accs := by
  simp only [storableB, Bool.and_eq_true, List.all_eq_true, Bool.not_eq_true'] at h
  exact ⟨fun a ha => (allowed_of (h.1 a ha)).1, fun a ha => (allowed_of (h.1 a ha)).2, h.2⟩
theorem placeable_of {c : Ctx} {accs : List Acc} (h : placeableB c accs = true) : Placeable c accs (placed c accs) := by
  simp only [placeableB, Bool.and_eq_true, List.all_eq_true (p := fun p : Placed => _ && _), Bool.not_eq_true'] at h
  have hs := storable_of h.1
  exact ⟨rfl, hs.aligned, hs.allowed, fun p hp n r b ht => by simpa [ht] using (h.2 p hp).1,
    fun p hp pa k ht => by simpa [ht] using (h.2 p hp).1, fun p hp => (h.2 p hp).2, hs.acquired⟩

theorem placed_with {s : State} {n : Names} {priv : Bool} {accs : Ctx → List Acc} {P : Ctx → Prop} [DecidablePred P]
    (h : meets s n priv (fun c => placeableB c.free (accs c) && decide (P c)) = true) :
    ∃ c, Issues s c n priv ∧ Placeable c.free (accs c) (placed c.free (accs c)) ∧ P c := by
  obtain ⟨c, hi, h⟩ := issues_of_meets h
  rw [Bool.and_eq_true] at h
  exact ⟨c, hi, placeable_of h.1, of_decide_eq_true h.2⟩
theorem stored_with {s : State} {n : Names} {priv : Bool} {accs : Ctx → List Acc} {P : Ctx → Prop} [DecidablePred P]
    (h : meets s n priv (fun c => storableB c.free (accs c) && decide (P c)) = true) :
    ∃ c, Issues s c n priv ∧ Storable c.free (accs c) ∧ P c := by
  obtain ⟨c, hi, h⟩ := issues_of_meets h
  rw [Bool.and_eq_true] at h
  exact ⟨c, hi, storable_of h.1, of_decide_eq_true h.2⟩

/-- A group with the base pair 8 at 0x4000. -/
def atBase : State := machine [(8, 0x4000), (1, 512)] id

/-- Halves of eight lanes, performed early. -/
def someHalves : List (Nat × List Byte) := (List.range 8).map fun L => (L, [1, 2, 3, 4, 5, 6, 7, 8])
/-- The same with one half of a 128-bit load performed early. -/
def halfDone (high : Bool) : State := withGroup [(8, 0x4000), (1, 512)] fun g => { g with half := some (0x2000, high, someHalves) }
theorem test_GlobalLoads_met :
    (∃ c, Issues atBase c (memNames true 124 .b128 8 1) false ∧
      Placeable c.free (laneAccs c 8 1 16 (.read 16)) (placed c.free (laneAccs c 8 1 16 (.read 16))) ∧
      (loadEach c.free false c.free.s (placed c.free (laneAccs c 8 1 16 (.read 16)))).isSome = true ∧ c.g.half = none) ∧
    (∀ high ∈ [true, false], ∃ c, Issues (halfDone high) c (memNames true 124 .b128 8 1) false ∧
      Placeable c.free (laneAccs c 8 1 16 (.read 16)) (placed c.free (laneAccs c 8 1 16 (.read 16))) ∧
      (c.g.half == some (c.pc, high, someHalves)) = true ∧ someHalves.map (·.1) = c.I ∧
      (loadEach c.free false c.free.s ((placed c.free (laneAccs c 8 1 16 (.read 16))).map (Placed.half (!high)))).isSome = true) ∧
    (∃ c, Issues atBase c (memNames true 127 .b32 0 2) false ∧
      Placeable c.free (laneAccs c 0 2 4 (.readO 4)) (placed c.free (laneAccs c 0 2 4 (.readO 4))) ∧
      (loadEach c.free true c.free.s (placed c.free (laneAccs c 0 2 4 (.readO 4)))).isSome = true) ∧
    (∃ c, Issues atBase c (Names.add (writesU (runOf 62 2)) (readsU (runOf 8 2))) false ∧
      Placeable c.free [⟨0, (c.g.uniPair 8 + BitVec.ofInt 64 2040).toNat, 8, .read 8⟩]
        (placed c.free [⟨0, (c.g.uniPair 8 + BitVec.ofInt 64 2040).toNat, 8, .read 8⟩]) ∧
      (loadEach c.free false c.free.s (placed c.free [⟨0, (c.g.uniPair 8 + BitVec.ofInt 64 2040).toNat, 8, .read 8⟩])).isSome = true) ∧
    ∃ c, (withGroup [] fun g => { g with storeQ := [⟨.st, 0x4001, [7, 8], 0, 0, false, .add, false, 0, 0, 90, (0, 0), 0⟩] }).ctx = some c ∧
      (∀ e ∈ c.g.storeQ, e.isGlobal = true → e.isPlain = true) ∧
      (∀ e ∈ ownGutter c.s c.t.core c.r, e.meets c.s c.t.pasid 0x4000 0x4000 4 = none) ∧
      (∀ q ∈ (c.s.core c.t.core).reqs, overlaps q.pa q.e.len 0x4000 4 = false) ∧ ∀ l ∈ (c.s.core c.t.core).l1, l.line ≠ 0x4000 / 128 :=
  ⟨placed_with (by decide +kernel), fun high hh => by
    simp only [List.mem_cons, List.not_mem_nil, or_false] at hh
    rcases hh with rfl | rfl <;> exact placed_with (by decide +kernel),
    placed_with (by decide +kernel), placed_with (by decide +kernel), _, rfl, by decide +kernel⟩

/-- Thirty-two lanes, 16 bytes each, that cover a grain. -/
def wideGroup : State :=
  machine [(8, 0x4000)] fun t => { t with
    width := 32
    groups := [(groupOf [(8, 0x4000)]).writeUni 0 0 |> fun g => { g with lanes := (List.range 32).map laneOf, tile := 32 }] }
/-- A group whose store queue holds more than it has entries for. -/
def queueFull : State := { atBase with teams := [{ (placeTeam State.reset 1) with groups := [{ groupOf [(8, 0x4000)] with
  storeQ := List.replicate (129 + Config.storeDepth) ⟨.st, 0x4001, [7, 8], 0, 0, false, .add, false, 0, 0, 90, (0, 0), 0⟩ }] }] }
theorem storeRoom_full {g : Group} {n : Nat} {e : SqEntry} (h : g.storeQ = List.replicate (129 + Config.storeDepth) e)
    (hk : (e.kind != .bar) = true) : storeRoom g n = false := by
  simp only [storeRoom, h, List.filter_replicate, hk, if_true, List.length_replicate, Bool.or_eq_false_iff, decide_eq_false_iff_not]
  omega
theorem acquire_full {s : State} {r : GRef} {core : Nat} {g : Group} {e : SqEntry}
    (h : g.storeQ = List.replicate (129 + Config.storeDepth) e) (hk : (e.kind == .att) = false) (hr : (s.core core).reqs = []) :
    acquirePending s core r g = false := by
  simp [acquirePending, h, hk, hr]
theorem test_GlobalStores_met :
    (∃ c, Issues atBase c (memNames false 124 .b128 8 1) false ∧ Storable c.free (laneAccs c 8 1 16 (.write 16)) ∧ c.I ≠ [] ∧
      storeRoom c.g 16 = true) ∧
    (∃ c, Issues queueFull c (memNames false 124 .b128 8 1) false ∧ Storable c.free (laneAccs c 8 1 16 (.write 16)) ∧
      ∀ n, storeRoom c.g n = false) ∧
    (∃ c, Issues atBase c (memNames false 127 .b32 8 1) false ∧ Storable c.free (laneAccs c 8 1 4 (.writeO 4)) ∧ c.I ≠ [] ∧
      storeRoom c.g c.I.length = true) ∧
    (∃ c, Issues wideGroup c (memNames false 4 .b128 8 1) false ∧ Storable c.free (laneAccs c 8 1 16 .writeG) ∧ (c.I ≠ [] ∧
      storeRoom c.g 1 = true) ∧
      ∀ a ∈ laneAccs c 8 1 16 .writeG, a.va / 512 = 0x20 ∧ grainCovered (laneAccs c 8 1 16 .writeG) 0x20 = true) ∧
    (∃ c, Issues atBase c (readsU (63 :: runOf 8 2)) false ∧
      Storable c.free [⟨0, (c.g.uniPair 8 + BitVec.ofInt 64 (-2048)).toNat, 4, .write 4⟩] ∧ c.I ≠ [] ∧ storeRoom c.g 1 = true) ∧
    (∃ c, Issues atBase c (Names.add (readsV (atomRegs true 126)) (addrNames 8 1)) false ∧
      Storable c.free (laneAccs c 8 1 8 (.reduce .add true 3)) ∧ storeRoom c.g c.I.length = true ∧
      ∀ a ∈ laneAccs c 8 1 8 (.reduce .add true 3), place atBase c.t.pasid a.va a.use = .at a.va 1) ∧
    ∀ n ∈ [512, 49152], ∃ c, Issues (machine [(8, 0x4000), (1, n)] id) c (readsU (1 :: runOf 8 2)) false ∧
      Placeable c.free [⟨0, (c.g.uniPair 8).toNat, 512, .claim⟩] (placed c.free [⟨0, (c.g.uniPair 8).toNat, 512, .claim⟩]) ∧
      (c.g.uniPair 8).toNat % 512 = 0 ∧ (c.g.readUni 1).toNat % 2 ^ 24 % 512 = 0 ∧ 0 < (c.g.readUni 1).toNat % 2 ^ 24 ∧
      (c.g.readUni 1).toNat < 2 ^ 24 ∧ (c.g.uniPair 8).toNat % 65536 + (c.g.readUni 1).toNat % 2 ^ 24 ≤ 65536 ∧
      storeRoom c.g ((c.g.readUni 1).toNat % 2 ^ 24 / 512) = true := by
  refine ⟨stored_with (by decide +kernel), ⟨_, ⟨rfl, by decide +kernel, by decide, by decide +kernel, by decide +kernel⟩,
      ⟨by decide +kernel, fun a ha => (allowed_of ((by decide +kernel : ∀ a ∈ _, allowedB _ a = true) a ha)).2,
        acquire_full rfl rfl (by decide +kernel)⟩, fun n => storeRoom_full rfl rfl⟩, stored_with (by decide +kernel), ?_, stored_with (by decide +kernel),
    stored_with (by decide +kernel), fun n hn => ?_⟩
  · obtain ⟨c, h1, h2, h3, h4, h5⟩ := stored_with (s := wideGroup) (n := memNames false 4 .b128 8 1) (priv := false)
      (accs := fun c => laneAccs c 8 1 16 .writeG) (P := fun c => (c.I ≠ [] ∧ storeRoom c.g 1 = true) ∧ (∀ a ∈ laneAccs c 8 1 16 .writeG, a.va / 512 = 0x20) ∧
        grainCovered (laneAccs c 8 1 16 .writeG) 0x20 = true) (by decide +kernel)
    exact ⟨c, h1, h2, h3, fun a ha => ⟨h4 a ha, h5⟩⟩
  · simp only [List.mem_cons, List.not_mem_nil, or_false] at hn
    rcases hn with rfl | rfl <;> exact placed_with (by decide +kernel)

/-- A request of another access on its way, so that a release is not done. -/
def someReq : HomeReq :=
  { team := 1, grp := 0, pasid := 1, pa := 0x5000, e := ⟨.st, 0x5000, [1, 2, 3, 4], 0, 0, false, .add, false, 0, 0, 90, (0, 0), 0⟩
    result := none, order := .rlx, unreached := [], since := 90, logged := false }
/-- A group at an atomic, with a group of its pack parked before it there. -/
def behindPack : State := { atBase with
  actor := .group ⟨1, 1⟩
  teams := [{ (placeTeam State.reset 1) with groups :=
    [{ groupOf [(8, 0x4000)] with park := some .drain, held := [0], lastIssue := 101 }, groupOf [(8, 0x4000)]] }] }
/-- A group at an atomic with a store in its queue. -/
def behindStore : State := withGroup [(8, 0x4000)] fun g =>
  { g with storeQ := [⟨.st, 0x4001, [7, 8], 0, 0, false, .add, false, 0, 0, 90, (0, 0), 0⟩] }
theorem test_GlobalAtomics_met :
    (∃ c, Issues atBase c (Names.add (writesV (atomRegs true 126)) (Names.add (readsV (atomRegs true 4)) (Names.add (readsV (atomRegs true 6))
        (addrNames 8 1)))) false ∧
      Placeable c.free (laneAccs c 8 1 8 (.atomic .cas true 3)) (placed c.free (laneAccs c 8 1 8 (.atomic .cas true 3))) ∧
      (∀ p ∈ placed c.free (laneAccs c 8 1 8 (.atomic .cas true 3)), p.isWindow = false) ∧ c.g.winRes = [] ∧
      drainedAt c.free.s c.t.core c.r 3 = true ∧ packBefore c = false ∧
      atomBehind c.free (placed c.free (laneAccs c 8 1 8 (.atomic .cas true 3))) = false) ∧
    (∀ s ∈ [behindPack, behindStore], ∃ c, Issues s c (Names.add {} (Names.add (readsV (atomRegs false 4)) (Names.add {} (addrNames 8 1)))) false ∧
      Placeable c.free (laneAccs c 8 1 4 (.atomic .add false 3)) (placed c.free (laneAccs c 8 1 4 (.atomic .add false 3))) ∧
      (∀ p ∈ placed c.free (laneAccs c 8 1 4 (.atomic .add false 3)), p.isWindow = false) ∧ c.g.winRes = [] ∧
      (packBefore c = true ∨ atomBehind c.free (placed c.free (laneAccs c 8 1 4 (.atomic .add false 3))) = true)) ∧
    ∃ c, Issues (atBase.adjCore 0 fun k => { k with reqs := [someReq] }) c (Names.add {} (Names.add (readsV (atomRegs false 4)) (Names.add {}
        (addrNames 8 1)))) false ∧
      Placeable c.free (laneAccs c 8 1 4 (.atomic .add false 3)) (placed c.free (laneAccs c 8 1 4 (.atomic .add false 3))) ∧
      (∀ p ∈ placed c.free (laneAccs c 8 1 4 (.atomic .add false 3)), p.isWindow = false) ∧ c.g.winRes = [] ∧
      drainedAt c.free.s c.t.core c.r 3 = false ∧ packBefore c = false :=
  ⟨placed_with (by decide +kernel), fun s hs => by
    simp only [List.mem_cons, List.not_mem_nil, or_false] at hs
    rcases hs with rfl | rfl <;> exact placed_with (by decide +kernel), placed_with (by decide +kernel)⟩

/-- A box record of four elements of one byte at a base (R230). -/
def someBox (base : Nat) : Nat := base + 1 * 2 ^ 72 + 8 * 2 ^ 128 + 4 * 2 ^ 416
/-- A queued copy of such boxes from 0x4800 to 0x200 of the window. -/
def someJob (id engine : Nat) : CopyJob :=
  { id, g := ⟨1, 0⟩, engine, pasid := 1, vif := 0, dir := .g2t, src := BitVec.ofNat 512 (someBox 0x4800)
    dst := BitVec.ofNat 512 (someBox 0x200), coords := List.replicate 6 0, chain := none, aw := some 4080, waiting := none, grains := []
    held := false, done := [], since := none }
/-- A waiter whose deadline is at this cycle, or one later. -/
def someWait (d : Nat) : WaitReg := ⟨0, 0x4000, 0x4000, ⟨1, 0⟩, 3, 4, 7, .eq, 3, d, none⟩
theorem test_AddressWaits_met :
    (∃ c, Issues base c (Names.add (writesV (runOf 126 2)) (readsV (4 :: runOf 2 2))) false ∧
      Placeable c.free (laneAccs c 0 2 4 .wait) (placed c.free (laneAccs c 0 2 4 .wait)) ∧ (∀ p ∈ placed c.free (laneAccs c 0 2 4 .wait),
        meeting c.free.s c.t.pasid p.1.va (p.pa.getD 0) 4 (c.g.storeQ.filter fun e => e.isGlobal) = []) ∧
      (base.core c.t.core).reqs = [] ∧ (loadEach c.free true c.free.s (placed c.free (laneAccs c 0 2 4 .wait))).isSome = true) ∧
    (∃ c, Issues base c (readsV (4 :: runOf 2 2)) false ∧
      Placeable c.free (laneAccs c 0 2 4 .wake) (placed c.free (laneAccs c 0 2 4 .wake)) ∧ drainedAt c.free.s c.t.core c.r 7 = true) ∧
    (condHolds .eq (5 : Word) 5 = true ∧ condHolds .eq (5 : Word) 6 = false ∧ ((base.waits.filter fun q => q.chiplet == 0 && q.woken.isNone).length < 4096) ∧
      4096 ≤ (({ base with waits := List.replicate 4096 (someWait 1) } : State).waits.filter fun q => q.chiplet == 0 && q.woken.isNone).length) ∧
    ∀ d ∈ [100, 101], ({ base with waits := [someWait d] } : State).waits.find? (fun v => v.g == ⟨1, 0⟩ && v.lane == 3 && v.woken.isNone)
        = some (someWait d) ∧
      base.clock = 100 ∧ [someWait d].Nodup ∧ (∀ v ∈ [someWait d], v.woken = none) ∧
      rereadReady { base with waits := [someWait d] } (someWait d) = true ∧
      rereadReady { base with waits := [someWait d], copies := [{ someJob 3 0 with grains := [0x20] }] } (someWait d) = false := by
  refine ⟨placed_with (by decide +kernel), placed_with (by decide +kernel), by decide +kernel, fun d hd => ?_⟩
  simp only [List.mem_cons, List.not_mem_nil, or_false] at hd
  rcases hd with rfl | rfl <;> decide +kernel

/-- The pages 8 to 15 of the PASID in a second range, of a kind (R323). -/
def ranged (kind : Nat) (s : State) : State :=
  { s with mem := placePasid s (writeLE (writeLE (writeLE s.mem 0x1000 32 0x28) 0x1020 32 placeRange) 0x1040 32
      (15 * 2 ^ 216 + 8 * 2 ^ 176 + kind * 2 ^ 9 + 7 * 2 ^ 6)) }
/-- A PAGED range whose pages are not resident. -/
def discarding : State := ranged 2 (machine [(2, 0x80000), (4, 65536)] id)
theorem test_FencesAndPages_met :
    (∃ c, Issues base c {} false ∧ fenceReady c.free.s c.t.core c.r 7 = true) ∧
    (∃ c, Issues (base.adjCore 0 fun k => { k with reqs := [someReq] }) c {} false ∧ fenceReady c.free.s c.t.core c.r 3 = false) ∧
    (∃ t g, (withGroup [] fun g => { g with park := some (.fence 7 true) }).team 1 = some t ∧ t.groups[0]? = some g ∧
      g.park = some (.fence 7 true)) :=
  ⟨issues_with (by decide +kernel), issues_with (by decide +kernel), _, _, rfl, rfl, rfl⟩
/-- Page 8 of that range resident in frame 5 of its stack, with grains of a copy in it or without. -/
def resident (grains : List Nat) : State :=
  let c := colour discarding.build 8
  let e : InvEntry := { vpn := 8, pasid := 1, next := 0, nextv := false, valid := true, lost := false, zero := false, dirty := false
                        accessed := false, lode := 0, pin := 0 }
  { discarding with
    copies := if grains = [] then [] else [{ someJob 3 0 with g := ⟨2, 0⟩, held := true, grains }]
    mem := setInvEntry discarding.build
      (writeLE discarding.mem (anchorAddr discarding.build c (anchorOf 1 8)) 4 (2 ^ 31 + 5)) c 5 e }
/-- A group that waits in DISCARD of that page. -/
def dying (grains : List Nat) : State :=
  (resident grains).adjGroup ⟨1, 0⟩ fun g => { g with park := some (.discard 0x80000 1 true) }
theorem test_Discard_met :
    (∃ c, Issues discarding c (readsU (4 :: runOf 2 2)) false ∧
      Storable c.free [⟨0, (c.g.uniPair 2).toNat, 1, .discard⟩] ∧ (c.g.uniPair 2).toNat % 65536 = 0 ∧
      (c.g.readUni 4).toNat % 2 ^ 24 = 65536 ∧ coreDrained discarding c.r = true) ∧
    ∀ p ∈ [(([] : List Nat), 0), ([framePA discarding.build (colour discarding.build 8) 5 / 512], 1)],
      ∃ t g, (dying p.1).team 1 = some t ∧ t.groups[0]? = some g ∧ g.park = some (.discard 0x80000 1 true) ∧
        ((dying p.1).core t.core).reqs = [] ∧ copiesHold (dying p.1) ⟨1, 0⟩ = true ∧
        translate (dying p.1) t.pasid 0x80000 .discard = .at (framePA discarding.build (colour discarding.build 8) 5) 2 ∧
        ((∃ j ∈ (dying p.1).copies, ∃ q ∈ j.grains, q / 128 = framePA discarding.build (colour discarding.build 8) 5 / 65536) ↔ p.2 = 1) ∧
        (discardPages ⟨1, 0⟩ t.pasid 1 0x80000 (dying p.1)).2 = p.2 := by
  refine ⟨stored_with (by decide +kernel), fun p hp => ?_⟩
  simp only [List.mem_cons, List.not_mem_nil, or_false] at hp
  rcases hp with rfl | rfl <;> exact ⟨_, _, rfl, rfl, by decide +kernel⟩
theorem test_Pref_met :
    (∀ v ∈ [(0, 1), (0, 0xFFFFFF), (0x00FFFFFF, 1), (0, 0x3000001)],
      ∃ c, Issues (machine [(2, 0xFFFFFFFF), (3, v.1), (4, v.2)] id) c (readsU (4 :: runOf 2 2)) false ∧
        0 < (c.g.readUni 4).toNat % 2 ^ 24 ∧ (c.g.readUni 4).toNat < 2 ^ 26 ∧ (c.g.uniPair 2).toNat + (c.g.readUni 4).toNat % 2 ^ 24 ≤ 2 ^ 56) ∧
    (∀ v ∈ [(0, 0), (0, 2 ^ 26), (0x00FFFFFF, 2)],
      ∃ c, Issues (machine [(2, 0xFFFFFFFF), (3, v.1), (4, v.2)] id) c (readsU (4 :: runOf 2 2)) false ∧
        ((c.g.readUni 4).toNat % 2 ^ 24 = 0 ∨ 2 ^ 26 ≤ (c.g.readUni 4).toNat ∨
          2 ^ 56 < (c.g.uniPair 2).toNat + (c.g.readUni 4).toNat % 2 ^ 24)) := by
  refine ⟨fun v hv => ?_, fun v hv => ?_⟩
  · simp only [List.mem_cons, List.not_mem_nil, or_false] at hv
    rcases hv with rfl | rfl | rfl | rfl <;> exact issues_with (by decide +kernel)
  · simp only [List.mem_cons, List.not_mem_nil, or_false] at hv
    rcases hv with rfl | rfl | rfl <;> exact issues_with (by decide +kernel)

/-- A group with its records at 0x4000, from global memory to the window, and an arrival word at the end of the
window. -/
def copying (f : State → State) : State :=
  let s := machine [(8, 0x4000), (20, 4080)] id
  f { s with mem := writeLE (writeLE (writeLE s.mem 0x4000 64 (someBox 0x4800)) 0x4040 64 (someBox 0x200)) 0x2000 4 0x9C508280 }
/-- The COPY of section 10, whose word stands at the group's PC. -/
def someCopy : CopyOp := ⟨false, 20, 8, 10, .g2t, 0, 0⟩
/-- Every engine of chiplet 0 with a full queue. -/
def enginesFull (s : State) : State := { s with copies := (List.range 256).map fun i => { someJob i (i % 8) with held := true } }
/-- The acting group waits for an engine, behind another group that waits longer or not, and the fabric acts. -/
def copyWaiting (two : Bool) : State :=
  let waiting := fun (t : Team) => t.groups.map fun g => { g with park := some (.copyQueue 90) }
  let others : List Group := if two then [{ groupOf [] with park := some (.copyQueue 80) }] else []
  copying fun s => { s with teams := s.teams.map fun t => { t with groups := waiting t ++ others } }
/-- The checks of `Copyable`. -/
def copyableB (s : State) (x : CopyOp) (e : Nat) (job : CopyJob) (c : Ctx) : Bool :=
  let pair := (c.g.uniPair x.a.toNat).toNat
  let accs : List Acc := ⟨0, pair, 128, .read 16⟩ :: (if x.c = 0 then [] else [⟨0, (c.g.uniPair x.c.toNat).toNat, 64, .read 16⟩])
  let pa := fun i : Nat => (((placed c.free accs)[i]?).bind Placed.pa).getD 0
  (job.aw.all fun off => decide (off % 16 = 0 ∧ off + 16 ≤ c.t.window)) && drainedAt c.free.s c.t.core c.r 3 && placeableB c.free accs &&
    decide (job = { id := s.fresh, g := c.r, engine := e, pasid := c.t.pasid, vif := c.t.vif, dir := x.dir
                    src := wideOf (homeBytes s (pa 0) 64), dst := wideOf (homeBytes s (pa 0 + 64) 64)
                    coords := (List.range 6).map fun k => c.g.readUni (x.b.toNat + k)
                    chain := if x.c = 0 then none else some (wideOf (homeBytes s (pa 1) 64))
                    aw := if x.d = 0 then none else some (c.g.readUni x.d.toNat).toNat
                    waiting := none, grains := [], held := false, done := [], since := none } ∧
      captureTrap c.free job.spec job.chain pair = none)
theorem copyable_with {s : State} {x : CopyOp} {e : Nat} {job : CopyJob} {P : Ctx → Prop} [DecidablePred P]
    (h : meets s (Names.add (readsU (x.d.toNat :: runOf x.a.toNat 2 ++ runOf x.b.toNat 6)) (if x.c = 0 then {} else readsU (runOf x.c.toNat 2)))
      false (fun c => copyableB s x e job c && decide (P c)) = true) : ∃ c, Copyable s c x e job ∧ P c := by
  obtain ⟨c, hi, h⟩ := issues_of_meets h
  rw [Bool.and_eq_true] at h
  obtain ⟨hc, hp⟩ := h
  simp only [copyableB, Bool.and_eq_true, decide_eq_true_eq] at hc
  obtain ⟨⟨⟨ha, hd⟩, hl⟩, hj⟩ := hc
  refine ⟨c, ⟨hi, fun off ho => ?_, hd, _, placeable_of hl, hj⟩, of_decide_eq_true hp⟩
  rw [ho] at ha
  simpa using ha

/-- A copy that an engine takes; two that wait, for want of an engine and behind another; the one that a free engine
takes for the group that waits first. -/
theorem test_Copies_met :
    (∃ c, Copyable (copying id) c someCopy 0 (someJob 7 0) ∧ pickEngine (copying id) (chipletOfCore c.t.core) 0 = some 0 ∧
      ¬(∃ w ∈ copyParked (copying id) (chipletOfCore c.t.core), w.2.2 ≠ c.r ∧ w.before c.queuedSince c.t.core = true)) ∧
    (∃ c, Copyable (copying enginesFull) c someCopy 5 (someJob 7 5) ∧ pickEngine (copying enginesFull) (chipletOfCore c.t.core) 0 = none) ∧
    (∃ c, Copyable (copyWaiting true) c someCopy 5 (someJob 7 5) ∧
      ∃ w ∈ copyParked (copyWaiting true) (chipletOfCore c.t.core), w.2.2 ≠ c.r ∧ w.before c.queuedSince c.t.core = true) ∧
    (firstParked (copyParked (copyWaiting false) 0) = some ⟨1, 0⟩ ∧ (pickEngine (copyWaiting false) 0 0).isSome = true ∧
      ∃ c, Copyable { { copyWaiting false with actor := .hart 0 } with actor := .group ⟨1, 0⟩ } c someCopy 0 (someJob 7 0) ∧
        fetchInstr (copyWaiting false) c.t 0 c.g c.g.issueSet.2 = .copy someCopy ∧ pickEngine (copyWaiting false) 0 0 = some 0 ∧
        ¬(∃ w ∈ copyParked (copyWaiting false) 0, w.2.2 ≠ c.r ∧ w.before c.queuedSince c.t.core = true)) ∧
    (∀ bad ∈ [false, true], ∃ t, (copying fun s => { s with copies := [someJob 3 0], badMem := if bad then [0x4800 / 4] else [] }).team 1 = some t ∧
      (let s := copying fun s => { s with copies := [someJob 3 0], badMem := if bad then [0x4800 / 4] else [] }
       (∃ y ∈ (engineJobs s 0).take 4, y.id = 3) ∧ copyMoves (someJob 3 0).spec t = true ∧
       copySoft s (someJob 3 0) t (copyPlaces s (someJob 3 0)) ((someJob 3 0).left.flatMap (someJob 3 0).spec.piece) = bad ∧
       let u := takeGrains s 3
       (∀ e ∈ copyPlaces u (someJob 3 0), e.2 = .at (512 * e.1) 1 ∧ regionReady u (512 * e.1) = true ∧ pageWaits u 1 (e.1 / 128) = false) ∧
         copyPlaces u (someJob 3 0) ≠ [] ∧
         copySoft u (someJob 3 0) t (copyPlaces u (someJob 3 0)) ((someJob 3 0).left.flatMap (someJob 3 0).spec.piece) = bad)) ∧
    ∃ t, (copying fun s => { s with copies := [{ someJob 3 0 with src := BitVec.ofNat 512 (someBox 0x14800) }] }).team 1 = some t ∧
      ((copyPlaces (copying id) { someJob 3 0 with src := BitVec.ofNat 512 (someBox 0x14800) }).any fun e =>
        e.2 == .trap cTranslation 15) = true ∧ copyLate (copying id) (someJob 3 0) cTranslation = false := by
  refine ⟨copyable_with (by decide +kernel), copyable_with (by decide +kernel), copyable_with (by decide +kernel),
    ⟨by decide +kernel, by decide +kernel, copyable_with (by decide +kernel)⟩, fun bad hb => ?_, _, rfl, by decide +kernel⟩
  simp only [List.mem_cons, List.not_mem_nil, or_false] at hb
  rcases hb with rfl | rfl <;> exact ⟨_, rfl, by decide +kernel⟩

/-! ### Hypotheses of the statements on the matrix array, records and windows -/

/-- Whether an outcome is a next state. -/
def isNext : Out → Bool
  | .next _ => true
  | _ => false
theorem next_of {o : Out} (h : isNext o = true) : ∃ s, o = .next s := by
  cases o with
  | next s => exact ⟨s, rfl⟩
  | fault f => cases h
  | refused r => cases h

/-- A team of eight groups of eight lanes with a convergence register, a matrix queue and a window of 16 KiB. -/
def matrixTeam (k : Sparse KReg) (q : Nat) (f : Team → Team) : State :=
  machine [] fun t => f { t with
    window := 16384, kregState := k, mq := List.replicate q ⟨.zclr 0, 90, false⟩
    groups := (List.range 8).map fun _ => groupOf [(1, 0), (2, 8192)] }
/-- An MMA of tile 7 and convergence register 7. -/
def someMma : Mma := ⟨true, 7, 120, 0, true, false, .int8, 7⟩
/-- Signers of the lanes 8 to 63 of the set, but for the last n. -/
def signersBut (n : Nat) : List Signer := (List.range (56 - n)).map fun m => ⟨m + 8, m / 8 + 1, m % 8, 0x2000, List.replicate 8 1, []⟩
/-- A register that is open with these signers. -/
def openWith (ss : List Signer) : Sparse KReg := [(7, .opened 0 (mmaWords someMma).1 (mmaWords someMma).2 ss)]

/-- The trap of a round that lane 3 signed at 0x2000 and was then away from. -/
def someOwed : Owed := ⟨[3], 0x2000, cMatrixFormat, 7⟩

theorem test_MatrixInstructions_met :
    (∃ c, Issues (matrixTeam [] 0 id) c (Names.add (readsU [1]) { z := [0], k := [7] }) false ∧ c.t.kreg 7 = .idle ∧ (c.g.readUni 1).toNat = 0 ∧
      0 + 64 / c.t.width = c.t.groups.length ∧ exitedLane c.t 0 = none) ∧
    (∃ c, Issues (matrixTeam [(7, .armed 0)] 0 id) c (Mma.names someMma) false ∧ c.t.kreg 7 = .armed 0 ∧ owedHere c = none ∧ (addSignatures [] (signatures c someMma 0)).length < 64 ∧
      ∀ L ∈ c.I, 0 * c.t.width ≤ c.r.grp * c.t.width + L ∧ c.r.grp * c.t.width + L < 0 * c.t.width + 64) ∧
    (∀ p ∈ [(1, 0), (0, 7), (0, 8)], ∃ c, Issues (matrixTeam (openWith (signersBut p.1)) p.2 id) c (Mma.names someMma) false ∧
      c.t.kreg 7 = .opened 0 (mmaWords someMma).1 (mmaWords someMma).2 (signersBut p.1) ∧ c.t.mq.length = p.2 ∧
      owedHere c = none ∧ (addSignatures (signersBut p.1) (signatures c someMma 0)).length = 64 - p.1 ∧
      ∀ L ∈ c.I, 0 * c.t.width ≤ c.r.grp * c.t.width + L ∧ c.r.grp * c.t.width + L < 0 * c.t.width + 64) ∧
    (∃ c, Issues (matrixTeam [(7, .armed 0)] 0 fun t => { t with groups := t.groups.map fun g => { g with owed := [someOwed] } }) c
        (Mma.names someMma) false ∧ (owedHere c == some someOwed) = true) ∧
    (∀ q ∈ [7, 8],
      (∀ n ∈ [({ z := [7] } : Names), Names.add (writesV (runOf 126 2)) (Names.add (Src.names (.uni 63)) { z := [7] }),
          Names.add (readsV (runOf 126 2)) (Names.add (Src.names (.lane 127)) { z := [7] })], Ready (matrixTeam [] q id) n false) ∧
      (∃ c, Issues (matrixTeam [] q fun t => { t with wloads := 1 }) c { z := [0] } false ∧ c.t.wloads ≠ 0 ∧ c.t.mq.length = q) ∧
      (∃ c, Issues (matrixTeam [] q id) c (Names.add (readsU [2]) { z := [7] }) false ∧
        acquirePending (matrixTeam [] q id) c.t.core c.r c.g = false ∧ (c.g.readUni 2).toNat % 16 = 0 ∧
        (c.g.readUni 2).toNat + 8192 = c.t.window ∧ c.t.mq.length = q) ∧
      ∃ c, Issues (matrixTeam [] q id) c (Names.add (readsU [1, 2]) { z := [0] }) false ∧ (c.g.readUni 1).toNat % 128 = 0 ∧
        (c.g.readUni 1).toNat + WLoad.elemBytes ⟨false, 1, 2, 1, .mxe4m3, 0⟩ ≤ c.t.window ∧ (c.g.readUni 2).toNat % 16 = 0 ∧
        (c.g.readUni 2).toNat + WLoad.sideBytes ⟨false, 1, 2, 1, .mxe4m3, 0⟩ ≤ c.t.window ∧ c.t.mq.length = q) := by
  refine ⟨issues_with (by decide +kernel), issues_with (by decide +kernel), fun p hp => ?_, issues_with (by decide +kernel), fun q hq => ?_⟩
  · simp only [List.mem_cons, List.not_mem_nil, or_false] at hp
    rcases hp with rfl | rfl | rfl <;> exact issues_with (by decide +kernel)
  · simp only [List.mem_cons, List.not_mem_nil, or_false] at hq
    rcases hq with rfl | rfl <;>
      exact ⟨ready_all (by decide +kernel), issues_with (by decide +kernel), issues_with (by decide +kernel), issues_with (by decide +kernel)⟩

/-- The weights of a buffer, with some bad bytes. -/
def someWeights (bad : List Nat) : Weights := ⟨.int8, 128, 32, [], [], bad, []⟩
/-- Weights whose column 0 has a bad word, and a tile whose word of row 0 and column 1 is bad. -/
theorem test_IntegerRounds_met : ∃ a : Latch, Machine.Fmt.isInt a.fmt = true ∧ a.fmt ≠ .int8 ∧ (∀ bad ∈ [[], [0]],
      Machine.Fmt.isInt (someWeights bad).fmt = true ∧ (someWeights bad).depth = kOf a.fmt ∧
      Machine.roundBad (someWeights bad) false ⟨[], 0, []⟩ = !bad.isEmpty) ∧
    outBad (someWeights []) true ⟨[], 0, [1]⟩ 0 0 = false ∧ outBad (someWeights []) true ⟨[], 0, [1]⟩ 0 1 = true :=
  ⟨⟨.uint8, [], []⟩, by decide +kernel⟩

/-- A queue that begins with an entry. -/
def queueOf (k : MqKind) (p : Bool) (g : Group → Group) (bad : List Nat := []) : State :=
  matrixTeam [] 0 fun t => { t with
    mq := [⟨k, 90, p⟩], groups := t.groups.map g, bufs := [(0, ⟨some (.int8, 128, 32), [], [], bad, []⟩)] }
theorem test_MatrixEvents_met :
    (∀ p ∈ [(MqKind.zclr 7, false), (.mma someMma (signersBut 0 ++ signersBut 48), true)], ∃ t,
      ((queueOf p.1 p.2 id).core 0).arrayFree ≤ (queueOf p.1 p.2 id).clock ∧ chosenHead (queueOf p.1 p.2 id) 0 = some (t, ⟨p.1, 90, p.2⟩) ∧
      t.weights = some (someWeights [])) ∧
    (∀ bad ∈ [[], [5]], ∃ t, (queueOf (.mma someMma (signersBut 0)) true id bad).team 1 = some t ∧ t.weights = some (someWeights bad) ∧
      Machine.roundBad (someWeights bad) someMma.acc (t.tile someMma.z.toNat) = !bad.isEmpty) ∧
    (∃ t g, (queueOf (.wload ⟨true, 1, 2, 1, .int8, 0⟩ 0 0 0) false fun g => { g with park := some .wload }).team 1 = some t ∧
      t.groups[0]? = some g ∧ g.park = some .wload ∧ teamDrained g = true) ∧
    ∃ t, (matrixTeam [] 7 id).team 1 = some t ∧ t.mq.length < 8 := by
  refine ⟨fun p hp => ?_, fun bad hb => ?_, ⟨_, _, rfl, rfl, rfl, rfl⟩, _, rfl, by decide +kernel⟩
  · simp only [List.mem_cons, List.not_mem_nil, or_false] at hp
    rcases hp with rfl | rfl
    · exact ⟨(queueOf (.zclr 7) false id).teams.headD (placeTeam State.reset 1), by decide +kernel⟩
    · exact ⟨(queueOf (.mma someMma (signersBut 0 ++ signersBut 48)) true id).teams.headD (placeTeam State.reset 1), by decide +kernel⟩
  · simp only [List.mem_cons, List.not_mem_nil, or_false] at hb
    rcases hb with rfl | rfl <;> exact ⟨_, rfl, by decide +kernel⟩

/-- A node of one team of one group of eight lanes, with records of 16 bytes. -/
def someNode : NodeDesc :=
  { clh := 1, clw := 1, kregs := 0, ztiles := 0, tmem := 96, vregs := 128, width := 8, groups := 1, range := false, depthLim := 5
    target := 2, recBytes := 16, reserve := 1, count := 0, timer := 9, entries := List.replicate 8 1 }
/-- An instance of it with its records. -/
def someInst (slots res : Nat) (used : List Nat) (fl : List Flight) (bins : List Bin) (ready : List Sheaf) (ws : List PostWaiter) : Inst :=
  { id := 1, desc := 0x6000, conc := false, pasid := 1, vif := 0, queue := 1, codeBase := 0x2000, handler := 0, nodes := [someNode]
    arena := 0x8000, params := 0, slotBase := 0x8000, slotBytes := 32, arenaEnd := 0xA000, slots, used, res, flights := fl, bins
    ready, waiters := ws, counters := [], launched := 0, completion := 0x5000, signal := none, ended := none }
/-- A team of it with a reservation. -/
def posting (i : Inst) (res : Nat) (f : Team → Team) : State :=
  { machine [] (fun t => f { t with inst := 1, res }) with insts := [i] }

/-- A record of lane 0 that waits. -/
def someWaiter : PostWaiter := ⟨⟨1, 0⟩, 0, 4, 0, 0, 16, none⟩
theorem test_Posting_met :
    (∀ p ∈ [(20, 8), (20, 0), (3, 0)], ∃ c,
      Issues (posting (someInst p.1 p.2 [] [] [] [] []) p.2 id) c (Names.add (writesV [127]) (readsV (1 :: runOf 2 2))) false ∧
      acquirePending (posting (someInst p.1 p.2 [] [] [] [] []) p.2 id) c.t.core c.r c.g = false ∧
      drainedAt c.free.s c.t.core c.r 5 = true ∧ postTrap c.free false ⟨true, 127, 1, 2, 0, 7⟩ = none ∧
      (postTrap c.free true ⟨true, 127, 1, 2, 0, 7⟩ = none ↔ p.2 = 8)) ∧
    (∀ p ∈ [(1, 1, 1, 0), (0, 0, 1, 0), (0, 0, 0, 0), (0, 0, 1, 1)], ∃ t i,
      (posting (someInst p.2.2.1 p.2.1 [] [] [] [] (List.replicate p.2.2.2 someWaiter)) p.1 id).team 1 = some t ∧
      (posting (someInst p.2.2.1 p.2.1 [] [] [] [] (List.replicate p.2.2.2 someWaiter)) p.1 id).inst t.inst = some i ∧ t.res = p.1 ∧
      i.used.length + i.res + i.waiters.length = p.2.1 + p.2.2.2 ∧ i.slots = p.2.2.1) ∧
    Ready base (Names.add (writesU [63]) (readsU [0])) false ∧
    ∃ t g, (withGroup [] fun g => { g with park := some (.nodeq 63 0xFFF) }).team 1 = some t ∧ t.groups[0]? = some g ∧
      g.park = some (.nodeq 63 0xFFF) := by
  refine ⟨fun p hp => ?_, fun p hp => ?_, ready_of (by decide +kernel), _, _, rfl, rfl, rfl⟩
  · simp only [List.mem_cons, List.not_mem_nil, or_false] at hp
    rcases hp with rfl | rfl | rfl <;> exact issues_with (by decide +kernel)
  · simp only [List.mem_cons, List.not_mem_nil, or_false] at hp
    rcases hp with rfl | rfl | rfl | rfl <;> exact ⟨_, _, rfl, rfl, rfl, rfl, rfl⟩

/-- The team of the instance has ended. -/
def ended (t : Team) : Team := { t with place := .ended }
/-- Two records in flight of different groups, a bin as old as its timer, a sheaf. -/
theorem test_RecordEvents_met :
    (∃ i f, (posting (someInst 9 0 [] [⟨⟨1, 0⟩, 3, 0, 0, 7⟩] [] [] []) 0 id).inst 1 = some i ∧ i.flights[0]? = some f ∧
      i.nodes[f.node]? = some someNode) ∧
    (∃ i b, (posting (someInst 9 0 [] [] [⟨0, 0, 7, [2], 91⟩] [] []) 0 id).inst 1 = some i ∧ i.nodes[0]? = some someNode ∧
      i.bins.find? (fun b => b.isAt 0 0 7) = some b ∧ someNode.timer ≠ 0 ∧
      b.since + someNode.timer ≤ (posting (someInst 9 0 [] [] [⟨0, 0, 7, [2], 91⟩] [] []) 0 id).clock) ∧
    (∃ i, (posting (someInst 9 0 [] [] [⟨0, 0, 7, [2], 91⟩] [] []) 0 ended).inst 1 = some i ∧
      runningTeams (posting (someInst 9 0 [] [] [⟨0, 0, 7, [2], 91⟩] [] []) 0 ended) i.id = [] ∧ i.flights = []) ∧
    (∃ rect, ((someInst 9 0 [] [] [] [⟨0, 0, 7, [2], 1, 0, 1⟩] []).ready.filter fun h =>
        h.launcher == 0 && canLaunch (posting (someInst 9 0 [] [] [] [⟨0, 0, 7, [2], 1, 0, 1⟩] []) 0 id)
          (someInst 9 0 [] [] [] [⟨0, 0, 7, [2], 1, 0, 1⟩] []) h) = [⟨0, 0, 7, [2], 1, 0, 1⟩] ∧
      sheafRect (posting (someInst 9 0 [] [] [] [⟨0, 0, 7, [2], 1, 0, 1⟩] []) 0 id) (someInst 9 0 [] [] [] [⟨0, 0, 7, [2], 1, 0, 1⟩] [])
        ⟨0, 0, 7, [2], 1, 0, 1⟩ = some rect ∧
      yieldsTo (posting (someInst 9 0 [] [] [] [⟨0, 0, 7, [2], 1, 0, 1⟩] []) 0 id) 0 (someInst 9 0 [] [] [] [⟨0, 0, 7, [2], 1, 0, 1⟩] [])
        ⟨0, 0, 7, [2], 1, 0, 1⟩ = false) ∧
    (∃ i, (posting (someInst 1 0 [] [] [] [] [someWaiter]) 0 id).inst 1 = some i ∧ i.waiters = [someWaiter] ∧
      (drawSlot (posting (someInst 1 0 [] [] [] [] [someWaiter]) 0 id) someWaiter.g.team fun i => decide (0 < i.free)).isSome = true) ∧
    (∃ i, (posting (someInst 0 0 [] [] [] [] [someWaiter]) 0 ended).inst 1 = some i ∧
      postStalled (posting (someInst 0 0 [] [] [] [] [someWaiter]) 0 fun t => { t with groups := t.groups.map fun g =>
        { g with park := some .postWait } }) i = true ∧ i.free = 0) ∧
    (∃ i h, (posting (someInst 0 0 [] [] [] [⟨0, 0, 7, [], 1, 0, 1⟩] []) 0 ended).inst 1 = some i ∧
      i.ready.find? (fun h => i.ready.all fun x => decide (h.seq ≤ x.seq)) = some h ∧
      drains (posting (someInst 0 0 [] [] [] [⟨0, 0, 7, [], 1, 0, 1⟩] []) 0 ended) i = true ∧ i.bins = [] ∧
      (∀ h ∈ i.ready, sheafFits i h = false) ∧ instQuiet (posting (someInst 0 0 [] [] [] [⟨0, 0, 7, [], 1, 0, 1⟩] []) 0 ended) 1 = true) ∧
    (∃ i, (posting { someInst 9 0 [] [] [] [⟨0, 0, 7, [], 1, 0, 1⟩] [] with ended := some (0, 0, 0) } 0 ended).inst 1 = some i ∧
      i.ended.isSome = true) ∧
    ∃ i, (posting (someInst 9 0 [] [] [] [] []) 0 ended).inst 1 = some i ∧ drains (posting (someInst 9 0 [] [] [] [] []) 0 ended) i = true ∧
      i.bins = [] ∧ i.ready = [] ∧ instQuiet (posting (someInst 9 0 [] [] [] [] []) 0 ended) 1 = true := by
  refine ⟨⟨_, _, rfl, rfl, rfl⟩, ⟨_, _, rfl, rfl, rfl, by decide +kernel⟩, ⟨_, rfl, by decide +kernel⟩, ⟨[0], by decide +kernel⟩,
    ⟨_, rfl, by decide +kernel⟩, ⟨_, rfl, by decide +kernel⟩, ⟨_, _, rfl, rfl, by decide +kernel⟩, ⟨_, rfl, rfl⟩, _, rfl, by decide +kernel⟩

/-- A valid import entry to export 1 of node 2 with key 5, for PASID 1 (R408). -/
def someImport : BitVec 256 := BitVec.ofNat 256 (1 + 2 * 2 ^ 112 + 1 * 2 ^ 136 + 5 * 2 ^ 144 + 1 * 2 ^ 172)
/-- A group with a WINDOW range at pages 8 to 15, its import and its export; uniform pairs 2 and 4 the last 4 bytes of
page 0 and of the window. -/
def windowing (code : List Byte) (ops : Nat) (f : Group → Group) : State :=
  let s := ranged 5 (machine [(2, 0xFFFC), (4, 0xFFFFC), (6, 4), (7, 0x80000000), (8, 1)] fun t => { t with groups := t.groups.map f })
  let o : FabOp := ⟨4, 1, 0, true, 0x4000, 4, 0, 0, 0, 1, false, someImport, none, none, none⟩
  { s with
    mem := writeBytes s.mem 0x2000 code
    fabric := { s.fabric with ops := List.replicate ops o, windows := [(0, someImport), (1, someImport ||| 1 <<< 215), (256, someImport)] } }
/-- The bytes of PUT s6, s2, s4, notify. -/
def putCode : List Byte := codeBytes 64 ((0xA5182100 + 0x80000000 * 2 ^ 32))
/-- The acting group waits for a place in the port queue, behind another that waits longer or not. -/
def portWaiting (two : Bool) : State :=
  let s := windowing putCode 255 fun g => { g with park := some (.portQueue 90) }
  let others : List Group := if two then [{ groupOf [] with park := some (.portQueue 80) }] else []
  { s with teams := s.teams.map fun t => { t with groups := t.groups ++ others } }
theorem admissible_with {s : State} {x : PutGet} {put : Bool} {P : Ctx → Prop} [DecidablePred P]
    (h : meets s (readsU (x.d.toNat :: runOf x.a.toNat 2 ++ runOf x.b.toNat 2)) false (fun c => decide
      (((windowRange s c.t.pasid (c.g.uniPair x.b.toNat).toNat).isSome = true ∧
        (putGetFault s c.t.vif c.t.pasid put (c.g.uniPair x.a.toNat).toNat (c.g.uniPair x.b.toNat).toNat (c.g.readUni x.d.toNat).toNat).isNone = true ∧
        acquirePending s c.t.core c.r c.g = false ∧ drainedAt c.free.s c.t.core c.r 5 = true) ∧ P c)) = true) :
    ∃ c w, Admissible s c x put w ∧ P c := by
  obtain ⟨c, hi, ⟨hr, hf, ha, hd⟩, hp⟩ := issues_with h
  obtain ⟨w, hw⟩ := Option.isSome_iff_exists.mp hr
  exact ⟨c, w, ⟨hi, hw, by simpa using hf, ha, fun _ => hd⟩, hp⟩
theorem test_WindowInstructions_met :
    (∀ n ∈ [255, 256], ∀ put ∈ [true, false], ∃ c w, Admissible (windowing [] n id) c ⟨false, 6, 2, 4, false⟩ put w ∧
      (c.g.uniPair 2).toNat = 0xFFFC ∧ (c.g.uniPair 4).toNat = 0xFFFFC ∧ (c.g.readUni 6).toNat = 4 ∧
      (portOps (windowing [] n id) (chipletOfCore c.t.core)).length = n ∧ portParked (windowing [] n id) (chipletOfCore c.t.core) = []) ∧
    (∃ c w, Admissible (portWaiting true) c ⟨false, 6, 2, 4, true⟩ true w ∧
      ∃ w ∈ portParked (portWaiting true) (chipletOfCore c.t.core), w.2.2 ≠ c.r ∧ w.before c.portSince c.t.core = true) ∧
    (firstParked (portParked (portWaiting false) 0) = some ⟨1, 0⟩ ∧ (portOps (portWaiting false) 0).length < 256 ∧
      ∃ c w, Admissible { { portWaiting false with actor := .hart 0 } with actor := .group ⟨1, 0⟩ } c ⟨false, 6, 2, 4, true⟩ true w ∧
        fetchInstr (portWaiting false) c.t 0 c.g c.g.issueSet.2 = .put ⟨false, 6, 2, 4, true⟩ ∧
        ¬(∃ w ∈ portParked (portWaiting false) 0, w.2.2 ≠ c.r ∧ w.before c.portSince c.t.core = true)) ∧
    (∀ p ∈ [(0, (0 : Word), false), (0, 1, false), (8, 5, true), (7, 0, false)],
      ∃ c, Issues ((windowing [] 0 id).adjGroup ⟨1, 0⟩ fun g => g.writeUni 9 p.2.1) c (UR.names ⟨true, 63, BitVec.ofNat 6 p.1, 9⟩ false) false ∧
        selFault (windowing [] 0 id) c.t.vif c.t.pasid (c.g.readUni p.1) = none ∧
        decide ((winCount ((windowing [] 0 id).win (selKey c.t.vif (c.g.readUni p.1))) - c.g.readUni 9).toInt ≥ 0) = (p.2.1 == 0) ∧
        ((c.g.readUni p.1).getLsbD 31 = false ∧ impErr ((windowing [] 0 id).win (selKey c.t.vif (c.g.readUni p.1))) = true ↔ p.2.2 = true)) ∧
    ∃ t g, (windowing [] 0 fun g => { g with park := some (.wcrd 63 0) }).team 1 = some t ∧ t.groups[0]? = some g ∧
      g.park = some (.wcrd 63 0) := by
  refine ⟨fun n hn put hp => ?_, admissible_with (by decide +kernel), ⟨by decide +kernel, by decide +kernel, admissible_with (by decide +kernel)⟩,
    fun p hp => ?_, ?_⟩
  · simp only [List.mem_cons, List.not_mem_nil, or_false] at hn hp
    rcases hn with rfl | rfl <;> rcases hp with rfl | rfl <;> exact admissible_with (by decide +kernel)
  · simp only [List.mem_cons, List.not_mem_nil, or_false] at hp
    rcases hp with rfl | rfl | rfl | rfl <;> exact issues_with (by decide +kernel)
  · exact ⟨_, _, rfl, rfl, rfl⟩

/-! ### Hypotheses of the statements on traps and the handler -/

theorem test_IssueChecks_met :
    (∃ c, base.ctx = some c ∧ namesOk c.t (LR.names ⟨false, 127, 0, .uni 0⟩ false) = true ∧ c.g.inHandler = false) ∧
    (∃ c, (machine [] fun t => { t with vregs := 8 }).ctx = some c ∧ namesOk c.t (LR.names ⟨false, 8, 0, .uni 0⟩ false) = false ∧
      namesOk c.t (LR.names ⟨false, 7, 0, .uni 0⟩ false) = true) ∧
    (∃ c, (withGroup [] fun g => { g with deferred := [⟨3, [7], [63], [], [], 0, 1⟩] }).ctx = some c ∧
      namesOk c.t (LR.names ⟨false, 7, 0, .uni 0⟩ false) = true ∧ unsettled c.g (LR.names ⟨false, 7, 0, .uni 0⟩ false) = true ∧
      unsettled c.g (UR.names ⟨false, 1, 63, 0⟩ false) = true) ∧
    ∃ c, (withGroup [] fun g => { g with badV := [(7, 127)], badU := [63] }).ctx = some c ∧
      unsettled c.g (LR.names ⟨false, 0, 127, .uni 0⟩ false) = false ∧ sourceBad c.g c.I (LR.names ⟨false, 0, 127, .uni 0⟩ false) = true ∧
      unsettled c.g (UR.names ⟨false, 1, 63, 0⟩ false) = false ∧ sourceBad c.g c.I (UR.names ⟨false, 1, 63, 0⟩ false) = true := by
  refine ⟨⟨_, rfl, ?_⟩, ⟨_, rfl, ?_⟩, ⟨_, rfl, ?_⟩, _, rfl, ?_⟩ <;> decide +kernel

theorem test_TrapEntry_met :
    (∃ c, (withGroup [] fun g => { g with deferred := [⟨3, [7], [], [(0, 7, 5)], [], 1, 0⟩], tile := 4 }).ctx = some c ∧
      c.I = 0 :: [1, 2, 3, 4, 5, 6, 7] ∧ c.g.inHandler = false ∧ c.t.handler ≠ 0 ∧ (∀ d ∈ c.g.deferred, d.wait = 0) ∧ c.g.deferred ≠ []) ∧
    (∃ c, (handling []).ctx = some c ∧ c.g.inHandler = true) ∧
    ∃ c, (machine [] fun t => { t with handler := 0 }).ctx = some c ∧ c.t.handler = 0 ∧ c.g.inHandler = false := by
  refine ⟨⟨_, rfl, ?_⟩, ⟨_, rfl, ?_⟩, _, rfl, ?_⟩ <;> decide +kernel

theorem test_TrapsAndReturns_met :
    (∃ c, Issues base c {} false ∧ c.g.inHandler = false ∧ (0x1F : BitVec 8).toNat < 0x20 ∧ 0x20 ≤ (0x20 : BitVec 8).toNat) ∧
    (∃ c, Issues (handling []) c {} false ∧ c.g.inHandler = true) ∧
    ∃ c, Issues (handling []) c {} true ∧ c.g.frame = some someFrame ∧ c.g.inHandler = true ∧ c.g.pending = none ∧
      (∀ e ∈ someFrame.uregs, 48 ≤ e.1) ∧ ∀ L, Sparse.wf 0 (Sparse.get [] someFrame.vregs L) = true ∧
        ∀ e ∈ Sparse.get [] someFrame.vregs L, 120 ≤ e.1 ∧ e.1 < 128 := by
  refine ⟨issues_with (by decide +kernel), issues_with (by decide +kernel), ?_⟩
  obtain ⟨c, h1, h2, h3, h4⟩ := issues_with (s := handling []) (n := {}) (priv := true)
    (P := fun c => c.g.frame = some someFrame ∧ c.g.inHandler = true ∧ c.g.pending = none) (by decide +kernel)
  refine ⟨c, h1, h2, h3, h4, by decide, fun L => ?_⟩
  cases L with
  | zero => decide +kernel
  | succ L => exact ⟨rfl, fun e he => by cases he⟩

/-- The handler of group 0, with group 1 stopped, group 2 running and group 3 exited; uniform register 1 names a
group. -/
def overseeing (n : Nat) : State :=
  machine [] fun t => { t with
    groups := [{ groupOf [(1, n), (2, 0x30000000 + 8)] with inHandler := true, frame := some someFrame }, { groupOf [] with stop := some .grpstop },
      groupOf [], { groupOf [] with lanes := (List.range 8).map fun L => { laneOf L with exited := true } },
      { groupOf [] with stop := some .preempt }] }
theorem test_HandlerInstructions_met :
    (∀ n ∈ [0, 1, 2, 3, 4, 5], ∃ c, Issues (overseeing n) c (Names.add (writesU (runOf 62 2)) (readsU [1, 2])) true ∧
      Issues (overseeing n) c (readsU (1 :: 2 :: runOf 62 2)) true ∧ Issues (overseeing n) c (Names.add (writesU [63]) (readsU [1])) true ∧
      Issues (overseeing n) c (writesU (runOf 62 2)) true ∧ ((targetOf c (c.g.readUni 1)).map fun p => p.1) = if n < 5 then some n else none) ∧
    (∃ c, (overseeing 1).ctx = some c ∧ ∃ g, targetOf c (c.g.readUni 1) = some (1, g) ∧ g.isStopped = true ∧ g.stop = some .grpstop ∧
      g.exited = false ∧ g.inHandler = false ∧ c.g.park = none ∧ (reach c (c.g.readUni 1) (c.g.readUni 2)).isSome = true) ∧
    (∃ c, (overseeing 2).ctx = some c ∧ ∃ g, targetOf c (c.g.readUni 1) = some (2, g) ∧ g.isStopped = false ∧ g.stop = none ∧
      g.pending = none ∧ g.exited = false ∧ g.inHandler = false ∧ reach c (c.g.readUni 1) (c.g.readUni 2) = none) ∧
    (∃ c, (overseeing 3).ctx = some c ∧ ∃ g, targetOf c (c.g.readUni 1) = some (3, g) ∧ g.exited = true) ∧
    ∃ c, (overseeing 4).ctx = some c ∧ ∃ g, targetOf c (c.g.readUni 1) = some (4, g) ∧ g.stop = some .preempt := by
  refine ⟨fun n hn => ?_, ⟨_, rfl, _, rfl, ?_⟩, ⟨_, rfl, _, rfl, ?_⟩, ⟨_, rfl, _, rfl, ?_⟩, _, rfl, _, rfl, ?_⟩
  · have all : ∀ n ∈ [0, 1, 2, 3, 4, 5], ∀ m ∈ [Names.add (writesU (runOf 62 2)) (readsU [1, 2]), readsU (1 :: 2 :: runOf 62 2),
        Names.add (writesU [63]) (readsU [1]), writesU (runOf 62 2)], meets (overseeing n) m true (fun c => decide
        (((targetOf c (c.g.readUni 1)).map fun p => p.1) = if n < 5 then some n else none)) = true := by decide +kernel
    obtain ⟨c, i1, ht⟩ := issues_with (all n hn (Names.add (writesU (runOf 62 2)) (readsU [1, 2])) (by decide))
    obtain ⟨c2, i2, -⟩ := issues_with (all n hn (readsU (1 :: 2 :: runOf 62 2)) (by decide))
    obtain ⟨c3, i3, -⟩ := issues_with (all n hn (Names.add (writesU [63]) (readsU [1])) (by decide))
    obtain ⟨c4, i4, -⟩ := issues_with (all n hn (writesU (runOf 62 2)) (by decide))
    cases Option.some.inj (i1.ctx.symm.trans i2.ctx)
    cases Option.some.inj (i1.ctx.symm.trans i3.ctx)
    cases Option.some.inj (i1.ctx.symm.trans i4.ctx)
    exact ⟨c, i1, i2, i3, i4, ht⟩
  all_goals decide +kernel

/-! ### Hypotheses of the statements on service cores -/

/-- A core of a role and a mode, with some enables and registers. -/
def core (role mode : Nat) (en : BitVec 16) (xs : List (Nat × Nat)) : Hart :=
  { Hart.reset role 0 with pc := 0x2000, mode, mxkenable := en, mxklode := 5, x := xs.map fun e => (e.1, BitVec.ofNat 64 e.2) }
/-- A machine whose acting core is core 1. -/
def serving (k : Hart) (f : State → State) : State :=
  f { machine [] id with actor := .hart 1, harts := [Hart.reset 0 0, k], mgt := { State.reset.mgt with started := true } }

theorem test_ServiceCorePrivilege_met :
    (serving (core 2 0 0xFFFF []) id).actor = .hart 1 ∧ (serving (core 2 0 0xFFFF []) id).harts[1]? = some (core 2 0 0xFFFF []) ∧
    ((core 2 1 0xBFFF []).mode = 1 ∧ (core 2 1 0xBFFF []).mxkenable.getLsbD 14 = false) ∧
    ((core 0 1 0x4000 []).mode = 1 ∧ (core 0 1 0x4000 []).mxkenable.getLsbD 14 = true ∧ (core 0 1 0x4000 []).role ∉ [2]) ∧
    ((core 0 3 0 []).csr 0x302).getLsbD 63 = false ∧
    (({ core 0 1 0 [] with csrs := [(0x302, 1 <<< 63)] } : Hart).csr 0x302).getLsbD 63 = true := by decide +kernel

/-- The last of the events, at its timeout and before it. -/
theorem test_ServiceCoreInstructions_met :
    (∀ r ∈ [0, 1, 2, 3], Serving (serving (core r 1 1 []) id) 1 (core r 1 1 []) 0 [0, 1, 2, 3]) ∧
    (∀ p ∈ [(2 ^ 32, 0), (2 ^ 32 - 1, 2 ^ 40), (2 ^ 32 - 1, 2 ^ 40 - 1)],
      Serving (serving (core 3 3 0 [(1, p.1), (2, p.2)]) id) 1 (core 3 3 0 [(1, p.1), (2, p.2)]) 1 [0, 1, 3] ∧
      ((core 3 3 0 [(1, p.1), (2, p.2)]).reg 1).toNat = p.1 ∧ ((core 3 3 0 [(1, p.1), (2, p.2)]).reg 2).toNat = p.2) ∧
    (∀ p ∈ [(256, 0), (255, 0), (128, 1)], Serving (serving (core 3 3 0 [(1, p.1), (2, p.2)]) id) 1 (core 3 3 0 [(1, p.1), (2, p.2)]) 2 [0, 1, 2, 3] ∧
      ((core 3 3 0 [(1, p.1), (2, p.2)]).reg 1).toNat = p.1 ∧
      pendingEvents (serving (core 3 3 0 [(1, p.1), (2, p.2)]) id) (core 3 3 0 [(1, p.1), (2, p.2)]) &&& 128 = 0 ∧
      (core 3 3 0 [(1, p.1), (2, p.2)]).interruptPends = false) ∧
    (pendingEvents (serving (core 3 3 0 []) fun s => { s with lode := { s.lode with hold := true } }) (core 3 3 0 []) &&& 128 ≠ 0) ∧
    (let w : HartWait := ⟨31, 128, some 100⟩;
      (serving { core 3 3 0 [] with wait := some w } id).harts[1]? = some { core 3 3 0 [] with wait := some w } ∧
        w.deadline = some (serving (core 3 3 0 []) id).clock) ∧
    (∀ va ∈ [0x4001, 0x4000, 2 ^ 63 - 8], ∃ k, (serving (core 0 3 0 [(1, va)]) id).harts[1]? = some k ∧ (k.reg 1).toNat = va ∧
      hartAddr (serving (core 0 3 0 [(1, va)]) id) k k.memMode (k.reg 1).toNat .store = .pa va ∧
      (hartMemory (serving (core 0 3 0 [(1, va)]) id) va 8 = true ↔ va ≠ 2 ^ 63 - 8) ∧ hartReady (serving (core 0 3 0 [(1, va)]) id) va = true) ∧
    (∃ k, (serving { core 0 1 0 [(1, 0x4000)] with csrs := [(0x180, 9 <<< 60)] } id).harts[1]? = some k ∧
      hartAddr (serving { core 0 1 0 [(1, 0x4000)] with csrs := [(0x180, 9 <<< 60)] } id) k k.memMode (k.reg 1).toNat .store
        = .fault HartUse.store.pageFault) ∧
    (∀ p ∈ [(1, true), (3, false)], let va := entryAddr .kg9P 0 5
      let s := serving (core 0 p.1 0 [(1, va)]) id
      ∃ k, s.harts[1]? = some k ∧ (k.reg 1).toNat = va ∧ va % 8 = 0 ∧ hartAddr s k k.memMode va .store = .pa va ∧
        hartMemory s va 8 = true ∧ hartReady s va = true ∧ tableGuard s k.memMode va = p.2) ∧
    (({ core 0 3 0 [] with reserved := some 0x4000 } : Hart).reserved = some (0x4004 / 8 * 8) ∧
      ({ core 0 3 0 [] with reserved := some 0x4000 } : Hart).reserved ≠ some (0x4008 / 8 * 8)) := by
  refine ⟨fun r hr => ?_, fun p hp => ?_, fun p hp => ?_, by decide +kernel, by decide +kernel, fun va hv => ?_, ⟨_, rfl, by decide +kernel⟩,
    fun p hp => ?_, by decide⟩
  · simp only [List.mem_cons, List.not_mem_nil, or_false] at hr
    rcases hr with rfl | rfl | rfl | rfl <;> exact ⟨rfl, rfl, by decide, by decide⟩
  · simp only [List.mem_cons, List.not_mem_nil, or_false] at hp
    rcases hp with rfl | rfl | rfl <;> exact ⟨⟨rfl, rfl, by decide, by decide⟩, by decide +kernel⟩
  · simp only [List.mem_cons, List.not_mem_nil, or_false] at hp
    rcases hp with rfl | rfl | rfl <;> exact ⟨⟨rfl, rfl, by decide, by decide⟩, by decide +kernel⟩
  · simp only [List.mem_cons, List.not_mem_nil, or_false] at hv
    rcases hv with rfl | rfl | rfl <;> exact ⟨_, rfl, by decide +kernel⟩
  · simp only [List.mem_cons, List.not_mem_nil, or_false] at hp
    rcases hp with rfl | rfl <;> exact ⟨_, rfl, by decide +kernel⟩

/-- A fault entry of page 0. -/
def someEntry (stage : Nat) : FEntry :=
  { pasid := 1, vpn := 0, vif := 0, needs := 1, chain := false, stage, tries := 0, signal := false, engine := false, merges := 0, time := 9
    core := 0, engno := 0, qslot := 0, seq := 5, waiters := [.group ⟨1, 0⟩ 1], declined := 0 }
/-- An entry in service of core 1. -/
def someServed (handle : Nat) (installed replayed : Bool) (stage : Nat) : Served :=
  { hart := 1, handle, chiplet := 0, remote := false, entry := someEntry stage, installed, hold := false, replayed, replays := 0 }
/-- A machine with a local queue of chiplet 0 and entries in service. -/
def faulting (l : List FEntry) (v : List Served) (s : State) : State :=
  { s with faults := { s.faults with queues := [(fqKey 0 false, ⟨l, 6, 0, []⟩)], served := v } }

theorem test_ServingFaults_met :
    (∀ p ∈ [(([] : List FEntry), ([] : List Served)), ([someEntry 0], []), ([someEntry 0], (List.range 64).map fun i => someServed (i + 1) true true 0)],
      Serving (serving (core 0 1 8 [(1, 0x4000)]) (faulting p.1 p.2)) 1 (core 0 1 8 [(1, 0x4000)]) 3 [0, 1] ∧
      Block (serving (core 0 1 8 [(1, 0x4000)]) (faulting p.1 p.2)) (core 0 1 8 [(1, 0x4000)]) ((core 0 1 8 [(1, 0x4000)]).reg 1) 32 .store 0x4000 ∧
      (indexOf (mayPop (serving (core 0 1 8 [(1, 0x4000)]) (faulting p.1 p.2)) (core 0 1 8 [(1, 0x4000)])) p.1 = none ↔ p.1 = []) ∧
      ((runOf 1 64).find? (fun n => !((p.2.map fun v => v.handle).contains n)) = none ↔ p.2 ≠ [])) ∧
    (∀ v ∈ [someServed 64 false false 0, someServed 64 true true 0, someServed 64 true false 0],
      Serving (serving (core 1 3 0 [(1, 64)]) (faulting [] [v])) 1 (core 1 3 0 [(1, 64)]) 5 [0, 1] ∧
      servedOf (serving (core 1 3 0 [(1, 64)]) (faulting [] [v])) 1 ((core 1 3 0 [(1, 64)]).reg 1).toNat = some v ∧
      servedOf (serving (core 1 3 0 [(1, 64)]) (faulting [] [v])) 1 63 = none) ∧
    (∀ p ∈ [(0, 2 ^ 18), (0, 2 ^ 18 - 1), (0, 4), (0, 64), (0, 0x500), (0, 0x0C00), (1, 0), (0, 0x1400), (0, 0x1500)],
      ∀ v ∈ [someServed 1 false false 0, someServed 1 true true 1, someServed 1 true false 2],
        Serving (serving (core p.1 3 0 [(1, 1), (2, p.2)]) (faulting [] [v])) 1 (core p.1 3 0 [(1, 1), (2, p.2)]) 4 [0, 1] ∧
        ((core p.1 3 0 [(1, 1), (2, p.2)]).reg 2).toNat = p.2 ∧
        servedOf (serving (core p.1 3 0 [(1, 1), (2, p.2)]) (faulting [] [v])) 1 ((core p.1 3 0 [(1, 1), (2, p.2)]).reg 1).toNat = some v) ∧
    (actCause (BitVec.ofNat 64 0x500) ∈ [0x05, 0x06, 0x08, 0x14, 0x15] ∧ actCause (BitVec.ofNat 64 0x0C00) ∉ [0x05, 0x06, 0x08, 0x14, 0x15] ∧
      actMet 4 ≠ 0 ∧ actMet 64 ≠ 0 ∧ actMet 64 &&& 15 = 0 ∧ actMet 4 &&& 15 ≠ 0 ∧ actMet 0 = 0) ∧
    pageWaits (serving (core 0 3 0 []) (faulting [] [])) 1 0 = false := by
  refine ⟨fun p hp => ?_, fun v hv => ?_, fun p hp v hv => ?_, by decide +kernel, by decide +kernel⟩
  · simp only [List.mem_cons, List.not_mem_nil, or_false] at hp
    rcases hp with rfl | rfl | rfl <;>
      exact ⟨⟨rfl, rfl, by decide, by decide⟩, ⟨by decide +kernel, by decide +kernel, by decide +kernel, fun _ => by decide +kernel, by decide +kernel⟩, by decide +kernel⟩
  · simp only [List.mem_cons, List.not_mem_nil, or_false] at hv
    rcases hv with rfl | rfl | rfl <;> exact ⟨⟨rfl, rfl, by decide, by decide⟩, by decide +kernel⟩
  · have all : ∀ p ∈ [(0, 2 ^ 18), (0, 2 ^ 18 - 1), (0, 4), (0, 64), (0, 0x500), (0, 0x0C00), (1, 0), (0, 0x1400), (0, 0x1500)],
        ∀ v ∈ [someServed 1 false false 0, someServed 1 true true 1, someServed 1 true false 2],
          (core p.1 3 0 [(1, 1), (2, p.2)]).role ∈ [0, 1] ∧ ((core p.1 3 0 [(1, 1), (2, p.2)]).reg 2).toNat = p.2 ∧
          servedOf (serving (core p.1 3 0 [(1, 1), (2, p.2)]) (faulting [] [v])) 1 ((core p.1 3 0 [(1, 1), (2, p.2)]).reg 1).toNat = some v := by
      decide +kernel
    exact ⟨⟨rfl, rfl, .inl rfl, (all p hp v hv).1⟩, (all p hp v hv).2⟩

/-- A PAGED range, the operand block of a PGINST at 0x4000 and the entry of frame 5 of stack 8. -/
def installing (v : Nat) (old : InvEntry) (s : State) : State :=
  let s := ranged 2 (faulting [] [someServed 1 false false 0, { someServed 2 false false 0 with entry := { someEntry 0 with vpn := 8 } }] s)
  { s with mem := writeLE (setInvEntry s.build s.mem 8 5 old) 0x4000 32 v }
/-- The image of page 8 of a PASID. -/
def someImage (pasid : Nat) (valid : Bool) (pin : Nat) : InvEntry :=
  { vpn := 8, pasid, next := 0, nextv := false, valid, lost := false, zero := false, dirty := false, accessed := false, lode := 0, pin }
/-- A block of an image, a frame and a stack. -/
def installBlock (e : InvEntry) (i c : Nat) : Nat := e.toBits + i * 2 ^ 128 + c * 2 ^ 148
/-- A machine with bad words in the last word of an operand block at 0x4000 and the first of frame 5's entry. -/
def marked (s : State) : State := { s with badMem := [0x401C / 4, entryAddr s.build 8 5 / 4] }
/-- Reserved bits set; the first frame that may not map; another stack; a handle of another page, of none, and of the
page; an inactive PASID; a valid entry of the page and of another; a free frame. -/
theorem test_InstallAndEvict_met :
    (∀ p ∈ [(2 ^ 152, 0, someImage 0 false 0), (installBlock (someImage 1 false 0) 0xFFDC0 8, 0, someImage 0 false 0),
        (installBlock (someImage 1 false 0) 5 7, 0, someImage 0 false 0), (installBlock (someImage 1 false 0) 5 8, 3, someImage 0 false 0),
        (installBlock (someImage 1 false 0) 5 8, 1, someImage 0 false 0), (installBlock (someImage 1 false 0) 5 8, 2, someImage 0 false 0),
        (installBlock (someImage 2 false 0) 5 8, 0, someImage 0 false 0), (installBlock (someImage 1 false 1) 5 8, 0, someImage 1 true 0),
        (installBlock (someImage 1 false 0) 5 8, 0, someImage 3 true 0)],
      Serving (serving (core 0 3 0 [(1, p.2.1), (2, 0x4000)]) (installing p.1 p.2.2)) 1 (core 0 3 0 [(1, p.2.1), (2, 0x4000)]) 6 [0, 1] ∧
      Block (serving (core 0 3 0 [(1, p.2.1), (2, 0x4000)]) (installing p.1 p.2.2)) (core 0 3 0 [(1, p.2.1), (2, 0x4000)])
        ((core 0 3 0 [(1, p.2.1), (2, 0x4000)]).reg 2) 32 .load 0x4000 ∧
      badWordIn ((serving (core 0 3 0 [(1, p.2.1), (2, 0x4000)]) (installing p.1 p.2.2)).readBy 0 0x4000) 0x4000 32 = none ∧
      leNat (homeBytes ((serving (core 0 3 0 [(1, p.2.1), (2, 0x4000)]) (installing p.1 p.2.2)).readBy 0 0x4000) 0x4000 32) = p.1) ∧
    (let u := serving (core 0 3 0 []) (installing (installBlock (someImage 1 false 0) 5 8) (someImage 0 false 0));
      colour u.build 8 = 8 ∧ badAmong u (installReads u 8 5 (someImage 1 false 0)) = none ∧
        badAmong (marked u) (installReads u 8 5 (someImage 1 false 0)) = some (entryAddr u.build 8 5) ∧ badWordIn (marked u) 0x4000 32 = some 0x401C ∧
        badAmong (marked u) (evictReads u 8 5) = some (entryAddr u.build 8 5) ∧ (pasidEntry u 1).state = 1 ∧ (pasidEntry u 2).state ≠ 1 ∧ (invEntry u.build u.mem 8 5).valid = false ∧
        invLookup u.build u.mem 1 8 = some none ∧ frameBusy u (framePA u.build 8 5) = false ∧ servedOf u 1 3 = none ∧
        ((servedOf u 1 2).map fun e => e.entry.isFor 1 8) = some true ∧ ((servedOf u 1 1).map fun e => e.entry.isFor 1 8) = some false) ∧
    (∀ p ∈ [(2 ^ 24, someImage 3 true 0, 0), (8 * 2 ^ 20 + 5, someImage 3 true 0, 0), (8 * 2 ^ 20 + 5, someImage 1 true 0, 3), (8 * 2 ^ 20 + 5, someImage 1 true 1, 1),
        (8 * 2 ^ 20 + 5, someImage 1 false 0, 6)],
      Serving (serving (core 0 3 0 [(1, p.1)]) (installing 0 p.2.1)) 1 (core 0 3 0 [(1, p.1)]) 7 [0, 1] ∧
      ((core 0 3 0 [(1, p.1)]).reg 1).toNat = p.1 ∧ evictOutcome (serving (core 0 3 0 [(1, p.1)]) (installing 0 p.2.1)) 8 5 = p.2.2 ∧
      badAmong (serving (core 0 3 0 [(1, p.1)]) (installing 0 p.2.1)) (evictReads (serving (core 0 3 0 [(1, p.1)]) (installing 0 p.2.1)) 8 5) = none ∧
      frameBusy (serving (core 0 3 0 [(1, p.1)]) (installing 0 p.2.1)) (framePA .kg9P 8 5) = false) := by
  refine ⟨fun p hp => ?_, by decide +kernel, fun p hp => ?_⟩
  · simp only [List.mem_cons, List.not_mem_nil, or_false] at hp
    rcases hp with rfl | rfl | rfl | rfl | rfl | rfl | rfl | rfl | rfl <;>
      exact ⟨⟨rfl, rfl, by decide, by decide⟩, ⟨by decide +kernel, by decide +kernel, by decide +kernel, fun _ => by decide +kernel, by decide +kernel⟩, by decide +kernel⟩
  · simp only [List.mem_cons, List.not_mem_nil, or_false] at hp
    rcases hp with rfl | rfl | rfl | rfl | rfl <;> exact ⟨⟨rfl, rfl, by decide, by decide⟩, by decide +kernel⟩

/-! ### Hypotheses of the statements on transfers and Lode -/

/-- A core with its descriptor's address, a Lode credit field and its taken credits. -/
def poster (role va : Nat) (lode : BitVec 17) (taken : BitVec 64) : Hart := { core role 3 0 [(1, va)] with mxklode := lode, taken }
/-- A machine with a descriptor at 0x4000. -/
def described (v : Nat) (s : State) : State := { s with mem := writeLE s.mem 0x4000 64 v }
/-- A descriptor of a transfer or a Lode request to node 2. -/
def someDesc (loc remote len path op : Nat) : Nat :=
  loc + remote * 2 ^ 64 + 2 * 2 ^ 128 + path * 2 ^ 152 + len * 2 ^ 160 + op * 2 ^ 384 + 2 * 2 ^ 416

/-- The least and the greatest length, a length of 0, one too long, and an address, a remote address or a pool that is
out. -/
theorem test_TransferPosting_met :
    (∀ p ∈ [(8, 1, [1, 3]), (8, 3, [1, 3]), (9, 0, [0, 1]), (10, 1, [0, 1]), (11, 1, [1, 3]), (11, 3, [1, 3])],
      Serving (serving (poster p.2.1 0x4000 5 0) id) 1 (poster p.2.1 0x4000 5 0) p.1 p.2.2) ∧
    ((poster 1 0x4020 5 0).reg 1).toNat % 64 ≠ 0 ∧ ((poster 1 0x4000 0 0).mxklode = 0 ∧ (poster 1 0x4000 5 0).mxklode ≠ 0) ∧
    (poster 1 0x4000 5 (BitVec.allOnes 64)).taken = BitVec.allOnes 64 ∧
    (∀ p ∈ [(0, (0 : BitVec 64)), (63, BitVec.allOnes 64 >>> 1)],
      p.1 < 64 ∧ p.2.getLsbD p.1 = false ∧ ∀ i < p.1, p.2.getLsbD i = true) ∧
    (∀ v ∈ [someDesc 0 0 128 0 0, someDesc 0x10000 (2 ^ 63) (2 ^ 20) 1 7, someDesc 0 0 0 0 8, someDesc 0 0 (2 ^ 20 + 128) 2 255, someDesc 64 0 128 0 0],
      Block (serving (poster 1 0x4000 5 0) (described v)) (poster 1 0x4000 5 0) ((poster 1 0x4000 5 0).reg 1) 64 .load 0x4000 ∧
      leNat (homeBytes (serving (poster 1 0x4000 5 0) (described v)) 0x4000 64) = v ∧
      badWordIn (serving (poster 1 0x4000 5 0) (described v)) 0x4000 64 = none ∧
      badWordIn (marked (serving (poster 1 0x4000 5 0) (described v))) 0x4000 64 = some 0x401C) ∧
    (∀ p ∈ [(someDesc 0 0 128 0 0, true), (someDesc 0x10000 (2 ^ 63) (2 ^ 20) 1 7, true), (someDesc 0 0 0 0 8, false),
        (someDesc 0 0 (2 ^ 20 + 128) 2 255, false), (someDesc 64 0 128 0 0, false), (someDesc 0 64 128 0 0, false), (someDesc (2 ^ 40) 0 128 0 0, false)],
      p.2 = decide (p.1 / 2 ^ 160 % 2 ^ 32 % 128 = 0 ∧ 128 ≤ p.1 / 2 ^ 160 % 2 ^ 32 ∧ p.1 / 2 ^ 160 % 2 ^ 32 ≤ 2 ^ 20 ∧ p.1 / 2 ^ 152 % 4 < 2 ∧
        p.1 / 2 ^ 64 % 2 ^ 64 % 128 = 0 ∧ p.1 % 2 ^ 64 % 128 = 0 ∧ inPool base (p.1 % 2 ^ 64) (p.1 / 2 ^ 160 % 2 ^ 32) = true)) := by
  refine ⟨fun p hp => ?_, by decide +kernel, by decide, by decide, ?_, fun v hv => ?_, by decide +kernel⟩
  · simp only [List.mem_cons, List.not_mem_nil, or_false] at hp
    rcases hp with rfl | rfl | rfl | rfl | rfl | rfl <;> exact ⟨rfl, rfl, by decide, by decide⟩
  · decide
  · simp only [List.mem_cons, List.not_mem_nil, or_false] at hv
    rcases hv with rfl | rfl | rfl | rfl | rfl <;>
      exact ⟨⟨by decide +kernel, by decide +kernel, by decide +kernel, fun _ => by decide +kernel, by decide +kernel⟩, by decide +kernel⟩

/-- A transfer or a Lode request of core 1 on its way. -/
def someXfer (kind : XferKind) (node path : Nat) : Xfer :=
  { hart := 1, credit := 3, kind, desc := 0x4000, loc := 0x10000, len := 4, node, path, tag := 7, posted := 0 }
/-- A machine with it on its way, a cycle, and node 2 declared dead. -/
def sending (t : Xfer) (clock : Nat) : State :=
  { base with xfers := [t], clock, fabric := { base.fabric with dead := [2] } }
/-- A home that serves a space, with a page of it in a state, readable or not. -/
def homing (lode : Nat) (s : State) : State :=
  let e : InvEntry := { someImage 1 true 0 with vpn := 9, lode }
  { s with
    mem := setInvEntry s.build (writeLE (writeLE s.mem 0x3010 8 (2 ^ 63 + 2 ^ 32 + 1)) (anchorAddr s.build 9 (anchorOf 1 9)) 4 (2 ^ 31 + 5)) 9 5 e
    lode := { s.lode with spBase := 0x3000, spCount := 4 } }
theorem test_TransferEnds_met :
    (∀ p ∈ [(XferKind.rfetch, 512, 1), (.lode 0, 0xFFFF, 0)], xferOf (sending (someXfer p.1 p.2.1 p.2.2) 0) 1 3 = some (someXfer p.1 p.2.1 p.2.2) ∧
      reaches (sending (someXfer p.1 p.2.1 p.2.2) 0) p.2.2 p.2.1 = false) ∧
    (∀ p ∈ [(XferKind.rfetch, 511, 1, (0 : BitVec 8), List.replicate 4 (7 : Byte)), (.uewrite, 512, 2, 0, []), (.ueread, 2, 3, 4, []),
        (.lode 1, 3, 0, 0, List.replicate 32 9), (.lode 7, 2, 0, 8, [])],
      xferOf (sending (someXfer p.1 p.2.1 p.2.2.1) 0) 1 3 = some (someXfer p.1 p.2.1 p.2.2.1) ∧
      reaches (sending (someXfer p.1 p.2.1 p.2.2.1) 0) p.2.2.1 p.2.1 = true ∧ endCodeOk p.1.isLode p.2.2.2.1.toNat = true ∧
      endDataOk (someXfer p.1 p.2.1 p.2.2.1) p.2.2.2.1.toNat p.2.2.2.2 = true ∧
      (p.2.2.2.1 ≠ 0 ∨ p.2.1 ∉ (sending (someXfer p.1 p.2.1 p.2.2.1) 0).fabric.dead)) ∧
    (∀ n ∈ [900000, 900001], (someXfer .rfetch 2 0).posted + 900000 ≤ (sending (someXfer .rfetch 2 0) n).clock) := by decide +kernel
theorem some_of_any {α : Type} {o : Option α} {p : α → Bool} (h : o.any p = true) : ∃ a, o = some a ∧ p a = true := by
  cases o with
  | none => cases h
  | some a => exact ⟨a, rfl, h⟩
theorem test_TransferServe_met :
    (∀ p ∈ [(false, 0, 1, 128), (true, 1, 1, 128), (false, 1, 2, 128), (false, 1, 1, 65664)],
      servedFrame (homing p.2.1 base) { write := p.1, space := BitVec.ofNat 32 p.2.2.1, remote := 0x90000, len := p.2.2.2, data := [], src := 1, tag := 4 }
        = none) ∧
    (∀ p ∈ [(false, 1, 0x90000, 128), (true, 2, 0x9FF80, 128), (false, 2, 0x90000, 65536)], ∃ pa,
      servedFrame (homing p.2.1 base) { write := p.1, space := 1, remote := BitVec.ofNat 64 p.2.2.1, len := p.2.2.2, data := [], src := 1, tag := 4 }
        = some pa ∧ (grainsOf pa p.2.2.2).all (fun g => !((homing p.2.1 base).engineOwned (512 * g))) = true) ∧
    1 ∉ (homing 1 base).fabric.dead := by
  refine ⟨by decide +kernel, fun p hp => some_of_any ?_, by decide⟩
  simp only [List.mem_cons, List.not_mem_nil, or_false] at hp
  rcases hp with rfl | rfl | rfl <;> decide +kernel

/-- A Lode entry of key 5, and requests on it. -/
def someLode (version state holders overflow : Nat) : BitVec 256 :=
  BitVec.ofNat 256 (5 * 2 ^ 184 + state * 2 ^ 182 + overflow * 2 ^ 181 + holders * 2 ^ 144 + version * 2 ^ 112 + (1 + 2 * 2 ^ 16 + 3 * 2 ^ 32 + 4 * 2 ^ 48))
def lodeAsk (src : Nat) (e : BitVec 256) (expect : Word) : LodeReq := { hart := 1, credit := 3, src, tag := 7, entry := e, expect }
/-- The holder of some entries. -/
def lodeHome (l : List (BitVec 256)) : State :=
  { sending (someXfer (.lode 5) 5 0) 0 with lode := { base.lode with entries := l } }
/-- A last and a next version; each state; a source that holds the entry, a fourth and a fifth holder; no entry. -/
theorem test_LodeOperations_met :
    (∀ op ∈ [0, 1, 2, 3, 4], lodeStands (lodeHome []) op (lodeAsk 5 (someLode 0 0 0 0) 0) = true ∧
      lodeStands (lodeHome []) op (lodeAsk 2 (someLode 0 0 0 0) 0) = false ∧
      (lodeHome []).lode.entries.find? (fun e => e.toNat / 2 ^ 184 == (lodeAsk 5 (someLode 0 0 0 0) 0).entry.toNat / 2 ^ 184) = none ∧
      ∀ state ∈ [0, 1, 2, 3], (lodeHome [someLode (2 ^ 32 - 1) state 4 0]).lode.entries.find? (fun e =>
        e.toNat / 2 ^ 184 == (lodeAsk 5 (someLode 0 0 0 0) 0).entry.toNat / 2 ^ 184) = some (someLode (2 ^ 32 - 1) state 4 0) ∧
        (someLode (2 ^ 32 - 1) state 4 0).toNat / 2 ^ 182 % 4 = state ∧
        (someLode (2 ^ 32 - 1) state 4 0).toNat / 2 ^ 112 % 2 ^ 32 = (lodeAsk 5 (someLode 0 0 0 0) (BitVec.allOnes 32)).expect.toNat ∧
        (someLode (2 ^ 32 - 1) state 4 0).toNat / 2 ^ 112 % 2 ^ 32 ≠ (lodeAsk 5 (someLode 0 0 0 0) 0).expect.toNat) ∧
    (holdersOf (someLode 0 0 4 0) = [1, 2, 3, 4] ∧ holdersOf (someLode 0 0 3 0) = [1, 2, 3]) ∧
    (∀ n ∈ [2, 5], xferOf (sending (someXfer (.lode 5) n 0) 0) 1 3 = some (someXfer (.lode 5) n 0) ∧
      xferOf (sending (someXfer (.lode 7) n 0) 0) 1 3 = some (someXfer (.lode 7) n 0) ∧
      (n ∈ (sending (someXfer (.lode 5) n 0) 0).fabric.dead ↔ n = 2) ∧
      (sending (someXfer (.lode 7) n 0) 0).xfers.find? (fun t => (t.kind == .lode 5 || t.kind == .lode 7) && t.node == n &&
        t.tag == (lodeAsk n (BitVec.ofNat 256 (7 + 2 ^ 32)) 0).entry.extractLsb' 0 32) = some (someXfer (.lode 7) n 0)) := by
  refine ⟨by decide +kernel, by decide +kernel, by decide +kernel⟩

/-! ### Hypotheses of the statements on queue slots -/

/-- A QCB of ring 0x4000, PASID 1 and interface 0. -/
def qcbOf (rptr wptr log st : Nat) : Nat :=
  0x4000 + log * 2 ^ 192 + 1 * 2 ^ 204 + 1 * 2 ^ 230 + st * 2 ^ 244 + rptr * 2 ^ 256 + wptr * 2 ^ 288
/-- Slot 127 in a state with such a QCB. -/
def slotted (st : SlotState) (v : Nat) (s : State) : State :=
  s.adjSlot 127 fun _ => { QSlot.reset with state := st, qcb := BitVec.ofNat 1024 v }
/-- The dispatcher with its operands: a slot, and a block or an event. -/
def dispatcher (slot w : Nat) : Hart := core 2 1 0x7000 [(1, slot), (2, w)]

/-- The first slot number that is out; ring sizes at and past their limits, a ring that is not aligned, a state that is
not one; an interface of another PASID; every state of a slot. -/
theorem test_QueueSlots_met :
    (∀ i ∈ [12, 13, 14], ∀ p ∈ [(128, 0x4000), (127, 0x4000), (127, 3), (127, 2)], ∀ st ∈ [SlotState.idle, .loaded, .running, .stopping, .stopped],
      Serving (serving (dispatcher p.1 p.2) (slotted st (qcbOf 0 1 4 0))) 1 (dispatcher p.1 p.2) i [2] ∧
      ((dispatcher p.1 p.2).reg 1).toNat = p.1 ∧ ((dispatcher p.1 p.2).reg 2).toNat = p.2 ∧
      ((serving (dispatcher p.1 p.2) (slotted st (qcbOf 0 1 4 0))).slot 127).state = st) ∧
    (∀ p ∈ [(qcbOf 0 1 4 0, true), (qcbOf 0 1 16 3, true), (qcbOf 0 1 3 0, false), (qcbOf 0 1 17 0, false), (qcbOf 0 1 4 4, false),
        (qcbOf 0 1 4 0 + 2048, false)],
      Block (serving (dispatcher 127 0x4000) (described p.1)) (dispatcher 127 0x4000) ((dispatcher 127 0x4000).reg 2) 128 .load 0x4000 ∧
      let b : BitVec 1024 := BitVec.ofNat 1024 (leNat (homeBytes (serving (dispatcher 127 0x4000) (described p.1)) 0x4000 64));
      p.2 = decide (4 ≤ qcbRlog b ∧ qcbRlog b ≤ 16 ∧ qcbRing b % 4096 = 0 ∧ qcbQstate b ≤ 3) ∧ qcbVif b = 0 ∧ qcbPasid b = 1 ∧
      badWordIn (serving (dispatcher 127 0x4000) (described p.1)) 0x4000 64 = none ∧
      badWordIn (marked (serving (dispatcher 127 0x4000) (described p.1))) 0x4000 64 = some 0x401C) ∧
    (badWordIn (serving (dispatcher 127 0x4000) id) (pasidAddr (serving (dispatcher 127 0x4000) id) 1) 16 = none ∧
      badWordIn { serving (dispatcher 127 0x4000) id with badMem := [(pasidAddr (serving (dispatcher 127 0x4000) id) 1) / 4] }
        (pasidAddr (serving (dispatcher 127 0x4000) id) 1) 16 = some (pasidAddr (serving (dispatcher 127 0x4000) id) 1)) ∧
    ((pasidEntry (serving (dispatcher 127 0x4000) id) 1).state = 1 ∧ (pasidEntry (serving (dispatcher 127 0x4000) id) 1).vif = 0 ∧
      (pasidEntry (serving (dispatcher 127 0x4000) id) 2).state ≠ 1) ∧
    Block (serving (dispatcher 127 0x4000) (slotted .stopped (qcbOf 0 1 4 0))) (dispatcher 127 0x4000) ((dispatcher 127 0x4000).reg 2) 128 .store
      0x4000 := by
  refine ⟨fun i hi p hp st hs => ?_, fun p hp => ?_, by decide +kernel, by decide +kernel,
    ⟨by decide +kernel, by decide +kernel, by decide +kernel, fun _ => by decide +kernel, by decide +kernel⟩⟩
  · have all : ∀ i ∈ [12, 13, 14], ∀ p ∈ [(128, 0x4000), (127, 0x4000), (127, 3), (127, 2)], (dispatcher p.1 p.2).mxkenable.getLsbD i = true ∧
        ((dispatcher p.1 p.2).reg 1).toNat = p.1 ∧ ((dispatcher p.1 p.2).reg 2).toNat = p.2 ∧
        ∀ st ∈ [SlotState.idle, .loaded, .running, .stopping, .stopped],
          ((serving (dispatcher p.1 p.2) (slotted st (qcbOf 0 1 4 0))).slot 127).state = st := by decide +kernel
    exact ⟨⟨rfl, rfl, .inr ⟨rfl, (all i hi p hp).1⟩, List.mem_singleton.mpr rfl⟩, (all i hi p hp).2.1, (all i hi p hp).2.2.1, (all i hi p hp).2.2.2 st hs⟩
  · simp only [List.mem_cons, List.not_mem_nil, or_false] at hp
    rcases hp with rfl | rfl | rfl | rfl | rfl | rfl <;>
      exact ⟨⟨by decide +kernel, by decide +kernel, by decide +kernel, fun _ => by decide +kernel, by decide +kernel⟩, by decide +kernel⟩

/-- A machine whose slot 127 runs with a packet at its head, at the last place of a ring that wraps. -/
def queued (v : Nat) (s : State) : State :=
  slotted .running (qcbOf 15 0x10 4 0) { s with mem := writeLE s.mem 0x43C0 64 v }
/-- The checks of `PacketAt`, and p of the state after the read and the packet. -/
def packetB (s : State) (n : Nat) (p : State → Nat → Bool) : Bool :=
  let q := s.slot n
  decide (q.state = .running ∧ (q.held = none ∧ q.poll = none) ∧ (qcbQstate q.qcb ≠ 3 ∧ qcbQstate q.qcb ≠ 1) ∧ qcbRptr q.qcb ≠ qcbWptr q.qcb) &&
  match slotAddr s (qcbPasid q.qcb) ((qcbRing q.qcb + 64 * (qcbRptr q.qcb % 2 ^ qcbRlog q.qcb)) % 2 ^ 64) [.read 16] with
  | .pa pa kind =>
    packetOk (leNat (homeBytes (noteAccess s pa kind) pa 64)) && p (noteAccess s pa kind) (leNat (homeBytes (noteAccess s pa kind) pa 64))
  | _ => false
/-- The checks of `WordAt`, and p of the place and the state after the access. -/
def wordB (u : State) (n va align : Nat) (uses : List Use) (p : Nat → State → Bool) : Bool :=
  decide (va % align = 0) && match slotAddr u (qcbPasid (u.slot n).qcb) va uses with
    | .pa pa kind => p pa (noteAccess u pa kind)
    | _ => false
theorem packet_of {s : State} {n : Nat} {p : State → Nat → Bool} (h : packetB s n p = true) : ∃ u v, PacketAt s n u v ∧ p u v = true := by
  simp only [packetB, Bool.and_eq_true, decide_eq_true_eq] at h
  obtain ⟨⟨h1, h2, h3, h4⟩, h⟩ := h
  split at h
  · rename_i pa kind hpa
    rw [Bool.and_eq_true] at h
    exact ⟨_, _, ⟨h1, h2, h3, h4, ⟨pa, kind, hpa, rfl, rfl⟩, h.1⟩, h.2⟩
  · cases h
theorem word_of {u : State} {n va align : Nat} {uses : List Use} {p : Nat → State → Bool} (h : wordB u n va align uses p = true) :
    ∃ pa w, WordAt u n va align uses pa w ∧ p pa w = true := by
  simp only [wordB, Bool.and_eq_true, decide_eq_true_eq] at h
  obtain ⟨h1, h⟩ := h
  split at h
  · rename_i pa kind hpa
    exact ⟨pa, _, ⟨h1, kind, hpa, rfl⟩, h⟩
  · cases h

/-- A slot that stops, that is at rest, that is in error, and that has nothing to read, seen or not. -/
theorem test_SlotsAtRest_met :
    (∀ st ∈ [SlotState.stopping, .idle, .loaded, .stopped], ((slotted st (qcbOf 0 0 4 0) base).slot 127).state = st) ∧
    (∀ st ∈ [3, 0, 2], ((slotted .running (qcbOf 7 7 4 st) base).slot 127).held = none ∧
      ((slotted .running (qcbOf 7 7 4 st) base).slot 127).poll = none ∧ qcbQstate ((slotted .running (qcbOf 7 7 4 st) base).slot 127).qcb = st ∧
      qcbRptr ((slotted .running (qcbOf 7 7 4 st) base).slot 127).qcb = qcbWptr ((slotted .running (qcbOf 7 7 4 st) base).slot 127).qcb ∧
      ((slotted .running (qcbOf 7 7 4 st) base).slot 127).emptySeen = false) ∧
    (((slotted .running (qcbOf 7 7 4 2) base).adjSlot 127 fun q => { q with emptySeen := true }).slot 127).emptySeen = true := by
  decide +kernel

/-- A node of one group of eight lanes, and a header with a number of parameter bytes and one node. -/
def someNodeBits : Nat := 0x80000001 + 2 ^ 336 + 2 ^ 341 + 2 ^ 361 + 2 ^ 368 + 2 ^ 401 + 2 ^ 404
/-- A START of arena 0x8000 of 2,048 bytes and parameters at 0x7000. -/
def startBits (desc completion signal : Nat) : Nat :=
  1 + desc * 2 ^ 64 + 0x8000 * 2 ^ 128 + 2048 * 2 ^ 192 + 0x7000 * 2 ^ 256 + completion * 2 ^ 320 + signal * 2 ^ 384
/-- A machine that has read such a START, with an instance of the queue that runs or none. -/
def starting (desc completion signal : Nat) (busy : Bool) : State :=
  let s := queued (startBits desc completion signal) base
  { s with
    mem := writeLE (writeLE s.mem 0x6000 64 (0x2008 + 16 * 2 ^ 64 + 2 ^ 80)) 0x6040 64 someNodeBits
    insts := if busy then [someInst 0 0 [] [] [] [] []] else [] }

theorem packet_with {s : State} {n : Nat} {P : State → Nat → Prop} [∀ u v, Decidable (P u v)]
    (h : packetB s n (fun u v => decide (P u v)) = true) : ∃ u v, PacketAt s n u v ∧ P u v :=
  let ⟨u, v, hp, h⟩ := packet_of h
  ⟨u, v, hp, of_decide_eq_true h⟩
theorem packet_word {s : State} {n : Nat} {P : State → Nat → Prop} [∀ u v, Decidable (P u v)] {va : Nat → Nat} {align : Nat} {uses : List Use}
    {q : State → Nat → Nat → State → Bool}
    (h : packetB s n (fun u v => decide (P u v) && wordB u n (va v) align uses (q u v)) = true) :
    ∃ u v, PacketAt s n u v ∧ P u v ∧ ∃ pa w, WordAt u n (va v) align uses pa w ∧ q u v pa w = true :=
  let ⟨u, v, hp, h⟩ := packet_of h
  ⟨u, v, hp, of_decide_eq_true (Bool.and_eq_true _ _ ▸ h).1, word_of (Bool.and_eq_true _ _ ▸ h).2⟩

/-- Packets without an address; with one that is not aligned; with one that is, at the start and the end of a page. -/
theorem test_QueuePackets_met :
    (∀ ty ∈ [0, 4, 5], ∃ u v, PacketAt (queued ty base) 127 u v ∧ v % 256 = ty ∧ queueInsts u (qcbKey (u.slot 127).qcb) = []) ∧
    (∃ u v, PacketAt { queued 5 base with insts := [someInst 0 0 [] [] [] [] []] } 127 u v ∧ v % 256 = 5 ∧
      queueInsts u (qcbKey (u.slot 127).qcb) ≠ []) ∧
    (∀ ty ∈ [3, 6], ∃ u v, PacketAt (queued (ty + 0x5004 * 2 ^ 64) base) 127 u v ∧ v % 256 = ty ∧ v / 2 ^ 64 % 2 ^ 64 % 8 ≠ 0) ∧
    (∀ va ∈ [0x8000, 0xFFF8], ∃ u v, PacketAt (queued (6 + va * 2 ^ 64) base) 127 u v ∧ v % 256 = 6 ∧
      ∃ pa w, WordAt u 127 (v / 2 ^ 64 % 2 ^ 64) 8 [.write 8] pa w ∧ decide (pa = va) = true) ∧
    ∀ f ∈ [0, 1, 2], ∀ va ∈ [0x8000, 0xFFF8], ∃ u v,
      PacketAt (queued (3 + f * 2 ^ 16 + va * 2 ^ 64 + (2 ^ 64 - 1) * 2 ^ 128) base) 127 u v ∧ (v % 256 = 3 ∧ v / 2 ^ 16 % 4 = f) ∧
      ∃ pa w, WordAt u 127 (v / 2 ^ 64 % 2 ^ 64) 8 [.read 8, .write 8] pa w ∧ decide (pa = va) = true := by
  refine ⟨fun ty h => packet_with ?_, packet_with (by decide +kernel), fun ty h => packet_with ?_, fun va h => packet_word ?_,
    fun f hf va h => packet_word ?_⟩
  · simp only [List.mem_cons, List.not_mem_nil, or_false] at h
    rcases h with rfl | rfl | rfl <;> decide +kernel
  · simp only [List.mem_cons, List.not_mem_nil, or_false] at h
    rcases h with rfl | rfl <;> decide +kernel
  · simp only [List.mem_cons, List.not_mem_nil, or_false] at h
    rcases h with rfl | rfl <;> decide +kernel
  · simp only [List.mem_cons, List.not_mem_nil, or_false] at h hf
    rcases hf with rfl | rfl | rfl <;> rcases h with rfl | rfl <;> decide +kernel

/-- Whether pages answer with a place. -/
def isPlace : SlotAddr → Bool
  | .pa _ _ => true
  | _ => false
theorem place_of {x : SlotAddr} (h : isPlace x = true) : ∃ i k, x = .pa i k := by
  cases x <;> first | exact ⟨_, _, rfl⟩ | cases h
/-- The checks of `Startable`. -/
def startableB (s w : State) (n : Nat) (a : Start) : Bool :=
  let pasid := qcbPasid (s.slot n).qcb
  let w1 := notePages w pasid a.desc 64
  let hdr := leNat (agentRead w1 pasid a.desc 64)
  let w2 := notePages w1 pasid (a.desc + 64) (64 * (hdr / 2 ^ 80 % 2 ^ 7))
  let w3 := notePages w2 pasid a.params (hdr / 2 ^ 64 % 2 ^ 16)
  let raw := (List.range (hdr / 2 ^ 80 % 2 ^ 7)).map fun i => leNat (agentRead w3 pasid (a.desc + 64 * (i + 1)) 64)
  let code := (hdr % 2 ^ 64 + 2 ^ 64 - 8) % 2 ^ 64
  decide ((s.slot n).failed = none ∧ a.desc % 64 = 0) && (isPlace (rangeAddr w pasid a.desc (grainCount a.desc 64)) &&
    (isPlace (rangeAddr w1 pasid (a.desc + 64) (grainCount (a.desc + 64) (64 * (hdr / 2 ^ 80 % 2 ^ 7)))) &&
    (isPlace (rangeAddr w2 pasid a.params (grainCount a.params (hdr / 2 ^ 64 % 2 ^ 16))) &&
    (decide (arenaMiss w3 pasid (a.arena / 65536) (pageCount a.arena (min a.size (2 ^ 56))) = none ∧ startReason hdr raw = none ∧
      arenaBreaks w3 pasid a (hdr / 2 ^ 64 % 2 ^ 16) (raw.map nodeOf) = false) &&
    isPlace (rangeAddr w3 pasid code (grainCount code 8))))))
theorem startable_of {s w : State} {n : Nat} {a : Start} (h : startableB s w n a = true) :
    ∃ w3 nodes code, Startable s w n a w3 nodes code := by
  simp only [startableB, Bool.and_eq_true, decide_eq_true_eq] at h
  obtain ⟨⟨h1, h2⟩, h3, h4, h5, ⟨h6, h7, h8⟩, h9⟩ := h
  exact ⟨_, _, _, ⟨h1, h2, place_of h3, place_of h4, place_of h5, rfl, h6, h7, rfl, h8, rfl, place_of h9⟩⟩

/-- The checks of `EndsAt`, and p of the places and the state after the accesses. -/
def endsB (u : State) (n : Nat) (a : Start) (p : Ends → State → Bool) : Bool :=
  wordB u n a.completion 16 [.write 16] fun cp w1 =>
    if a.signal = 0 then p (cp, none) w1 else wordB w1 n a.signal 8 [.read 8, .write 8] fun sp w => p (cp, some sp) w
theorem ends_of {u : State} {n : Nat} {a : Start} {p : Ends → State → Bool} (h : endsB u n a p = true) :
    ∃ e w, EndsAt u n a e w ∧ p e w = true := by
  obtain ⟨cp, w1, h1, h2⟩ := word_of h
  split at h2
  · rename_i hs
    exact ⟨_, _, ⟨w1, h1, .inl ⟨hs, rfl, rfl⟩⟩, h2⟩
  · rename_i hs
    obtain ⟨sp, w, h3, h4⟩ := word_of h2
    exact ⟨_, _, ⟨w1, h1, .inr ⟨hs, sp, rfl, h3⟩⟩, h4⟩
theorem packet_ends {s : State} {n : Nat} {P : State → Nat → Prop} [∀ u v, Decidable (P u v)] {q : State → Nat → Ends → State → Bool}
    (h : packetB s n (fun u v => decide (P u v) && endsB u n (startOf v) (q u v)) = true) :
    ∃ u v, PacketAt s n u v ∧ P u v ∧ ∃ e w, EndsAt u n (startOf v) e w ∧ q u v e w = true :=
  let ⟨u, v, hp, h⟩ := packet_of h
  ⟨u, v, hp, of_decide_eq_true (Bool.and_eq_true _ _ ▸ h).1, ends_of (Bool.and_eq_true _ _ ▸ h).2⟩
/-- Whether a START of slot 127 waits once its header is read. -/
def waitsAfter (u w : State) (v : Nat) : Bool :=
  let pasid := qcbPasid (u.slot 127).qcb
  let w1 := notePages w pasid (startOf v).desc 64
  startWaits w1 pasid (startOf v) (leNat (agentRead w1 pasid (startOf v).desc 64))

/-- The completion's address is not aligned; another instance of the queue runs; the descriptor is not aligned, or an
error was found before; the START begins, with a signal and without. -/
theorem test_Starts_met :
    (∃ u v, PacketAt (starting 0x6000 0x5008 0 false) 127 u v ∧ v % 256 = 1 ∧ (startOf v).completion % 16 ≠ 0) ∧
    (∃ u v, PacketAt (starting 0x6000 0x5000 0x5010 true) 127 u v ∧
      (v % 256 = 1 ∧ ((starting 0x6000 0x5000 0x5010 true).slot 127).failed = none ∧ (startOf v).desc % 64 = 0) ∧
      ∃ e w, EndsAt u 127 (startOf v) e w ∧ (waitsAfter u w v && isPlace (rangeAddr w 1 0x6000 (grainCount 0x6000 64))) = true) ∧
    (∃ u v, PacketAt (starting 0x6020 0xFFF0 0xFFE8 false) 127 u v ∧
      (v % 256 = 1 ∧ (startOf v).desc % 64 ≠ 0 ∧ ((starting 0x6020 0xFFF0 0xFFE8 false).slot 127).failed ≠ some 7) ∧
      ∃ e w, EndsAt u 127 (startOf v) e w ∧ (decide (e.2 = some 0xFFE8)) = true) ∧
    (∀ k ∈ [7, 8], ∃ u v, PacketAt ((starting 0x6000 0x5000 0 false).adjSlot 127 fun q => { q with failed := some k }) 127 u v ∧
      (v % 256 = 1 ∧ (((starting 0x6000 0x5000 0 false).adjSlot 127 fun q => { q with failed := some k }).slot 127).failed = some k) ∧
      ∃ e w, EndsAt u 127 (startOf v) e w ∧ (decide (e.2 = none)) = true) ∧
    ∀ signal ∈ [0, 0x5010], ∃ u v, PacketAt (starting 0x6000 0x5000 signal false) 127 u v ∧ v % 256 = 1 ∧
      ∃ e w, EndsAt u 127 (startOf v) e w ∧
        (startableB (starting 0x6000 0x5000 signal false) w 127 (startOf v) && !(waitsAfter u w v)) = true := by
  refine ⟨packet_with (by decide +kernel), packet_ends (by decide +kernel), packet_ends (by decide +kernel), fun k hk => packet_ends ?_,
    fun signal hs => packet_ends ?_⟩
  · simp only [List.mem_cons, List.not_mem_nil, or_false] at hk
    rcases hk with rfl | rfl <;> decide +kernel
  · simp only [List.mem_cons, List.not_mem_nil, or_false] at hs
    rcases hs with rfl | rfl <;> decide +kernel

/-- A registration of the last queue of the last interface, whose condition has held. -/
def someSig : SigReg :=
  { pasid := 1, va := 0x8000, pa := some 0x8000, cond := .eq, val := 0, vif := 63, q := 1023, save := 0, slot := 0, hit := true }
/-- A word, a value and a condition that holds (equal words) or fails, for each condition of R401. -/
def signalWords : List (Nat × Nat × Nat) :=
  let m := 2 ^ 64 - 1
  [(m, m, 0), (0, m, 0), (m, m, 1), (2 ^ 63, 0, 2), (m, m, 3), (0, m, 4), (m, m, 5), (m, 2 ^ 63, 6), (1, 2, 7)]
/-- The hypotheses of each clause. -/
theorem test_QueueWaits_met :
    (∃ u v, PacketAt (queued (2 + 0x5004 * 2 ^ 64) base) 127 u v ∧ v % 256 = 2 ∧ v / 2 ^ 64 % 2 ^ 64 % 8 ≠ 0) ∧
    (∀ p ∈ signalWords, ∃ u v,
      PacketAt (queued (2 + p.2.2 * 2 ^ 12 + 0x8000 * 2 ^ 64 + p.2.1 * 2 ^ 128) { base with mem := writeLE base.mem 0x8000 8 p.1 }) 127 u v ∧
      (v % 256 = 2 ∧ v / 2 ^ 12 % 8 = p.2.2 ∧ v / 2 ^ 128 % 2 ^ 64 = p.2.1) ∧ ∃ pa w, WordAt u 127 (v / 2 ^ 64 % 2 ^ 64) 8 [.read 8] pa w ∧
        decide (pa = 0x8000 ∧ leNat (homeBytes w pa 8) = p.1 ∧ w.queues.regs.length < 4096) = true) ∧
    (∀ n ∈ [4095, 4096], ({ base with queues := { base.queues with regs := List.replicate n someSig } } : State).queues.regs.length = n) ∧
    (({ base with queues := { base.queues with regs := [someSig] } } : State).queues.regs[0]? = some someSig ∧ someSig.hit = true) ∧
    ∀ c ∈ [100, 101], ((base.adjSlot 127 fun q => { q with poll := some c }).slot 127).poll = some c ∧ base.clock = 100 := by
  refine ⟨packet_with (by decide +kernel), fun p hp => packet_word ?_, fun n hn => List.length_replicate, ⟨rfl, rfl⟩, by decide +kernel⟩
  have all : (signalWords.all fun p => packetB (queued (2 + p.2.2 * 2 ^ 12 + 0x8000 * 2 ^ 64 + p.2.1 * 2 ^ 128) { base with mem := writeLE base.mem 0x8000 8 p.1 }) 127 fun u v =>
      decide (v % 256 = 2 ∧ v / 2 ^ 12 % 8 = p.2.2 ∧ v / 2 ^ 128 % 2 ^ 64 = p.2.1) && wordB u 127 (v / 2 ^ 64 % 2 ^ 64) 8 [.read 8] fun pa w =>
        decide (pa = 0x8000 ∧ leNat (homeBytes w pa 8) = p.1 ∧ w.queues.regs.length < 4096)) = true := by decide +kernel
  exact List.all_eq_true.mp all p hp

/-! ### Hypotheses of the statements on device registers -/

/-- A machine with nothing that runs. -/
def resting (normal : Bool) : State := { base with teams := [], trn := { base.trn with normal } }
/-- A machine with an invalidation under way for the device map, and a request of a page on its way or none. -/
def invalidating (v : DWord) (first : Nat) (l : List HomeReq) : State :=
  { (base.adjCore 31 fun k => { k with reqs := l }) with
    trn := { base.trn with inva := [(64, v)], invb := [(64, BitVec.ofNat 64 (first * 65536))] } }
/-- The first teardown register of a map in a state, with the PASID in a state. -/
def tearing (map td st : Nat) : State :=
  let s := setPasidState (base.setTd map 3 ⟨1, td⟩) 1 st
  s
/-- A change to each mode, with something that runs, with a fault entry, and with neither; no change. -/
theorem test_TranslationRegisters_met :
    (∀ p ∈ [(true, 0), (false, 1)], ∀ s ∈ [resting p.1, faulting [] [] (resting p.1)],
      ((BitVec.ofNat 32 p.2).toNat % 4 = 0 ∧ s.trn.normal = true ∨ (BitVec.ofNat 32 p.2).toNat % 4 = 1 ∧ s.trn.normal = false) ∧
      ¬(∃ t ∈ s.teams, t.place ≠ .ended ∧ t.place ≠ .saved) ∧ ¬(s.faults.host ≠ [] ∨ ∃ q ∈ s.faults.queues, q.2.entries ≠ [])) ∧
    (∀ n ∈ [1, 2, 3, 0x40000003], ¬((BitVec.ofNat 32 n).toNat % 4 = 0 ∧ base.trn.normal = true ∨
      (BitVec.ofNat 32 n).toNat % 4 = 1 ∧ base.trn.normal = false)) ∧
    ((∃ t ∈ base.teams, t.place ≠ .ended ∧ t.place ≠ .saved) ∧ (∃ q ∈ (faulting [someEntry 0] [] base).faults.queues, q.2.entries ≠ []) ∧
      ({ base with faults := { base.faults with host := [someEntry 0] } } : State).faults.host ≠ []) ∧
    (∀ w ∈ [0, 1, 2, 3], (BitVec.ofNat 64 (2 ^ 32 + w * 2 ^ 30) : DWord).toNat / 2 ^ 30 % 4 = w ∧
      (BitVec.ofNat 64 (2 ^ 32 + w * 2 ^ 30) : DWord).toNat / 2 ^ 32 % 2 ^ 20 = 1) ∧
    ((base.inva 64).getLsbD 63 = false ∧ (base.inva 0).getLsbD 63 = false ∧ (pasidEntry base 1).vif = 0 ∧ (pasidEntry base 1).state = 1 ∧
      (pasidEntry base 2).state ≠ 1) ∧
    (∀ p ∈ [(0, 5, [{ someReq with pa := 0x5000 }], false), (2, 0, [someReq], false), (2, 0, [{ someReq with pasid := 2 }], true), (3, 0, [someReq], false),
        (1, 0, [], true)],
      ((invalidating (BitVec.ofNat 64 (2 ^ 63 + 2 ^ 32 + p.1 * 2 ^ 30 + 1)) p.2.1 p.2.2.1).inva 64).getLsbD 63 = true) ∧
    (∀ l ∈ [[{ someReq with pasid := 2 }], []], ∀ e ∈ (invalidating (BitVec.ofNat 64 (2 ^ 63 + 2 ^ 32 + 2 ^ 31)) 0 l).cores, ∀ q ∈ e.2.reqs,
      invCovers (invalidating (BitVec.ofNat 64 (2 ^ 63 + 2 ^ 32 + 2 ^ 31)) 0 l) 64 q = false) ∧
    (∀ p ∈ [(0, 1), (0, 0), (3, 9)], let v : DWord := BitVec.ofNat 64 (2 ^ 63 + 2 ^ 32 + p.1 * 2 ^ 30 + p.2);
      (∀ e ∈ (invalidating v 0 [someReq]).cores, ∀ q ∈ e.2.reqs, invCovers (invalidating v 0 [someReq]) 64 q = true) ↔ p ≠ (0, 0)) ∧
    (∀ p ∈ [(0, true), (1, false)], let v : DWord := BitVec.ofNat 64 (2 ^ 63 + 2 ^ 32 + p.1);
      let j : CopyJob := { someJob 3 0 with dir := .t2g, src := (someJob 3 0).dst, dst := (someJob 3 0).src, grains := [0x24] };
      let s : State := { invalidating v 0 [] with copies := [j] };
      (s.inva 64).getLsbD 63 = true ∧ ∀ c ∈ s.copies, invCopy s 64 c = !p.2) ∧
    (∀ p ∈ [(64, 1, 1), (64, 0, 1), (0, 2, 1), (63, 0, 1), (64, 1, 2)], ((tearing p.1 p.2.1 p.2.2).td p.1 3).state = p.2.1 ∧
      (pasidEntry (tearing p.1 p.2.1 p.2.2) 1).state = p.2.2 ∧ (pasidEntry (tearing p.1 p.2.1 p.2.2) 1).vif = 0 ∧
      outstanding (tearing p.1 p.2.1 p.2.2) 1 = 0 ∧ (tearing p.1 p.2.1 p.2.2).td p.1 3 = ⟨1, p.2.1⟩) := by
  refine ⟨by decide +kernel, by decide +kernel, by decide +kernel, by decide +kernel, by decide +kernel, by decide +kernel, by decide +kernel,
    by decide +kernel, by decide +kernel, by decide +kernel⟩

/-- The last interface, connected or not; a core with credits; a ring with entries; the first and the last deadline. -/
theorem test_OtherRegisters_met :
    (∀ p ∈ [(0, false), (2 ^ 63 - 1, false), (2 ^ 63, true)],
      (Sparse.get 0 ({ base with vifs := [(63, BitVec.ofNat 64 p.1)] } : State).vifs 63).getLsbD 63 = p.2) ∧
    ((0x7FFFFFFFFFFFFFFF : DWord).getLsbD 63 = false ∧ (0x8000000000000000 : DWord).getLsbD 63 = true) ∧
    (∀ k ∈ [0, 7, 8, 11, 24, 25], ∃ h x, xackHart base k = some h ∧ base.harts[h]? = some x) ∧
    (base.ring 3).waiting = [] ∧ ∀ off ∈ [0x5F000, 0x5F0FF], 0x5F000 ≤ off ∧ off < 0x5F100 := by
  refine ⟨by decide +kernel, by decide +kernel, fun k hk => ?_, rfl, by decide +kernel⟩
  simp only [List.mem_cons, List.not_mem_nil, or_false] at hk
  rcases hk with rfl | rfl | rfl | rfl | rfl | rfl <;> exact ⟨_, _, rfl, rfl⟩

/-- The host's queue with entries popped and waiting. -/
def hosting (arm : Bool) (l p : List FEntry) (low : Word) : State :=
  { base with faults := { base.faults with arm, host := l, popped := p, doneLow := low } }
/-- The armed and the idle latch; a whole write and a write of the high half, with a cause and with none, for an entry
popped, one that waits, and none; the home of its page alone with it, and with an entry of the page. -/
theorem test_HostFaultQueue_met :
    ((0x80000000 : Word).getLsbD 31 = true ∧ (0x7FFFFFFF : Word).getLsbD 31 = false ∧ (1 : Word).getLsbD 0 = true ∧ (2 : Word).getLsbD 0 = false) ∧
    (∀ l ∈ [[], [someEntry 0]], ∀ a ∈ [false, true], (hosting a l [] 0).faults.arm = a ∧ (hosting a l [] 0).faults.host = l) ∧
    (∀ low : Word, ∀ x ∈ [FqhWrite.full ((5 : Word) ++ low), .high 5],
      (x = .full ((5 : Word) ++ low) ∨ x = .high 5 ∧ (hosting true [] [] low).faults.doneLow = low)) ∧
    (∀ s ∈ [hosting true [someEntry 0] [] 0, hosting true [] [someEntry 0] 0],
      (s.faults.popped ++ s.faults.host).find? (fun e => BitVec.ofNat 32 e.seq == (5 : Word)) = some (someEntry 0) ∧
      (s.faults.popped ++ s.faults.host).find? (fun e => BitVec.ofNat 32 e.seq == (6 : Word)) = none) ∧
    (∀ c, c = homeOfPage base.build (someEntry 0).vpn →
      (∀ k ∈ [fqKey c false, fqKey c true], ∀ x ∈ ((hosting true [] [] 0).fq k).entries, x.isFor 1 0 = false) ∧
      (∀ v ∈ (hosting true [] [] 0).faults.served, v.chiplet = c → v.entry.isFor 1 0 = false) ∧
      ∃ y ∈ ((faulting [someEntry 0] [] base).fq (fqKey c false)).entries, y.isFor 1 0 = true) := by
  refine ⟨by decide +kernel, by decide +kernel, fun low x hx => ?_, by decide +kernel, ?_⟩
  · simp only [List.mem_cons, List.not_mem_nil, or_false] at hx
    exact hx.imp id fun h => ⟨h, rfl⟩
  · rintro c rfl
    decide +kernel

/-! ### Hypotheses of the statements on the fabric and management -/

/-- An operation of node n on a path, of bytes at a local address. -/
def someOp (put : Bool) (va len path node : Nat) (atom : Option (GRef × Nat × DWord)) : FabOp :=
  ⟨4, 1, 0, put, va, len, 0, 0, 0, 1, true, BitVec.ofNat 256 (1 + path * 2 ^ 110 + node * 2 ^ 112 + 2 ^ 136 + 5 * 2 ^ 144 + 2 ^ 172), none, atom, none⟩
/-- A machine with operations under way, planes that are down, and node 2 declared dead. -/
def fabricOf (ops : List FabOp) (planes : List Nat) : State :=
  { base with fabric := { base.fabric with ops, dead := [2], planesDown := planes } }
/-- A request for export 1 of interface 0 with key 5. -/
def someAsk (kind : WinKind) (off len n : Nat) (notify : Bool) : WindowReq :=
  { vif := 0, exp := 1, key := 5, kind, off, len, data := List.replicate n 1, notify, op := .add, src := 3, tag := 4 }
/-- A machine with that export, of 65,536 bytes at 0x4000, some of its rights, and a key. -/
def exporting (rights key : Nat) : State :=
  { base with fabric := { base.fabric with windows := [(257, BitVec.ofNat 256 (rights + 2 ^ 40 + 0x4000 * 2 ^ 72 + key * 2 ^ 144 + 2 ^ 172))] } }

/-- A path that does not reach its node, a dead node, and both planes down; an end with and without a cause, of both
directions; the last and not the last lane of an atomic. -/
theorem test_FabricEnds_met :
    (∀ p ∈ [(0, 512, []), (1, 2, []), (0, 3, [0, 1]), (2, 2, [])], ∃ o,
      (fabricOf [someOp true 0x41F0 64 p.1 p.2.1 none] p.2.2).fabric.ops.find? (fun o => o.id == 4) = some o ∧ o.dropped = none ∧ o.atom = none ∧
      pathFails (fabricOf [someOp true 0x41F0 64 p.1 p.2.1 none] p.2.2) (impPath o.entry) (impNode o.entry) = true) ∧
    (∀ put ∈ [true, false], ∀ p ∈ [(0, 511, [0]), (3, 0xFFFF, [0, 1])], ∃ o,
      (fabricOf [someOp put 0x41F0 64 p.1 p.2.1 none] p.2.2).fabric.ops.find? (fun o => o.id == 4) = some o ∧ o.dropped = none ∧ o.atom = none ∧
      o.put = put ∧ pathFails (fabricOf [someOp put 0x41F0 64 p.1 p.2.1 none] p.2.2) (impPath o.entry) (impNode o.entry) = false ∧
      (fabReady (fabricOf [someOp put 0x41F0 64 p.1 p.2.1 none] p.2.2) o
        (fabPlaces (fabricOf [someOp put 0x41F0 64 p.1 p.2.1 none] p.2.2) o) matches .go) = true) ∧
    ((8 : Cause) ≠ cRemoteDeclined ∧ (8 : Cause) ≠ cPasidGone ∧ (0 : Cause) ≠ cRemoteDeclined ∧ (0 : Cause) ≠ cPasidGone) ∧
    ∀ l ∈ [[], [{ someOp true 0 4 0 3 (some (⟨1, 0⟩, 7, 0x2000)) with id := 5 }]], ∃ o g,
      (fabricOf (someOp true 0x4000 4 0 3 (some (⟨1, 0⟩, 3, 0x2000)) :: l) []).fabric.ops.find? (fun o => o.id == 4) = some o ∧ o.dropped = none ∧
      o.atom = some (⟨1, 0⟩, 3, 0x2000) ∧
      (fabricOf (someOp true 0x4000 4 0 3 (some (⟨1, 0⟩, 3, 0x2000)) :: l) []).group ⟨1, 0⟩ = some g ∧
      pathFails (fabricOf (someOp true 0x4000 4 0 3 (some (⟨1, 0⟩, 3, 0x2000)) :: l) []) (impPath o.entry) (impNode o.entry) = false := by
  refine ⟨fun p hp => ?_, fun put h p hp => ?_, by decide, fun l hl => ?_⟩
  · simp only [List.mem_cons, List.not_mem_nil, or_false] at hp
    rcases hp with rfl | rfl | rfl | rfl <;> exact ⟨_, rfl, rfl, rfl, by decide +kernel⟩
  · simp only [List.mem_cons, List.not_mem_nil, or_false] at hp h
    rcases h with rfl | rfl <;> rcases hp with rfl | rfl <;> exact ⟨_, rfl, rfl, rfl, rfl, by decide +kernel, by decide +kernel⟩
  · simp only [List.mem_cons, List.not_mem_nil, or_false] at hl
    rcases hl with rfl | rfl <;> exact ⟨_, _, rfl, rfl, rfl, rfl, by decide +kernel⟩

/-- Whether an entry of the machine admits a request (R409). -/
def admitsB (s : State) (x : WindowReq) : Bool :=
  let e := s.win (512 * x.vif + 256 + x.exp)
  decide (winValid e = true ∧ winKeyOf e = x.key ∧ x.off + x.len ≤ expBytes e ∧ (x.kind = .put ∨ x.kind = .atomic → bvGet e 1 1 = 1) ∧
    (x.kind = .get ∨ x.kind = .atomic ∧ x.notify = true → bvGet e 2 1 = 1))
/-- Each right, the last bytes of the export and one past them, another key, and an entry that is not valid. -/
theorem test_FabricRequests_met :
    (∀ p ∈ [(exporting 7 5, someAsk .put 65532 4 4 true, true), (exporting 7 5, someAsk .put 65533 4 4 true, false),
        (exporting 5 5, someAsk .put 0 4 4 true, false), (exporting 5 5, someAsk .get 0 4 0 false, true), (exporting 3 5, someAsk .get 0 4 0 false, false),
        (exporting 3 5, someAsk .atomic 65528 8 16 false, true), (exporting 3 5, someAsk .atomic 65528 8 16 true, false),
        (exporting 7 6, someAsk .put 0 4 4 true, false), (exporting 6 5, someAsk .put 0 4 4 true, false)],
      p.2.1.src ∉ p.1.fabric.dead ∧ winForm p.2.1 = true ∧ (∀ w ∈ p.1.fabric.waiting, w.req ≠ p.2.1) ∧ admitsB p.1 p.2.1 = p.2.2) ∧
    (∀ x ∈ [someAsk .put 508 8 8 true, someAsk .get 0x8000 4 0 false, someAsk .atomic 0x8000 8 16 true],
      (((grainsOf (0x4000 + x.off) x.len).map fun g => (g, place (exporting 7 5) 1 (512 * g) (winUse x))).all fun y => match y.2 with
        | .at pa _ => !((exporting 7 5).engineOwned pa) && regionReady (exporting 7 5) pa && !(pageWaits (exporting 7 5) 1 (y.1 / 128))
            && !(firstReach (exporting 7 5) x.src (homeOf base.build pa)) && (runOf (4 * y.1) 4).all fun n => !(lineBusy (exporting 7 5) n)
        | _ => false) = true) := by
  refine ⟨by decide +kernel, by decide +kernel⟩

/-- A machine that has asked for the declaration of node 3 at a cycle. -/
def asking (asked clock : Nat) : State :=
  { base with clock, fabric := { base.fabric with dead := [2], silent := [(3, asked)] } }
/-- Nodes that cannot be declared; the request as old as its limit, and one cycle younger; a node that returns. -/
theorem test_FabricMembership_met :
    (∀ n ∈ [0, (asking 1 0).fabric.nodeId.toNat, 512, 2], ¬(n ≠ 0 ∧ n ≠ (asking 1 0).fabric.nodeId.toNat ∧
      n / 512 = (asking 1 0).fabric.nodeId.toNat / 512 ∧ n ∉ (asking 1 0).fabric.dead)) ∧
    (∀ n ∈ [3, 511], n ≠ 0 ∧ n ≠ (asking 1 0).fabric.nodeId.toNat ∧ n / 512 = (asking 1 0).fabric.nodeId.toNat / 512 ∧ n ∉ (asking 1 0).fabric.dead) ∧
    (∀ p ∈ [(1, 1 + declareCycles, true), (1, declareCycles, false)], Sparse.get 0 (asking p.1 p.2.1).fabric.silent 3 = 1 ∧
      decide (Sparse.get 0 (asking p.1 p.2.1).fabric.silent 3 + declareCycles ≤ (asking p.1 p.2.1).clock) = p.2.2) ∧
    (Sparse.get 0 (asking 1 0).fabric.silent 4 = 0 ∧ 2 ∈ (asking 1 0).fabric.dead ∧ ∀ e ∈ (asking 1 0).dir.owners, e.2 ≠ some (.node 3)) := by
  decide +kernel

/-- A machine with and without RSTISO, whose PASID belongs to interface 0, bound to the device or to the host. -/
def managed (iso : Bool) (v : DWord) : State :=
  { base with vifs := [(0, v)], mgt := { base.mgt with boot := if iso then 1 else 0, started := iso, minVersion := 1 } }
theorem test_Management_met :
    (∀ p ∈ [(true, 2 ^ 62), (true, 0), (false, 0)], (managed p.1 (BitVec.ofNat 64 p.2)).mgt.boot.getLsbD 0 = p.1 ∧
      (managed p.1 (BitVec.ofNat 64 p.2)).mgt.started = p.1 ∧
      ((∀ q ∈ activePasids (managed p.1 (BitVec.ofNat 64 p.2)), hostBound (managed p.1 (BitVec.ofNat 64 p.2))
        (pasidEntry (managed p.1 (BitVec.ofNat 64 p.2)) q).vif = false) ↔ p.2 ≠ 0)) ∧
    (∀ v < 64, ((Sparse.get (0 : DWord) (managed true ((1 : DWord) <<< 62)).vifs v).getLsbD 62 = true ↔ v = 0)) ∧
    (∃ x : BootImage, ¬(Config.rsaVerifies x.image x.rsaKey = true ∧ Config.slhVerifies x.image x.slhKey = true ∧
      Config.sha384 x.rsaKey = (managed false 0).mgt.rsaHash ∧ Config.sha384 x.slhKey = (managed false 0).mgt.slhHash ∧
      (managed false 0).mgt.minVersion ≤ x.version)) ∧
    (∀ (x : BootImage), Config.rsaVerifies x.image x.rsaKey = true → Config.slhVerifies x.image x.slhKey = true →
      ∃ s : State, s.mgt.started = false ∧ Config.sha384 x.rsaKey = s.mgt.rsaHash ∧ Config.sha384 x.slhKey = s.mgt.slhHash ∧
        s.mgt.minVersion ≤ x.version) ∧
    (∀ i ∈ [0, 6, 7, 15], (base.mgt.meas[i]?).isSome = true) := by
  refine ⟨by decide +kernel, by decide +kernel, ⟨{ image := [], rsaKey := [], slhKey := [], version := 0, segments := [], rstIso := false, failCode := 1 }, ?_⟩,
    fun x _ _ => ⟨{ managed false 0 with mgt := { (managed false 0).mgt with rsaHash := Config.sha384 x.rsaKey, slhHash := Config.sha384 x.slhKey,
                                                                             minVersion := 0 } }, rfl, rfl, rfl, Nat.zero_le _⟩, ?_⟩
  · exact fun h => absurd h.2.2.2.2 (by decide)
  · decide +kernel

/-! ### Hypotheses of the statements on events -/

/-- A group at an address, some of its memory PAGED and not resident. -/
def fetching (pc : Nat) : State :=
  ranged 2 (withGroup [] fun g => { g with lanes := g.lanes.map fun l => { l with pc := BitVec.ofNat 64 pc } })
/-- A group with a result under way. -/
def landing (wait : Nat) : State :=
  withGroup [] fun g => { g with deferred := [⟨3, [7, 127], [63], [(0, 7, 5), (7, 127, 6)], [(63, 9)], 1, wait⟩] }
/-- A pc that is not a multiple of four; an address past the last; a first and a last word of a page that is not
there. -/
theorem test_FetchFaults_met :
    (∃ c, Issues (fetching 0x2002) c {} false ∧ c.pc.toNat % 4 ≠ 0) ∧
    (∃ c, Issues (fetching (2 ^ 56)) c {} false ∧ c.pc.toNat % 4 = 0 ∧
      (place (fetching (2 ^ 56)) c.t.pasid c.pc.toNat .fetch matches .trap _ _) = true) ∧
    (∃ c, Issues (fetching (2 ^ 56 - 4)) c {} false ∧ c.pc.toNat % 4 = 0 ∧
      (place (fetching (2 ^ 56 - 4)) c.t.pasid (c.pc + 4).toNat .fetch matches .trap _ _) = true) ∧
    (∃ c, Issues (fetching 0x80000) c {} false ∧ c.pc.toNat % 4 = 0 ∧
      (place (fetching 0x80000) c.t.pasid c.pc.toNat .fetch matches .miss _ _ _) = true) ∧
    ∃ c, Issues (fetching 0x7FFFC) c {} false ∧ c.pc.toNat % 4 = 0 ∧
      (place (fetching 0x7FFFC) c.t.pasid (c.pc + 4).toNat .fetch matches .miss _ _ _) = true :=
  ⟨issues_with (by decide +kernel), issues_with (by decide +kernel), issues_with (by decide +kernel), issues_with (by decide +kernel),
    issues_with (by decide +kernel)⟩

/-- A team of which group 0 has exited and group 1 holds its registers or has released them. -/
def releasing (place : Place) (other : Bool) : State :=
  machine [] fun t => { t with
    place, groups := [{ groupOf [] with lanes := (List.range 8).map fun L => { laneOf L with exited := true } }, { groupOf [] with released := other }] }
/-- A team whose issue has stopped for n cycles. -/
def hung (n : Nat) (place : Place) : State :=
  machine [] fun t => { t with hang := n, place, groups := [{ groupOf [] with inHandler := true, frame := some someFrame }, groupOf []] }
theorem test_GroupEvents_met :
    (∀ wait ∈ [0, 1], ∃ g d, (landing wait).group ⟨1, 0⟩ = some g ∧ g.deferred[0]? = some d ∧ d.wait = wait ∧ g.pending = none ∧
      (d.lanes.map fun e => (e.1, e.2.1)).Nodup ∧ (d.unis.map fun e => e.1).Nodup ∧ ∀ e ∈ d.lanes, e.1 < g.lanes.length) ∧
    (∀ n ∈ [100, 101], ∃ t, ((base.adjCore 0 fun k => { k with sfuHeld := [(0, [⟨1, 0⟩])], sfuUntil := n }).core 0).sfuHeld = (0, [⟨1, 0⟩]) :: [] ∧
      ((base.adjCore 0 fun k => { k with sfuHeld := [(0, [⟨1, 0⟩])], sfuUntil := n }).core 0).sfuUntil = n ∧
      ∀ r ∈ [(⟨1, 0⟩ : GRef)], (base.adjCore 0 fun k => { k with sfuHeld := [(0, [⟨1, 0⟩])], sfuUntil := n }).team r.team = some t) ∧
    (∀ p ∈ [(Place.ended, true), (.ended, false), (.running, true)], ∃ t g, (releasing p.1 p.2).team 1 = some t ∧ t.groups[0]? = some g ∧
      g.exited = true ∧ g.deferred = [] ∧ ((t.place = .ended ∧ teamQuiet ((releasing p.1 p.2).adjGroup ⟨1, 0⟩ fun g => { g with
        uregs := [], released := true, lanes := g.lanes.map fun l => { l with regs := [] }, badV := [], badU := [] }) t = true ∧
        ∀ h ∈ t.groups.drop 1, h.released = true) ↔ p = (.ended, true))) ∧
    (∃ g, (withGroup [] fun g => { g with refused := some ⟨cGrain, 0x4000, 0, 0, 0⟩ }).group ⟨1, 0⟩ = some g ∧
      g.refused = some ⟨cGrain, 0x4000, 0, 0, 0⟩ ∧ g.pending = none) ∧
    ∀ p ∈ [(2 ^ 26 - 1, Place.running), (2 ^ 26, .running), (2 ^ 26, .saved)], ∃ t, (hung p.1 p.2).team 1 = some t ∧ t.hang = p.1 ∧
      t.place = p.2 ∧ ((t.groups.zipIdx.filter fun gi => !gi.1.exited).map (·.2)) = [0, 1] := by
  refine ⟨fun w hw => ?_, fun n hn => ?_, fun p hp => ?_, ⟨_, rfl, rfl, rfl⟩, fun p hp => ?_⟩
  · simp only [List.mem_cons, List.not_mem_nil, or_false] at hw
    rcases hw with rfl | rfl <;> exact ⟨_, _, rfl, rfl, by decide +kernel⟩
  · simp only [List.mem_cons, List.not_mem_nil, or_false] at hn
    rcases hn with rfl | rfl <;> exact ⟨base.teams.headD (placeTeam base 1), by decide +kernel⟩
  · simp only [List.mem_cons, List.not_mem_nil, or_false] at hp
    rcases hp with rfl | rfl | rfl <;> exact ⟨_, _, rfl, rfl, by decide +kernel⟩
  · simp only [List.mem_cons, List.not_mem_nil, or_false] at hp
    rcases hp with rfl | rfl | rfl <;> exact ⟨_, rfl, rfl, rfl, by decide +kernel⟩

/-- An entry that a core has logged for the team. -/
def someLogged : GutterEntry := ⟨1, 0, 1, ⟨.st, 0x80000, [1, 2, 3, 4], 0, 0, false, .add, false, 0, 0, 90, (0, 0), 0⟩, 4, true, 90⟩
/-- A team that is preempted, with entries in its core's Gutter and a spill region of n entries. -/
def preempted (l : List GutterEntry) (n : Nat) (f : Group → Group) : State :=
  let s := (machine [] fun t => { t with place := .preempting, groups := t.groups.map f }).adjCore 0 fun k => { k with gutter := l }
  { s with faults := { s.faults with gspSize := [(0, BitVec.ofNat 32 n)] } }
/-- R351, R370: the record of a spilled entry: MASK in bits 255:224, DATA above, VA<55:5> from bit 173, PASID from 153;
the ring's next record goes behind it. -/
theorem test_spilled_record :
    let s := writeSpill (preempted [] 2 id) 0 [someLogged]
    readLE s.mem 28 4 = 0xF ∧ readLE s.mem 32 8 = 0x04030201 ∧ readLE s.mem 0 28 / 2 ^ 173 = 0x80000 / 32 ∧
      readLE s.mem 0 28 / 2 ^ 153 % 2 ^ 20 = 1 ∧ readLE s.mem 64 64 = 0 ∧ Sparse.get 0 s.faults.spillNext 0 = 1 := by decide +kernel
/-- A team that is preempted, of the instance of a queue whose slot preempts or of none. -/
def preemptedOf (inst : Nat) : State :=
  let s := (machine [] fun t => { t with place := .preempting, inst }).adjSlot 127 fun _ =>
    { QSlot.reset with state := .stopping, preempting := true, qcb := BitVec.ofNat 1024 (qcbOf 0 1 4 0) }
  { s with insts := [someInst 0 0 [] [] [] [] []] }
/-- A team that is saved, and its queue in a slot that runs or has stopped. -/
def saved (st : SlotState) : State :=
  let s := (machine [] fun t => { t with place := .saved, inst := 1 }).adjSlot 127 fun _ =>
    { QSlot.reset with state := st, qcb := BitVec.ofNat 1024 (qcbOf 0 1 4 0) }
  { s with insts := [someInst 0 0 [] [] [] [] []] }
theorem test_SaveAndResume_met :
    (∀ p ∈ [([], 0, true), ([someLogged], 1, true), ([someLogged], 0, false)], ∃ t, (preempted p.1 p.2.1 id).team 1 = some t ∧
      readyToSave (preempted p.1 p.2.1 id) t = true ∧
      ((((preempted p.1 p.2.1 id).core t.core).gutter.filter fun e => e.team == 1) = [] ∨
        spillUse ([] ++ ((preempted p.1 p.2.1 id).core t.core).gutter.filter fun e => e.team == 1)
          ≤ (Sparse.get 0 (preempted p.1 p.2.1 id).faults.gspSize 0).toNat ↔ p.2.2 = true)) ∧
    (∃ t, (preempted [] 0 fun g => { g with park := some (.waitg 5 4080 1 true) }).team 1 = some t ∧
      readyToSave (preempted [] 0 fun g => { g with park := some (.waitg 5 4080 1 true) }) t = false) ∧
    (∀ inst ∈ [0, 1], ∃ t, (preemptedOf inst).team 1 = some t ∧ readyToSave (preemptedOf inst) t = true ∧
      saveArea (preemptedOf inst) t = if inst = 1 then some 0 else none) ∧
    ∀ st ∈ [SlotState.running, .stopped], ∃ t, (saved st).team 1 = some t ∧ t.place = .saved ∧
      canResume (saved st) (clusterLive (saved st) t.clusterKey) = decide (st = .running) ∧
      findRect (chipletOfCore t.core) t.clusterW t.clusterH (fun core i =>
        match (clusterLive (saved st) t.clusterKey).find? (fun u => u.clusterTeam == i) with
        | some u => coreFits (saved st) core u.shape
        | none => true) = some [0] := by
  refine ⟨fun p hp => ?_, ⟨_, rfl, by decide +kernel⟩, fun inst hi => ?_, fun st h => ?_⟩
  · simp only [List.mem_cons, List.not_mem_nil, or_false] at hp
    rcases hp with rfl | rfl | rfl <;> exact ⟨_, rfl, by decide +kernel⟩
  · simp only [List.mem_cons, List.not_mem_nil, or_false] at hi
    rcases hi with rfl | rfl <;> exact ⟨_, rfl, by decide +kernel⟩
  · simp only [List.mem_cons, List.not_mem_nil, or_false] at h
    rcases h with rfl | rfl <;> exact ⟨_, rfl, rfl, by decide +kernel⟩

/-- A store queue's entry. -/
def queuedEntry (k : SqKind) (va stamp : Nat) : SqEntry := ⟨k, va, [1, 2, 3, 4], 0, 0, false, .add, false, 0, 1, stamp, (7, 0x2000), 0⟩
/-- A group with a store queue, and its core's Gutter. -/
def storing (q : List SqEntry) (l : List GutterEntry) (park : Option Park) : State :=
  ranged 2 ((withGroup [] fun g => { g with storeQ := q, hold := 89, park }).adjCore 0 fun k => { k with gutter := l })
/-- A Gutter of n entries of another team, sixteen of them to a full grain. -/
def gutterOf (n : Nat) : List GutterEntry :=
  ((List.range (n / 16)).map fun i => { someLogged with team := 9, logged := i, e := { someLogged.e with kind := .stog } }) ++
    (List.range (n % 16)).map fun i => { someLogged with team := 9, logged := 100 + i }
/-- Two groups of a pack with the same store in their queues. -/
def behindQueue (k : SqKind) : State :=
  machine [] fun t => { t with groups := [{ groupOf [] with storeQ := [queuedEntry k 16 90] }, { groupOf [] with storeQ := [queuedEntry k 16 90] }] }
/-- Entries of each kind, with an earlier entry of the group in the Gutter or none; an address of each outcome; a Gutter
with one entry free and with none. -/
theorem test_StoreQueues_met :
    (∀ k ∈ [SqKind.team, .att, .clt, .bar, .st, .sto, .stog, .red], ∀ l ∈ [[], [someLogged]], ∃ t g,
      (storing [queuedEntry k 0x80000 90, queuedEntry .st 0x4000 91] l none).team 1 = some t ∧ t.groups[0]? = some g ∧ g.blocked = false ∧
      g.storeQ.filter (fun e => decide (g.hold < e.stamp)) = [queuedEntry k 0x80000 90, queuedEntry .st 0x4000 91] ∧
      (ownGutter (storing [queuedEntry k 0x80000 90, queuedEntry .st 0x4000 91] l none) t.core ⟨1, 0⟩ = [] ↔ l = []) ∧
      ((queuedEntry k 0x80000 90).isGlobal = true ↔ k ∉ [SqKind.team, .att, .clt, .bar]) ∧
      packEarlier t 0 (queuedEntry k 0x80000 90) = false ∧
      copiesHold (storing [queuedEntry k 0x80000 90, queuedEntry .st 0x4000 91] l none) ⟨1, 0⟩ = true ∧
      ((storing [queuedEntry k 0x80000 90, queuedEntry .st 0x4000 91] l none).core t.core).reqs = []) ∧
    (∀ k ∈ [SqKind.team, .att], ∃ t g, (behindQueue k).team 1 = some t ∧ t.groups[1]? = some g ∧ g.blocked = false ∧
      g.storeQ.filter (fun e => decide (g.hold < e.stamp)) = [queuedEntry k 16 90] ∧ packEarlier t 1 (queuedEntry k 16 90) = true) ∧
    (place { ranged 6 base with mem := writeLE (ranged 6 base).mem 0x104E 8 (devBase - 0x80000) } 1 0x80000 (queuedEntry .st 0x80000 90).use
      matches .at _ 6) = true ∧
    ((place base 1 0x4000 (queuedEntry .st 0x4000 90).use matches .at _ 1) = true ∧
      (place base 1 (2 ^ 56) (queuedEntry .st (2 ^ 56) 90).use matches .trap _ _) = true ∧
      (place (storing [] [] none) 1 0x80000 (queuedEntry .st 0x80000 90).use matches .miss _ _ _) = true ∧
      pageWaits base 1 0 = false ∧ regionReady base 0x4000 = true) ∧
    (∀ n ∈ [1023, 1024], ∃ t g, (storing [queuedEntry .st 0x80000 90] (gutterOf n) (some (.overflow 90))).team 1 = some t ∧
      t.groups[0]? = some g ∧
      gutterRoom (storing [queuedEntry .st 0x80000 90] (gutterOf n) (some (.overflow 90))) t ⟨1, 0⟩ (headRun g.leaving) = decide (n = 1023) ∧
      overflowWaits (storing [queuedEntry .st 0x80000 90] (gutterOf n) (some (.overflow 90))) 0 = [(90, ⟨1, 0⟩)]) ∧
    (nextReady (storing [] [someLogged] none) 0 = none ∧
      nextReady (storing [] [{ someLogged with e := queuedEntry .st 0x4000 90 }] none) 0 = some { someLogged with e := queuedEntry .st 0x4000 90 }) := by
  refine ⟨fun k hk l hl => ?_, fun k hk => ?_, by decide +kernel, by decide +kernel, fun n hn => ?_, by decide +kernel⟩
  · simp only [List.mem_cons, List.not_mem_nil, or_false] at hk hl
    rcases hk with rfl | rfl | rfl | rfl | rfl | rfl | rfl | rfl <;> rcases hl with rfl | rfl <;> exact ⟨_, _, rfl, rfl, by decide +kernel⟩
  · simp only [List.mem_cons, List.not_mem_nil, or_false] at hk
    rcases hk with rfl | rfl <;> exact ⟨_, _, rfl, rfl, by decide +kernel⟩
  · simp only [List.mem_cons, List.not_mem_nil, or_false] at hn
    rcases hn with rfl | rfl <;> exact ⟨_, _, rfl, rfl, by decide +kernel⟩

/-- A queue with a number of entries and an access that waits to post, entries in service and at the host. -/
def lateOf (n clock : Nat) : State :=
  { base with
    clock
    faults := { base.faults with
      queues := [(fqKey 0 false, ⟨List.replicate n (someEntry 0), 6, 0, [.group ⟨1, 0⟩ 1]⟩)], host := [someEntry 0]
      served := [someServed 1 false false 0] } }
/-- Room for one entry, and none; a deadline that passes now, and in the next cycle. -/
theorem test_Deadlines_met :
    (∀ n ∈ [1023, 1024], ((lateOf n 0).fq (fqKey 0 false)).starved = [.group ⟨1, 0⟩ 1] ∧
      ((lateOf n 0).fq (fqKey 0 false)).entries.length = n) ∧
    (∀ c ∈ [0, 1], ((lateOf 1 (9 + faultDeadline base 0 + c)).fq (fqKey 0 false)).entries[0]? = some (someEntry 0) ∧
      (lateOf 1 (9 + faultDeadline base 0 + c)).faults.served[0]? = some (someServed 1 false false 0) ∧
      ((lateOf 1 (9 + faultDeadline base 0 + c)).faults.host ++ (lateOf 1 (9 + faultDeadline base 0 + c)).faults.popped)[0]? = some (someEntry 0) ∧
      isLate (lateOf 1 (9 + faultDeadline base 0 + c)) (someEntry 0) = decide (c = 1)) := by decide +kernel

/-! ### Hypotheses of the statements on homes -/

/-- A machine with holders of lines 128 to 131 (grain 32), an owner of the grain, a dead node 2 and a node 3 that
returned. -/
def homed (owner : Option Holder) (reqs : List HomeReq) : State :=
  let s := base.adjCore 0 fun k => { k with reqs }
  { s with
    fabric := { s.fabric with dead := [2] }
    dir := { s.dir with lines := [(128, ⟨[.node 1], some (.chiplet 1)⟩)], owners := if owner = none then [] else [(32, owner)], returned := [(3, 0)] } }
/-- A request of a kind at an address. -/
def homeAsk (k : SqKind) (pa : Nat) (order : Order) (scope : Nat) : HomeReq :=
  { someReq with pa, order, result := if k = .att then some (1, 0, 4) else none, e := { someReq.e with kind := k, va := pa, scope } }
theorem test_HomeReads_met :
    ((homed none []).engineOwned (128 * 128) = false ∧ lineBusy (homed none []) 128 = false ∧ (4 ∉ (homed none []).fabric.dead ∧
      (4, homeOf base.build (128 * 128)) ∉ (homed none []).dir.returned)) ∧
    lineBusy (homed none [{ someReq with pa := 0x4000, unreached := [.node 1] }]) 128 = true ∧
    (2 ∈ (homed none []).fabric.dead ∧ 3 ∉ (homed none []).fabric.dead ∧ (3, homeOf base.build (128 * 128)) ∈ (homed none []).dir.returned) ∧
    (homed none []).rdcUse (.chiplet 0) < 131072 ∧
    ((homed none []).owner (128 / 4) = none ∧ (homed none []).owner (131 / 4) = none ∧
      ((homed none []).lineDir 128).fwd ≠ some (.chiplet 0) ∧ .chiplet 0 ∉ ((homed none []).lineDir 128).shared ∧
      ((homed none []).lineDir 128).fwd = some (.chiplet 1) ∧ .node 1 ∈ ((homed none []).lineDir 128).shared ∧
      ((homed none []).lineDir 131).fwd = none) ∧
    (((homed (some (.chiplet 1)) []).owner 32).isSome = true ∧ (homed none []).owner 33 = none ∧ (homed none []).engineOwned (33 * 512) = false ∧
      (copying fun s => { s with copies := [{ someJob 3 0 with grains := [33], held := true }] }).engineOwned (33 * 512) = true ∧
      ((copying fun s => { s with copies := [{ someJob 3 0 with grains := [33], held := true }] }).copies.find? fun c => c.grains.contains 33).isSome
        = true ∧ ∀ c ∈ (homed none []).copies, 33 ∉ c.grains) := by
  decide +kernel
/-- A store with no owner, with its own chiplet and with another one as owner; a full grain whose home is another
chiplet and its own; an atomic that acquires, at the least scope, and one that does not; a request that cannot be
delivered. -/
theorem test_HomeRequests_met :
    (∀ p ∈ [(homeAsk .st 0x4000 .rlx 0, none), (homeAsk .sto 0x4000 .rlx 0, some (Holder.chiplet 0)), (homeAsk .st 0x4000 .rlx 0, some (.chiplet 1)),
        (homeAsk .stog 0x20000 .rlx 0, none), (homeAsk .stog 0x4000 .rlx 0, some (.chiplet 1)), (homeAsk .att 0x4000 .acq 3, none),
        (homeAsk .att 0x4000 .acqrel 2, none), (homeAsk .red 0x4000 .rlx 3, some (.chiplet 1))],
      ((homed p.2 [p.1]).core 0).reqs[0]? = some p.1 ∧ reqReady (homed p.2 [p.1]) 0 0 p.1 = true ∧
      (homed p.2 [p.1]).owner (0x4000 / 512) = p.2) ∧
    (chipletOfCore 0 = 0 ∧ homeOf base.build 0x20000 ≠ 0 ∧ homeOf base.build 0x4000 = 0 ∧ 0x4000 < localBytes base.build ∧
      3 ≤ foldScope base.build 3 ∧ ¬3 ≤ foldScope base.build 2) ∧
    reqReady (homed none [{ homeAsk .st 0x4000 .rlx 0 with unreached := [.node 1] }]) 0 0 { homeAsk .st 0x4000 .rlx 0 with unreached := [.node 1] } = false ∧
    (∀ p ∈ [(homeAsk .st 0x407C .rlx 0, Holder.node 1), (homeAsk .stog 0x4180 .rlx 0, .chiplet 1), (homeAsk .claim 0x4000 .rlx 0, .node 1)],
      ((homed none [p.1]).core 0).reqs[0]? = some p.1 ∧
      ∃ l ∈ (if p.1.e.kind = .stog ∨ p.1.e.kind = .claim then runOf (p.1.pa / 512 * 4) 4 else linesOf p.1.pa p.1.e.len),
        ((homed none [p.1]).lineDir l).fwd = some p.2 ∨ p.2 ∈ ((homed none [p.1]).lineDir l).shared) := by
  decide +kernel
/-- A host region in a state, with a snoop that waits or none. -/
def regional (state : Nat) (l : List (Nat × Bool)) (clock : Nat) : State :=
  { base with regions := [(65535, ⟨state, 90, l⟩)], clock }
/-- Each state; a hold that ends now, and in the next cycle; the first and the last line of host memory. -/
theorem test_HostRegions_met :
    (∀ st ∈ [0, 1, 2, 3], ((regional st [] 0).region 65535).state = st) ∧
    (∀ c ∈ [8281, 8282], ((regional 1 [(hostBase, false)] c).region 65535).snoops ≠ [] ∧
      decide (((regional 1 [(hostBase, false)] c).region 65535).since + 8192 ≤ (regional 1 [(hostBase, false)] c).clock) = (c == 8282)) ∧
    (∀ pa ∈ [hostBase, hostBase + hostBytes - 1], hostBase ≤ pa ∧ pa < hostBase + hostBytes ∧ (regionOf pa = 65535 ∨ regionOf pa = 0)) := by
  decide +kernel

/-! ### Hypotheses of the statements on the machine as a whole -/

/-- A group with words at its pc, and the head of the schedule. -/
def fetched (ws : List Nat) (moves : List Move) : State :=
  { base with mem := (ws.zipIdx.foldl (fun m e => writeLE m (0x2000 + 4 * e.2) 4 e.1) base.mem), moves }
theorem test_StepKeepsMemoryCanonical_met :
    (∃ s', Memory.wf (fetched [0x0B040402] []).mem = true ∧ step (fetched [0x0B040402] []) = .next s') ∧
    ∃ s', step (fetched [] [.event (.qpktTimestamp 127)]) = .next s' ∧
      Memory.wf ({ queued (6 + 0x8000 * 2 ^ 64) base with moves := [.event (.qpktTimestamp 127)] } : State).mem = true := by
  obtain ⟨s, hs⟩ := next_of (o := step (fetched [0x0B040402] [])) (by decide +kernel)
  obtain ⟨t, ht⟩ := next_of (o := step (fetched [] [.event (.qpktTimestamp 127)])) (by decide +kernel)
  exact ⟨⟨s, by decide +kernel, hs⟩, t, ht, by decide +kernel⟩

/-- The last register numbers and immediates; one word and two; a fused sequence; each selector of an Xkrov word. -/
theorem test_DecodeOfEncode_met :
    (∀ i ∈ [Instr.movw ⟨true, 127, 0xFFFFFFFF⟩, .fadd ⟨true, 127, 127, .uni 63⟩, .exit true], Instr.wf i = true ∧ encode i ≠ [] ∧
      (∀ w, i ≠ .illegalWord w) ∧ (∀ x, i ≠ .fusedExpSum x) ∧ ¬isXkrov i) ∧
    Instr.wf (.fusedExpSum ⟨false, 127, 126, 125, 124⟩) = true ∧
    ∀ n ∈ [0, 1, 2, 3], (BitVec.ofNat 64 (2 ^ 64 - 4 + n) : DWord).toNat % 4 = n := by
  refine ⟨fun i hi => ?_, by decide +kernel, by decide +kernel⟩
  simp only [List.mem_cons, List.not_mem_nil, or_false] at hi
  rcases hi with rfl | rfl | rfl <;> refine ⟨by decide +kernel, by decide +kernel, fun w h => (by cases h), fun x h => (by cases h), ?_⟩ <;>
    · rintro ⟨x, y, sel, p, hp, h⟩
      simp only [xkrovWords, List.mem_cons, List.not_mem_nil, or_false] at hp
      rcases hp with rfl | rfl | rfl | rfl | rfl | rfl | rfl | rfl | rfl | rfl | rfl | rfl | rfl | rfl | rfl | rfl | rfl | rfl | rfl | rfl <;>
        cases h

/-- A lane word, two lane words and a uniform word at the pc of the group that acts, or of the core that acts; an
Xkrov word at the pc of a service core; each kind of move. -/
theorem test_StepRunsDecoded_met :
    (∀ a ∈ [Actor.group ⟨1, 0⟩, .core 0], ∀ p ∈ [([0x0B040402], false, false), ([0x0E020000, 0x01010101], true, false), ([0x80186140], false, true)],
      let s : State := { fetched p.1 [] with actor := a };
      let u := tick s 1;
      let k := u.adjCore 0 fun k => { k with pack := some ⟨0, [⟨1, 0⟩], false⟩ };
      s.moves = [] ∧ s.actor = a ∧ ∃ t, u.team 1 = some t ∧ ∃ g, t.groups[0]? = some g ∧
        (t.core = 0 ∧ t.place = .running ∧ g.stop = none ∧ g.park = none ∧ g.pending = none ∧ g.cands ≠ [] ∧ g.readyAt ≤ u.clock ∧
          u.sfuHolds 0 ⟨1, 0⟩ = false ∧ g.issueSet.2.toNat % 4 = 0) ∧
        selectOf u 0 = (if p.2.2 then ⟨[], [], [], some ⟨1, 0⟩⟩ else ⟨[], [⟨1, 0⟩], [], none⟩) ∧ seats u 0 = [⟨⟨1, 0⟩, t, g⟩] ∧
        (u.core 0).sfuHeld = [] ∧
        ∀ x ∈ [u, k], ∃ w, fetchWord x t 0 g.issueSet.2 = some w ∧ fetchFused x t 0 g g.issueSet.2 w = none ∧ isTwoWord w = p.2.1 ∧
          w.msb = p.2.2 ∧ (p.2.1 = true → headOk w = true ∧ fetchWord x t 0 (g.issueSet.2 + 4) = some 0x01010101)) ∧
    (decodeWords [0x0B040402] = .ok (.shli ⟨false, 2, 1, 2⟩, 1) ∧ decodeWords [0x0E020000, 0x01010101] = .ok (.movw ⟨false, 1, 0x01010101⟩, 2) ∧
      decodeWords [0x80186140] = .ok (.saluAdd ⟨false, 6, 6, 5⟩, 1)) ∧
    (let s := serving (core 0 3 0 []) fun s => { s with mem := writeLE s.mem 0x2000 4 0x0005B50B };
      s.moves = [] ∧ s.actor = .hart 1 ∧ s.harts[1]? = some (core 0 3 0 []) ∧ (core 0 3 0 []).wait = none ∧ s.mgt.started = true ∧
        (core 0 3 0 []).takesInterrupt = none ∧ fetchRv (tick s 1) (core 0 3 0 []) = (.half 0x0005B50B, 4) ∧
        decodeXkrov (BitVec.ofNat 32 0x0005B50B) ((core 0 3 0 []).reg (rvReg 0x0005B50B 20)) = some (.fqpop ⟨10, 11⟩)) ∧
    (isEvent (.drainCut 1) = true ∧ isEvent (.exit false) = false) := by
  have all : ∀ a ∈ [Actor.group ⟨1, 0⟩, .core 0], ∀ p ∈ [([0x0B040402], false, false), ([0x0E020000, 0x01010101], true, false), ([0x80186140], false, true)],
      let u := tick { fetched p.1 [] with actor := a } 1;
      let k := u.adjCore 0 fun k => { k with pack := some ⟨0, [⟨1, 0⟩], false⟩ };
      (u.team 1).any (fun t => (t.groups[0]?).any fun g =>
        decide ((t.core = 0 ∧ t.place = .running ∧ g.stop = none ∧ g.park = none ∧ g.pending = none ∧ g.cands ≠ [] ∧ g.readyAt ≤ u.clock ∧
          u.sfuHolds 0 ⟨1, 0⟩ = false ∧ g.issueSet.2.toNat % 4 = 0) ∧
          selectOf u 0 = (if p.2.2 then ⟨[], [], [], some ⟨1, 0⟩⟩ else ⟨[], [⟨1, 0⟩], [], none⟩) ∧ seats u 0 = [⟨⟨1, 0⟩, t, g⟩] ∧
          (u.core 0).sfuHeld = []) &&
        [u, k].all fun x => (fetchWord x t 0 g.issueSet.2).any fun w =>
          decide (fetchFused x t 0 g g.issueSet.2 w = none ∧ isTwoWord w = p.2.1 ∧ w.msb = p.2.2 ∧
            (p.2.1 = true → headOk w = true ∧ fetchWord x t 0 (g.issueSet.2 + 4) = some 0x01010101))) = true := by decide +kernel
  refine ⟨fun a ha p hp => ⟨rfl, rfl, ?_⟩, by decide +kernel, by decide +kernel, by decide +kernel⟩
  obtain ⟨t, ht, h⟩ := some_of_any (all a ha p hp)
  obtain ⟨g, hg, h⟩ := some_of_any h
  rw [Bool.and_eq_true, List.all_eq_true] at h
  obtain ⟨h1, h2, h3, h4⟩ := of_decide_eq_true h.1
  refine ⟨t, ht, g, hg, h1, h2, h3, h4, fun x hx => ?_⟩
  obtain ⟨w, hw, h⟩ := some_of_any (h.2 x hx)
  exact ⟨w, hw, of_decide_eq_true h⟩

/-! ### One step each, with the results that the spec's examples print -/

/-- A group whose lanes have some registers, with a part of them active. -/
def lanesWith (active : List Nat) (v : Nat → List (Nat × Nat)) (us : List (Nat × Nat)) : State :=
  machine us fun t => { t with groups := t.groups.map fun g => { g with
    lanes := (List.range 8).map fun L => (v L).foldl (fun l e => l.setReg e.1 (BitVec.ofNat 32 e.2))
      { laneOf L with regs := [], exited := !(active.contains L) } } }
/-- The acting group after an instruction, with its result landed. -/
noncomputable def grpAfter (o : Out) : Option Group :=
  match o with
  | .next s => match exec (.deferredResultLand ⟨⟨1, 0⟩, 0⟩) s with
    | .next t => t.group ⟨1, 0⟩
    | _ => none
  | _ => none
/-- The values of a register in some lanes after an instruction. -/
noncomputable def regAfter (o : Out) (ls : List Nat) (v : Nat) : List Nat :=
  match grpAfter o with
  | some g => ls.map fun L => (g.readLane L v).toNat
  | none => []

/-- Section 04: the signed nibble of 0xB7. -/
theorem test_bfes_example : regAfter (exec (.bfes ⟨false, 7, 6, .uni 6⟩) (lanesWith [0] (fun _ => [(6, 0xB7)]) [(6, 0x0404)])) [0] 7
    = [0xFFFFFFFB] := by decide +kernel
/-- Section 05: FFMA rounds once: with a = 1.0 the tie returns 1.0. -/
theorem test_ffma_example : regAfter (exec (.ffma ⟨false, 4, 3, .uni 12⟩)
      (lanesWith [0] (fun _ => [(4, 0x3F800000), (3, 0x3F800000)]) [(12, 0x33800000)])) [0] 4 = [0x3F800000] := by decide +kernel
/-- Section 05: four FP32 values to E4M3. -/
theorem test_pcvt_example : (grpAfter (exec (.pcvt ⟨false, 8, 0, .e4m3, .fp32, .rne, true⟩)
      (lanesWith [0] (fun _ => [(0, 0x3F800000), (1, 0x43E60000), (2, 0x43FA0000), (3, 0xBA83126F)]) []))).map
      (fun g => (g.readLane 0 8, g.fflags)) = some (0x817E7E38, 7) := by decide +kernel
theorem test_pcvt_unsaturated_example : regAfter (exec (.pcvt ⟨false, 8, 0, .e4m3, .fp32, .rne, false⟩)
      (lanesWith [0] (fun _ => [(0, 0x3F800000), (1, 0x43E60000), (2, 0x43FA0000), (3, 0xBA83126F)]) [])) [0] 8 = [0x817F7E38] := by
  decide +kernel
/-- Section 03: RS of 0x3F80E000 to BF16 from the state 1. -/
theorem test_rs_example : (grpAfter (exec (.cvt ⟨false, 8, 0, .bf16, .fp32, .rs, false⟩)
      ((lanesWith [0] (fun _ => [(0, 0x3F80E000)]) []).adjGroup ⟨1, 0⟩ fun g => { g with lanes := g.lanes.map fun l => { l with rng := 1 } }))).map
      (fun g => (g.readLane 0 8, (g.lane 0).rng)) = some (0x3F81, 0x00042021) := by decide +kernel
/-- Section 05: RAND from the state 1. -/
theorem test_rand_example : regAfter (exec (.rand ⟨false, 2⟩)
      ((lanesWith [0] (fun _ => []) []).adjGroup ⟨1, 0⟩ fun g => { g with lanes := g.lanes.map fun l => { l with rng := 1 } })) [0] 2
    = [0x00042021] := by decide +kernel
/-- Section 05: one fused step in two lanes. -/
theorem test_fused_example : (grpAfter (exec (.fusedExpSum ⟨false, 10, 11, 12, 13⟩)
      (lanesWith [0, 1] (fun L => [(10, 0x3F800000), (11, if L = 0 then 0x40400000 else 0xBF800000), (13, 0x40000000)]) []))).map
      (fun g => [0, 1].map fun L => ((g.readLane L 10).toNat, (g.readLane L 12).toNat, (g.readLane L 13).toNat))
    = some [(0x40400000, 0x3F800000, 0x40400000), (0x3F800000, 0x3E800000, 0x40100000)] := by decide +kernel

/-- Section 06: tiles of 4 with lanes 2 and 5 inactive. -/
def tiled : State :=
  (lanesWith [0, 1, 3, 4, 6, 7] (fun L => [(2, [0, 1, 1, 0, 1, 1, 1, 1].getD L 0), (3, 10 + L)]) [(7, 1)]).adjGroup ⟨1, 0⟩ fun g => { g with tile := 4 }
theorem test_votes_example :
    regAfter (exec (.any ⟨false, 8, 2⟩) tiled) [0, 1, 3, 4, 6, 7] 8 = [1, 1, 1, 1, 1, 1] ∧
    regAfter (exec (.all ⟨false, 8, 2⟩) tiled) [0, 1, 3, 4, 6, 7] 8 = [0, 0, 0, 1, 1, 1] ∧
    regAfter (exec (.ballot ⟨false, 8, 2⟩) tiled) [0, 1, 3, 4, 6, 7] 8 = [2, 2, 2, 0xD, 0xD, 0xD] ∧
    regAfter (exec (.uni ⟨false, 8, 2⟩) tiled) [0, 1, 3, 4, 6, 7] 8 = [0, 0, 0, 1, 1, 1] := by decide +kernel
theorem test_exchange_example :
    regAfter (exec (.shflDown ⟨false, 8, 3, .uni 7⟩) tiled) [0, 1, 3, 4, 6, 7] 8 = [11, 12, 13, 15, 17, 17] ∧
    regAfter (exec (.reduce ⟨false, 8, 3, .iadd⟩) tiled) [0, 1, 3, 4, 6, 7] 8 = [34, 34, 34, 47, 47, 47] ∧
    regAfter (exec (.scan ⟨false, 8, 3, .iadd, true⟩) tiled) [0, 1, 3, 4, 6, 7] 8 = [0, 10, 21, 0, 14, 30] := by decide +kernel
/-- Section 03: a float sum in the order of the tree. -/
theorem test_reduce_example : regAfter (exec (.reduce ⟨false, 8, 3, .fadd⟩)
      (lanesWith [0, 1, 3, 4, 6, 7] (fun L => [(3, if L = 0 then 0x4B800000 else 0x3F800000)]) [])) [0, 7] 8 = [0x4B800002, 0x4B800002] := by
  decide +kernel
/-- Section 03: 64 products of 0.5 on a large accumulator, and a product that a cancellation leaves too small. -/
theorem test_accumulate_example :
    (floatAccumulate ((List.replicate 64 (f32 0x3F000000)) ++ [f32 0x4B800000])).1 = 0x4B800010 ∧
    (floatAccumulate [f32 0x3F800000, f32 0xBF800000, (fMul (f32 0x30800000) (f32 0x30800000)).addend]).1 = 0 := by decide +kernel

end Sys2Proof.Tests
end

section
/-! Every step keeps the memory in its canonical form (O57). A state is canonical when its memory is (log 3); a result
is canonical when the states it holds are. Each function of the model that passes a state on keeps it canonical: most
leave the memory alone, and those that write it go through `homeWrite`, `homeStore`, `clearRange`, `writeLE` and the
other writers, whose `wf` lemmas stand above. -/

namespace Sys2Proof.Machine

/-! ### Canonical states and results -/

/-- The memory of a state is in its canonical form (log 3). -/
def State.Canon (s : State) : Prop := Memory.wf s.mem = true
/-- What an instruction or event leaves is canonical; a fault and a refusal leave no state. -/
def Out.Canon : Out → Prop
  | .next s => s.Canon
  | _ => True
/-- What the body of an issued instruction leaves is canonical. -/
def Res.Canon : Res → Prop
  | .ok s => s.Canon
  | .moved s => s.Canon
  | .trap _ => True
  | .park _ s => s.Canon
/-- What the body of a service core's instruction leaves is canonical. -/
def HRes.Canon : HRes → Prop
  | .done s _ => s.Canon
  | .trap _ _ => True
  | .again s => s.Canon
/-- What a queue packet leaves is canonical. -/
def PktRes.Canon : PktRes → Prop
  | .next s => s.Canon
  | .stay s => s.Canon
/-- What an actor's turn leaves, or runs its instruction in, is canonical. -/
def Turn.Canon : Turn → Prop
  | .idle s => s.Canon
  | .run _ s => s.Canon
/-- What posting a fault leaves is canonical. -/
def Posted.Canon : Posted → Prop
  | .done s => s.Canon
  | .full => True
/-- What translating a completion address leaves is canonical. -/
def EndAddr.Canon : EndAddr → Prop
  | .pa _ s => s.Canon
  | .wait s => s.Canon
  | .gone => True
/-- What the home makes of a request is canonical. -/
def HomeRes.Canon : HomeRes → Prop
  | .wait => True
  | .done s => s.Canon
  | .refused s _ _ _ => s.Canon
/-- What translating a packet's address leaves is canonical. -/
def SlotAddr.Canon : SlotAddr → Prop
  | .later s => s.Canon
  | _ => True
/-- What discarding a page leaves is canonical. -/
def Dead.Canon : Dead → Prop
  | .done s => s.Canon
  | .later s => s.Canon
/-- What stops a fabric operation leaves is canonical. -/
def FabStop.Canon : FabStop → Prop
  | .wait s => s.Canon
  | _ => True
/-- What a service core's fetch leaves is canonical. -/
def RvFetch.Canon : RvFetch → Prop
  | .later s => s.Canon
  | _ => True

section
variable {t : State}
theorem PktRes.Canon.stay {r : PktRes} (h : r.Canon) (e : r = .stay t) : t.Canon := by subst e; exact h
theorem PktRes.Canon.next {r : PktRes} (h : r.Canon) (e : r = .next t) : t.Canon := by subst e; exact h
theorem Posted.Canon.done {r : Posted} (h : r.Canon) (e : r = .done t) : t.Canon := by subst e; exact h
theorem EndAddr.Canon.pa {r : EndAddr} {n} (h : r.Canon) (e : r = .pa n t) : t.Canon := by subst e; exact h
theorem EndAddr.Canon.wait {r : EndAddr} (h : r.Canon) (e : r = .wait t) : t.Canon := by subst e; exact h
theorem HomeRes.Canon.done {r : HomeRes} (h : r.Canon) (e : r = .done t) : t.Canon := by subst e; exact h
theorem HomeRes.Canon.refused {r : HomeRes} {q l k} (h : r.Canon) (e : r = .refused t q l k) : t.Canon := by
  subst e; exact h
theorem SlotAddr.Canon.later {r : SlotAddr} (h : r.Canon) (e : r = .later t) : t.Canon := by subst e; exact h
theorem Dead.Canon.done {r : Dead} (h : r.Canon) (e : r = .done t) : t.Canon := by subst e; exact h
theorem Dead.Canon.later {r : Dead} (h : r.Canon) (e : r = .later t) : t.Canon := by subst e; exact h
theorem FabStop.Canon.wait {r : FabStop} (h : r.Canon) (e : r = .wait t) : t.Canon := by subst e; exact h
theorem RvFetch.Canon.later {r : RvFetch} (h : r.Canon) (e : r = .later t) : t.Canon := by subst e; exact h
theorem Out.Canon.next {r : Out} (h : Out.Canon r) (e : r = .next t) : t.Canon := by subst e; exact h
theorem State.Canon.of_snd {α : Type} {p : α × State} {a} (h : p.2.Canon) (e : p = (a, t)) : t.Canon := by
  subst e; exact h
end

/-- What leaves the memory alone keeps its form. -/
theorem State.Canon.frame {s t : State} (h : s.Canon) (e : t.mem = s.mem) : t.Canon := by
  unfold State.Canon
  rw [e]
  exact h
/-- A choice keeps what both of its branches keep. -/
theorem canon_ite {p : Prop} [Decidable p] {s t : State} (hs : s.Canon) (ht : t.Canon) :
    (if p then s else t).Canon := by
  split
  · exact hs
  · exact ht
/-- A fold keeps what each of its steps keeps. -/
theorem canon_foldl {α : Type} {f : State → α → State} {l : List α} {s : State}
    (hf : ∀ t a, t.Canon → (f t a).Canon) (h : s.Canon) : (l.foldl f s).Canon := by
  induction l generalizing s with
  | nil => exact h
  | cons a l ih => exact ih (hf s a h)

/-! ### Writes of memory, by their `wf` lemmas -/

theorem canon_homeStore {s : State} {pa bs} (hs : s.Canon) : (homeStore s pa bs).Canon := wf_homeStore pa bs hs
theorem canon_homeWrite {s : State} {pa bs} (hs : s.Canon) : (homeWrite s pa bs).Canon := wf_homeWrite pa bs hs
theorem canon_noteAccess {s : State} {pa kind} (hs : s.Canon) : (noteAccess s pa kind).Canon := wf_noteAccess pa kind hs
theorem canon_adjPin {s : State} {pa f} (hs : s.Canon) : (adjPin s pa f).Canon := wf_adjPin pa f hs
theorem canon_setPasidState {s : State} {p st} (hs : s.Canon) : (setPasidState s p st).Canon :=
  wf_setPasidState p st hs

/-! ### State rules and fault queues -/

theorem canon_adjTeam {s : State} {f : Team → Team} {id} (hs : s.Canon) : (s.adjTeam id f).Canon :=
  hs.frame (State.adjTeam_mem ..)
theorem canon_adjGroup {s : State} {f : Group → Group} {r} (hs : s.Canon) : (s.adjGroup r f).Canon := canon_adjTeam hs
theorem canon_adjLane {s : State} {f : Lane → Lane} {r L} (hs : s.Canon) : (s.adjLane r L f).Canon :=
  canon_adjGroup hs
theorem canon_adjCore {s : State} {f : Core → Core} {c} (hs : s.Canon) : (s.adjCore c f).Canon :=
  hs.frame (State.adjCore_mem ..)
theorem canon_mapCores {s : State} {f : Nat → Core → Core} (hs : s.Canon) : (s.mapCores f).Canon :=
  hs.frame (State.mapCores_mem ..)
theorem canon_keepLogged {s : State} {f : List GutterEntry → List GutterEntry} (hs : s.Canon) :
    (s.keepLogged f).Canon := hs.frame (State.keepLogged_mem ..)
theorem canon_adjInst {s : State} {f : Inst → Inst} {id} (hs : s.Canon) : (s.adjInst id f).Canon :=
  hs.frame (State.adjInst_mem ..)
theorem canon_adjFq {s : State} {f : FQueue → FQueue} {k} (hs : s.Canon) : (s.adjFq k f).Canon :=
  hs.frame (State.adjFq_mem ..)
theorem canon_takeEntry {s : State} {k i} (hs : s.Canon) : (takeEntry s k i).Canon := canon_adjFq hs
theorem canon_postFault {s : State} {pasid vpn need remote chain p ws} (hs : s.Canon) :
    (postFault s pasid vpn need remote chain p ws).Canon := by
  fun_cases postFault
  · exact canon_adjFq hs
  · exact canon_adjFq hs
  · exact hs.frame rfl
  · trivial
  · exact canon_adjFq hs
theorem canon_dropWaiter {s : State} {p : Waiter → Bool} (hs : s.Canon) : (dropWaiter s p).Canon := hs.frame rfl
theorem canon_parkOnFault {s : State} {r core pasid vpn va need remote chain info} (hs : s.Canon) :
    (parkOnFault s r core pasid vpn va need remote chain info).2.Canon := by
  fun_cases parkOnFault
  next e => exact (canon_postFault hs).done e
  · exact canon_adjFq hs
theorem canon_notePlaces {s : State} {l} (hs : s.Canon) : (notePlaces s l).Canon := by
  refine canon_foldl (fun _ _ ht => ?_) hs
  split
  · exact canon_noteAccess ht
  · exact ht

/-! ### The home: directory, atomics, L1 copies, requests, waiters -/

theorem canon_setLineDir {s : State} {line d} (hs : s.Canon) : (s.setLineDir line d).Canon :=
  hs.frame (State.setLineDir_mem ..)
theorem canon_dropOwner {s : State} {grain} (hs : s.Canon) : (s.dropOwner grain).Canon :=
  hs.frame (State.dropOwner_mem ..)
theorem canon_rdcRoom {h n k} {s : State} (hs : s.Canon) : (State.rdcRoom h n k s).Canon :=
  hs.frame (by rw [State.rdcRoom_dir])
theorem canon_grant {s : State} {grain o} (hs : s.Canon) : (s.grant grain o).Canon := (canon_rdcRoom hs).frame rfl
theorem canon_invalidateLine {s : State} {line} (hs : s.Canon) : (s.invalidateLine line).Canon := canon_setLineDir hs
theorem canon_invalidateGrain {s : State} {grain} (hs : s.Canon) : (s.invalidateGrain grain).Canon :=
  canon_foldl (fun _ _ => canon_invalidateLine) hs
theorem canon_recall {s : State} {grain} (hs : s.Canon) : (s.recall grain).Canon := by
  fun_cases State.recall
  · exact canon_foldl (fun _ _ => canon_setLineDir) (canon_dropOwner hs)
  · exact hs
theorem canon_readLine {s : State} {line h} (hs : s.Canon) : (s.readLine line h).Canon := by
  fun_cases State.readLine
  · exact hs
  · exact canon_recall hs
  · exact canon_setLineDir (canon_ite (canon_recall hs) (canon_rdcRoom (canon_recall hs)))
theorem canon_readBy {s : State} {chiplet pa} (hs : s.Canon) : (s.readBy chiplet pa).Canon := by
  fun_cases State.readBy
  · exact hs
  · exact canon_recall hs
  · exact canon_readLine hs
theorem canon_mended {s : State} {pa n} (hs : s.Canon) : (s.mended pa n).Canon := hs.frame rfl
theorem canon_scrambleBytes {s : State} {pa n} (hs : s.Canon) : (scrambleBytes s pa n).Canon :=
  (canon_homeWrite hs).frame rfl
theorem canon_dropL1 {s : State} {core} (hs : s.Canon) : (s.dropL1 core).Canon := canon_adjCore hs
theorem canon_dropLine {s : State} {core line} (hs : s.Canon) : (s.dropLine core line).Canon := canon_adjCore hs
theorem canon_dropStale {s : State} {core} (hs : s.Canon) : (s.dropStale core).Canon := canon_mapCores hs
theorem canon_dropLayer {s : State} {core line} (hs : s.Canon) : (s.dropLayer core line).Canon := canon_mapCores hs
theorem canon_homeRmw {s : State} {pa op wide b c} (hs : s.Canon) : (homeRmw s pa op wide b c).2.Canon :=
  canon_homeWrite hs
theorem canon_setRegion {s : State} {q r} (hs : s.Canon) : (s.setRegion q r).Canon :=
  hs.frame (State.setRegion_mem ..)
theorem canon_send {s : State} {m} (hs : s.Canon) : (send s m).Canon := hs.frame rfl
theorem canon_wantRegion {s : State} {pa} (hs : s.Canon) : (wantRegion s pa).Canon := by
  fun_cases wantRegion
  · exact hs
  · exact canon_send (canon_setRegion hs)
  · exact hs
theorem canon_fillL1 {s : State} {core pa} (hs : s.Canon) : (fillL1 s core pa).Canon := by
  fun_cases fillL1
  · exact hs
  · exact canon_adjCore (canon_readBy hs)
theorem canon_updateL1 {s : State} {core pa bs} (hs : s.Canon) : (updateL1 s core pa bs).Canon := canon_adjCore hs
theorem canon_giveResult {s : State} {q old} (hs : s.Canon) : (giveResult s q old).Canon := by
  fun_cases giveResult
  · exact hs
  · exact canon_adjGroup hs
theorem canon_dropReq {s : State} {core i} (hs : s.Canon) : (dropReq s core i).Canon := canon_adjCore hs
/-- The three kinds of request: a full grain, a partial store, an atomic. -/
theorem canon_performReq {s : State} {core i} (hs : s.Canon) : (performReq s core i).Canon := by
  have hfin : ∀ {t : State} {ls : List Nat}, t.Canon → (ls.foldl (fun t l => t.dropLayer core l) t).Canon :=
    canon_foldl fun _ _ => canon_dropLayer
  have hdrop : ∀ {p : Prop} [Decidable p], (if p then
      (dropReq s core i).dropStale core else dropReq s core i).Canon := by
    intro p _
    exact canon_ite (canon_dropStale (canon_dropReq hs)) (canon_dropReq hs)
  fun_cases performReq
  · trivial
  · trivial
  next t u _ =>
    have ht : t.Canon := canon_invalidateGrain (canon_dropOwner hdrop)
    have hu : u.Canon := canon_ite ht (canon_grant ht)
    clear_value u
    exact hfin (canon_homeStore (canon_ite (wf_clearLost _ _ hu) hu))
  · exact hfin (canon_homeWrite hdrop)
  · exact hfin (canon_homeStore hdrop)
  · exact canon_adjCore hs
  next e u _ =>
    have hu : u.Canon := canon_dropLine (hfin (canon_giveResult ((canon_homeRmw hdrop).of_snd e)))
    show State.Canon (if _ then _ else _)
    exact canon_ite (canon_dropL1 hu) hu
theorem canon_finishLane {s : State} {r core L d x cmp cond scope miss} (hs : s.Canon) :
    (finishLane s r core L d x cmp cond scope miss).Canon := by
  fun_cases finishLane
  · exact canon_dropL1 (canon_adjGroup hs)
  · exact canon_adjGroup hs
theorem canon_finishWait {s : State} {w} (hs : s.Canon) : (finishWait s w).Canon := by
  fun_cases finishWait
  · exact hs
  · exact canon_finishLane (canon_dropLine (canon_readBy hs))
theorem canon_rereadAll {s : State} (hs : s.Canon) : (rereadAll s).Canon :=
  canon_foldl (fun _ _ ht => canon_finishWait (ht.frame rfl)) hs
theorem canon_wakeWaiters {s : State} {p : WaitReg → Bool} {timedOut} (hs : s.Canon) :
    (wakeWaiters s p timedOut).Canon := canon_rereadAll (hs.frame rfl)
theorem canon_replaceWoken {s : State} {w} (hs : s.Canon) : (replaceWoken s w).Canon := by
  fun_cases replaceWoken
  · exact hs.frame rfl
  · exact canon_adjLane (hs.frame rfl)
theorem canon_rereadLate {s : State} (hs : s.Canon) : (rereadLate s).Canon :=
  canon_rereadAll (canon_foldl (fun _ _ => canon_replaceWoken) hs)
theorem canon_wakeAt {s : State} {pa n} (hs : s.Canon) : (wakeAt s pa n).Canon := canon_wakeWaiters hs

/-! ### Ends of instances and teams -/

theorem canon_signalDown {s : State} {sig} (hs : s.Canon) : (signalDown s sig).Canon := by
  fun_cases signalDown
  · exact hs
  · exact canon_homeRmw hs
theorem canon_endAddr {s : State} {pasid va u} (hs : s.Canon) : (endAddr s pasid va u).Canon := by
  fun_cases endAddr
  · trivial
  · exact hs
  · exact canon_noteAccess hs
  · exact canon_wantRegion hs
  · split
    · exact hs
    split
    next e => exact (canon_postFault hs).done e
    · exact hs
  · trivial
theorem canon_endAddrs {s : State} {i} (hs : s.Canon) : (endAddrs s i).2.Canon := by
  have hsig : ∀ {t : State}, t.Canon → (match i.signal with
      | some va => endAddr t i.pasid va (.write 8)
      | none => EndAddr.gone).Canon := by
    intro t ht
    split
    · exact canon_endAddr ht
    · trivial
  have hboth : ∀ {t : State} (c : Option Nat), t.Canon →
      (match (match i.signal with | some va => endAddr t i.pasid va (.write 8) | none => EndAddr.gone) with
        | .wait s => ((none, s) : Option (Option Nat × Option Nat) × State)
        | .pa g s => (some (c, some g), s)
        | .gone => (some (c, none), t)).2.Canon := by
    intro t c ht
    split
    next e => exact (hsig ht).wait e
    next e => exact (hsig ht).pa e
    · exact ht
  fun_cases endAddrs
  next e => exact (canon_endAddr hs).wait e
  next e => exact hboth _ ((canon_endAddr hs).pa e)
  · exact hboth _ hs
theorem canon_finishInst {s : State} {i node cause left} (hs : s.Canon) : (finishInst s i node cause left).Canon := by
  fun_cases finishInst
  next e => exact canon_adjInst ((canon_endAddrs hs).of_snd e)
  next e _ t _ =>
    refine (canon_signalDown ?_).frame rfl
    dsimp only [t]
    split
    · exact canon_homeWrite ((canon_endAddrs hs).of_snd e)
    · exact (canon_endAddrs hs).of_snd e
theorem canon_leaveHome {s : State} {team handle} (hs : s.Canon) : (leaveHome s team handle).Canon := by
  fun_cases leaveHome
  · exact hs.frame rfl
  · exact canon_adjPin (hs.frame rfl)
  · exact hs.frame rfl
theorem canon_stopSub {s : State} {team handle} (hs : s.Canon) : (stopSub s team handle).Canon :=
  (canon_leaveHome hs).frame rfl
theorem canon_stopSubs {s : State} {t} (hs : s.Canon) : (stopSubs s t).Canon :=
  canon_foldl (fun _ _ => canon_stopSub) hs
theorem canon_dropGutter {s : State} {team} (hs : s.Canon) : (dropGutter s team).Canon := canon_keepLogged hs
theorem canon_dropCopy {s : State} {id} (hs : s.Canon) : (dropCopy s id).Canon := hs.frame rfl
theorem canon_dropCopies {s : State} {team} (hs : s.Canon) : (dropCopies s team).Canon :=
  canon_foldl (fun _ _ => canon_dropCopy) hs
theorem canon_removeTeam {s : State} {t} (hs : s.Canon) : (removeTeam s t).Canon := by
  have h : (dropCopies (dropGutter (stopSubs s t) t.id) t.id).Canon := canon_dropCopies (canon_dropGutter
      (canon_stopSubs hs))
  exact h.frame (by simp [removeTeam, dropWaiter])
theorem canon_dropFabric {s : State} {team cause} (hs : s.Canon) : (dropFabric s team cause).Canon := hs.frame rfl
theorem canon_abortInst {s : State} {id node cause} (hs : s.Canon) : (abortInst s id node cause).Canon := by
  fun_cases abortInst
  · exact canon_foldl (fun _ _ ht => canon_removeTeam (canon_dropFabric ht)) hs
  · exact canon_finishInst (canon_foldl (fun _ _ ht => canon_removeTeam (canon_dropFabric ht)) hs)
theorem canon_fatalEnd {s : State} {team cause} (hs : s.Canon) : (fatalEnd s team cause).Canon := by
  fun_cases fatalEnd
  · exact hs
  · exact canon_abortInst (canon_removeTeam (canon_dropFabric hs))
theorem canon_teamStore {s : State} {team off bs} (hs : s.Canon) : (teamStore s team off bs).Canon := canon_adjTeam hs
theorem canon_settleSub {s : State} {team u} (hs : s.Canon) : (settleSub s team u).Canon := by
  fun_cases settleSub
  · exact hs
  · exact canon_adjTeam (canon_teamStore hs)
theorem canon_endTeam {s : State} {t} (hs : s.Canon) : (endTeam s t).Canon :=
  canon_foldl (fun _ _ => canon_settleSub) (canon_adjTeam (canon_adjInst (canon_foldl (fun _ _ =>
    canon_leaveHome) hs)))

/-! ### Issue, traps and the shared operations -/

theorem canon_addDeferred {s : State} {r vregs uregs lanes unis flags wait} (hs : s.Canon) :
    (addDeferred s r vregs uregs lanes unis flags wait).Canon := hs.frame (addDeferred_mem ..)
theorem canon_cancelWaits {s : State} {r} (hs : s.Canon) : (cancelWaits s r).Canon := by
  fun_cases cancelWaits
  · exact canon_adjTeam (canon_dropWaiter (canon_adjGroup (hs.frame rfl)))
  · exact canon_adjInst (canon_adjTeam (canon_dropWaiter (canon_adjGroup (hs.frame rfl))))
theorem canon_enterHandler {s : State} {r t issuing resume} (hs : s.Canon) :
    (enterHandler s r t issuing resume).Canon := by
  fun_cases enterHandler
  · exact hs
  · exact hs
  · exact canon_fatalEnd hs
  · exact canon_adjGroup (canon_adjGroup (canon_cancelWaits hs))
theorem canon_takeTrap {s : State} {r t issuing resume} (hs : s.Canon) : (takeTrap s r t issuing resume).Canon := by
  fun_cases takeTrap
  · exact hs
  · exact canon_enterHandler hs
  · exact canon_adjGroup hs
theorem canon_takeImprecise {s : State} {r t} (hs : s.Canon) : (takeImprecise s r t).Canon := by
  fun_cases takeImprecise
  · exact hs
  · exact canon_fatalEnd hs
  · exact canon_adjGroup hs
  · exact canon_adjGroup hs
  · exact canon_takeTrap (hs.frame rfl)
  · exact canon_adjGroup hs
  · exact canon_takeTrap hs
  · exact canon_adjGroup hs
theorem canon_runPending {s : State} {r} (hs : s.Canon) : (runPending s r).Canon := by
  fun_cases runPending
  · exact hs
  · exact hs
  · exact canon_enterHandler (canon_adjGroup hs)
  · exact canon_adjGroup hs
theorem canon_afterLanding {s : State} {r} (hs : s.Canon) : (afterLanding s r).Canon := by
  fun_cases afterLanding
  · exact hs
  · exact canon_runPending hs
  · exact hs
theorem canon_returnFromTrap {s : State} {r} (hs : s.Canon) : (returnFromTrap s r).Canon := by
  fun_cases returnFromTrap
  · exact hs
  · exact canon_adjGroup hs
theorem canon_setPcs {s : State} {r l} (hs : s.Canon) : (setPcs s r l).Canon :=
  canon_foldl (fun _ _ => canon_adjLane) hs
theorem canon_afterIssue {c : Ctx} {s : State} {settle} (hs : s.Canon) : (afterIssue c settle s).Canon :=
  canon_adjGroup (canon_adjTeam hs)
theorem canon_parkIssue {c : Ctx} {s : State} {p} (hs : s.Canon) : (parkIssue c p s).Canon := canon_adjGroup hs
theorem canon_finish {c : Ctx} {r : Res} {len settle} (hc : c.s.Canon) (hr : r.Canon) :
    Out.Canon (finish c len settle r) := by
  fun_cases finish
  · exact canon_afterIssue (canon_setPcs hr)
  · exact canon_afterIssue hr
  · exact canon_takeTrap hc
  · exact canon_parkIssue hr
/-- An issued instruction leaves canonical what its body leaves canonical, whatever the checks before it do. -/
theorem canon_issue {s : State} {body : Ctx → Res} {n len settle priv} (hs : s.Canon)
    (hbody : ∀ c, c.s.Canon → (body c).Canon) :
    Out.Canon (issue s n len settle priv body) := by
  fun_cases issue
  · trivial
  · exact canon_finish (canon_adjGroup hs) trivial
  · exact canon_finish (canon_adjGroup hs) trivial
  · exact canon_finish (canon_adjGroup hs) trivial
  · exact canon_finish (canon_adjGroup hs) trivial
  · exact canon_finish (canon_adjGroup hs) (hbody _ (canon_adjGroup hs))
theorem canon_writeLanes {c : Ctx} {f : Nat → Word} {s : State} {d} (hs : s.Canon) : (writeLanes c d f s).Canon :=
  canon_adjGroup hs
theorem canon_writePairs {c : Ctx} {f : Nat → DWord} {s : State} {d} (hs : s.Canon) : (writePairs c d f s).Canon :=
  canon_adjGroup hs
theorem canon_raiseFlags {c : Ctx} {s : State} {f} (hs : s.Canon) : (raiseFlags c f s).Canon := canon_adjGroup hs
theorem canon_lrOp3 {s : State} {f : Word → Word → Word → Word} {old x} (hs : s.Canon) :
    Out.Canon (lrOp3 old x s f) := canon_issue hs fun _ => canon_writeLanes
theorem canon_lrOp {s : State} {f : Word → Word → Word} {x} (hs : s.Canon) : Out.Canon (lrOp x s f) := canon_lrOp3 hs
theorem canon_lrFlagOp {s : State} {f : Word → Word → Word → Word × FFlags} {old x} (hs : s.Canon) :
    Out.Canon (lrFlagOp old x s f) := canon_issue hs fun _ hc => canon_raiseFlags (canon_writeLanes hc)
theorem canon_luOp {s : State} {f : Word → Word} {x} (hs : s.Canon) : Out.Canon (luOp x s f) :=
  canon_issue hs fun _ => canon_writeLanes
theorem canon_lrPairOp {s : State} {f : DWord → DWord → DWord} {x} (hs : s.Canon) : Out.Canon (lrPairOp x s f) :=
  canon_issue hs fun _ => canon_writePairs
theorem canon_lrShift64 {s : State} {f : DWord → Nat → DWord} {x} (hs : s.Canon) : Out.Canon (lrShift64 x s f) :=
  canon_issue hs fun _ => canon_writePairs
theorem canon_limmOp {s : State} {f : Word → Word} {settle d a} (hs : s.Canon) :
    Out.Canon (limmOp settle d a s f) := canon_issue hs fun _ => canon_writeLanes
theorem canon_writeU {c : Ctx} {s : State} {d v} (hs : s.Canon) : (writeU c d v s).Canon := canon_adjGroup hs
theorem canon_writeUPair {c : Ctx} {s : State} {d v} (hs : s.Canon) : (writeUPair c d v s).Canon := canon_adjGroup hs
theorem canon_urOp3 {s : State} {f : Word → Word → Word → Word} {old x} (hs : s.Canon) :
    Out.Canon (urOp3 old x s f) := canon_issue hs fun _ => canon_writeU
theorem canon_urOp {s : State} {f : Word → Word → Word} {x} (hs : s.Canon) : Out.Canon (urOp x s f) := canon_urOp3 hs
theorem canon_uuOp {s : State} {f : Word → Word} {x} (hs : s.Canon) : Out.Canon (uuOp x s f) :=
  canon_issue hs fun _ => canon_writeU
theorem canon_urPairOp {s : State} {f : DWord → DWord → DWord} {x} (hs : s.Canon) : Out.Canon (urPairOp x s f) :=
  canon_issue hs fun _ => canon_writeUPair
theorem canon_urShift64 {s : State} {f : DWord → Nat → DWord} {x} (hs : s.Canon) : Out.Canon (urShift64 x s f) :=
  canon_issue hs fun _ => canon_writeUPair
theorem canon_uimmOp {s : State} {f : Word → Word} {settle d a} (hs : s.Canon) :
    Out.Canon (uimmOp settle d a s f) := canon_issue hs fun _ => canon_writeU
theorem canon_deferLanes {c : Ctx} {f : Nat → List Word} {s : State} {d n flags} (hs : s.Canon) :
    (deferLanes c d n f flags s).Canon := canon_addDeferred hs
theorem canon_deferUni {c : Ctx} {s : State} {d ws} (hs : s.Canon) : (deferUni c d ws s).Canon := canon_addDeferred hs

/-! ### Instruction fetch -/

theorem canon_noteFetch {s : State} {t grp pc} (hs : s.Canon) : (noteFetch s t grp pc).Canon := by
  unfold noteFetch
  extract_lets see u
  have hsee : ∀ {v : State} {va}, v.Canon → (see v va).Canon := by
    intro v va hv
    dsimp only [see]
    split
    · exact canon_readBy (canon_noteAccess hv)
    · exact hv
  have hu : u.Canon := hsee hs
  clear_value see u
  split
  · exact canon_ite (hsee hu) hu
  · exact hu
theorem canon_groupTurn {s : State} {r} (hs : s.Canon) : (groupTurn s r).Canon := by
  fun_cases groupTurn
  · exact hs
  · exact hs
  · exact hs
  · exact canon_runPending hs
  · exact (canon_noteFetch hs).frame rfl
  · exact hs
theorem canon_tick {s : State} {n} (hs : s.Canon) : (tick s n).Canon := hs.frame rfl

/-! ### Control transfers and groups -/

theorem canon_holdNext {c : Ctx} {s : State} (hs : s.Canon) : (holdNext c s).Canon := canon_adjGroup hs
theorem canon_transfer {c : Ctx} {target : Nat → DWord} {s : State} {lane} (hs : s.Canon) :
    (transfer c lane target s).Canon := by
  fun_cases transfer
  · trivial
  · exact canon_holdNext (canon_setPcs hs)
theorem canon_laneBranch {s : State} {x nz} (hs : s.Canon) : Out.Canon (laneBranch x s nz) := by
  refine canon_issue hs fun _ hc => ?_
  dsimp only
  split
  · trivial
  · exact canon_transfer hc
theorem canon_laneJump {s : State} {x} (hs : s.Canon) : Out.Canon (laneJump x s) :=
  canon_issue hs fun _ => canon_transfer
theorem canon_execCalll {s : State} {x} (hs : s.Canon) : Out.Canon (execCalll x s) :=
  canon_issue hs fun _ hc => canon_transfer (canon_writePairs hc)
theorem canon_execBra {s : State} {x} (hs : s.Canon) : Out.Canon (execBra x s) :=
  canon_issue hs fun _ => canon_transfer
theorem canon_execCall {s : State} {x} (hs : s.Canon) : Out.Canon (execCall x s) := by
  refine canon_issue hs fun _ hc => ?_
  split
  · exact canon_transfer (canon_writeUPair hc)
  · exact canon_holdNext hc
theorem canon_execJmpr {s : State} {x} (hs : s.Canon) : Out.Canon (execJmpr x s) :=
  canon_issue hs fun _ => canon_transfer
theorem canon_execRet {s : State} {settle} (hs : s.Canon) : Out.Canon (execRet settle s) :=
  canon_issue hs fun _ => canon_transfer
theorem canon_parkLanes {c : Ctx} {s : State} {p} (hs : s.Canon) : (parkLanes c p s).Canon := canon_adjGroup hs
theorem canon_waitBar {c : Ctx} {s : State} {n} (hs : s.Canon) : (waitBar c n s).Canon := by
  fun_cases waitBar
  · exact hs
  · exact hs
  · exact canon_parkLanes hs
  · exact hs
theorem canon_execBarArrive {s : State} {x} (hs : s.Canon) : Out.Canon (execBarArrive x s) := by
  refine canon_issue hs fun _ hc => ?_
  split
  · exact canon_adjTeam hc
  · exact canon_adjGroup hc
theorem canon_execBarWait {s : State} {x} (hs : s.Canon) : Out.Canon (execBarWait x s) := by
  refine canon_issue hs fun _ hc => ?_
  split
  · exact canon_parkLanes hc
  · exact canon_waitBar hc
theorem canon_execBarSync {s : State} {x} (hs : s.Canon) : Out.Canon (execBarSync x s) := by
  refine canon_issue hs fun _ hc => ?_
  split
  · exact canon_parkLanes (canon_adjGroup hc)
  dsimp only
  split
  · exact canon_adjTeam hc
  split
  · exact canon_waitBar (canon_adjTeam hc)
  · exact canon_adjTeam hc
theorem canon_roundTrap {s : State} {team k ss cause info grp} (hs : s.Canon) :
    (roundTrap s team k ss cause info grp).Canon := by
  fun_cases roundTrap
  · exact canon_takeTrap (canon_adjGroup hs)
  · exact canon_adjGroup (canon_adjGroup hs)
  · exact hs
theorem canon_exitRounds {s : State} {r lanes} (hs : s.Canon) : (exitRounds s r lanes).Canon := by
  fun_cases exitRounds
  · exact hs
  · refine canon_foldl (fun _ _ ht => ?_) (canon_foldl (fun _ _ => canon_adjTeam) hs)
    split
    · exact canon_foldl (fun _ _ => canon_roundTrap) ht
    · exact ht
theorem canon_groupExit {s : State} {r} (hs : s.Canon) : (groupExit s r).Canon := by
  fun_cases groupExit
  · exact canon_adjTeam hs
  · exact canon_endTeam (canon_adjTeam hs)
  · exact canon_adjTeam hs
theorem canon_exitLanes {s : State} {r lanes} (hs : s.Canon) : (exitLanes s r lanes).Canon := by
  fun_cases exitLanes
  · exact canon_exitRounds (canon_adjGroup hs)
  · exact canon_groupExit (canon_exitRounds (canon_adjGroup hs))
  · exact canon_exitRounds (canon_adjGroup hs)
theorem canon_execExit {s : State} {settle} (hs : s.Canon) : Out.Canon (execExit settle s) :=
  canon_issue hs fun _ => canon_exitLanes
theorem canon_execRegisterUnitRelease {s : State} {r} (hs : s.Canon) : Out.Canon (execRegisterUnitRelease r s) := by
  fun_cases execRegisterUnitRelease
  · exact canon_ite (canon_removeTeam (canon_adjGroup hs)) (canon_adjGroup hs)
  · exact hs
  · exact hs
theorem canon_voteOp {s : State} {f : List Word → Word} {x} (hs : s.Canon) : Out.Canon (voteOp x s f) :=
  canon_issue hs fun _ => canon_writeLanes
theorem canon_execBallot {s : State} {x} (hs : s.Canon) : Out.Canon (execBallot x s) :=
  canon_issue hs fun _ => canon_writePairs
theorem canon_shflOp {s : State} {src : Nat → Nat → Nat → Nat → Nat} {x} (hs : s.Canon) :
    Out.Canon (shflOp x s src) := by
  refine canon_issue hs fun _ hc => ?_
  dsimp only
  split
  · trivial
  · exact canon_deferLanes hc
theorem canon_combineOp {s : State} {part : Nat → List Nat → List Nat} {settle d a op} (hs : s.Canon) :
    Out.Canon (combineOp settle d a op s part) := canon_issue hs fun _ => canon_deferLanes
theorem canon_execSettile {s : State} {x} (hs : s.Canon) : Out.Canon (execSettile x s) :=
  canon_issue hs fun _ => canon_adjGroup
theorem canon_execYield {s : State} {settle} (hs : s.Canon) : Out.Canon (execYield settle s) :=
  canon_issue hs fun _ => canon_holdNext
theorem canon_completeHeld {s : State} {r len settle} (hs : s.Canon) : (completeHeld s r len settle).Canon :=
  canon_afterLanding (canon_adjGroup (canon_adjTeam hs))
theorem canon_execSleepWake {s : State} {r} (hs : s.Canon) : Out.Canon (execSleepWake r s) := by
  fun_cases execSleepWake
  · exact hs
  · exact canon_ite (canon_completeHeld hs) hs
  · exact hs
theorem canon_execSrd {s : State} {x} (hs : s.Canon) : Out.Canon (execSrd x s) := by
  unfold execSrd
  refine canon_issue hs fun c hc => ?_
  split
  · exact hc
  split
  · exact canon_writeUPair hc
  · exact canon_writeU hc
theorem canon_execSwr {s : State} {x} (hs : s.Canon) : Out.Canon (execSwr x s) :=
  canon_issue hs fun _ => canon_adjGroup
theorem canon_execDeferredResultLand {s : State} {x} (hs : s.Canon) : Out.Canon (execDeferredResultLand x s) := by
  fun_cases execDeferredResultLand
  · exact hs
  · exact hs
  · exact canon_afterLanding (canon_adjGroup hs)
  · exact hs
theorem canon_freezeGroup {s : State} {r} (hs : s.Canon) : (freezeGroup s r).Canon := by
  fun_cases freezeGroup
  · exact hs
  · exact canon_adjGroup (canon_cancelWaits hs)
  · exact canon_adjGroup (canon_cancelWaits hs)
theorem canon_stopGroup {s : State} {r k} (hs : s.Canon) : (stopGroup s r k).Canon :=
  canon_adjGroup (canon_freezeGroup hs)
theorem canon_execHangExpiry {s : State} {team} (hs : s.Canon) : Out.Canon (execHangExpiry team s) := by
  fun_cases execHangExpiry
  · exact hs
  · exact hs
  · refine canon_foldl (fun t i ht => ?_) (canon_adjTeam hs)
    exact canon_ite ht (canon_stopGroup ht)
  · refine canon_takeImprecise (canon_adjGroup (canon_foldl (fun t i ht => ?_) (canon_adjTeam hs)))
    exact canon_ite ht (canon_stopGroup ht)
theorem canon_execInstructionFetchFault {s : State} {tail} (hs : s.Canon) :
    Out.Canon (execInstructionFetchFault tail s) := by
  refine canon_issue hs fun _ hc => ?_
  split
  · trivial
  dsimp only
  split
  · trivial
  · exact canon_parkOnFault hc
  · split
    · exact hc
    · exact canon_wantRegion hc
  · exact hc

/-! ### Team memory and shares -/

theorem canon_enqueue {c : Ctx} {s : State} {es} (hs : s.Canon) : (enqueue c es s).Canon := canon_adjGroup hs
theorem canon_enqueueOr {c : Ctx} {s : State} {es} (hc : c.s.Canon) (hs : s.Canon) : (enqueueOr c es s).Canon := by
  fun_cases enqueueOr
  · exact canon_enqueue hs
  · exact hc
theorem canon_execLdt {s : State} {x} (hs : s.Canon) : Out.Canon (execLdt x s) := by
  refine canon_issue hs fun _ hc => ?_
  dsimp only
  split
  · trivial
  split
  · exact hc
  · exact canon_deferLanes hc
theorem canon_execStt {s : State} {x} (hs : s.Canon) : Out.Canon (execStt x s) := by
  refine canon_issue hs fun _ hc => ?_
  dsimp only
  split
  · trivial
  split
  · exact hc
  · exact canon_enqueueOr hc hc
theorem canon_teamRmw {s : State} {team off op wide b c} (hs : s.Canon) :
    (teamRmw s team off op wide b c).2.Canon := canon_teamStore hs
theorem canon_attLanes {c : Ctx} {s : State} {x ls} (hs : s.Canon) : (attLanes c x s ls).2.Canon := by
  induction ls generalizing s with
  | nil => exact hs
  | cons L ls ih => exact ih (canon_teamRmw hs)
theorem canon_execAtt {s : State} {x} (hs : s.Canon) : Out.Canon (execAtt x s) := by
  unfold execAtt
  refine canon_issue hs fun c hc => ?_
  dsimp only
  split
  · trivial
  split
  · exact hc
  split
  · split
    · exact hc
    · exact canon_addDeferred (canon_attLanes hc)
  · exact canon_enqueueOr hc hc
theorem canon_execCltLoad {s : State} {x} (hs : s.Canon) : Out.Canon (execCltLoad x s) := by
  refine canon_issue hs fun _ hc => ?_
  dsimp only
  split
  · trivial
  split
  · trivial
  split
  · exact hc
  refine canon_deferLanes ?_
  split
  · exact canon_dropL1 hc
  · exact hc
theorem canon_execCltStore {s : State} {x} (hs : s.Canon) : Out.Canon (execCltStore x s) := by
  refine canon_issue hs fun _ hc => ?_
  dsimp only
  split
  · trivial
  split
  · exact hc
  · exact canon_enqueueOr hc hc
theorem canon_execShareJoin {s : State} {x} (hs : s.Canon) : Out.Canon (execShareJoin x s) := by
  refine canon_issue hs fun _ hc => ?_
  dsimp only
  split
  · trivial
  · exact hc
theorem canon_shareReach {s : State} {team mate} (hs : s.Canon) : (shareReach s team mate).Canon := canon_adjTeam hs
theorem canon_execShareChangeDone {s : State} {r} (hs : s.Canon) : Out.Canon (execShareChangeDone r s) := by
  fun_cases execShareChangeDone
  · exact hs
  · exact canon_completeHeld (canon_adjTeam hs)
  · exact hs
  · exact hs
theorem canon_execShareSub {s : State} {x} (hs : s.Canon) : Out.Canon (execShareSub x s) := by
  refine canon_issue hs fun c hc => ?_
  extract_lets va block
  generalize
    (if block % 16 = 0 ∧ block + 16 ≤ c.t.window then subBlock c.g c.t block else (0, 0)) = p
  dsimp only
  split
  · trivial
  split
  · trivial
  split
  · trivial
  · exact canon_parkOnFault hc
  · trivial
  · split
    · exact hc
    split
    · trivial
    · exact hc
theorem canon_registerSub {s : State} {team handle block loc pa len va pasid status} (hs : s.Canon) :
    (registerSub s team handle block loc pa len va pasid status).Canon := by
  unfold registerSub
  refine canon_teamStore (canon_teamStore (canon_teamStore (canon_adjPin ?_)))
  split <;> exact hs.frame rfl
theorem canon_execSubscriptionRegister {s : State} {r} (hs : s.Canon) : Out.Canon (execSubscriptionRegister r s) := by
  fun_cases execSubscriptionRegister
  · exact hs
  · exact canon_completeHeld (canon_adjGroup hs)
  · exact canon_completeHeld (canon_adjGroup hs)
  · exact canon_completeHeld (canon_adjGroup (canon_adjTeam (canon_registerSub (canon_noteAccess hs))))
  · exact canon_adjGroup hs
  · exact hs
  · exact hs
theorem canon_execSubscriptionDelivery {s : State} {n} (hs : s.Canon) : Out.Canon (execSubscriptionDelivery n s) := by
  fun_cases execSubscriptionDelivery
  · exact hs
  · exact hs
  · exact hs.frame rfl
  · exact hs.frame rfl
  · exact canon_ite (canon_settleSub (canon_teamStore (canon_teamStore (hs.frame rfl)))) (canon_teamStore
      (canon_teamStore (hs.frame rfl)))
  · exact hs.frame rfl
theorem canon_execShareUnsub {s : State} {x} (hs : s.Canon) : Out.Canon (execShareUnsub x s) := by
  refine canon_issue hs fun _ hc => ?_
  dsimp only
  split
  · exact canon_leaveHome hc
  · exact hc
theorem canon_execUnsubComplete {s : State} {r} (hs : s.Canon) : Out.Canon (execUnsubComplete r s) := by
  fun_cases execUnsubComplete
  · exact hs
  next t =>
    refine canon_completeHeld ?_
    dsimp only [t]
    split
    · exact hs
    · exact canon_settleSub hs
  · exact hs
  · exact hs

/-! ### Arrivals at barriers and buffers -/

theorem canon_endAwait {s : State} {r core settle} (hs : s.Canon) : (endAwait s r core settle).Canon :=
  canon_completeHeld (canon_dropL1 hs)
theorem canon_wakeAwait {s : State} {r off} (hs : s.Canon) : (wakeAwait s r off).Canon := by
  fun_cases wakeAwait
  · exact canon_endAwait (canon_adjGroup hs)
  · exact hs
  · exact canon_endAwait (canon_adjGroup hs)
  · exact hs
  · exact hs
  · exact hs
theorem canon_adjArrival {s : State} {f : Arrival → Arrival} {team off} (hs : s.Canon) :
    (adjArrival s team off f).Canon := by
  fun_cases adjArrival
  · exact hs
  · exact canon_foldl (fun _ _ => canon_wakeAwait) (canon_teamStore hs)
theorem canon_failCopy {s : State} {id cause} (hs : s.Canon) : (failCopy s id cause).Canon := by
  fun_cases failCopy
  · exact hs
  · exact canon_dropCopy hs
  · exact canon_adjArrival (canon_dropCopy hs)
theorem canon_asAtt {c : Ctx} {body : Unit → Res} {n off} (hc : c.s.Canon) (hbody : ∀ b, (body b).Canon) :
    (asAtt c n off body).Canon := by
  fun_cases asAtt
  · trivial
  · exact hc
  · exact hc
  · exact hbody _
theorem canon_execExpect {s : State} {x} (hs : s.Canon) : Out.Canon (execExpect x s) :=
  canon_issue hs fun _ hc => canon_asAtt hc fun _ => canon_adjArrival hc
theorem canon_execArrive {s : State} {x} (hs : s.Canon) : Out.Canon (execArrive x s) :=
  canon_issue hs fun _ hc => canon_asAtt hc fun _ => canon_adjArrival hc
theorem canon_execWaitg {s : State} {x} (hs : s.Canon) : Out.Canon (execWaitg x s) := by
  refine canon_issue hs fun _ hc => ?_
  dsimp only
  split
  · trivial
  split
  · exact hc
  split
  · exact canon_dropL1 (canon_writeU hc)
  · exact hc
theorem canon_execTestg {s : State} {x} (hs : s.Canon) : Out.Canon (execTestg x s) := by
  refine canon_issue hs fun _ hc => ?_
  dsimp only
  split
  · trivial
  split
  · exact hc
  · exact canon_writeU hc
theorem canon_cbTrap {c : Ctx} {obj item} : (cbTrap c obj item).Canon := trivial
theorem canon_cbSet {c : Ctx} {s : State} {obj field v} (hs : s.Canon) : (cbSet c obj field v s).Canon :=
  canon_teamStore hs
theorem canon_cbReturn {c : Ctx} {s : State} {d b n} (hs : s.Canon) : (cbReturn c d b n s).Canon :=
  canon_writeU (canon_writeU hs)
theorem canon_execCbInit {s : State} {x} (hs : s.Canon) : Out.Canon (execCbInit x s) := by
  refine canon_issue hs fun _ hc => canon_asAtt hc fun _ => ?_
  dsimp only
  split
  · exact canon_cbTrap
  · exact canon_teamStore (canon_teamStore hc)
theorem canon_execCbAcq {s : State} {x} (hs : s.Canon) : Out.Canon (execCbAcq x s) := by
  refine canon_issue hs fun _ hc => canon_asAtt hc fun _ => ?_
  dsimp only
  split
  · exact canon_cbTrap
  split
  · exact hc
  · exact canon_cbReturn (canon_cbSet hc)
theorem canon_execCbCommit {s : State} {x} (hs : s.Canon) : Out.Canon (execCbCommit x s) := by
  refine canon_issue hs fun _ hc => canon_asAtt hc fun _ => ?_
  dsimp only
  split
  · exact canon_cbTrap
  split
  · exact canon_cbSet (canon_adjArrival hc)
  · exact canon_cbTrap
theorem canon_cbAwait {c : Ctx} {s : State} {d settle obj b n} (hs : s.Canon) :
    (cbAwait c d settle obj b n s).Canon := by
  fun_cases cbAwait
  · exact canon_dropL1 (canon_cbReturn (canon_adjGroup hs))
  · exact hs
theorem canon_execCbWait {s : State} {x} (hs : s.Canon) : Out.Canon (execCbWait x s) := by
  refine canon_issue hs fun _ hc => ?_
  dsimp only
  split
  · exact canon_cbAwait hc
  refine canon_asAtt hc fun _ => ?_
  split
  · exact canon_cbTrap
  · exact canon_cbAwait (canon_adjGroup (canon_cbSet hc))
theorem canon_execCbRel {s : State} {x} (hs : s.Canon) : Out.Canon (execCbRel x s) := by
  refine canon_issue hs fun _ hc => canon_asAtt hc fun _ => ?_
  dsimp only
  split
  · exact canon_cbTrap
  split
  · exact canon_cbSet hc
  · exact canon_cbTrap

/-! ### Refused requests and entries -/

theorem canon_adjSlot {s : State} {f : QSlot → QSlot} {n} (hs : s.Canon) : (s.adjSlot n f).Canon :=
  hs.frame (State.adjSlot_mem ..)
theorem canon_raiseSlot {s : State} {n ev} (hs : s.Canon) : (raiseSlot s n ev).Canon := hs.frame rfl
theorem canon_slotError {s : State} {n} (hs : s.Canon) : (slotError s n).Canon := canon_raiseSlot (canon_adjSlot hs)
theorem canon_slotRefused {s : State} {n} (hs : s.Canon) : (slotRefused s n).Canon := by
  fun_cases slotRefused
  · exact hs
  · exact canon_slotError hs
  · exact canon_adjSlot hs
theorem canon_setRemap {s : State} {vif q} (hs : s.Canon) : (setRemap s vif q).Canon := hs.frame rfl
theorem canon_dropReg {s : State} {vif q} (hs : s.Canon) : (dropReg s vif q).Canon := hs.frame rfl
theorem canon_signalFail {s : State} {vif q} (hs : s.Canon) : (signalFail s vif q).Canon := by
  fun_cases signalFail
  · exact hs
  · exact canon_setRemap (canon_dropReg (canon_homeWrite hs))
theorem canon_evalSignal {s : State} {r} (hs : s.Canon) : (evalSignal s r).Canon := by
  fun_cases evalSignal
  · exact hs
  · exact canon_setRemap (canon_dropReg hs)
  · exact hs
theorem canon_postSignal {s : State} {r turn} (hs : s.Canon) : (postSignal s r turn).Canon := by
  fun_cases postSignal
  next e => exact (canon_postFault hs).done e
  · exact canon_adjFq hs
theorem canon_signalMapped {s : State} {vif q} (hs : s.Canon) : (signalMapped s vif q).Canon := by
  fun_cases signalMapped
  · exact hs
  · exact canon_evalSignal (hs.frame rfl)
  · exact canon_signalFail hs
  · exact hs
theorem canon_setWin {s : State} {k v} (hs : s.Canon) : (s.setWin k v).Canon := hs.frame (State.setWin_mem ..)
theorem canon_endFabOp {s : State} {o cause} (hs : s.Canon) : (endFabOp s o cause).Canon := by
  fun_cases endFabOp <;> exact hs.frame rfl
theorem canon_refuseWindow {s : State} {id cause} (hs : s.Canon) : (refuseWindow s id cause).Canon := by
  fun_cases refuseWindow
  · exact hs.frame rfl
  · exact canon_send (hs.frame rfl)
theorem canon_refuseGroup {s : State} {r pasid vpn cause} (hs : s.Canon) :
    (refuseGroup s r pasid vpn cause).Canon := by
  fun_cases refuseGroup
  · exact canon_takeTrap hs
  · exact hs
  · exact hs
  · exact hs
theorem canon_refuseGutter {s : State} {pasid vpn cause} (hs : s.Canon) : (refuseGutter s pasid vpn cause).Canon := by
  refine canon_foldl (fun _ _ ht => ?_) (canon_keepLogged hs)
  exact canon_ite (canon_fatalEnd ht) (canon_takeImprecise ht)
theorem canon_refuseEntry {s : State} {e cause} (hs : s.Canon) : (refuseEntry s e cause).Canon := by
  refine canon_refuseGutter (canon_foldl (fun _ _ ht => ?_) hs)
  split
  · exact canon_refuseGroup ht
  · exact canon_failCopy ht
  · exact canon_slotRefused ht
  · exact canon_signalFail ht
  · exact canon_refuseWindow ht
  · exact ht
  · exact ht
theorem canon_expireEntry {s : State} {e} (hs : s.Canon) : (expireEntry s e).Canon := by
  refine canon_foldl (fun _ _ => canon_fatalEnd) (canon_foldl (fun _ _ ht => ?_) hs)
  split
  · exact canon_fatalEnd ht
  · exact canon_failCopy ht
  · exact canon_slotRefused ht
  · exact canon_signalFail ht
  · exact canon_refuseWindow ht
  · exact ht
  · exact ht
theorem canon_wakeWaiter {s : State} {w} (hs : s.Canon) : (wakeWaiter s w).Canon := by
  fun_cases wakeWaiter
  · exact canon_afterLanding (canon_adjGroup hs)
  · exact hs.frame rfl
  · exact canon_adjSlot hs
  · exact canon_signalMapped hs
  · exact hs
  · exact hs
  · exact hs
/-- Teardown is a chain of folds, one for each kind of record that may name the PASID. -/
theorem canon_teardown {s : State} {pasid} (hs : s.Canon) : (teardown s pasid).Canon := by
  unfold teardown
  extract_lets _ _ _ _ copiesEnded _ _ _ _ _ slotsStopped
  have h : copiesEnded.Canon := canon_foldl (fun _ _ => canon_failCopy)
    (canon_foldl (fun _ _ => canon_abortInst) (canon_foldl (fun _ _ => canon_fatalEnd) (hs.frame rfl)))
  clear_value copiesEnded
  have h' : slotsStopped.Canon := canon_foldl (fun _ _ ht => canon_raiseSlot (canon_adjSlot ht))
    (canon_foldl (fun _ _ => canon_signalFail) (canon_setPasidState (h.frame rfl)))
  clear_value slotsStopped
  exact h'.frame rfl
theorem canon_teardownVif {s : State} {vif} (hs : s.Canon) : (teardownVif s vif).Canon :=
  canon_foldl (fun _ _ => canon_teardown) hs
theorem canon_drainPasid {s : State} {pasid} (hs : s.Canon) : (drainPasid s pasid).Canon := by
  fun_cases drainPasid
  · exact canon_setPasidState hs
  · exact hs

/-! ### Registers and what their writes start -/

theorem canon_adjHart {s : State} {f : Hart → Hart} {h} (hs : s.Canon) : (s.adjHart h f).Canon :=
  hs.frame (State.adjHart_mem ..)
theorem canon_xackWrite {s : State} {k v} (hs : s.Canon) : (xackWrite s k v).Canon := by
  fun_cases xackWrite
  · exact hs
  · exact canon_adjHart hs
theorem canon_adjRing {s : State} {f : Ring → Ring} {c} (hs : s.Canon) : (s.adjRing c f).Canon :=
  hs.frame (State.adjRing_mem ..)
theorem canon_ringPush {s : State} {c m} (hs : s.Canon) : (ringPush s c m).Canon := by
  fun_cases ringPush
  · exact canon_adjRing hs
  · exact canon_adjRing (canon_homeWrite hs)
theorem canon_irTailWrite {s : State} {c v} (hs : s.Canon) : (irTailWrite s c v).Canon :=
  canon_foldl (fun _ _ => canon_ringPush) (canon_adjRing hs)
theorem canon_modeWrite {s : State} {v} (hs : s.Canon) : (modeWrite s v).Canon := by
  unfold modeWrite
  extract_lets _ t _ _
  have ht : t.Canon := canon_ite (hs.frame rfl) hs
  clear_value t
  split
  · exact ht
  split
  · exact ht
  split <;> exact ht.frame rfl
theorem canon_setInva {s : State} {map v} (hs : s.Canon) : (s.setInva map v).Canon := hs.frame (State.setInva_mem ..)
theorem canon_invWrite {s : State} {map v} (hs : s.Canon) : (invWrite s map v).Canon := by
  fun_cases invWrite
  · exact hs
  · exact hs
  · exact canon_setInva (hs.frame rfl)
theorem canon_setTd {s : State} {map n t} (hs : s.Canon) : (s.setTd map n t).Canon := hs.frame (State.setTd_mem ..)
theorem canon_tdWrite {s : State} {map n v} (hs : s.Canon) : (tdWrite s map n v).Canon := by
  fun_cases tdWrite
  · exact hs
  · exact canon_teardown (canon_setTd hs)
theorem canon_sltWrite {s : State} {map core n v} (hs : s.Canon) : (sltWrite s map core n v).Canon := by
  fun_cases sltWrite
  · exact canon_adjCore hs
  · exact hs
theorem canon_winWrite {s : State} {vif imp n w v} (hs : s.Canon) : (winWrite s vif imp n w v).Canon :=
  canon_setWin hs
theorem canon_vifWrite {s : State} {vif v} (hs : s.Canon) : (vifWrite s vif v).Canon := by
  fun_cases vifWrite
  · exact hs
  · exact canon_teardownVif (hs.frame rfl)
  · exact hs.frame rfl
theorem canon_notifyWord {s : State} {vif q v} (hs : s.Canon) : (notifyWord s vif q v).Canon :=
  (canon_foldl (fun _ _ => canon_adjSlot) hs).frame rfl
theorem canon_armWrite {s : State} {v} (hs : s.Canon) : (armWrite s v).Canon := by
  fun_cases armWrite
  · exact hs.frame rfl
  · exact hs
theorem canon_popRead {s : State} (hs : s.Canon) : (popRead s).Canon := by
  fun_cases popRead
  · exact hs.frame rfl
  · exact hs.frame rfl
  · exact hs
theorem canon_dropHost {s : State} {seq} (hs : s.Canon) : (dropHost s seq).Canon := hs.frame rfl
theorem canon_returnEntry {s : State} {e} (hs : s.Canon) : (returnEntry s e).Canon := by
  fun_cases returnEntry
  · exact canon_adjFq hs
  · exact canon_adjFq hs
  · exact hs.frame rfl
  · exact canon_adjFq hs
theorem canon_hostDone {s : State} {seq low} (hs : s.Canon) : (hostDone s seq low).Canon := by
  fun_cases hostDone
  · exact hs
  · exact canon_refuseEntry (canon_dropHost hs)
  · exact canon_returnEntry (canon_dropHost hs)
theorem canon_write64 {s : State} {map o v} (hs : s.Canon) : (write64 s map o v).Canon := by
  fun_cases write64
  · exact canon_invWrite hs
  · exact hs.frame rfl
  · exact canon_tdWrite hs
  · exact hs
  · exact hs.frame rfl
  · exact canon_hostDone hs
  · exact hs.frame rfl
  · exact canon_xackWrite hs
  · exact canon_adjRing hs
  · exact hs.frame rfl
  · exact canon_vifWrite hs
  · exact hs
theorem canon_writeHalf {s : State} {map o v} (hs : s.Canon) : (writeHalf s map o v).Canon := by
  fun_cases writeHalf
  · exact canon_hostDone hs
  · exact hs.frame rfl
  · exact hs
  · exact canon_write64 hs
  · exact hs
  · exact canon_write64 hs
theorem canon_write32 {s : State} {map o v} (hs : s.Canon) : (write32 s map o v).Canon := by
  fun_cases write32
  · exact canon_sltWrite hs
  · exact hs.frame rfl
  · exact canon_notifyWord hs
  · exact canon_winWrite hs
  · exact canon_winWrite hs
  · exact hs
  · exact hs
  · exact canon_modeWrite hs
  · exact canon_armWrite hs
  · exact hs.frame rfl
  · exact hs.frame rfl
  · exact hs.frame rfl
  · exact hs.frame rfl
  · exact hs.frame rfl
  · exact hs.frame rfl
  · exact canon_irTailWrite hs
  · exact hs.frame rfl
  · exact hs
theorem canon_writeWord {s : State} {map o v} (hs : s.Canon) : (writeWord s map o v).Canon := by
  fun_cases writeWord
  · exact canon_writeHalf hs
  · exact canon_write32 hs
theorem canon_regWrite {s : State} {map o wide v} (hs : s.Canon) : (regWrite s map o wide v).Canon := by
  fun_cases regWrite
  · exact canon_write64 hs
  · exact canon_ite (canon_ite hs (canon_writeWord hs)) (canon_writeWord (canon_ite hs (canon_writeWord hs)))
  · exact canon_writeWord hs
theorem canon_execTrnInvPages {s : State} {x} (hs : s.Canon) : Out.Canon (execTrnInvPages x s) := by
  fun_cases execTrnInvPages
  · exact canon_ite (canon_invWrite hs) hs
theorem canon_execTrnInvPasidPages {s : State} {x} (hs : s.Canon) : Out.Canon (execTrnInvPasidPages x s) := by
  fun_cases execTrnInvPasidPages
  · exact canon_ite (canon_invWrite hs) hs
theorem canon_execTrnInvPasidAll {s : State} {x} (hs : s.Canon) : Out.Canon (execTrnInvPasidAll x s) := by
  fun_cases execTrnInvPasidAll
  · exact canon_ite (canon_invWrite hs) hs
theorem canon_execTrnInvAll {s : State} {x} (hs : s.Canon) : Out.Canon (execTrnInvAll x s) := by
  fun_cases execTrnInvAll
  · exact canon_ite (canon_invWrite hs) hs
theorem canon_execTeardownDrained {s : State} {x} (hs : s.Canon) : Out.Canon (execTeardownDrained x s) := by
  fun_cases execTeardownDrained
  · exact canon_ite (canon_setTd (canon_foldl (fun _ _ => canon_drainPasid) hs)) (canon_foldl (fun _ _ =>
      canon_drainPasid) hs)
theorem canon_execVifCfgWrite {s : State} {x} (hs : s.Canon) : Out.Canon (execVifCfgWrite x s) := by
  fun_cases execVifCfgWrite
  · exact canon_ite (canon_vifWrite hs) hs
theorem canon_execFqhPopRead {s : State} (hs : s.Canon) : Out.Canon (execFqhPopRead s) :=
  canon_send (canon_popRead hs)
theorem canon_execFqhRefuse {s : State} {x} (hs : s.Canon) : Out.Canon (execFqhRefuse x s) := by
  fun_cases execFqhRefuse
  · exact canon_ite (canon_hostDone hs) hs
theorem canon_execFqhReturn {s : State} {x} (hs : s.Canon) : Out.Canon (execFqhReturn x s) := by
  fun_cases execFqhReturn
  · exact canon_ite hs (canon_hostDone hs)

/-! ### Loads, stores, atomics and waits on global memory -/

theorem canon_hostPark {s0 : State} {s : State} {pa} (hs : s.Canon) : (hostPark s0 s pa).Canon := canon_wantRegion hs
/-- An access that places its lanes leaves canonical what the body makes of them. -/
theorem canon_withAccess {s0 : State} {c : Ctx} {fault : Acc → Option (Cause × Nat)} {k : List Placed → Res}
    {kind accs} (hc : c.s.Canon) (hk : ∀ b, (k b).Canon) :
    (withAccess s0 c kind fault accs k).Canon := by
  fun_cases withAccess
  · trivial
  · exact hc
  · exact canon_parkOnFault hc
  · exact canon_hostPark hc
  · exact hc
  · exact hk _
theorem canon_withStore {c : Ctx} {fault : Acc → Option (Cause × Nat)} {k : Unit → Res} {kind accs}
    (hc : c.s.Canon) (hk : ∀ b, (k b).Canon) :
    (withStore c kind fault accs k).Canon := by
  fun_cases withStore
  · trivial
  · exact hc
  · exact hk _
theorem canon_deferBytes {c : Ctx} {f : List Byte → List Word} {s : State} {d n l} (hs : s.Canon) :
    (deferBytes c d n f l s).Canon := canon_addDeferred hs
/-- What a placed load leaves behind. -/
theorem canon_loadOne {c : Ctx} {s : State} {p bypass x} (hs : s.Canon) (e : loadOne c s p bypass = some x) :
    x.2.Canon := by
  revert e
  fun_cases loadOne
  · rintro ⟨⟩
    exact hs
  · rintro ⟨⟩
  · rw [Option.map_eq_some_iff]
    rintro ⟨bs, -, rfl⟩
    exact canon_ite (canon_dropLine (canon_readBy (canon_noteAccess hs))) (canon_fillL1 (canon_noteAccess hs))
  · rintro ⟨⟩
/-- What the placed loads of an access leave behind. -/
theorem canon_loadEach {c : Ctx} {bypass} {s : State} {ps x} (hs : s.Canon)
    (e : loadEach c bypass s ps = some x) :
    x.2.Canon := by
  induction ps generalizing s x with
  | nil => cases e; exact hs
  | cons p ps ih =>
    simp only [loadEach, Option.bind_eq_some_iff, Option.map_eq_some_iff] at e
    obtain ⟨y, hy, z, hz, rfl⟩ := e
    exact ih (x := z) (canon_loadOne hs hy) hz
/-- What the loads of an access leave behind, whole or in halves. -/
theorem canon_loadHalves {c : Ctx} {ps x} (hc : c.s.Canon) (e : loadHalves c ps = some x) : x.2.Canon := by
  revert e
  fun_cases loadHalves
  · rw [Option.map_eq_some_iff]
    rintro ⟨y, hy, rfl⟩
    exact canon_adjGroup (canon_loadEach hc hy)
  · exact canon_loadEach hc
  · exact canon_loadEach hc
theorem canon_execLd {s : State} {x} (hs : s.Canon) : Out.Canon (execLd x s) := by
  refine canon_issue hs fun c hc => canon_withAccess hc fun ps => ?_
  split
  · exact hc
  next e => exact canon_deferBytes (canon_loadHalves hc e)
theorem canon_loadHalf {s : State} {x high} (hs : s.Canon) : Out.Canon (loadHalf x high s) := by
  refine canon_issue hs fun c hc => canon_withAccess hc fun ps => ?_
  split
  · exact hc
  next e => exact canon_adjGroup (canon_loadEach hc e)
theorem canon_execSt {s : State} {x} (hs : s.Canon) : Out.Canon (execSt x s) :=
  canon_issue hs fun _ hc => canon_withStore hc fun _ => canon_enqueueOr hc hc
theorem canon_execLdo {s : State} {x} (hs : s.Canon) : Out.Canon (execLdo x s) := by
  refine canon_issue hs fun c hc => canon_withAccess hc fun ps => ?_
  split
  · exact hc
  next e => exact canon_deferBytes (canon_ite (canon_dropL1 (canon_loadEach hc e)) (canon_loadEach hc e))
theorem canon_execSto {s : State} {x} (hs : s.Canon) : Out.Canon (execSto x s) :=
  canon_issue hs fun _ hc => canon_withStore hc fun _ => canon_enqueueOr hc hc
theorem canon_execStog {s : State} {x} (hs : s.Canon) : Out.Canon (execStog x s) :=
  canon_issue hs fun _ hc => canon_withStore hc fun _ => canon_enqueueOr hc hc
theorem canon_execLduW {s : State} {x} (hs : s.Canon) : Out.Canon (execLduW x s) := by
  refine canon_issue hs fun c hc => canon_withAccess hc fun ps => ?_
  split
  next e => exact canon_deferUni (canon_loadEach hc e)
  · exact hc
theorem canon_execLduD {s : State} {x} (hs : s.Canon) : Out.Canon (execLduD x s) := by
  refine canon_issue hs fun c hc => canon_withAccess hc fun ps => ?_
  split
  next e => exact canon_deferUni (canon_loadEach hc e)
  · exact hc
theorem canon_execStuW {s : State} {x} (hs : s.Canon) : Out.Canon (execStuW x s) :=
  canon_issue hs fun _ hc => canon_withStore hc fun _ => canon_enqueueOr hc hc
theorem canon_releaseAt {s : State} {core scope} (hs : s.Canon) : (releaseAt s core scope).Canon := by
  fun_cases releaseAt
  · exact canon_dropStale hs
  · exact hs
theorem canon_sendWinAtoms {c : Ctx} {b : Nat → DWord} {cmp : Nat → DWord} {s : State} {op wide ret ps}
    (hs : s.Canon) :
    (sendWinAtoms c op wide ret b cmp ps s).Canon := by
  refine canon_foldl (fun _ _ ht => ?_) hs
  split
  · exact canon_send (ht.frame rfl)
  · exact ht
theorem canon_atomRequests {c : Ctx} {b : Nat → DWord} {cmp : Nat → DWord} {s : State}
    {ret op wide scope order ps} (hs : s.Canon) :
    (atomRequests c ret op wide scope order b cmp ps s).Canon := by
  refine canon_adjCore (canon_adjGroup (canon_notePlaces ?_))
  split
  · exact hs
  · exact canon_addDeferred hs
theorem canon_atomCourse {c : Ctx} {b : Nat → DWord} {cmp : Nat → DWord} {k : State → Res}
    {ret op wide scope order ps} (hc : c.s.Canon) (hk : ∀ t, t.Canon → (k t).Canon) :
    (atomCourse c ret op wide scope order b cmp ps k).Canon := by
  fun_cases atomCourse
  · trivial
  · exact hc
  · exact canon_sendWinAtoms (canon_ite (canon_releaseAt hc) hc)
  · exact hk _ (canon_ite (canon_dropL1 (canon_ite (canon_releaseAt hc) hc)) (canon_ite (canon_releaseAt hc) hc))
theorem canon_execAtom {s : State} {x} (hs : s.Canon) : Out.Canon (execAtom x s) := by
  refine canon_issue hs fun _ hc => canon_withAccess hc fun _ => ?_
  dsimp only
  split
  · exact hc
  · exact canon_atomCourse hc fun _ => canon_atomRequests
theorem canon_execRed {s : State} {x} (hs : s.Canon) : Out.Canon (execRed x s) := by
  refine canon_issue hs fun _ hc => canon_withStore hc fun _ => ?_
  dsimp only
  split
  · split
    · exact canon_atomCourse hc fun _ ht => canon_enqueueOr hc (canon_adjGroup ht)
    · exact canon_enqueueOr hc hc
  split
  · exact canon_atomCourse hc fun _ ht => canon_enqueueOr hc (canon_adjGroup ht)
  · exact canon_enqueueOr hc hc
theorem canon_waitLanes {c : Ctx} {x} {s : State} {ls} (hs : s.Canon) : (waitLanes c x s ls).Canon := by
  induction ls generalizing s with
  | nil => exact hs
  | cons l ls ih =>
    refine ih ?_
    dsimp only
    split
    · exact canon_finishLane (canon_invalidateLine (canon_recall hs))
    · generalize l.1.pa.getD 0 = pa
      have h : ((s.recall (pa / 512)).invalidateLine (pa / 128)).Canon := canon_invalidateLine (canon_recall hs)
      exact h.frame rfl
theorem canon_execWaita {s : State} {x} (hs : s.Canon) : Out.Canon (execWaita x s) := by
  refine canon_issue hs fun c hc => canon_withAccess hc fun ps => ?_
  dsimp only
  split
  · exact hc
  split
  · exact hc
  next e => exact canon_waitLanes (canon_loadEach hc e)
theorem canon_execWakea {s : State} {x} (hs : s.Canon) : Out.Canon (execWakea x s) := by
  refine canon_issue hs fun _ hc => canon_withAccess hc fun _ => ?_
  split
  · exact hc
  · exact canon_foldl (fun _ _ => canon_wakeAt) (canon_releaseAt (canon_notePlaces hc))
theorem canon_execWaitaTimeout {s : State} {x} (hs : s.Canon) : Out.Canon (execWaitaTimeout x s) := by
  fun_cases execWaitaTimeout
  · exact hs
  · exact canon_ite (canon_wakeWaiters hs) hs
theorem canon_fenceEffect {s : State} {core scope} (hs : s.Canon) : (fenceEffect s core scope).Canon := by
  fun_cases fenceEffect
  · exact canon_dropL1 (canon_releaseAt hs)
  · exact canon_releaseAt hs
theorem canon_execFence {s : State} {x} (hs : s.Canon) : Out.Canon (execFence x s) := by
  refine canon_issue hs fun _ hc => ?_
  split
  · exact canon_fenceEffect hc
  · exact hc
theorem canon_execFenceConditionsMet {s : State} {r} (hs : s.Canon) : Out.Canon (execFenceConditionsMet r s) := by
  fun_cases execFenceConditionsMet
  · exact canon_ite (canon_completeHeld (canon_fenceEffect hs)) hs
  · exact hs
  · exact hs
theorem canon_execDiscard {s : State} {x} (hs : s.Canon) : Out.Canon (execDiscard x s) := by
  refine canon_issue hs fun _ hc => ?_
  dsimp only
  split
  · trivial
  refine canon_withStore hc fun _ => ?_
  split <;> exact hc
theorem canon_dropFrame {s : State} {base} (hs : s.Canon) : (dropFrame s base).Canon := hs.frame rfl
theorem canon_zeroMirrors {s : State} {base} (hs : s.Canon) : (zeroMirrors s base).Canon := hs.frame rfl
theorem canon_wakeFrame {s : State} {base} (hs : s.Canon) : (wakeFrame s base).Canon := canon_wakeWaiters hs
theorem canon_unmapSignals {s : State} {base} (hs : s.Canon) : (unmapSignals s base).Canon :=
  canon_foldl (fun _ _ => canon_postSignal) (hs.frame rfl)
theorem canon_freeFrame {s : State} {pa} (hs : s.Canon) : (freeFrame s pa).Canon :=
  canon_unmapSignals (canon_wakeFrame (wf_unlinkEntry _ _ _ (wf_writeLE _ _ _ (wf_clearRange _ _ (canon_mended
    (canon_zeroMirrors (canon_dropFrame hs)))))))
theorem canon_discardPage {s : State} {r pasid va turn} (hs : s.Canon) : (discardPage s r pasid va turn).Canon := by
  fun_cases discardPage
  · exact hs
  next x _ _ _ =>
    dsimp only [x]
    split
    next e => exact canon_freeFrame ((canon_postFault hs).done e)
    · exact canon_adjFq hs
  · exact canon_freeFrame hs
  next x _ _ _ _ =>
    dsimp only [x]
    split
    next e => exact (canon_postFault hs).done e
    · exact canon_adjFq hs
  · exact hs
theorem canon_discardPages {r pasid n va} {s : State} (hs : s.Canon) : (discardPages r pasid n va s).1.Canon := by
  induction n generalizing va s with
  | zero => exact hs
  | succ n ih =>
    unfold discardPages
    split
    next e => exact ih ((canon_discardPage hs).done e)
    next e => exact (canon_discardPage hs).later e
theorem canon_execDiscardComplete {s : State} {r} (hs : s.Canon) : Out.Canon (execDiscardComplete r s) := by
  fun_cases execDiscardComplete
  · exact canon_completeHeld (canon_releaseAt (canon_discardPages hs))
  · exact canon_adjGroup (canon_discardPages hs)
  · exact hs
  · exact hs
  · exact hs
theorem canon_discardTurn {s : State} {r vpn} (hs : s.Canon) : (discardTurn s r vpn).Canon := by
  fun_cases discardTurn
  next e => exact canon_adjGroup ((canon_discardPage hs).done e)
  next e => exact (canon_discardPage hs).later e
  · exact hs
  · exact hs
  · exact hs
theorem canon_prefLines {s : State} {core pasid target pa va n} (hs : s.Canon) :
    (prefLines s core pasid target pa va n).Canon := by
  fun_cases prefLines
  · exact hs
  · refine canon_foldl (fun _ _ ht => ?_) hs
    exact canon_ite ht (canon_ite (canon_fillL1 ht) (canon_readBy ht))
theorem canon_prefPage {s : State} {core pasid target va len vpn} (hs : s.Canon) :
    (prefPage s core pasid target va len vpn).Canon := by
  fun_cases prefPage
  · exact hs
  · exact hs
  next x _ _ _ =>
    dsimp only [x]
    split
    · exact canon_prefLines (canon_noteAccess hs)
    · exact hs
  next x _ _ _ _ _ _ =>
    dsimp only [x]
    split
    · exact canon_prefLines (canon_noteAccess hs)
    · exact hs
  · exact hs
  next e => exact (canon_postFault hs).done e
  · exact hs
  · exact hs
theorem canon_execPref {s : State} {x} (hs : s.Canon) : Out.Canon (execPref x s) := by
  refine canon_issue hs fun _ hc => ?_
  dsimp only
  split
  · exact hc
  · exact canon_foldl (fun _ _ => canon_prefPage) hc
theorem canon_execClaim {s : State} {x} (hs : s.Canon) : Out.Canon (execClaim x s) := by
  refine canon_issue hs fun _ hc => ?_
  dsimp only
  split
  · trivial
  · exact canon_withAccess hc fun _ => canon_enqueueOr hc hc

/-! ### Store queues and the Gutter -/

theorem canon_refuseStore {s : State} {r pasid e unit cause logseq pend} (hs : s.Canon) :
    (refuseStore s r pasid e unit cause logseq pend).Canon := by
  fun_cases refuseStore
  · exact hs
  · exact hs
  · exact canon_fatalEnd hs
  · exact canon_adjGroup hs
theorem canon_dropResult {s : State} {q} (hs : s.Canon) : (dropResult s q).Canon := by
  fun_cases dropResult
  · exact hs
  · exact canon_adjGroup hs
theorem canon_refuseReq {s : State} {core q unit cause} (hs : s.Canon) : (refuseReq s core q unit cause).Canon :=
  canon_refuseStore (canon_dropLine (canon_dropResult hs))
theorem canon_execGrainRefusal {s : State} {r} (hs : s.Canon) : Out.Canon (execGrainRefusal r s) := by
  fun_cases execGrainRefusal
  · exact hs
  · exact hs
  · exact hs
  · exact canon_takeImprecise (canon_adjGroup hs)
theorem canon_homeStep {s : State} {p : SqEntry → Bool} {x} (hs : s.Canon) : (homeStep s x p).Canon := by
  fun_cases homeStep
  · exact hs
  · exact canon_wantRegion hs
  · exact hs
  next e => exact (canon_performReq hs).done e
  next e => exact canon_refuseReq ((canon_performReq hs).refused e)
  · exact hs
theorem canon_reachHome {s : State} {n home} (hs : s.Canon) : (reachHome s n home).Canon := hs.frame rfl
theorem canon_execHomeRead {s : State} {x} (hs : s.Canon) : Out.Canon (execHomeRead x s) := by
  fun_cases execHomeRead
  · exact hs
  · exact canon_send (canon_reachHome hs)
  · exact canon_ite hs (canon_readLine hs)
  · exact canon_ite hs (canon_readLine hs)
theorem canon_execFCopyEviction {s : State} {x} (hs : s.Canon) : Out.Canon (execFCopyEviction x s) := by
  fun_cases execFCopyEviction
  · exact canon_ite (canon_setLineDir hs) hs
theorem canon_refuseWaiting {s : State} {grain t r g} (hs : s.Canon) : (refuseWaiting s grain t r g).Canon := by
  fun_cases refuseWaiting
  · exact canon_takeImprecise (canon_adjGroup hs)
  · exact hs
theorem canon_refuseWaiters {s : State} {grain} (hs : s.Canon) : (refuseWaiters s grain).Canon := by
  refine canon_foldl (fun _ _ ht => canon_foldl (fun _ _ hu => ?_) ht) hs
  split
  · exact canon_refuseWaiting hu
  · exact hu
theorem canon_markGrain {s : State} {grain} (hs : s.Canon) : (markGrain s grain).Canon := by
  exact canon_foldl (fun _ _ ht => canon_foldl (fun _ _ => canon_refuseReq) (canon_adjCore ht)) (wf_markLost _ _
      (canon_dropOwner (canon_ite hs (canon_refuseWaiters hs))))
theorem canon_softCopy {s : State} {id} (hs : s.Canon) : (softCopy s id).Canon :=
  canon_failCopy (canon_foldl (fun _ _ => canon_markGrain) hs)
theorem canon_execGrainLostMark {s : State} {grain} (hs : s.Canon) : Out.Canon (execGrainLostMark grain s) := by
  fun_cases execGrainLostMark
  · exact canon_softCopy hs
  · exact canon_ite (canon_markGrain hs) hs
theorem canon_execInvalidationDeliveryFailure {s : State} {x} (hs : s.Canon) :
    Out.Canon (execInvalidationDeliveryFailure x s) := by
  fun_cases execInvalidationDeliveryFailure
  · exact hs
  · exact canon_adjCore hs
  · exact hs
theorem canon_execDeclarationTimeout {s : State} {core} (hs : s.Canon) :
    Out.Canon (execDeclarationTimeout core s) := canon_foldl (fun _ _ => canon_refuseReq) (canon_adjCore hs)
theorem canon_performAtCore {s : State} {core r pasid vif e pa kind logged} (hs : s.Canon) :
    (performAtCore s core r pasid vif e pa kind logged).Canon := by
  fun_cases performAtCore
  · exact canon_regWrite hs
  · exact canon_adjCore (canon_noteAccess (canon_ite (canon_updateL1 hs) hs))
theorem canon_postGutter {s : State} {core g} (hs : s.Canon) : (postGutter s core g).Canon := by
  fun_cases postGutter
  next e => exact (canon_postFault hs).done e
  · exact canon_adjFq hs
  · exact hs
theorem canon_logHead {s : State} {t r run} (hs : s.Canon) : (logHead s t r run).Canon :=
  canon_foldl (fun _ _ => canon_postGutter) (canon_adjGroup (canon_adjCore hs))
theorem canon_popEntries {s : State} {r es} (hs : s.Canon) : (popEntries s r es).Canon := canon_adjGroup hs
theorem canon_popEntry {s : State} {r e} (hs : s.Canon) : (popEntry s r e).Canon := canon_adjGroup hs
theorem canon_toGutter {s : State} {t r g run} (hs : s.Canon) : (toGutter s t r g run).Canon := by
  fun_cases toGutter
  · exact canon_logHead hs
  · exact canon_adjGroup hs
  · exact hs
theorem canon_leaveHead {s : State} {r} (hs : s.Canon) : (leaveHead s r).Canon := by
  fun_cases leaveHead
  · exact hs
  · exact canon_teamStore (canon_popEntry hs)
  · exact hs
  · exact canon_teamStore (canon_popEntry hs)
  · exact canon_teamStore (canon_dropStale (canon_popEntry hs))
  · exact hs
  · exact canon_teamRmw (canon_popEntry hs)
  · exact hs
  · exact canon_adjTeam (canon_popEntry hs)
  · exact hs
  · exact canon_toGutter hs
  · exact canon_toGutter hs
  · exact canon_refuseStore (canon_popEntries hs)
  · exact canon_popEntry hs
  · exact hs
  · exact canon_wantRegion hs
  · exact hs
  · exact canon_performAtCore (canon_popEntry hs)
  · exact hs
theorem canon_leaveEarly {s : State} {r i} (hs : s.Canon) : (leaveEarly s r i).Canon := by
  fun_cases leaveEarly
  · exact hs
  · exact hs
  · exact canon_leaveHead (canon_adjGroup hs)
  · exact hs
theorem canon_unlog {s : State} {n e} (hs : s.Canon) : (unlog s n e).Canon := by
  fun_cases unlog
  · exact canon_adjCore hs
  · exact hs.frame rfl
theorem canon_replayEntry {s : State} {n e} (hs : s.Canon) : (replayEntry s n e).Canon := by
  fun_cases replayEntry
  · exact canon_wantRegion hs
  · exact canon_foldl (fun _ _ => canon_performAtCore) (canon_foldl (fun _ _ => canon_unlog) hs)
  · exact canon_refuseStore (canon_foldl (fun _ _ => canon_unlog) hs)
  · exact canon_foldl (fun _ _ => canon_unlog) hs
  · exact hs
theorem canon_execGutterReplay {s : State} {n} (hs : s.Canon) : Out.Canon (execGutterReplay n s) := by
  fun_cases execGutterReplay
  · split
    · exact canon_replayEntry hs
    · exact hs
theorem canon_replayPageList {n pasid vpn k x} (hx : x.2.Canon) : (replayPageList n pasid vpn k x).2.Canon := by
  induction k generalizing x with
  | zero => exact hx
  | succ k ih =>
    unfold replayPageList
    split
    · exact hx
    · exact ih (canon_replayEntry hx)
theorem canon_replayPage {s : State} {pasid vpn} (hs : s.Canon) : (replayPage s pasid vpn).2.Canon := by
  have h : ∀ (l : List Nat) (x : Nat × State), x.2.Canon →
      (l.foldl (fun x n => replayPageList n pasid vpn (replayList x.2 n).length x) x).2.Canon := by
    intro l
    induction l with
    | nil => exact fun _ hx => hx
    | cons n l ih => exact fun x hx => ih _ (canon_replayPageList hx)
  exact h _ _ hs
theorem canon_execGutterOverflowRelease {s : State} {core} (hs : s.Canon) :
    Out.Canon (execGutterOverflowRelease core s) := by
  fun_cases execGutterOverflowRelease
  · exact hs
  · exact canon_afterLanding (canon_adjGroup (canon_logHead hs))
  · exact hs
  · exact hs
/-- What a posted fault leaves, or the state itself when its queue is full. -/
theorem canon_orPosted {s : State} {p : Posted} (hs : s.Canon) (hp : p.Canon) :
    (match p with | .done t => t | .full => s).Canon := by
  split
  · exact hp
  · exact hs
theorem canon_postStarved {s : State} {key w} (hs : s.Canon) : (postStarved s key w).Canon := by
  unfold postStarved
  extract_lets drop
  have hd : (drop s).Canon := canon_adjFq hs
  clear_value drop
  split
  · split
    · split
      · split
        next e => exact canon_adjGroup ((canon_postFault hd).done e)
        · exact hs
      · exact hd
    · exact hd
  · split
    · split
      · exact canon_orPosted hs (canon_postFault hd)
      · exact hd
    · exact hd
  · exact canon_ite (canon_orPosted hs (canon_postFault hd)) hd
  · split
    · exact canon_postSignal hd
    · exact hd
  · exact canon_orPosted hs (canon_postFault hd)
  · exact canon_discardTurn hd
  · exact canon_ite (canon_orPosted hs (canon_postFault hd)) hd
theorem canon_execFaultQueueFree {s : State} {key} (hs : s.Canon) : Out.Canon (execFaultQueueFree key s) := by
  fun_cases execFaultQueueFree
  · exact hs
  · exact canon_ite (canon_postStarved hs) hs
theorem canon_execHostsharedToAccelDone {s : State} {q} (hs : s.Canon) :
    Out.Canon (execHostsharedToAccelDone q s) := by
  fun_cases execHostsharedToAccelDone
  · exact canon_ite (canon_setRegion hs) hs
theorem canon_dropRegion {s : State} {q} (hs : s.Canon) : (dropRegion s q).Canon := hs.frame rfl
theorem canon_startToHost {s : State} {q} (hs : s.Canon) : (startToHost s q).Canon := canon_setRegion hs
theorem canon_toHost {s : State} {q} (hs : s.Canon) : (toHost s q).Canon :=
  canon_foldl (fun _ _ => canon_send) (canon_setRegion (canon_dropRegion (canon_foldl (fun _ _ => canon_send) hs)))
theorem canon_endToHost {s : State} {q} (hs : s.Canon) : (endToHost s q).Canon := by
  fun_cases endToHost
  · exact canon_toHost hs
  · exact hs
theorem canon_execHostSnoop {s : State} {x} (hs : s.Canon) : Out.Canon (execHostSnoop x s) := by
  fun_cases execHostSnoop
  · exact hs
  next u v =>
    have hu : u.Canon := canon_setRegion hs
    have hv : v.Canon := canon_ite hu (canon_send hu)
    clear_value v
    exact canon_ite (canon_startToHost hv) hv
  · exact canon_ite (canon_setRegion hs) hs
theorem canon_execHostsharedAccelHoldExpiry {s : State} {q} (hs : s.Canon) :
    Out.Canon (execHostsharedAccelHoldExpiry q s) := by
  fun_cases execHostsharedAccelHoldExpiry
  · exact canon_ite (canon_startToHost hs) hs
theorem canon_execHostsharedTransferDeadline {s : State} {q} (hs : s.Canon) :
    Out.Canon (execHostsharedTransferDeadline q s) := by
  fun_cases execHostsharedTransferDeadline
  · exact hs
  · exact canon_foldl (fun _ _ => canon_refuseWindow) (canon_foldl (fun _ _ => canon_failCopy) (canon_foldl
      (fun _ _ => canon_fatalEnd) hs))

/-! ### The matrix unit -/

theorem canon_releaseSigner {s : State} {team x} (hs : s.Canon) : (releaseSigner s team x).Canon := canon_adjGroup hs
theorem canon_checkHeads {team n} {s : State} (hs : s.Canon) : (checkHeads team n s).Canon := by
  induction n generalizing s with
  | zero => exact hs
  | succ n ih =>
    unfold checkHeads
    split
    · exact hs
    split
    · split
      · exact canon_foldl (fun _ _ => canon_releaseSigner) (canon_adjTeam hs)
      · exact ih (canon_foldl (fun _ _ => canon_roundTrap) (canon_adjTeam hs))
    · exact hs
theorem canon_queueMoved {s : State} {team} (hs : s.Canon) : (queueMoved s team).Canon :=
  canon_checkHeads (canon_adjTeam hs)
theorem canon_enterQueue {s : State} {team k} (hs : s.Canon) : (enterQueue s team k).Canon :=
  canon_queueMoved (canon_adjTeam hs)
theorem canon_parkSigners {c : Ctx} {s : State} {k} (hs : s.Canon) : (parkSigners c k s).Canon := canon_adjGroup hs
theorem canon_signRound {c : Ctx} {x g0 before} (hc : c.s.Canon) : (signRound c x g0 before).Canon := by
  fun_cases signRound
  · exact canon_parkSigners (canon_adjTeam hc)
  · exact hc
  · exact canon_enterQueue (canon_parkSigners (canon_adjTeam hc))
theorem canon_execMma {s : State} {x} (hs : s.Canon) : Out.Canon (execMma x s) := by
  refine canon_issue hs fun _ hc => ?_
  split
  · exact canon_takeTrap (canon_adjGroup hc)
  split
  · trivial
  split
  · exact canon_signRound hc
  · exact canon_signRound hc
  · exact hc
theorem canon_execKset {s : State} {x} (hs : s.Canon) : Out.Canon (execKset x s) := by
  refine canon_issue hs fun _ hc => ?_
  dsimp only
  split
  · split
    · trivial
    split
    · trivial
    split
    · trivial
    · exact canon_adjTeam hc
  split
  · trivial
  split
  · trivial
  split
  · trivial
  · exact canon_adjTeam hc
theorem canon_execWload {s : State} {x} (hs : s.Canon) : Out.Canon (execWload x s) := by
  refine canon_issue hs fun _ hc => ?_
  dsimp only
  split
  · trivial
  split
  · exact hc
  split
  · exact hc
  · exact canon_enterQueue (canon_adjTeam hc)
theorem canon_queueOp {c : Ctx} {k} (hc : c.s.Canon) : (queueOp c k).Canon := by
  fun_cases queueOp
  · exact hc
  · exact canon_enterQueue hc
theorem canon_execZclr {s : State} {x} (hs : s.Canon) : Out.Canon (execZclr x s) :=
  canon_issue hs fun _ => canon_queueOp
theorem canon_execWact {s : State} {settle} (hs : s.Canon) : Out.Canon (execWact settle s) := by
  refine canon_issue hs fun _ hc => ?_
  split
  · trivial
  split
  · exact hc
  · exact canon_enterQueue (canon_adjTeam hc)
theorem canon_tileMove {s : State} {k : Nat → Nat → MqKind} {x} (hs : s.Canon) : Out.Canon (tileMove x s k) := by
  refine canon_issue hs fun _ hc => ?_
  dsimp only
  split
  · trivial
  split
  · exact hc
  split
  · exact hc
  · exact canon_adjGroup (canon_enterQueue hc)
theorem canon_execZrd {s : State} {x} (hs : s.Canon) : Out.Canon (execZrd x s) := by
  refine canon_issue hs fun _ hc => ?_
  split
  · exact hc
  · exact canon_enterQueue (canon_addDeferred hc)
theorem canon_execZwr {s : State} {x} (hs : s.Canon) : Out.Canon (execZwr x s) :=
  canon_issue hs fun _ => canon_queueOp
theorem canon_roundEffect {s : State} {t x ss} (hs : s.Canon) : (roundEffect s t x ss).Canon := by
  fun_cases roundEffect
  · exact canon_foldl (fun _ _ => canon_takeImprecise) (hs.frame rfl)
  · exact canon_adjTeam hs
theorem canon_endTransfer {s : State} {r} (hs : s.Canon) : (endTransfer s r).Canon :=
  canon_afterLanding (canon_adjGroup hs)
theorem canon_performEntry {s : State} {t k} (hs : s.Canon) : (performEntry s t k).Canon := by
  fun_cases performEntry
  · exact canon_roundEffect hs
  · exact hs
  · exact canon_adjTeam hs
  · exact canon_adjTeam hs
  · exact canon_endTransfer (canon_adjTeam hs)
  · exact canon_endTransfer (canon_adjTeam hs)
  · exact canon_adjGroup hs
  · exact canon_adjTeam hs
theorem canon_arrayStart {s : State} {p : MqKind → Bool} {core} (hs : s.Canon) : (arrayStart s core p).Canon := by
  fun_cases arrayStart
  · exact hs
  · exact hs
  · exact canon_queueMoved (canon_adjCore (canon_performEntry (canon_adjTeam hs)))
  · exact hs
theorem canon_execWloadComplete {s : State} {r} (hs : s.Canon) : Out.Canon (execWloadComplete r s) := by
  fun_cases execWloadComplete
  · exact canon_completeHeld (canon_queueMoved (canon_adjTeam hs))
  · exact hs
  · exact hs
  · exact hs
theorem canon_execMatrixQueueFree {s : State} {team} (hs : s.Canon) : Out.Canon (execMatrixQueueFree team s) := by
  fun_cases execMatrixQueueFree
  · exact hs
  · exact hs
  · exact canon_foldl (fun _ _ ht => canon_afterLanding (canon_adjGroup ht)) hs

/-! ### Copies -/

theorem canon_takeGrains {s : State} {id} (hs : s.Canon) : (takeGrains s id).Canon := by
  fun_cases takeGrains
  · exact hs
  · exact hs
  · refine (canon_foldl (fun _ _ ht => ?_) hs).frame rfl
    exact canon_ite ht (canon_invalidateGrain (canon_dropOwner ht))
theorem canon_execCopy {s : State} {x} (hs : s.Canon) : Out.Canon (execCopy x s) := by
  refine canon_issue hs fun _ hc => ?_
  dsimp only
  split
  · trivial
  refine canon_withAccess hc fun _ => ?_
  split
  · exact hc
  split
  · trivial
  split
  · exact hc
  split
  · split
    · exact hc
    · exact canon_takeGrains (hc.frame rfl)
  split
  · exact hc
  · exact canon_takeGrains (hc.frame rfl)
theorem canon_reissue {s : State} {run : Instr → State → Out} {r} (hs : s.Canon)
    (hrun : ∀ i t, t.Canon → Out.Canon (run i t)) :
    Out.Canon (reissue s r run) := by
  fun_cases reissue
  next t e =>
    have ht : t.Canon := Out.Canon.next (hrun _ { s with actor := .group r } hs) e
    exact ht
  · exact hrun _ { s with actor := .group r } hs
  · exact hs
theorem canon_execCopyQueueFree {s : State} {chiplet} (hs : s.Canon) : Out.Canon (execCopyQueueFree chiplet s) := by
  fun_cases execCopyQueueFree
  · refine canon_reissue hs fun _ _ ht => ?_
    split
    · exact canon_execCopy ht
    · exact ht
  · exact hs
  · exact hs
theorem canon_writeGlobal {s : State} {l va bs} (hs : s.Canon) : (writeGlobal s l va bs).Canon :=
  canon_foldl (fun _ _ => canon_homeStore) hs
theorem canon_writeCodes {s : State} {p team l codes} (hs : s.Canon) : (writeCodes s p team l codes).Canon := by
  fun_cases writeCodes
  · exact hs
  · refine canon_foldl (fun _ _ ht => ?_) hs
    exact canon_ite (canon_homeStore ht) (canon_teamStore ht)
theorem canon_writePiece {s : State} {c l r n} (hs : s.Canon) : (writePiece s c l r n).Canon := by
  fun_cases writePiece
  · refine canon_writeGlobal (canon_foldl (fun t e ht => ?_) (canon_writeCodes hs))
    exact canon_ite (canon_writeGlobal ht) (canon_teamStore ht)
  · refine canon_foldl (fun t e ht => ?_) (canon_writeCodes hs)
    exact canon_ite (canon_writeGlobal ht) (canon_teamStore ht)
theorem canon_recallSource {s : State} {c l} (hs : s.Canon) : (recallSource s c l).Canon := by
  fun_cases recallSource
  · exact canon_foldl (fun _ _ => canon_recall) hs
  · exact hs
theorem canon_movePiece {s : State} {c t l n} (hs : s.Canon) : (movePiece s c t l n).Canon :=
  (canon_writePiece (canon_recallSource hs)).frame rfl
theorem canon_moveCopy {s : State} {c t l} (hs : s.Canon) : (moveCopy s c t l).Canon := by
  fun_cases moveCopy
  · exact canon_adjArrival (canon_dropCopy (canon_foldl (fun _ _ => canon_writePiece) (canon_recallSource hs)))
  · exact canon_dropCopy (canon_foldl (fun _ _ => canon_writePiece) (canon_recallSource hs))
theorem canon_copyPost {s : State} {c vpn need remote chain} (hs : s.Canon) :
    (copyPost s c vpn need remote chain).Canon := by
  fun_cases copyPost
  next t _ e =>
    have ht : t.Canon := hs
    exact (canon_postFault ht).done e
  · exact canon_adjFq hs
theorem canon_copyRegion {s : State} {id pa} (hs : s.Canon) : (copyRegion s id pa).Canon :=
  canon_wantRegion (hs.frame rfl)
theorem canon_copyGo {s : State} {els : CopyJob → List Nat}
    {k : State → CopyJob → Team → List (Nat × Tr) → State} {id} (hs : s.Canon)
    (hk : ∀ t a b d, t.Canon → (k t a b d).Canon) :
    (copyGo s id els k).Canon := by
  fun_cases copyGo
  · exact hs
  · exact hs
  · exact hs
  · exact canon_failCopy (canon_takeGrains hs)
  · exact canon_copyPost (canon_takeGrains hs)
  · exact canon_failCopy (canon_takeGrains hs)
  · exact canon_copyRegion (canon_takeGrains hs)
  · exact canon_takeGrains hs
  · exact canon_softCopy (canon_takeGrains hs)
  · exact hk _ _ _ _ (canon_notePlaces (canon_takeGrains hs))
theorem canon_execCopyArrival {s : State} {id} (hs : s.Canon) : Out.Canon (execCopyArrival id s) :=
  canon_copyGo hs fun _ _ _ _ => canon_moveCopy
theorem canon_copyPiece {s : State} {id n} (hs : s.Canon) : (copyPiece s id n).Canon := by
  fun_cases copyPiece
  · exact hs
  · exact canon_copyGo hs fun _ _ _ _ => canon_movePiece
  · exact hs
theorem canon_execCopyError {s : State} {x} (hs : s.Canon) : Out.Canon (execCopyError x s) := by
  fun_cases execCopyError
  · exact hs
  · exact canon_softCopy hs
  · exact canon_failCopy hs
  · exact hs

/-! ### Records, posts and slots -/

theorem canon_arenaWrite {s : State} {i va bs} (hs : s.Canon) : (arenaWrite s i va bs).Canon := by
  refine canon_foldl (fun _ _ ht => ?_) hs
  split
  · exact canon_homeWrite ht
  · exact ht
theorem canon_writeRecord {s : State} {w} (hs : s.Canon) : (writeRecord s w).Canon := by
  fun_cases writeRecord
  · exact hs
  · exact hs
  · exact canon_adjInst ((canon_arenaWrite hs).frame rfl)
/-- What drawing a slot leaves behind. -/
theorem canon_drawSlot {s t : State} {team room} (hs : s.Canon) (e : drawSlot s team room = some t) : t.Canon := by
  simp only [drawSlot, Option.bind_eq_some_iff] at e
  obtain ⟨tm, -, i, -, e⟩ := e
  split at e
  · cases e
    exact canon_adjInst (canon_adjTeam hs)
  split at e
  · cases e
    exact hs
  · cases e
theorem canon_postLanes {free tries} {s : State} {ls} (hs : s.Canon) : (postLanes free tries s ls).2.2.Canon := by
  induction ls generalizing s with
  | nil => exact hs
  | cons w ls ih =>
    unfold postLanes
    split
    next e => exact ih (canon_writeRecord (canon_drawSlot hs e))
    · split
      · exact ih hs
      · exact hs
theorem canon_postOp {s : State} {free tries x} (hs : s.Canon) : Out.Canon (postOp free tries x s) := by
  refine canon_issue hs fun c hc => ?_
  split
  · trivial
  split
  · exact hc
  split
  · exact hc
  extract_lets recs
  have h : (postLanes free tries c.s recs).2.2.Canon := canon_postLanes hc
  split
  next e =>
    rw [e] at h
    extract_lets u _ _
    have hu : u.Canon := canon_ite h (canon_addDeferred h)
    clear_value u
    split
    · exact hu
    · exact canon_adjGroup (canon_adjInst (canon_setPcs hu))
theorem canon_answerPost {s : State} {inst w status} (hs : s.Canon) : (answerPost s inst w status).Canon := by
  fun_cases answerPost
  · exact canon_adjLane (canon_addDeferred (canon_adjInst hs))
  · exact canon_afterLanding (canon_adjGroup (canon_adjLane (canon_addDeferred (canon_adjInst hs))))
theorem canon_execPostWaitServe {s : State} {inst} (hs : s.Canon) : Out.Canon (execPostWaitServe inst s) := by
  fun_cases execPostWaitServe
  · exact hs
  · exact hs
  next e => exact canon_answerPost (canon_writeRecord (canon_drawSlot hs e))
  · exact hs
theorem canon_cutSheaf {s : State} {inst launcher node label recs} (hs : s.Canon) :
    (cutSheaf s inst launcher node label recs).Canon := by
  fun_cases cutSheaf
  · exact hs
  · exact hs.frame rfl
theorem canon_cutBin {s : State} {inst b} (hs : s.Canon) : (cutBin s inst b).Canon :=
  canon_adjInst (canon_cutSheaf hs)
theorem canon_execRecordArrival {s : State} {x} (hs : s.Canon) : Out.Canon (execRecordArrival x s) := by
  fun_cases execRecordArrival
  · exact hs
  · exact hs
  · exact hs
  · exact canon_ite (canon_cutBin (canon_adjInst hs)) (canon_adjInst hs)
theorem canon_execBinTimerExpiry {s : State} {x} (hs : s.Canon) : Out.Canon (execBinTimerExpiry x s) := by
  fun_cases execBinTimerExpiry
  · exact hs
  · exact hs
  · exact canon_ite (canon_cutBin hs) hs
theorem canon_execDrainCut {s : State} {inst} (hs : s.Canon) : Out.Canon (execDrainCut inst s) := by
  fun_cases execDrainCut
  · exact hs
  · exact canon_ite (canon_foldl (fun _ _ => canon_cutBin) hs) hs
theorem canon_launchSheaf {s : State} {i n h rect} (hs : s.Canon) : (launchSheaf s i n h rect).Canon :=
  canon_adjInst (canon_foldl (fun _ _ ht => canon_dropL1 (ht.frame rfl)) (hs.frame rfl))
theorem canon_execSheafLaunch {s : State} {launcher} (hs : s.Canon) : Out.Canon (execSheafLaunch launcher s) := by
  fun_cases execSheafLaunch
  · exact hs
  · exact hs
  · exact canon_launchSheaf hs
  · exact hs
theorem canon_execPostWaitStall {s : State} {inst} (hs : s.Canon) : Out.Canon (execPostWaitStall inst s) := by
  fun_cases execPostWaitStall
  · exact hs
  · exact canon_ite (canon_foldl (fun _ _ => canon_answerPost) hs) hs
theorem canon_execInstanceStallDrain {s : State} {inst} (hs : s.Canon) :
    Out.Canon (execInstanceStallDrain inst s) := by
  fun_cases execInstanceStallDrain
  · exact hs
  · exact hs
  · exact canon_ite (canon_finishInst hs) hs
theorem canon_execInstanceComplete {s : State} {inst} (hs : s.Canon) : Out.Canon (execInstanceComplete inst s) := by
  fun_cases execInstanceComplete
  · exact hs
  · exact canon_ite (canon_finishInst hs) hs
theorem canon_execNodeq {s : State} {x} (hs : s.Canon) : Out.Canon (execNodeq x s) :=
  canon_issue hs fun _ => canon_adjGroup
theorem canon_execNodeqAnswer {s : State} {r} (hs : s.Canon) : Out.Canon (execNodeqAnswer r s) := by
  fun_cases execNodeqAnswer
  · exact canon_afterLanding (canon_adjGroup hs)
  · exact hs
  · exact hs

/-! ### Trap handlers -/

theorem canon_execTrap {s : State} {x} (hs : s.Canon) : Out.Canon (execTrap x s) := by
  refine canon_issue hs fun _ hc => ?_
  split
  · trivial
  split
  · exact canon_fatalEnd hc
  · exact canon_takeTrap hc
theorem canon_execRte {s : State} {settle} (hs : s.Canon) : Out.Canon (execRte settle s) :=
  canon_issue hs fun _ => canon_returnFromTrap
theorem canon_execGrprd {s : State} {x} (hs : s.Canon) : Out.Canon (execGrprd x s) :=
  canon_issue hs fun _ => canon_writeUPair
theorem canon_execGrpwr {s : State} {x} (hs : s.Canon) : Out.Canon (execGrpwr x s) := by
  refine canon_issue hs fun _ hc => ?_
  split
  · exact hc
  · exact canon_adjGroup hc
theorem canon_execGrpres {s : State} {x} (hs : s.Canon) : Out.Canon (execGrpres x s) := by
  refine canon_issue hs fun _ hc => ?_
  split
  · split
    · exact canon_writeU (canon_adjGroup hc)
    · exact canon_writeU hc
  · exact canon_writeU hc
theorem canon_execGrpstop {s : State} {x} (hs : s.Canon) : Out.Canon (execGrpstop x s) := by
  refine canon_issue hs fun _ hc => ?_
  dsimp only
  split
  · exact canon_writeU hc
  split
  · exact canon_writeU hc
  split
  · exact canon_writeU hc
  split
  · exact hc
  split
  · split
    · exact canon_writeU hc
    · exact hc
  split
  · split
    · exact canon_writeU (canon_stopGroup hc)
    · exact canon_stopGroup hc
  · exact canon_writeU hc
theorem canon_execGrplist {s : State} {x} (hs : s.Canon) : Out.Canon (execGrplist x s) :=
  canon_issue hs fun _ => canon_writeUPair
theorem canon_execFaultDeadline {s : State} {x} (hs : s.Canon) : Out.Canon (execFaultDeadline x s) := by
  fun_cases execFaultDeadline
  · exact canon_ite (canon_expireEntry (canon_takeEntry hs)) hs
  · exact canon_ite (canon_expireEntry (canon_adjFq hs)) hs
  · exact hs
  · exact canon_ite (canon_expireEntry (hs.frame rfl)) hs
  · exact hs
  · exact canon_ite (canon_expireEntry (canon_dropHost hs)) hs
  · exact hs
theorem canon_preemptTeam {s : State} {id} (hs : s.Canon) : (preemptTeam s id).Canon := by
  fun_cases preemptTeam
  · exact hs
  · exact hs
  · exact canon_adjTeam (canon_adjCore (canon_foldl (fun _ _ => canon_freezeGroup) hs))
theorem canon_writeSpill {s : State} {chiplet l} (hs : s.Canon) : (writeSpill s chiplet l).Canon := by
  fun_cases writeSpill
  · refine canon_foldl (fun t r ht => ?_) hs
    exact canon_ite (canon_homeWrite ht) ht
  · refine (canon_foldl (fun t r ht => ?_) hs).frame rfl
    exact canon_ite (canon_homeWrite ht) ht
theorem canon_execPreemptSave {s : State} {id} (hs : s.Canon) : Out.Canon (execPreemptSave id s) := by
  fun_cases execPreemptSave
  · exact hs
  · exact hs
  next t =>
    refine canon_adjTeam ?_
    dsimp only [t]
    split
    · exact canon_scrambleBytes (canon_writeSpill (hs.frame rfl))
    · exact canon_writeSpill (hs.frame rfl)
theorem canon_resyncSub {s : State} {team u} (hs : s.Canon) : (resyncSub s team u).Canon := by
  fun_cases resyncSub
  · exact hs
  · exact canon_teamStore (hs.frame rfl)
theorem canon_seatCopies {s : State} {t chiplet} (hs : s.Canon) : (seatCopies s t chiplet).Canon :=
  canon_foldl (fun _ _ ht => ht.frame rfl) (hs.frame rfl)
theorem canon_seatTeam {s : State} {t core} (hs : s.Canon) : (seatTeam s t core).Canon :=
  canon_foldl (fun _ _ => canon_resyncSub) (canon_seatCopies (canon_adjTeam (canon_dropL1 (canon_adjCore
    (canon_mapCores hs)))))
theorem canon_execTeamResume {s : State} {id} (hs : s.Canon) : Out.Canon (execTeamResume id s) := by
  fun_cases execTeamResume
  · exact hs
  · exact hs
  · exact hs
  · exact canon_foldl (fun _ _ => canon_seatTeam) hs

/-! ### Service cores -/

theorem canon_hartRetire {s : State} {h rd v len} (hs : s.Canon) : (hartRetire s h rd v len).Canon := canon_adjHart hs
theorem canon_hartTrap {s : State} {h cause tval} (hs : s.Canon) : (hartTrap s h cause tval).Canon := canon_adjHart hs
theorem canon_hresRun {s : State} {r : HRes} {h rd len} (hs : s.Canon) (hr : r.Canon) :
    (HRes.run s h rd len r).Canon := by
  fun_cases HRes.run
  · exact canon_hartRetire hr
  · exact canon_hartTrap hs
  · exact hr
theorem canon_hartOp {s : State} {body : Nat → Hart → HRes} {rd} (hs : s.Canon)
    (hbody : ∀ a b, (body a b).Canon) :
    Out.Canon (hartOp s rd body) := by
  fun_cases hartOp
  · trivial
  · exact canon_hresRun hs (hbody _ _)
  · trivial
theorem canon_xkrov {s : State} {body : Nat → Hart → HRes} {i roles rd} (hs : s.Canon)
    (hbody : ∀ a b, (body a b).Canon) :
    Out.Canon (xkrov i roles s rd body) := by
  refine canon_hartOp hs fun _ _ => ?_
  split
  · trivial
  split
  · trivial
  · exact hbody _ _
theorem canon_operandAt {s : State} {body : Nat → HRes} {k va align u} (hs : s.Canon)
    (hbody : ∀ b, (body b).Canon) :
    (operandAt s k va align u body).Canon := by
  fun_cases operandAt
  · trivial
  · trivial
  · trivial
  · exact canon_wantRegion hs
  · exact hbody _
theorem canon_readsGood {s : State} {body : HRes} {l} (hbody : body.Canon) : (readsGood s l body).Canon := by
  fun_cases readsGood
  · trivial
  · exact hbody
theorem canon_execLodeh {s : State} {x} (hs : s.Canon) : Out.Canon (execLodeh x s) := by
  refine canon_xkrov hs fun _ _ => ?_
  dsimp only
  split
  · trivial
  split
  · trivial
  split
  · trivial
  · exact hs
theorem canon_ackCtrl {s : State} {h v} (hs : s.Canon) : (ackCtrl s h v).Canon := canon_adjHart hs
theorem canon_execSwait {s : State} {x} (hs : s.Canon) : Out.Canon (execSwait x s) := by
  refine canon_xkrov hs fun _ _ => ?_
  dsimp only
  split
  · trivial
  split
  · exact canon_ackCtrl hs
  · exact canon_adjHart hs
theorem canon_execSwaitReturn {s : State} {h} (hs : s.Canon) : Out.Canon (execSwaitReturn h s) := by
  fun_cases execSwaitReturn
  · exact hs
  · exact hs
  · exact canon_hartRetire (canon_ackCtrl hs)
  · exact hs
theorem canon_execServiceCoreAmo {s : State} {x} (hs : s.Canon) : Out.Canon (execServiceCoreAmo x s) := by
  refine canon_hartOp hs fun h k => ?_
  extract_lets va n u
  clear_value u
  split
  · trivial
  split
  · trivial
  split
  · trivial
  split
  · exact canon_wantRegion hs
  split
  · exact canon_adjHart (canon_readBy hs)
  · split
    · exact canon_adjHart (canon_homeWrite hs)
    · exact canon_adjHart hs
  · exact canon_homeRmw hs
theorem canon_execXkrovCsrWrite {s : State} {x} (hs : s.Canon) : Out.Canon (execXkrovCsrWrite x s) := by
  refine canon_hartOp hs fun _ _ => ?_
  split
  · trivial
  · exact canon_adjHart hs

/-! ### Serving faults and pages -/

theorem canon_adjServed {s : State} {f : Served → Served} {h handle} (hs : s.Canon) :
    (s.adjServed h handle f).Canon := hs.frame (State.adjServed_mem ..)
theorem canon_freeHandle {s : State} {h handle} (hs : s.Canon) : (freeHandle s h handle).Canon := hs.frame rfl
theorem canon_withHandle {s : State} {body : Served → HRes} {h v} (hbody : ∀ b, (body b).Canon) :
    (withHandle s h v body).Canon := by
  fun_cases withHandle
  · trivial
  · exact hbody _
theorem canon_execFqpop {s : State} {x} (hs : s.Canon) : Out.Canon (execFqpop x s) := by
  refine canon_xkrov hs fun _ _ => canon_operandAt hs fun _ => ?_
  dsimp only
  split
  · exact hs
  split
  · split
    · exact hs
    · exact canon_homeWrite (hs.frame rfl)
  · exact hs
theorem canon_replayHandle {s : State} {body : State → HRes} {h v} (hs : s.Canon)
    (hbody : ∀ t, t.Canon → (body t).Canon) :
    (replayHandle s h v body).Canon := by
  fun_cases replayHandle
  · exact hbody _ hs
  · exact canon_adjServed (canon_replayPage hs)
  · exact hbody _ (canon_adjServed (canon_adjServed (canon_replayPage hs)))
theorem canon_execGlreplay {s : State} {x} (hs : s.Canon) : Out.Canon (execGlreplay x s) := by
  refine canon_xkrov hs fun _ _ => canon_withHandle fun _ => ?_
  split
  · trivial
  split
  · exact hs
  · exact canon_replayHandle hs fun _ ht => ht
theorem canon_wakegOp {s : State} {body : Nat → Hart → Served → DWord → HRes} {x} (hs : s.Canon)
    (hbody : ∀ a b d e, (body a b d e).Canon) :
    Out.Canon (wakegOp x s body) := by
  refine canon_xkrov hs fun _ _ => ?_
  dsimp only
  split
  · trivial
  · exact canon_withHandle fun _ => hbody _ _ _ _
theorem canon_repost {s : State} {v met} (hs : s.Canon) : (repost s v met).Canon := by
  fun_cases repost
  · exact hs
  · exact canon_adjFq hs
theorem canon_completeEntry {s : State} {h v met} (hs : s.Canon) : (completeEntry s h v met).Canon :=
  canon_foldl (fun _ _ => canon_wakeWaiter) (canon_repost (canon_freeHandle hs))
theorem canon_execWakegComplete {s : State} {x} (hs : s.Canon) : Out.Canon (execWakegComplete x s) := by
  refine canon_wakegOp hs fun _ _ _ _ => ?_
  split
  · exact canon_replayHandle hs fun _ => canon_completeEntry
  split
  · exact canon_completeEntry hs
  · trivial
theorem canon_execWakegRefuse {s : State} {x} (hs : s.Canon) : Out.Canon (execWakegRefuse x s) := by
  refine canon_wakegOp hs fun _ _ _ _ => ?_
  dsimp only
  split
  · trivial
  · exact canon_refuseEntry (canon_freeHandle hs)
theorem canon_execWakegDecline {s : State} {x} (hs : s.Canon) : Out.Canon (execWakegDecline x s) := by
  refine canon_wakegOp hs fun _ _ _ _ => ?_
  dsimp only
  split
  · trivial
  split
  · split
    · exact hs
    · exact canon_adjFq (canon_freeHandle hs)
  split
  · trivial
  split
  · exact hs
  · exact hs.frame rfl
theorem canon_execWakegRequeue {s : State} {x} (hs : s.Canon) : Out.Canon (execWakegRequeue x s) :=
  canon_wakegOp hs fun _ _ _ _ => canon_adjFq (canon_freeHandle hs)
theorem canon_replaceCovered {s : State} {map} (hs : s.Canon) : (replaceCovered s map).Canon :=
  canon_foldl (fun _ _ => canon_postSignal) (canon_foldl (fun _ _ => canon_replaceWoken) (hs.frame rfl))
theorem canon_execInvalidationComplete {s : State} {map} (hs : s.Canon) :
    Out.Canon (execInvalidationComplete map s) := by
  fun_cases execInvalidationComplete
  · exact canon_setInva (canon_replaceCovered hs)
  · exact hs
theorem canon_markInstalled {s : State} {h handle hold} (hs : s.Canon) : (markInstalled s h handle hold).Canon := by
  fun_cases markInstalled
  · exact hs
  · exact canon_adjServed hs
theorem canon_installFrame {s : State} {c i img} (hs : s.Canon) : (installFrame s c i img).Canon := by
  unfold installFrame
  extract_lets base t
  have ht : t.Canon := canon_ite (canon_mended (canon_dropFrame (wf_clearRange _ _ hs))) hs
  clear_value t
  exact wf_writeLE _ _ _ (wf_setInvEntry _ _ _ _ (wf_writeLE _ _ _ ht))
theorem canon_installPage {s : State} {h handle c i img} (hs : s.Canon) : (installPage s h handle c i img).Canon := by
  refine canon_readsGood ?_
  split
  · exact hs
  split
  · split
    · exact hs
    · exact canon_markInstalled (wf_setInvEntry _ _ _ _ hs)
  split
  · trivial
  split
  · exact hs
  · exact canon_markInstalled (canon_installFrame hs)
theorem canon_execPginst {s : State} {x} (hs : s.Canon) : Out.Canon (execPginst x s) := by
  refine canon_xkrov hs fun _ _ => canon_operandAt hs fun _ => canon_readsGood ?_
  dsimp only
  split
  · trivial
  split
  · trivial
  split
  · trivial
  split
  · exact canon_installPage (canon_readBy hs)
  refine canon_withHandle fun _ => ?_
  split
  · exact canon_installPage (canon_readBy hs)
  · trivial
theorem canon_evictFrame {s : State} {c i} (hs : s.Canon) : (evictFrame s c i).Canon :=
  canon_unmapSignals (canon_wakeFrame (canon_dropFrame (wf_unlinkEntry _ _ _ hs)))
theorem canon_execPgevict {s : State} {x} (hs : s.Canon) : Out.Canon (execPgevict x s) := by
  refine canon_xkrov hs fun _ _ => ?_
  dsimp only
  split
  · trivial
  refine canon_readsGood ?_
  split
  · exact hs
  split
  · exact hs
  · exact canon_evictFrame hs

/-! ### Transfers and the Lode -/

theorem canon_postXfer {s : State} {h j x m} (hs : s.Canon) : (postXfer s h j x m).Canon := canon_send (hs.frame rfl)
theorem canon_withDescriptor {s : State} {body : Nat → Nat → HRes} {k va} (hs : s.Canon)
    (hbody : ∀ a b, (body a b).Canon) :
    (withDescriptor s k va body).Canon := by
  fun_cases withDescriptor
  · trivial
  · exact hs
  · exact canon_operandAt hs fun _ => canon_readsGood (hbody _ _)
theorem canon_transferOp {s : State} {i roles kind x} (hs : s.Canon) : Out.Canon (transferOp i roles kind x s) := by
  refine canon_xkrov hs fun _ _ => canon_withDescriptor hs fun _ _ => ?_
  dsimp only
  split
  · trivial
  · exact canon_postXfer (canon_readBy hs)
theorem canon_execLodeq {s : State} {x} (hs : s.Canon) : Out.Canon (execLodeq x s) := by
  refine canon_xkrov hs fun _ _ => ?_
  dsimp only
  split
  · trivial
  split
  · trivial
  refine canon_withDescriptor hs fun _ _ => ?_
  split
  · trivial
  · exact canon_postXfer (canon_readBy hs)
theorem canon_endXfer {s : State} {x code data} (hs : s.Canon) : (endXfer s x code data).Canon := by
  unfold endXfer
  extract_lets answered ended posted
  have h : answered.Canon :=
    canon_ite (canon_ite (canon_homeWrite hs) (canon_scrambleBytes hs)) (canon_ite (canon_homeWrite hs) hs)
  have h' : ended.Canon := by
    dsimp only [ended]
    split <;> exact canon_homeWrite h
  have h'' : posted.Canon := canon_homeWrite h'
  clear_value posted
  exact h''.frame rfl
theorem canon_execTransferDone {s : State} {x} (hs : s.Canon) : Out.Canon (execTransferDone x s) := by
  fun_cases execTransferDone
  · exact hs
  · exact canon_endXfer hs
  · exact hs
theorem canon_execTransferTimeout {s : State} {x} (hs : s.Canon) : Out.Canon (execTransferTimeout x s) := by
  fun_cases execTransferTimeout
  · exact hs
  · exact canon_ite (canon_endXfer hs) hs
theorem canon_execTransferServe {s : State} {x} (hs : s.Canon) : Out.Canon (execTransferServe x s) := by
  fun_cases execTransferServe
  · exact hs
  · exact canon_send hs
  · exact hs
  · exact canon_send (canon_homeWrite hs)
  · exact canon_send (wf_markAccessed _ _ (canon_foldl (fun _ _ => canon_readBy) hs))
theorem canon_lodePut {s : State} {e} (hs : s.Canon) : (lodePut s e).Canon := hs.frame rfl
theorem canon_lodeAnswer {s : State} {op x code entry} (hs : s.Canon) : (lodeAnswer s op x code entry).Canon := by
  fun_cases lodeAnswer
  · exact canon_endXfer hs
  · exact hs
  · exact canon_send hs
theorem canon_lodeOp {s : State} {f : BitVec 256 → Nat × BitVec 256} {op x} (hs : s.Canon) :
    Out.Canon (lodeOp s op x f) := by
  fun_cases lodeOp
  · exact hs
  · exact canon_lodeAnswer hs
  · exact canon_lodeAnswer (canon_lodePut hs)
theorem canon_execLodeInsert {s : State} {x} (hs : s.Canon) : Out.Canon (execLodeInsert x s) := by
  fun_cases execLodeInsert
  · exact hs
  · exact canon_lodeAnswer hs
  · exact canon_lodeAnswer (hs.frame rfl)
theorem canon_endAck {s : State} {t ack} (hs : s.Canon) : (endAck s t ack).Canon := by
  fun_cases endAck <;> exact canon_endXfer hs
theorem canon_endPosted {s : State} {x op} (hs : s.Canon) : (endPosted s x op).Canon := by
  fun_cases endPosted
  · exact canon_endAck hs
  · exact hs
  · exact hs
theorem canon_execLodeAck {s : State} {x} (hs : s.Canon) : Out.Canon (execLodeAck x s) := by
  fun_cases execLodeAck
  · exact canon_endAck hs
  · exact hs
theorem canon_execInvalRingArrival {s : State} {m} (hs : s.Canon) : Out.Canon (execInvalRingArrival m s) := by
  fun_cases execInvalRingArrival
  · exact canon_ite hs (canon_ringPush hs)

/-! ### Queues and their packets -/

theorem canon_writeQcb {s : State} {pa q} (hs : s.Canon) : (writeQcb s pa q).Canon := canon_homeWrite hs
theorem canon_execQload {s : State} {x} (hs : s.Canon) : Out.Canon (execQload x s) := by
  refine canon_xkrov hs fun _ _ => ?_
  dsimp only
  split
  · trivial
  refine canon_operandAt hs fun _ => canon_readsGood ?_
  split
  · trivial
  split
  · trivial
  split
  · trivial
  split
  · trivial
  refine canon_readsGood ?_
  split
  · exact hs
  · exact canon_adjSlot (canon_dropWaiter (canon_dropReg (canon_readBy hs)))
theorem canon_dispatchOp {s : State} {f : Nat → QSlot → QSlot} {x allowed} (hs : s.Canon) :
    Out.Canon (dispatchOp x s allowed f) := by
  refine canon_xkrov hs fun _ _ => ?_
  dsimp only
  split
  · trivial
  split
  · trivial
  split
  · trivial
  · exact canon_adjSlot hs
theorem canon_execQsave {s : State} {x} (hs : s.Canon) : Out.Canon (execQsave x s) := by
  refine canon_xkrov hs fun _ _ => ?_
  dsimp only
  split
  · trivial
  refine canon_operandAt hs fun _ => ?_
  split
  · trivial
  · exact canon_adjSlot (canon_dropWaiter (canon_writeQcb hs))
theorem canon_slotAddr {s : State} {pasid va uses} (hs : s.Canon) : (slotAddr s pasid va uses).Canon := by
  fun_cases slotAddr
  · trivial
  · trivial
  · exact hs
  · exact canon_wantRegion hs
  · trivial
  · trivial
theorem canon_rangeAddr {s : State} {pasid va n} (hs : s.Canon) : (rangeAddr s pasid va n).Canon := by
  induction n generalizing va with
  | zero => trivial
  | succ n ih =>
    unfold rangeAddr
    split
    · exact ih
    · exact canon_slotAddr hs
theorem canon_holdSlot {s : State} {n pasid va need remote chain reason} (hs : s.Canon) :
    (holdSlot s n pasid va need remote chain reason).Canon := by
  fun_cases holdSlot
  next e => exact (canon_postFault (canon_adjSlot hs)).done e
  · exact canon_adjFq (canon_adjSlot hs)
theorem canon_advanceSlot {s : State} {n} (hs : s.Canon) : (advanceSlot s n).Canon := canon_adjSlot hs
theorem canon_pktRun {r : PktRes} {n} (hr : r.Canon) : (PktRes.run n r).Canon := by
  fun_cases PktRes.run
  · exact canon_advanceSlot hr
  · exact hr
theorem canon_stopSlot {s : State} {n} (hs : s.Canon) : (stopSlot s n).Canon := by
  fun_cases stopSlot
  · exact canon_raiseSlot (canon_adjSlot (canon_adjSlot (canon_dropWaiter hs)))
  · exact canon_raiseSlot (canon_adjSlot (canon_adjSlot (canon_dropWaiter hs)))
  · exact canon_foldl (fun _ _ => canon_preemptTeam) (canon_adjSlot (canon_dropWaiter hs))
theorem canon_slotTurn {s : State} {body : State → Nat → PktRes} {n ty} (hs : s.Canon)
    (hbody : ∀ t b, t.Canon → (body t b).Canon) :
    (slotTurn s n ty body).Canon := by
  fun_cases slotTurn
  · exact canon_stopSlot hs
  · exact hs
  · exact canon_slotError hs
  · exact hs
  · exact hs
  · exact canon_raiseSlot (canon_adjSlot hs)
  · exact canon_slotError hs
  next e => exact (canon_slotAddr hs).later e
  · exact canon_holdSlot hs
  · exact canon_slotError (canon_noteAccess hs)
  · exact canon_pktRun (hbody _ _ (canon_noteAccess hs))
  · exact canon_noteAccess hs
theorem canon_withWord {s : State} {body : State → Nat → PktRes} {n va align uses} (hs : s.Canon)
    (hbody : ∀ t b, t.Canon → (body t b).Canon) :
    (withWord s n va align uses body).Canon := by
  fun_cases withWord
  · exact canon_slotError hs
  · exact canon_slotError hs
  next e => exact (canon_slotAddr hs).later e
  · exact canon_holdSlot hs
  · exact hbody _ _ (canon_noteAccess hs)
theorem canon_execQpktBarrier {s : State} {n} (hs : s.Canon) : Out.Canon (execQpktBarrier n s) := by
  unfold execQpktBarrier
  refine canon_slotTurn hs fun t _ ht => ?_
  split <;> exact ht
theorem canon_execQpktTimestamp {s : State} {n} (hs : s.Canon) : Out.Canon (execQpktTimestamp n s) :=
  canon_slotTurn hs fun _ _ ht => canon_withWord ht fun _ _ => canon_homeWrite
theorem canon_execQpktSignal {s : State} {n} (hs : s.Canon) : Out.Canon (execQpktSignal n s) := by
  refine canon_slotTurn hs fun _ _ ht => canon_withWord ht fun _ _ hu => ?_
  dsimp only
  split
  · exact canon_homeWrite hu
  · exact canon_homeRmw hu
  · exact canon_homeRmw hu
theorem canon_parkQueue {s : State} {n fresh sig val cond pa} (hs : s.Canon) :
    (parkQueue s n fresh sig val cond pa).Canon := by
  unfold parkQueue
  extract_lets _ _ _ _ _ u _ _ _ t
  have hu : u.Canon := canon_adjSlot (canon_writeQcb hs)
  clear_value u
  have ht : t.Canon := canon_raiseSlot (hu.frame rfl)
  clear_value t
  exact canon_ite (canon_postSignal ht) ht
theorem canon_waitSlot {s : State} {n fresh sig val cond} (hs : s.Canon) :
    (waitSlot s n fresh sig val cond).Canon := by
  fun_cases waitSlot
  · exact canon_slotError hs
  · exact canon_slotError hs
  next e => exact (canon_slotAddr hs).later e
  · exact canon_ite (canon_holdSlot hs) (canon_parkQueue hs)
  · exact canon_noteAccess hs
  · exact canon_adjSlot (canon_noteAccess hs)
  · exact canon_parkQueue (canon_noteAccess hs)
theorem canon_unparkSlot {s : State} {n} (hs : s.Canon) : (unparkSlot s n).Canon := canon_adjSlot hs
theorem canon_waitAgain {s : State} {n} (hs : s.Canon) : (waitAgain s n).Canon := by
  fun_cases waitAgain
  next e => exact canon_unparkSlot ((canon_waitSlot hs).next e)
  next e => exact (canon_waitSlot hs).stay e
theorem canon_waitPacket {s : State} {n} (hs : s.Canon) : (waitPacket s n).Canon :=
  canon_slotTurn hs fun _ _ => canon_waitSlot
theorem canon_execQpktWait {s : State} {n} (hs : s.Canon) : Out.Canon (execQpktWait n s) := by
  fun_cases execQpktWait
  · exact canon_ite (canon_waitAgain hs) (canon_waitPacket hs)
theorem canon_execSignalPollTimer {s : State} {n} (hs : s.Canon) : Out.Canon (execSignalPollTimer n s) := by
  fun_cases execSignalPollTimer
  · exact hs
  · exact canon_ite (canon_waitAgain (canon_adjSlot hs)) (canon_waitPacket (canon_adjSlot hs))
  · exact hs
theorem canon_execSignalReevaluate {s : State} {i} (hs : s.Canon) : Out.Canon (execSignalReevaluate i s) := by
  fun_cases execSignalReevaluate
  · exact hs
  · exact canon_ite (canon_setRemap (canon_dropReg hs)) hs
theorem canon_notePages {s : State} {pasid va n} (hs : s.Canon) : (notePages s pasid va n).Canon :=
  canon_notePlaces hs
theorem canon_refuseStart {s : State} {e reason node} (hs : s.Canon) : (refuseStart s e reason node).Canon :=
  canon_signalDown (canon_homeWrite hs)
theorem canon_beginInst {s : State} {q a hdr nodes handler} (hs : s.Canon) :
    (beginInst s q a hdr nodes handler).Canon := canon_arenaWrite (hs.frame rfl)
theorem canon_startChecked {s : State} {hold : SlotAddr → Nat → PktRes} {n a e hdr} (hs : s.Canon)
    (hhold : ∀ a b, a.Canon → (hold a b).Canon) :
    (startChecked s n a e hdr hold).Canon := by
  have hcode : ∀ {p : Prop} [Decidable p] {va k},
      (if p then .bad else rangeAddr s (qcbPasid (s.slot n).qcb) va k : SlotAddr).Canon := by
    intro p _ va k
    split
    · trivial
    · exact canon_rangeAddr hs
  fun_cases startChecked
  · exact hhold _ _ trivial
  · exact canon_refuseStart hs
  · exact canon_refuseStart hs
  · exact hhold _ _ trivial
  next e => exact hcode.later e
  · exact canon_beginInst hs
  · exact canon_beginInst (canon_notePages hs)
theorem canon_startRead {s : State} {hold : SlotAddr → Nat → PktRes} {n a e} (hs : s.Canon)
    (hhold : ∀ a b, a.Canon → (hold a b).Canon) :
    (startRead s n a e hold).Canon := by
  fun_cases startRead
  · exact canon_refuseStart hs
  · exact canon_refuseStart hs
  next x _ _ =>
    dsimp only [x]
    split
    · split
      · exact canon_notePages hs
      split
      · split
        · exact canon_startChecked (canon_notePages (canon_notePages (canon_notePages hs))) fun _ _ => hhold _ _
        · exact canon_refuseStart (canon_notePages (canon_notePages hs))
        · exact hhold _ _ (canon_rangeAddr (canon_notePages (canon_notePages hs)))
      · exact canon_refuseStart (canon_notePages hs)
      · exact hhold _ _ (canon_rangeAddr (canon_notePages hs))
    · exact canon_refuseStart hs
    · exact hhold _ _ (canon_rangeAddr hs)
theorem canon_execQpktStart {s : State} {n} (hs : s.Canon) : Out.Canon (execQpktStart n s) := by
  unfold execQpktStart
  refine canon_slotTurn hs fun t v ht => ?_
  extract_lets a pasid hold go
  have hhold : ∀ r k, r.Canon → (hold r k).Canon := by
    intro r k hr
    dsimp only [hold]
    split
    · exact canon_holdSlot ht
    · exact hr
    · exact ht
  have hgo : ∀ {u e}, u.Canon → (go u e).Canon := fun hu => canon_startRead hu hhold
  clear_value hold go
  refine canon_withWord ht fun u comp hu => ?_
  split
  · exact hgo hu
  · exact canon_withWord hu fun _ _ => hgo

/-! ### The fabric -/

theorem canon_admitFabOp {s : State} {o} (hs : s.Canon) : (admitFabOp s o).Canon := by
  fun_cases admitFabOp
  · exact hs.frame rfl
  · exact canon_send (hs.frame rfl)
theorem canon_putGetOp {s : State} {put x} (hs : s.Canon) : Out.Canon (putGetOp put x s) := by
  refine canon_issue hs fun _ hc => ?_
  dsimp only
  split
  · trivial
  split
  · exact hc
  split
  · exact hc
  split
  · split
    · exact hc
    split
    · exact hc
    · exact canon_admitFabOp hc
  split
  · exact hc
  split
  · exact hc
  · exact canon_admitFabOp hc
theorem canon_execFabricPortFree {s : State} {chiplet} (hs : s.Canon) : Out.Canon (execFabricPortFree chiplet s) := by
  fun_cases execFabricPortFree
  · refine canon_reissue hs fun _ _ ht => ?_
    split
    · exact canon_putGetOp ht
    · exact canon_putGetOp ht
    · exact ht
  · exact hs
  · exact hs
theorem canon_recallPlaces {s : State} {l} (hs : s.Canon) : (recallPlaces s l).Canon := by
  refine canon_foldl (fun _ _ ht => ?_) hs
  split
  · exact canon_recall ht
  · exact ht
theorem canon_placedWrite {s : State} {l va bs} (hs : s.Canon) : (placedWrite s l va bs).Canon :=
  canon_foldl (fun _ _ => canon_homeWrite) hs
theorem canon_postWindow {s : State} {id pasid vpn need remote chain} (hs : s.Canon) :
    (postWindow s id pasid vpn need remote chain).Canon := by
  fun_cases postWindow
  · exact hs
  next e => exact (canon_postFault hs).done e
  · exact canon_adjFq hs
theorem canon_dropFabOp {s : State} {o cause} (hs : s.Canon) : (dropFabOp s o cause).Canon := canon_endFabOp hs
theorem canon_finishFabOp {s : State} {o l n cause data} (hs : s.Canon) : (finishFabOp s o l n cause data).Canon := by
  exact canon_endFabOp (canon_ite (canon_ite (canon_notePlaces hs) (canon_send (canon_recallPlaces
      (canon_notePlaces hs)))) (canon_placedWrite (canon_notePlaces hs)))
theorem canon_windowRegion {s : State} {id pa} (hs : s.Canon) : (windowRegion s id pa).Canon :=
  canon_wantRegion (hs.frame rfl)
theorem canon_fabReady {s : State} {o l} (hs : s.Canon) : (fabReady s o l).Canon := by
  fun_cases fabReady
  · trivial
  · exact canon_postWindow hs
  · trivial
  · exact canon_windowRegion hs
  · exact hs
  · trivial
theorem canon_endPutGet {s : State} {o x} (hs : s.Canon) : (endPutGet s o x).Canon := by
  fun_cases endPutGet
  · exact canon_dropFabOp hs
  · exact canon_dropFabOp hs
  · exact hs
  · exact hs
  · exact canon_finishFabOp hs
  · exact canon_dropFabOp hs
  next e => exact (canon_fabReady hs).wait e
  · exact canon_finishFabOp hs
theorem canon_endWinAtom {s : State} {o a x} (hs : s.Canon) : (endWinAtom s o a x).Canon := by
  fun_cases endWinAtom
  · exact hs.frame rfl
  · exact canon_takeTrap (canon_adjGroup (hs.frame rfl))
  · exact canon_afterLanding (canon_adjGroup (canon_adjGroup (hs.frame rfl)))
  · exact canon_adjGroup (hs.frame rfl)
theorem canon_execPutGetComplete {s : State} {x} (hs : s.Canon) : Out.Canon (execPutGetComplete x s) := by
  fun_cases execPutGetComplete
  · exact hs
  · exact canon_endPutGet hs
  · exact canon_endWinAtom hs
theorem canon_bumpTarget {s : State} {vif exp} (hs : s.Canon) : (bumpTarget s vif exp).Canon := canon_setWin hs
theorem canon_performWindow {s : State} {x va l} (hs : s.Canon) : (performWindow s x va l).Canon := by
  fun_cases performWindow
  · exact canon_send (canon_ite (canon_bumpTarget (canon_placedWrite (canon_notePlaces hs))) (canon_placedWrite
      (canon_notePlaces hs)))
  · exact canon_send (canon_recallPlaces (canon_notePlaces hs))
  · exact canon_send (canon_homeRmw (canon_notePlaces hs))
theorem canon_serveWindow {s : State} {id e x} (hs : s.Canon) : (serveWindow s id e x).Canon := by
  fun_cases serveWindow
  · exact canon_refuseWindow hs
  next e' => exact (canon_fabReady hs).wait e'
  · exact canon_performWindow (hs.frame rfl)
  · exact canon_refuseWindow (canon_foldl (fun _ _ => canon_reachHome) hs)
theorem canon_execWindowRequestArrival {s : State} {x} (hs : s.Canon) : Out.Canon (execWindowRequestArrival x s) := by
  fun_cases execWindowRequestArrival
  · exact hs
  · exact canon_serveWindow hs
  · exact canon_send hs
  · exact canon_serveWindow (hs.frame rfl)
theorem canon_counterOp {s : State} {body : Ctx → Word → BitVec 256 → Res} {n a settle} (hs : s.Canon)
    (hbody : ∀ c a b, c.s.Canon → (body c a b).Canon) :
    Out.Canon (counterOp n a settle s body) := by
  refine canon_issue hs fun _ hc => ?_
  dsimp only
  split
  · trivial
  · exact hbody _ _ _ hc
theorem canon_execWcwait {s : State} {x} (hs : s.Canon) : Out.Canon (execWcwait x s) := by
  refine canon_counterOp hs fun _ _ _ hc => ?_
  split
  · exact canon_dropL1 (canon_writeU hc)
  · exact hc
theorem canon_execWcrd {s : State} {x} (hs : s.Canon) : Out.Canon (execWcrd x s) :=
  canon_counterOp hs fun _ _ _ => canon_adjGroup
theorem canon_execWcrdAnswer {s : State} {r} (hs : s.Canon) : Out.Canon (execWcrdAnswer r s) := by
  fun_cases execWcrdAnswer
  · exact canon_afterLanding (canon_adjGroup hs)
  · exact hs
  · exact hs
theorem canon_execWcreset {s : State} {x} (hs : s.Canon) : Out.Canon (execWcreset x s) :=
  canon_counterOp hs fun _ _ _ => canon_setWin
theorem canon_execPlaneDown {s : State} {n} (hs : s.Canon) : Out.Canon (execPlaneDown n s) := by
  fun_cases execPlaneDown
  · exact canon_ite (hs.frame rfl) hs
theorem canon_execUePathDown {s : State} {n} (hs : s.Canon) : Out.Canon (execUePathDown n s) := by
  fun_cases execUePathDown
  · exact canon_ite (hs.frame rfl) hs
theorem canon_execNodeSilentTimeout {s : State} {n} (hs : s.Canon) : Out.Canon (execNodeSilentTimeout n s) := by
  fun_cases execNodeSilentTimeout
  · exact canon_send (hs.frame rfl)
  · exact hs
theorem canon_countEvent {s : State} {i} (hs : s.Canon) : (countEvent s i).Canon := hs.frame rfl
theorem canon_dropHolder {s : State} {h} (hs : s.Canon) : (dropHolder s h).Canon :=
  canon_foldl (fun _ _ => canon_markGrain) (canon_foldl (fun _ _ => canon_dropOwner) (canon_mapCores (hs.frame rfl)))
theorem canon_execDeclarationConfirm {s : State} {n} (hs : s.Canon) : Out.Canon (execDeclarationConfirm n s) := by
  fun_cases execDeclarationConfirm
  · exact canon_countEvent (canon_dropHolder (hs.frame rfl))
  · exact hs
theorem canon_execNodeRejoin {s : State} {n} (hs : s.Canon) : Out.Canon (execNodeRejoin n s) := by
  fun_cases execNodeRejoin
  · exact hs.frame rfl
  · exact hs

/-! ### Floating-point operations -/

theorem canon_enterSfu {c : Ctx} {s : State} (hs : s.Canon) : (enterSfu c s).Canon := canon_adjCore hs
theorem canon_sfuOp {s : State} {f : Word → Word × FFlags} {x} (hs : s.Canon) : Out.Canon (sfuOp x s f) :=
  canon_issue hs fun _ hc => canon_enterSfu (canon_deferLanes hc)
theorem canon_execSfuEnter {s : State} {core} (hs : s.Canon) : Out.Canon (execSfuEnter core s) := by
  fun_cases execSfuEnter
  · exact hs
  · exact canon_adjCore hs
  · exact hs
theorem canon_fusedTrap {c : Ctx} {cause k} : (fusedTrap c cause k).Canon := trivial
theorem canon_execFusedExpSum {s : State} {x} (hs : s.Canon) : Out.Canon (execFusedExpSum x s) := by
  refine canon_issue hs fun _ hc => ?_
  split
  · split <;> exact canon_fusedTrap
  · exact canon_fusedTrap
  · exact canon_fusedTrap
  · exact canon_enterSfu (canon_raiseFlags (canon_writeLanes (canon_writeLanes (canon_writeLanes hc))))
theorem canon_convWrite {c : Ctx} {f : Nat → List Word × FFlags × Word} {s : State} {d} (hs : s.Canon) :
    (convWrite c d f s).Canon := canon_raiseFlags (canon_adjGroup hs)
theorem canon_execCvt {s : State} {x} (hs : s.Canon) : Out.Canon (execCvt x s) :=
  canon_issue hs fun _ => canon_convWrite
theorem canon_execPcvt {s : State} {x} (hs : s.Canon) : Out.Canon (execPcvt x s) :=
  canon_issue hs fun _ => canon_convWrite
theorem canon_execSeed {s : State} {x} (hs : s.Canon) : Out.Canon (execSeed x s) :=
  canon_issue hs fun _ => canon_adjGroup
theorem canon_execRand {s : State} {x} (hs : s.Canon) : Out.Canon (execRand x s) :=
  canon_issue hs fun _ => canon_adjGroup

/-! ### Integer operations -/

theorem canon_lconst {s : State} {f : Ctx → Nat → Word} {settle len d} (hs : s.Canon) :
    Out.Canon (lconst settle len d s f) := canon_issue hs fun _ => canon_writeLanes
theorem canon_execRdlane {s : State} {x} (hs : s.Canon) : Out.Canon (execRdlane x s) := by
  refine canon_issue hs fun _ hc => ?_
  dsimp only
  split
  · trivial
  · exact canon_writeU hc
theorem canon_execFirstlane {s : State} {x} (hs : s.Canon) : Out.Canon (execFirstlane x s) := by
  refine canon_issue hs fun _ hc => ?_
  split
  · trivial
  · exact canon_writeU hc
theorem canon_uconst {s : State} {settle len d v} (hs : s.Canon) : Out.Canon (uconst settle len d v s) :=
  canon_issue hs fun _ => canon_writeU

/-! ### Reset, boot and errors -/

theorem canon_resetHostSide {s : State} (hs : s.Canon) : (resetHostSide s).Canon := by
  unfold resetHostSide
  extract_lets p t _
  have ht : t.Canon := canon_foldl (fun _ _ => canon_teardownVif) hs
  clear_value t
  exact ht.frame rfl
/-- After a package reset the memory is empty. -/
theorem canon_resetPackage {s : State} : (resetPackage s).Canon := rfl
theorem canon_execHostReset {s : State} (hs : s.Canon) : Out.Canon (execHostReset s) := by
  fun_cases execHostReset
  · exact canon_ite (canon_resetHostSide hs) canon_resetPackage
theorem canon_extendMeas {s : State} {i m} (hs : s.Canon) : (extendMeas s i m).Canon := hs.frame rfl
theorem canon_writeRidge {s : State} (hs : s.Canon) : (writeRidge s).Canon := hs.frame rfl
theorem canon_linksChange {s : State} {pod pods} (hs : s.Canon) : (linksChange s pod pods).Canon := by
  fun_cases linksChange
  · exact canon_writeRidge (hs.frame rfl)
  · exact hs
theorem canon_execBoot {s : State} {x} (hs : s.Canon) : Out.Canon (execBoot x s) := by
  fun_cases execBoot
  · exact hs
  · exact canon_writeRidge ((canon_foldl (fun _ _ => canon_extendMeas) hs).frame rfl)
  · exact hs.frame rfl
theorem canon_reloadMicrocode {s : State} {x} (hs : s.Canon) : (reloadMicrocode s x).Canon := by
  fun_cases reloadMicrocode
  · exact hs.frame rfl
  · exact hs
theorem canon_execSpdmMeasurementRequest {s : State} {x} (hs : s.Canon) :
    Out.Canon (execSpdmMeasurementRequest x s) := by
  fun_cases execSpdmMeasurementRequest
  · exact canon_ite (canon_send hs) hs
  · exact canon_ite (canon_extendMeas hs) hs
theorem canon_strike {s : State} {m} (hs : s.Canon) : (strike s m).Canon := by
  fun_cases strike
  · exact canon_countEvent (canon_adjGroup hs)
  · exact canon_countEvent (canon_adjGroup hs)
  · exact canon_adjTeam hs
  · exact canon_countEvent (canon_adjTeam hs)
  · exact canon_adjTeam hs
  · exact canon_countEvent (hs.frame rfl)
  · exact hs
  · exact canon_countEvent hs

/-! ### Every instruction and event -/

/-- Every instruction and every event: one case for each meaning that several share. -/
theorem canon_exec {s : State} {i} (hs : s.Canon) : Out.Canon (exec i s) := by
  unfold exec
  cases i with
  | add _ | sub _ | min _ | max _ | minu _ | maxu _ | mul _ | mulhi _ | mulhiu _ | and _ | or _ | xor _ | andn _
  | shl _ | shr _ | sar _ | rol _ | bfeu _ | bfes _ | seq _ | sne _ | slt _ | sltu _ | fmin _ | fmax _ | fcpsgn _
  | feq _ | flt _ | fle _ | fUn _ => exact canon_lrOp hs
  | abs _ | neg _ | popc _ | clz _ | ctz _ | brev _ | mov _ | fabs _ | fneg _ | fclass _ | fgetexp _
    => exact canon_luOp hs
  | mad _ | bfi _ | prmt _ | sel _ | i8dot4 _ | u8dot4 _ => exact canon_lrOp3 hs
  | add64 _ | sub64 _ => exact canon_lrPairOp hs
  | shl64 _ | shr64 _ => exact canon_lrShift64 hs
  | addi _ | shli _ | shri _ | sari _ | roli _ | andi _ | ori _ | xori _ | andni _ => exact canon_limmOp hs
  | movi _ | movw _ | lsrd _ => exact canon_lconst hs
  | fadd _ | fsub _ | fmul _ | ffma _ | ffms _ | fnma _ | fnms _ | fscale _ | hadd2 _ | hmul2 _ | hfma2 _ | hmax2 _
  | badd2 _ | bmul2 _ | bfma2 _ | bmax2 _ | hdot2 _ | bdot2 _ => exact canon_lrFlagOp hs
  | rcp _ | rsq _ | sqrt _ | exp2 _ | log2 _ | sin _ | cos _ | tanh _ => exact canon_sfuOp hs
  | fusedExpSum _ => exact canon_execFusedExpSum hs
  | cvt _ => exact canon_execCvt hs
  | pcvt _ => exact canon_execPcvt hs
  | seed _ => exact canon_execSeed hs
  | rand _ => exact canon_execRand hs
  | bnz _ | bz _ => exact canon_laneBranch hs
  | jmpl _ | retl _ => exact canon_laneJump hs
  | calll _ => exact canon_execCalll hs
  | any _ | all _ | uni _ => exact canon_voteOp hs
  | ballot _ => exact canon_execBallot hs
  | shflIdx _ | shflUp _ | shflDown _ | shflXor _ => exact canon_shflOp hs
  | reduce _ | scan _ => exact canon_combineOp hs
  | rdlane _ => exact canon_execRdlane hs
  | firstlane _ => exact canon_execFirstlane hs
  | ldt _ => exact canon_execLdt hs
  | stt _ => exact canon_execStt hs
  | att _ => exact canon_execAtt hs
  | cltLoad _ => exact canon_execCltLoad hs
  | cltStore _ => exact canon_execCltStore hs
  | ld _ => exact canon_execLd hs
  | st _ => exact canon_execSt hs
  | ldo _ => exact canon_execLdo hs
  | sto _ => exact canon_execSto hs
  | stog _ => exact canon_execStog hs
  | atom _ => exact canon_execAtom hs
  | red _ => exact canon_execRed hs
  | waita _ => exact canon_execWaita hs
  | wakea _ => exact canon_execWakea hs
  | mma _ => exact canon_execMma hs
  | zrd _ => exact canon_execZrd hs
  | zwr _ => exact canon_execZwr hs
  | post _ | postTry _ | postWait _ => exact canon_postOp hs
  | saluAdd _ | saluSub _ | saluMin _ | saluMax _ | saluMinu _ | saluMaxu _ | saluMul _ | saluMulhi _
  | saluMulhiu _ | saluAnd _ | saluOr _ | saluXor _ | saluAndn _ | saluShl _ | saluShr _ | saluSar _ | saluRol _
  | saluBfeu _ | saluBfes _ | saluSeq _ | saluSne _ | saluSlt _ | saluSltu _ => exact canon_urOp hs
  | saluAbs _ | saluNeg _ | saluPopc _ | saluClz _ | saluCtz _ | saluBrev _ | saluMov _ => exact canon_uuOp hs
  | saluMad _ | saluBfi _ | saluPrmt _ | saluSel _ => exact canon_urOp3 hs
  | salu64Add64 _ | salu64Sub64 _ => exact canon_urPairOp hs
  | salu64Shl64 _ | salu64Shr64 _ => exact canon_urShift64 hs
  | saddi _ | sandi _ | sori _ | sxori _ | sshli _ | sshri _ | ssari _ | sroli _ | sslti _ => exact canon_uimmOp hs
  | smovi _ | smovw _ => exact canon_uconst hs
  | bra _ => exact canon_execBra hs
  | call _ => exact canon_execCall hs
  | jmpr _ => exact canon_execJmpr hs
  | ret _ => exact canon_execRet hs
  | exit _ => exact canon_execExit hs
  | srd _ => exact canon_execSrd hs
  | swr _ => exact canon_execSwr hs
  | settile _ => exact canon_execSettile hs
  | sleep _ | shareLeave _ => exact canon_issue hs fun _ hc => hc
  | yield _ => exact canon_execYield hs
  | barArrive _ => exact canon_execBarArrive hs
  | barWait _ => exact canon_execBarWait hs
  | barSync _ => exact canon_execBarSync hs
  | lduW _ => exact canon_execLduW hs
  | lduD _ => exact canon_execLduD hs
  | stuW _ => exact canon_execStuW hs
  | fence _ => exact canon_execFence hs
  | discard _ => exact canon_execDiscard hs
  | pref _ => exact canon_execPref hs
  | claim _ => exact canon_execClaim hs
  | shareJoin _ => exact canon_execShareJoin hs
  | shareSub _ => exact canon_execShareSub hs
  | shareUnsub _ => exact canon_execShareUnsub hs
  | copy _ => exact canon_execCopy hs
  | expect _ => exact canon_execExpect hs
  | arrive _ => exact canon_execArrive hs
  | waitg _ => exact canon_execWaitg hs
  | testg _ => exact canon_execTestg hs
  | cbInit _ => exact canon_execCbInit hs
  | cbAcq _ => exact canon_execCbAcq hs
  | cbCommit _ => exact canon_execCbCommit hs
  | cbWait _ => exact canon_execCbWait hs
  | cbRel _ => exact canon_execCbRel hs
  | wload _ => exact canon_execWload hs
  | zclr _ => exact canon_execZclr hs
  | zstt _ | zldt _ => exact canon_tileMove hs
  | wact _ => exact canon_execWact hs
  | kset _ => exact canon_execKset hs
  | nodeq _ => exact canon_execNodeq hs
  | put _ | get _ => exact canon_putGetOp hs
  | wcwait _ => exact canon_execWcwait hs
  | wcrd _ => exact canon_execWcrd hs
  | wcreset _ => exact canon_execWcreset hs
  | trap _ => exact canon_execTrap hs
  | rte _ => exact canon_execRte hs
  | grprd _ => exact canon_execGrprd hs
  | grpwr _ => exact canon_execGrpwr hs
  | grpres _ => exact canon_execGrpres hs
  | grpstop _ => exact canon_execGrpstop hs
  | grplist _ => exact canon_execGrplist hs
  | illegalWord _ => exact canon_issue hs fun _ hc => trivial
  | instructionFetchFault _ => exact canon_execInstructionFetchFault hs
  | bfx _ => exact canon_xkrov hs fun _ _ => hs
  | lodeh _ => exact canon_execLodeh hs
  | swait _ => exact canon_execSwait hs
  | fqpop _ => exact canon_execFqpop hs
  | wakegComplete _ => exact canon_execWakegComplete hs
  | wakegRefuse _ => exact canon_execWakegRefuse hs
  | wakegDecline _ => exact canon_execWakegDecline hs
  | wakegRequeue _ => exact canon_execWakegRequeue hs
  | glreplay _ => exact canon_execGlreplay hs
  | pginst _ => exact canon_execPginst hs
  | pgevict _ => exact canon_execPgevict hs
  | rfetch _ | ueread _ | uewrite _ => exact canon_transferOp hs
  | lodeq _ => exact canon_execLodeq hs
  | dispatchRun _ | dispatchStop _ | dispatchPreempt _ => exact canon_dispatchOp hs
  | qsave _ => exact canon_execQsave hs
  | qload _ => exact canon_execQload hs
  | fenceConditionsMet _ => exact canon_execFenceConditionsMet hs
  | shareChangeDone _ => exact canon_execShareChangeDone hs
  | subscriptionRegister _ => exact canon_execSubscriptionRegister hs
  | subscriptionDelivery _ => exact canon_execSubscriptionDelivery hs
  | copyQueueFree _ => exact canon_execCopyQueueFree hs
  | copyArrival _ => exact canon_execCopyArrival hs
  | copyError _ => exact canon_execCopyError hs
  | wloadComplete _ => exact canon_execWloadComplete hs
  | matrixQueueFree _ => exact canon_execMatrixQueueFree hs
  | matrixEntryPerform _ | mmaRoundExecute _ => exact canon_arrayStart hs
  | slotBoundary _ => exact canon_adjCore hs
  | fabricPortFree _ => exact canon_execFabricPortFree hs
  | putGetComplete _ => exact canon_execPutGetComplete hs
  | windowRequestArrival _ => exact canon_execWindowRequestArrival hs
  | deferredResultLand _ => exact canon_execDeferredResultLand hs
  | sfuEnter _ => exact canon_execSfuEnter hs
  | registerUnitRelease _ => exact canon_execRegisterUnitRelease hs
  | storeQueueLeave _ => exact canon_leaveHead hs
  | faultQueueFree _ => exact canon_execFaultQueueFree hs
  | gutterOverflowRelease _ => exact canon_execGutterOverflowRelease hs
  | gutterReplay _ => exact canon_execGutterReplay hs
  | grainRefusal _ => exact canon_execGrainRefusal hs
  | homeRead _ => exact canon_execHomeRead hs
  | homePartialStore _ | homeFullGrainWrite _ | homeAtomic _ => exact canon_homeStep hs
  | fCopyEviction _ => exact canon_execFCopyEviction hs
  | mGrainEviction _ => exact canon_dropOwner hs
  | grainLostMark _ => exact canon_execGrainLostMark hs
  | invalidationDeliveryFailure _ => exact canon_execInvalidationDeliveryFailure hs
  | declarationTimeout _ => exact canon_execDeclarationTimeout hs
  | waitaTimeout _ => exact canon_execWaitaTimeout hs
  | sleepWake _ => exact canon_execSleepWake hs
  | hangExpiry _ => exact canon_execHangExpiry hs
  | faultDeadline _ => exact canon_execFaultDeadline hs
  | recordArrival _ => exact canon_execRecordArrival hs
  | binTimerExpiry _ => exact canon_execBinTimerExpiry hs
  | drainCut _ => exact canon_execDrainCut hs
  | sheafLaunch _ => exact canon_execSheafLaunch hs
  | postWaitServe _ => exact canon_execPostWaitServe hs
  | postWaitStall _ => exact canon_execPostWaitStall hs
  | instanceStallDrain _ => exact canon_execInstanceStallDrain hs
  | instanceComplete _ => exact canon_execInstanceComplete hs
  | preemptSave _ => exact canon_execPreemptSave hs
  | teamResume _ => exact canon_execTeamResume hs
  | hostsharedToAccelDone _ => exact canon_execHostsharedToAccelDone hs
  | hostSnoop _ => exact canon_execHostSnoop hs
  | swaitReturn _ => exact canon_execSwaitReturn hs
  | transferDone _ => exact canon_execTransferDone hs
  | transferTimeout _ => exact canon_execTransferTimeout hs
  | transferServe _ => exact canon_execTransferServe hs
  | lodeLookup _ | lodeCas _ | lodeAddhold _ | lodeDrophold _ => exact canon_lodeOp hs
  | lodeInsert _ => exact canon_execLodeInsert hs
  | lodeInval _ | lodeRdreq _ => exact canon_endPosted hs
  | lodeAck _ => exact canon_execLodeAck hs
  | invalRingArrival _ => exact canon_execInvalRingArrival hs
  | qpktNop _ | qpktFence _ => exact canon_slotTurn hs fun _ _ ht => ht
  | qpktStart _ => exact canon_execQpktStart hs
  | qpktWait _ => exact canon_execQpktWait hs
  | qpktSignal _ => exact canon_execQpktSignal hs
  | qpktBarrier _ => exact canon_execQpktBarrier hs
  | qpktTimestamp _ => exact canon_execQpktTimestamp hs
  | signalReevaluate _ => exact canon_execSignalReevaluate hs
  | signalPollTimer _ => exact canon_execSignalPollTimer hs
  | notifyWrite _ => exact canon_notifyWord hs
  | fqhArmWrite _ => exact canon_armWrite hs
  | fqhPopRead => exact canon_execFqhPopRead hs
  | fqhDoneLowWrite _ | hfrHoldWrite _ => exact hs.frame rfl
  | fqhRefuse _ => exact canon_execFqhRefuse hs
  | fqhReturn _ => exact canon_execFqhReturn hs
  | trnModeWrite _ => exact canon_modeWrite hs
  | trnInvPages _ => exact canon_execTrnInvPages hs
  | trnInvPasidPages _ => exact canon_execTrnInvPasidPages hs
  | trnInvPasidAll _ => exact canon_execTrnInvPasidAll hs
  | trnInvAll _ => exact canon_execTrnInvAll hs
  | invalidationComplete _ => exact canon_execInvalidationComplete hs
  | teardownStart _ => exact canon_tdWrite hs
  | teardownDrained _ => exact canon_execTeardownDrained hs
  | sltEntryWrite _ => exact canon_sltWrite hs
  | windowEntryWrite _ => exact canon_winWrite hs
  | vifCfgWrite _ => exact canon_execVifCfgWrite hs
  | hfrXackWrite _ => exact canon_xackWrite hs
  | hfrIrtailWrite _ => exact canon_irTailWrite hs
  | registerWrite _ => exact canon_regWrite hs
  | planeDown _ => exact canon_execPlaneDown hs
  | uePathDown _ => exact canon_execUePathDown hs
  | nodeSilentTimeout _ => exact canon_execNodeSilentTimeout hs
  | declarationConfirm _ => exact canon_execDeclarationConfirm hs
  | hostReset => exact canon_execHostReset hs
  | boot _ => exact canon_execBoot hs
  | spdmMeasurementRequest _ => exact canon_execSpdmMeasurementRequest hs
  | spdmCounterRead _ => exact canon_send hs
  | serviceCoreFence _ => exact canon_hartOp hs fun _ _ => hs
  | serviceCoreAmo _ => exact canon_execServiceCoreAmo hs
  | xkrovCsrWrite _ => exact canon_execXkrovCsrWrite hs
  | nodeRejoin _ => exact canon_execNodeRejoin hs
  | hostsharedAccelHoldExpiry _ => exact canon_execHostsharedAccelHoldExpiry hs
  | hostsharedTransferDeadline _ => exact canon_execHostsharedTransferDeadline hs
  | nodeqAnswer _ => exact canon_execNodeqAnswer hs
  | wcrdAnswer _ => exact canon_execWcrdAnswer hs
  | discardComplete _ => exact canon_execDiscardComplete hs
  | unsubComplete _ => exact canon_execUnsubComplete hs

/-! ### RV64 instructions of the service cores -/

theorem canon_rvLoadAt {s : State} {k n uns va} (hs : s.Canon) : (rvLoadAt s k n uns va).Canon := by
  fun_cases rvLoadAt
  case case4 t =>
    have ht : t.Canon := by
      unfold t
      exact canon_ite (canon_popRead hs) hs
    exact ht
  case case6 => exact canon_wantRegion hs
  case case7 => exact canon_readBy hs
  all_goals trivial
theorem canon_rvStoreAt {s : State} {k bytes va v} (hs : s.Canon) : (rvStoreAt s k bytes va v).Canon := by
  fun_cases rvStoreAt
  · trivial
  · trivial
  · trivial
  · exact canon_regWrite hs
  · trivial
  · exact canon_wantRegion hs
  · exact canon_homeWrite hs
theorem canon_rvJump {s : State} {h rd link target} (hs : s.Canon) : (rvJump s h rd link target).Canon :=
  canon_adjHart hs
theorem canon_rvIllegal {s : State} {h} (hs : s.Canon) : (rvIllegal s h).Canon := canon_hartTrap hs
theorem canon_rvCsr {s : State} {h k op rd n src} (hs : s.Canon) : (rvCsr s h k op rd n src).Canon := by
  fun_cases rvCsr
  · exact canon_rvIllegal hs
  · exact canon_rvIllegal hs
  · exact canon_adjHart (canon_ite (hs.frame rfl) hs)
  · exact canon_hartRetire (canon_ite (canon_adjHart (canon_ite (hs.frame rfl) hs)) (canon_ite (hs.frame rfl) hs))
theorem canon_rvExec {s : State} {h k len i} (hs : s.Canon) : (rvExec s h k len i).Canon := by
  fun_cases rvExec
  · exact canon_hartRetire hs
  · exact canon_hartRetire hs
  · exact canon_rvJump hs
  · exact canon_rvJump hs
  · exact canon_rvJump hs
  · exact canon_hresRun hs (canon_rvLoadAt hs)
  · exact canon_hresRun hs (canon_rvStoreAt hs)
  · exact canon_hartRetire hs
  · exact canon_hartRetire hs
  · exact canon_rvCsr hs
  · exact hs
  · exact canon_hartRetire hs
  · exact hs
  · exact canon_hartTrap hs
  · exact canon_hartTrap hs
  · exact canon_ite (canon_adjHart hs) (canon_rvIllegal hs)
  · exact canon_ite (canon_rvIllegal hs) (canon_adjHart hs)
  · exact canon_ite (canon_rvIllegal hs) (canon_hartRetire hs)
  · exact canon_ite (canon_rvIllegal hs) (canon_hartRetire hs)
theorem canon_fetchHalf {s : State} {k va} (hs : s.Canon) : (fetchHalf s k va).Canon := by
  fun_cases fetchHalf
  · trivial
  · trivial
  · exact canon_wantRegion hs
  · trivial
theorem canon_fetchRv {s : State} {k} (hs : s.Canon) : (fetchRv s k).1.Canon := by
  fun_cases fetchRv
  · trivial
  · trivial
  · exact canon_fetchHalf hs
  · exact canon_fetchHalf hs
theorem canon_hartTurn {s : State} {h} (hs : s.Canon) : (hartTurn s h).Canon := by
  fun_cases hartTurn
  · exact hs
  · exact hs
  · exact canon_adjHart hs
  · exact canon_hartTrap hs
  next e => exact (canon_fetchRv hs).later (congrArg Prod.fst e)
  · exact canon_rvExec hs
  · exact canon_rvIllegal hs
  · exact hs
  · exact canon_rvExec hs
  · exact canon_rvIllegal hs

/-! ### Placing instructions -/

theorem canon_restoreActor {o : Out} {a} (ho : Out.Canon o) : Out.Canon (restoreActor a o) := by
  fun_cases restoreActor
  · exact ho.frame rfl
  · exact ho

/-! ### Cycles and turns -/

theorem canon_runTurn {v : Turn} (hv : v.Canon) : Out.Canon (runTurn v) := by
  fun_cases runTurn
  · exact hv
  · exact canon_exec hv
theorem canon_issueAll {s : State} {ls} (hs : s.Canon) : Out.Canon (issueAll s ls) := by
  induction ls generalizing s with
  | nil => exact hs
  | cons r ls ih =>
    unfold issueAll
    split
    next e => exact ih (Out.Canon.next (canon_runTurn (canon_groupTurn hs)) e)
    · exact canon_runTurn (canon_groupTurn hs)
theorem canon_andThen {o : Out} {f : State → Out} (ho : Out.Canon o) (hf : ∀ t, t.Canon → Out.Canon (f t)) :
    Out.Canon (Out.andThen o f) := by
  fun_cases Out.andThen
  · exact hf _ ho
  · exact ho
theorem canon_issuePack {s : State} {core pipe l} (hs : s.Canon) : Out.Canon (issuePack core pipe l s) := by
  fun_cases issuePack
  · exact hs
  · exact canon_andThen (canon_issueAll (canon_adjCore hs)) fun _ => canon_adjCore
theorem canon_coreCycle {s : State} {core} (hs : s.Canon) : Out.Canon (coreCycle s core) :=
  canon_andThen (canon_issueAll hs) fun _ ht => canon_andThen (canon_issuePack ht) fun _ hu =>
    canon_andThen (canon_issuePack hu) fun _ => canon_issueAll
theorem canon_turn {s : State} (hs : s.Canon) : Out.Canon (turn s) := by
  fun_cases turn
  · exact canon_tick hs
  · exact canon_tick hs
  · exact canon_restoreActor (canon_coreCycle (canon_tick hs))
  · exact canon_restoreActor (canon_coreCycle (canon_tick hs))
  · exact canon_runTurn (canon_hartTurn (canon_tick hs))
theorem canon_halfMove {s : State} {r high} (hs : s.Canon) : Out.Canon (halfMove s r high) := by
  fun_cases halfMove
  · exact canon_restoreActor (canon_loadHalf (canon_noteFetch hs))
  · exact hs
  · exact hs
  · exact hs
  · exact hs
theorem canon_runMove {s : State} {m} (hs : s.Canon) : Out.Canon (runMove s m) := by
  fun_cases runMove
  · exact canon_exec hs
  · exact hs
  · exact canon_turn (hs.frame rfl)
  · exact canon_tick hs
  · exact canon_strike hs
  · exact canon_linksChange hs
  · exact canon_leaveEarly hs
  · exact canon_shareReach hs
  · exact canon_halfMove hs
  · exact canon_rereadLate hs
  · exact canon_copyPiece hs
  · exact canon_endToHost hs
  · exact hs.frame rfl
  · exact canon_reloadMicrocode hs

/-! ### The step -/

theorem canon_step {s : State} (hs : s.Canon) : Out.Canon (step s) := by
  fun_cases step
  · exact canon_runMove (hs.frame rfl)
  · exact canon_turn hs

/-! ### O57 -/

/-- Settles O57: every function that the step is made of keeps the memory canonical. -/
theorem stepKeepsMemoryCanonical : Obligations.StepKeepsMemoryCanonical :=
  fun _ _ hs e => Out.Canon.next (canon_step hs) e

end Sys2Proof.Machine
end

section
/-! What reset leaves (O56): the words of the register maps by family, then the values of the package after reset. -/

namespace Sys2Proof.Machine

/-! ### Words of the register maps -/

theorem chipletsOf_le (b : Build) : chipletsOf b ≤ 8 := by cases b <;> decide

section
variable {s : State} {map o v n core : Nat}

theorem regWord_trnMode : regWord s hostMap 0x20000 = (if s.trn.busy then 0x80000000 else 0) |||
    (if s.trn.normal then 1 else 0) ||| (if s.trn.refused then 0x40000000 else 0) := by
  simp (disch := omega) only [regWord, hostWord, if_neg, if_true]
theorem regWord_inva (h : o = 0x20010 ∨ o = 0x20014) : regWord s map o = half (s.inva map) (o % 8 == 4) := by
  simp (disch := omega) only [regWord, if_neg, if_pos]
theorem regWord_invb (h : o = 0x20018 ∨ o = 0x2001C) :
    regWord s map o = half (Sparse.get 0 s.trn.invb map) (o % 8 == 4) := by
  simp (disch := omega) only [regWord, if_neg, if_pos]
/-- A teardown register with no teardown reads as zero in both words (R340). -/
theorem regWord_td_zero (h : 0x20040 ≤ o ∧ o < 0x20060)
    (ht : s.td map ((o - 0x20040) / 8) = { pasid := 0, state := 0 }) : regWord s map o = 0 := by
  simp (disch := omega) only [regWord, if_neg, if_pos, ht]
  simp
theorem regWord_slt (hc : core < 32 * chipletsOf s.build) (hn : n < 16) :
    regWord s map (0x30000 + 0x40 * core + 4 * n) = sltRead s map core n := by
  simp (disch := omega) only [regWord, if_neg, if_pos]
  congr 1 <;> omega
/-- Above the words every map shows, the host function's map shows its own. -/
theorem regWord_host (h : 0x44000 ≤ o) (ho : o ≠ 0xA0000) : regWord s hostMap o = hostWord s o := by
  have := chipletsOf_le s.build
  simp (disch := omega) only [regWord, if_neg, if_true]
theorem regWord_vif (hm : map < hostMap) (h : 0x44000 ≤ o) (ho : o ≠ 0xA0000) : regWord s map o = vifWord s map o := by
  have := chipletsOf_le s.build
  simp (disch := omega) only [regWord, if_neg hm.ne, if_neg]
theorem hostWord_deadline (hv : v < 64) :
    hostWord s (0x5F000 + 4 * v) = Sparse.get 0x001AD275 s.faults.deadline v := by
  have := chipletsOf_le s.build
  simp (disch := omega) only [hostWord, if_neg, if_pos]
  congr 1
  omega
theorem vifWord_deadline : vifWord s map 0x5F000 = Sparse.get 0x001AD275 s.faults.deadline map := if_pos rfl
theorem hostWord_vifCfg (h : 0x90000 ≤ o ∧ o < 0x90200) :
    hostWord s o = half (Sparse.get 0 s.vifs ((o - 0x90000) / 8)) (o % 8 == 4) := by
  have := chipletsOf_le s.build
  simp (disch := omega) only [hostWord, if_neg, if_pos]
theorem regRead_wide_eq_zero (hlo : regWord s map o = 0) (hhi : regWord s map (o + 4) = 0) :
    regRead s map o true = 0 := by
  simp [regRead, hlo, hhi]
theorem half_zero (hi : Bool) : half 0 hi = 0 := by cases hi <;> rfl
end

/-! ### Registers after reset -/

section
variable {b : Build}

theorem resetOf_trnMode : regRead (.resetOf b) 64 0x20000 false = 0 :=
  have h : regWord (.resetOf b) hostMap 0x20000 = 0 := regWord_trnMode.trans (by simp [State.resetOf])
  congrArg (BitVec.setWidth 64) h
theorem resetOf_deadline_host {v : Nat} (hv : v < 64) :
    regRead (.resetOf b) 64 (0x5F000 + 4 * v) false = 0x001AD275 :=
  congrArg (BitVec.setWidth 64) ((regWord_host (by omega) (by omega)).trans (hostWord_deadline hv))
theorem resetOf_deadline_vif {v : Nat} (hv : v < 64) : regRead (.resetOf b) v 0x5F000 false = 0x001AD275 :=
  congrArg (BitVec.setWidth 64) ((regWord_vif hv (by omega) (by omega)).trans vifWord_deadline)
theorem resetOf_inva {m : Nat} : regRead (.resetOf b) m 0x20010 true = 0 :=
  regRead_wide_eq_zero ((regWord_inva (.inl rfl)).trans (half_zero _)) ((regWord_inva (.inr rfl)).trans (half_zero _))
theorem resetOf_invb {m : Nat} : regRead (.resetOf b) m 0x20018 true = 0 :=
  regRead_wide_eq_zero ((regWord_invb (.inl rfl)).trans (half_zero _)) ((regWord_invb (.inr rfl)).trans (half_zero _))
theorem resetOf_td {m n : Nat} (hn : n < 4) : regRead (.resetOf b) m (0x20040 + 8 * n) true = 0 :=
  regRead_wide_eq_zero (regWord_td_zero (by omega) rfl) (regWord_td_zero (by omega) rfl)
theorem resetOf_slt {core n : Nat} (hc : core < 32 * chipletsOf b) (hn : n < 16) :
    regRead (.resetOf b) 64 (0x30000 + 0x40 * core + 4 * n) false = 0 :=
  congrArg (BitVec.setWidth 64) (regWord_slt hc hn)
theorem resetOf_vifCfg {v : Nat} (hv : v < 64) : regRead (.resetOf b) 64 (0x90000 + 8 * v) true = 0 :=
  have h {o} (ho : 0x90000 ≤ o ∧ o < 0x90200) : regWord (.resetOf b) 64 o = 0 := calc
    _ = hostWord (.resetOf b) o := regWord_host (by omega) (by omega)
    _ = _ := (hostWord_vifCfg ho).trans (half_zero _)
  regRead_wide_eq_zero (h (by omega)) (h (by omega))

/-! ### Service cores after reset -/

theorem length_hartsOf : (hartsOf b).length = 3 * chipletsOf b + 6 := by
  simp only [hartsOf, List.length_append, List.length_map, List.length_range]
  omega
theorem hartsOf_slice {n : Nat} (hn : n < 2 * chipletsOf b) : (hartsOf b)[n]? = some (.reset 0 n) := by
  simp [hartsOf, hn, Nat.lt_add_right]
theorem hartsOf_headframe {n : Nat} (hn : n < chipletsOf b) :
    (hartsOf b)[2 * chipletsOf b + n]? = some (.reset 1 n) := by
  simp [hartsOf, hn, Nat.lt_add_right]
theorem eq_reset_of_mem_hartsOf {k : Hart} (hk : k ∈ hartsOf b) : ∃ role num, k = .reset role num := by
  simp only [hartsOf, List.mem_append, List.mem_map] at hk
  obtain ((⟨n, -, rfl⟩ | ⟨n, -, rfl⟩) | ⟨n, -, rfl⟩) | ⟨n, -, rfl⟩ := hk <;> exact ⟨_, n, rfl⟩
theorem mxkid_reset_slice {n : Nat} : (Hart.reset 0 n).mxkid = BitVec.ofNat 64 (n / 2 * 1024 + n) := by
  simp [Hart.mxkid, Hart.chiplet, Hart.reset]
theorem mxkid_reset_headframe {n : Nat} : (Hart.reset 1 n).mxkid = BitVec.ofNat 64 (n * 1024 + 256 + n) := by
  simp [Hart.mxkid, Hart.chiplet, Hart.reset]
end

/-! ### O56 -/

/-- Settles O56: each register's word is read off its family's lemma, each service core off the list of the build. -/
theorem resetState : Obligations.ResetState := by
  intro b s
  refine ⟨rfl, rfl, rfl, rfl, resetOf_trnMode, fun v hv => ⟨resetOf_deadline_host hv, resetOf_deadline_vif hv⟩,
    fun m _ => ⟨resetOf_inva, resetOf_invb, fun n hn => resetOf_td hn⟩, fun core n hc hn => resetOf_slt hc hn,
    fun _ _ => rfl, fun _ _ => rfl, fun _ => rfl, fun v hv => resetOf_vifCfg hv,
    fun n hn => ⟨_, _, hartsOf_slice hn, mxkid_reset_slice⟩,
    fun n hn => ⟨_, _, hartsOf_headframe hn, mxkid_reset_headframe⟩, length_hartsOf, fun k hk => ?_⟩
  obtain ⟨role, num, rfl⟩ := eq_reset_of_mem_hartsOf hk
  exact ⟨rfl, rfl, rfl, rfl, rfl⟩

end Sys2Proof.Machine
end

section
/-! How COPY, PUT and GET take their place in a queue (R25, R240, R412): when the accesses of an instruction go on, which
groups wait before it, and what an event that makes room does. -/

namespace Sys2Proof.Machine

/-! ### Issuing -/

theorem parkNow_eq {s : State} {c : Ctx} (h : s.ctx = some c) : s.parkNow = c.g.park := by
  unfold State.parkNow
  rw [h]
theorem group_eq {s : State} {r : GRef} {t : Team} {g : Group} (ht : s.team r.team = some t)
    (hg : t.groups[r.grp]? = some g) : s.group r = some g := by
  unfold State.group
  rw [ht]
  exact hg
theorem Group.ageLanes_free (g : Group) (cands issuing : List Nat) :
    g.free.ageLanes cands issuing = (g.ageLanes cands issuing).free := by
  unfold Group.ageLanes
  induction cands generalizing g with
  | nil => rfl
  | cons L l ih => exact ih (g.adjLane L _)
theorem Group.countIssue_free (g : Group) (c : Ctx) : g.free.countIssue c = (g.countIssue c).free := by
  unfold Group.countIssue
  split
  · exact Group.ageLanes_free ..
  · rfl
/-- A group whose instruction waits again is parked as if its park had not ended before. -/
theorem parked_free (c : Ctx) (p : Park) : c.parked p c.free.s = c.parked p c.s := by
  unfold Ctx.parked parkIssue
  refine (State.adjGroup_comp ..).trans ?_
  simp only [Group.countIssue_free]
  rfl

/-! ### Accesses that nothing stops -/

theorem firstAcc_eq_none {f : Acc → Option (Cause × Nat)} {accs : List Acc} (h : ∀ a ∈ accs, f a = none) :
    firstAcc f accs = none := by
  induction accs with
  | nil => rfl
  | cons a l ih =>
    obtain ⟨ha, hl⟩ := List.forall_mem_cons.1 h
    rw [firstAcc, ha]
    exact ih hl
theorem firstMiss_eq_none {ps : List Placed} (h : ∀ p ∈ ps, ∀ n r b, p.2 ≠ .miss n r b) : firstMiss ps = none := by
  fun_induction firstMiss ps with
  | case1 => rfl
  | case2 => exact absurd rfl (h _ List.mem_cons_self _ _ _)
  | case3 _ _ _ ih => exact ih fun p hp => h p (List.mem_cons_of_mem _ hp)
theorem firstHost_eq_none {s : State} {ps : List Placed} (h : ∀ p ∈ ps, ∀ pa k, p.2 = .at pa k → regionReady s pa = true) :
    firstHost s ps = none := by
  fun_induction firstHost s ps with
  | case1 => rfl
  | case2 _ _ _ _ _ ih => exact ih fun p hp => h p (List.mem_cons_of_mem _ hp)
  | case3 _ _ _ _ hr => exact absurd (h _ List.mem_cons_self _ _ rfl) hr
  | case4 _ _ _ ih => exact ih fun p hp => h p (List.mem_cons_of_mem _ hp)
theorem accFault_eq_none {s : State} {pasid : Nat} {a : Acc} (ha : a.va % a.n = 0)
    (ht : ∀ k n, translate s pasid a.va a.use ≠ .trap k n) : accFault s pasid a = none := by
  unfold accFault
  rw [if_neg (not_not_intro ha)]
  split
  next hk => exact absurd hk (ht _ _)
  · rfl
/-- Accesses that pass every check and that nothing stands before go on (R190, R227). -/
theorem withAccess_placeable {c : Ctx} {accs : List Acc} {ps : List Placed} (h : Placeable c accs ps) (s0 : State) (kind : Nat)
    (k : List Placed → Res) : withAccess s0 c kind (accFault c.s c.t.pasid) accs k = k ps := by
  have hf : firstAcc (accFault c.s c.t.pasid) accs = none :=
    firstAcc_eq_none fun a ha => accFault_eq_none (h.aligned a ha) (h.allowed a ha)
  have hw : ps.any (Placed.waits c.s c.t.core c.t.pasid) = false :=
    List.any_eq_false.2 fun p hp => by simp [h.free p hp]
  unfold withAccess
  simp [hf, h.acquired, ← h.places, firstMiss_eq_none h.resident, firstHost_eq_none h.ready, hw]

/-! ### Groups that wait for a place -/

/-- Since when a group waits for a place in an engine's queue. -/
def Park.copySince : Park → Option Nat
  | .copyQueue n => some n
  | _ => none
/-- Since when a group waits for a place in a port queue. -/
def Park.portSince : Park → Option Nat
  | .portQueue n => some n
  | _ => none
/-- The groups of a chiplet that wait for a place, where `since` reads off a park since when. -/
def parkedBy (since : Park → Option Nat) (s : State) (chiplet : Nat) : List Parked :=
  (s.teams.filter fun t => chipletOfCore t.core == chiplet).flatMap fun t => t.groups.zipIdx.filterMap fun gi =>
    (gi.1.park.bind since).map fun n => (n, t.core, ⟨t.id, gi.2⟩)
theorem copyParked_eq (s : State) (chiplet : Nat) : copyParked s chiplet = parkedBy Park.copySince s chiplet := by
  unfold copyParked parkedBy
  congr! with t gi
  rcases gi.1.park with _ | p
  · rfl
  · cases p <;> rfl
theorem portParked_eq (s : State) (chiplet : Nat) : portParked s chiplet = parkedBy Park.portSince s chiplet := by
  unfold portParked parkedBy
  congr! with t gi
  rcases gi.1.park with _ | p
  · rfl
  · cases p <;> rfl
theorem mem_parkedBy {since : Park → Option Nat} {s : State} {chiplet : Nat} {w : Parked} :
    w ∈ parkedBy since s chiplet ↔ ∃ t ∈ s.teams, chipletOfCore t.core = chiplet ∧ ∃ g i, t.groups[i]? = some g ∧
      ∃ n, g.park.bind since = some n ∧ (n, t.core, ⟨t.id, i⟩) = w := by
  simp only [parkedBy, List.mem_flatMap, List.mem_filter, beq_iff_eq, List.mem_filterMap, Prod.exists,
    List.mem_zipIdx_iff_getElem?, Option.map_eq_some_iff, and_assoc]
/-- A change of one group leaves the other groups waiting as they were. -/
theorem mem_parkedBy_adjGroup {since : Park → Option Nat} {s : State} {chiplet : Nat} {w : Parked} {r : GRef}
    {f : Group → Group} (hw : w.2.2 ≠ r) : w ∈ parkedBy since (s.adjGroup r f) chiplet ↔ w ∈ parkedBy since s chiplet := by
  simp only [mem_parkedBy, State.adjGroup, State.adjTeam, List.mem_map, exists_exists_and_eq_and]
  refine exists_congr fun t => and_congr_right fun _ => ?_
  split
  next ht =>
    refine and_congr_right fun _ => exists_congr fun g => exists_congr fun i => ?_
    by_cases hi : r.grp = i
    · refine iff_of_false ?_ ?_ <;> exact fun ⟨_, _, _, h⟩ => hw (by rw [← h, ht, ← hi])
    · rw [getElem?_adjAt, if_neg hi]
  · rfl
/-- Whether a waiting group goes first does not depend on what the acting group itself waits for (R25). -/
theorem any_before_parkedBy {since : Park → Option Nat} {s : State} {chiplet n core : Nat} {r : GRef} {f : Group → Group} :
    ((parkedBy since (s.adjGroup r f) chiplet).any fun w => w.2.2 != r && w.before n core) = true ↔
      ∃ w ∈ parkedBy since s chiplet, w.2.2 ≠ r ∧ w.before n core = true := by
  simp only [List.any_eq_true, Bool.and_eq_true, bne_iff_ne]
  exact exists_congr fun w => and_congr_left fun h => mem_parkedBy_adjGroup h.1

/-- An event that makes room issues the instruction of a waiting group again, in that group's name. -/
theorem reissue_next {s t : State} {c : Ctx} {r : GRef} {run : Instr → State → Out}
    (hc : ({ s with actor := .group r } : State).ctx = some c)
    (hr : run (fetchInstr s c.t r.grp c.g c.g.issueSet.2) { s with actor := .group r } = .next t) :
    reissue s r run = .next { t with actor := s.actor } := by
  obtain ⟨-, ha, ht, hg, -⟩ := ctx_spec hc
  obtain rfl : r = c.r := Actor.group.inj ha
  unfold reissue
  rw [show s.team c.r.team = some c.t from ht, group_eq (s := s) ht hg]
  simp only [hr]

end Sys2Proof.Machine
end

section
/-! COPY (O26): its place in an engine, what moves when it ends, and how it fails (R228, R240, R242, R256, R258). -/

namespace Sys2Proof.Machine

/-! ### Places in an engine (R240) -/

theorem CopyJob.away_adjGroup (j : CopyJob) (s : State) (r : GRef) (f : Group → Group) :
    j.away (s.adjGroup r f) = j.away s := by
  have ht := State.team_adjTeam s r.team j.g.team (fun t => { t with groups := adjAt f t.groups r.grp }) fun _ => rfl
  unfold CopyJob.away State.adjGroup
  rw [ht]
  by_cases h : j.g.team = r.team
  · rw [if_pos h]
    cases s.team j.g.team <;> rfl
  · rw [if_neg h]
theorem pickEngine_adjGroup (s : State) (r : GRef) (f : Group → Group) (chiplet hint : Nat) :
    pickEngine (s.adjGroup r f) chiplet hint = pickEngine s chiplet hint := by
  simp only [pickEngine, engineJobs, CopyJob.away_adjGroup, State.adjGroup_copies]
  rfl
theorem uniTeamTrap_eq_none {c : Ctx} {n off : Nat} (ha : off % n = 0) (hw : off + n ≤ c.t.window) :
    uniTeamTrap c n off false = none := by
  simp [uniTeamTrap, teamFault, ha, Nat.not_lt.2 hw]

/-- Another group waits before c's COPY for a place in an engine of its chiplet (R25, R240). -/
def behindCopy (s : State) (c : Ctx) : Prop :=
  ∃ w ∈ copyParked s (chipletOfCore c.t.core), w.2.2 ≠ c.r ∧ w.before c.queuedSince c.t.core = true
theorem any_before_copyParked (c : Ctx) : ((copyParked c.free.s (chipletOfCore c.t.core)).any fun w =>
    w.2.2 != c.r && w.before c.queuedSince c.t.core) = true ↔ behindCopy c.s c := by
  simp only [behindCopy, copyParked_eq]
  exact any_before_parkedBy

/-- What a COPY does whose checks pass and whose release is done: it takes a place in an engine, or waits (R240). -/
def Ctx.enterEngine (c : Ctx) (hint : Nat) (job : CopyJob) : Res :=
  match pickEngine c.s (chipletOfCore c.t.core) hint with
  | none => .park (.copyQueue c.queuedSince) c.free.s
  | some e =>
    if (copyParked c.free.s (chipletOfCore c.t.core)).any fun w => w.2.2 != c.r && w.before c.queuedSince c.t.core then
      .park (.copyQueue c.queuedSince) c.free.s
    else .ok (takeGrains
      { c.free.s with copies := c.s.copies ++ [{ job with engine := e }], fresh := c.s.fresh + 1 } c.s.fresh)
theorem enterEngine_taken {c : Ctx} {hint e : Nat} {job : CopyJob} (he : job.engine = e)
    (hp : pickEngine c.s (chipletOfCore c.t.core) hint = some e) (hb : ¬behindCopy c.s c) :
    c.enterEngine hint job = .ok (takeGrains
      { c.free.s with copies := c.s.copies ++ [job], fresh := c.s.fresh + 1 } c.s.fresh) := by
  subst he
  unfold Ctx.enterEngine
  rw [hp]
  exact if_neg (mt (any_before_copyParked c).1 hb)
theorem enterEngine_waits {c : Ctx} {hint : Nat} {job : CopyJob}
    (h : pickEngine c.s (chipletOfCore c.t.core) hint = none ∨ behindCopy c.s c) :
    c.enterEngine hint job = .park (.copyQueue c.queuedSince) c.free.s := by
  unfold Ctx.enterEngine
  split
  · rfl
  next hp => exact if_pos ((any_before_copyParked c).2 (h.resolve_left (by simp [hp])))

/-- A COPY that passes its checks, its release done, is left with its place in an engine. -/
theorem execCopy_copyable {s : State} {c : Ctx} {x : CopyOp} {e : Nat} {job : CopyJob} (h : Copyable s c x e job) :
    execCopy x s = finish c.free 8 x.s (c.enterEngine x.hint.toNat job) := by
  obtain ⟨hi, harr, hdr, ps, hpl, rfl, hcap⟩ := h
  have hpark := parkNow_eq hi.ctx
  obtain rfl : c.s = s := (ctx_spec hi.ctx).1
  unfold execCopy
  rw [issue_eq hi]
  congr 1
  dsimp only
  split
  next t ht =>
    obtain ⟨off, hoff, ht⟩ := Option.bind_eq_some_iff.1 ht
    obtain ⟨ha, hw⟩ := harr off hoff
    cases ht.symm.trans (uniTeamTrap_eq_none ha hw)
  refine (withAccess_placeable hpl _ _ _).trans ?_
  refine (if_neg (by simp [show drainedAt c.free.s c.free.t.core c.free.r 3 = true from hdr])).trans ?_
  split
  next t ht => cases ht.symm.trans hcap
  rw [hpark, show pickEngine c.free.s _ _ = _ from pickEngine_adjGroup c.s c.r Group.free _ _]
  rfl

section
variable {s : State} {c : Ctx} {x : CopyOp} {job : CopyJob}
theorem execCopy_taken {e : Nat} (h : Copyable s c x e job)
    (hp : pickEngine s (chipletOfCore c.t.core) x.hint.toNat = some e) (hb : ¬behindCopy s c) :
    execCopy x s = .next (c.copied x.s job) := by
  have he : job.engine = e := by
    obtain ⟨_, _, rfl, _⟩ := h.reads
    rfl
  rw [execCopy_copyable h]
  obtain rfl : c.s = s := (ctx_spec h.issues.ctx).1
  rw [enterEngine_taken he hp hb]
  rfl
theorem execCopy_waits {e : Nat} (h : Copyable s c x e job)
    (hw : pickEngine s (chipletOfCore c.t.core) x.hint.toNat = none ∨ behindCopy s c) :
    execCopy x s = .next (c.parked (.copyQueue c.queuedSince) s) := by
  rw [execCopy_copyable h]
  obtain rfl : c.s = s := (ctx_spec h.issues.ctx).1
  rw [enterEngine_waits hw, ← parked_free]
  rfl
end
theorem execCopyQueueFree_taken {s : State} {c : Ctx} {x : CopyOp} {e : Nat} {job : CopyJob} {r : GRef} {chiplet : Nat}
    (hr : firstParked (copyParked s chiplet) = some r) (hroom : (pickEngine s chiplet 0).isSome = true)
    (hf : fetchInstr s c.t r.grp c.g c.g.issueSet.2 = .copy x) (h : Copyable { s with actor := .group r } c x e job)
    (hp : pickEngine s (chipletOfCore c.t.core) x.hint.toNat = some e) (hb : ¬behindCopy s c) :
    execCopyQueueFree chiplet s = .next { c.copied x.s job with actor := s.actor } := by
  unfold execCopyQueueFree
  rw [hr]
  refine (if_pos hroom).trans (reissue_next h.issues.ctx ?_)
  rw [hf]
  exact execCopy_taken h hp hb

/-! ### Copies that move (R228, R242) -/

theorem firstStop_eq_none {l : List (Nat × Tr)} (h : ∀ e ∈ l, ∃ pa k, e.2 = .at pa k) : firstStop l = none := by
  fun_induction firstStop l with
  | case1 => rfl
  | case2 _ _ _ _ ih => exact ih fun e he => h e (List.mem_cons_of_mem _ he)
  | case3 e l hn =>
    obtain ⟨pa, k, he⟩ := h e List.mem_cons_self
    exact (hn e.1 pa k (Prod.ext rfl he)).elim

section
variable {s : State} {id : Nat} {j : CopyJob} {t : Team} {els : CopyJob → List Nat}
  {k : State → CopyJob → Team → List (Nat × Tr) → State}
/-- A copy whose turn it is, with every place it touches open, does what `k` says, or ends on an uncorrectable error. -/
theorem copyGo_ready (hj : s.copies.find? (fun c => c.id == id) = some j) (ht : s.team j.g.team = some t)
    (hturn : ∃ y ∈ (engineJobs s j.engine).take 4, y.id = id) (hw : j.waiting = none) (hm : copyMoves j.spec t = true)
    (hat : ∀ e ∈ copyPlaces (takeGrains s id) j, ∃ pa k, e.2 = .at pa k ∧ regionReady (takeGrains s id) pa = true)
    (hpage : ∀ e ∈ copyPlaces (takeGrains s id) j, pageWaits (takeGrains s id) j.pasid (e.1 / 128) = false) :
    copyGo s id els k =
      if copySoft (takeGrains s id) j t (copyPlaces (takeGrains s id) j) (els j) then softCopy (takeGrains s id) id
      else k (notePlaces (takeGrains s id) ((copyPlaces (takeGrains s id) j).map fun e => e.2)) j t
        (copyPlaces (takeGrains s id) j) := by
  unfold copyGo
  rw [hj]
  dsimp only
  rw [ht]
  dsimp only
  generalize takeGrains s id = u at *
  have hmine : ((engineJobs s j.engine).take 4).any (fun y => y.id == id) = true := by simpa using hturn
  have hstop : firstStop (copyPlaces u j) = none :=
    firstStop_eq_none fun e he => let ⟨pa, k, h, _⟩ := hat e he; ⟨pa, k, h⟩
  have hfree : (copyPlaces u j).any (fun x => pageWaits u j.pasid (x.1 / 128)) = false :=
    List.any_eq_false.2 fun e he => by simp [hpage e he]
  rw [if_neg (by simp [hmine, hw, hm]), hstop]
  dsimp only
  split
  next pa hpa =>
    obtain ⟨e, he, h⟩ := List.mem_filterMap.1 (List.mem_of_find?_eq_some hpa)
    obtain ⟨pa', _, hk, hr⟩ := hat e he
    rw [hk] at h
    have := List.find?_some hpa
    rw [← Option.some.inj h, hr] at this
    contradiction
  · rw [hfree]
    exact if_neg Bool.false_ne_true
end

/-- Whether a place is refused for a cause. -/
def refusedFor (cause : Cause) (e : Nat × Tr) : Bool := match e.2 with | .trap k _ => k == cause | _ => false
theorem refusedFor_iff {cause : Cause} {e : Nat × Tr} : refusedFor cause e = true ↔ ∃ code, e.2 = .trap cause code := by
  obtain ⟨g, p⟩ := e
  cases p <;> simp [refusedFor]
section
variable {s : State} {x : CopyFail} {j : CopyJob} {t : Team}
/-- A copy ends with ERROR for the first of its reasons that stands, and otherwise is left as it was. -/
theorem execCopyError_eq (hj : s.copies.find? (fun c => c.id == x.id) = some j) (ht : s.team j.g.team = some t) :
    execCopyError x s =
      if x.cause = cSoft ∧ copySoft s j t (copyPlaces s j) (j.left.flatMap j.spec.piece) = true then .next (softCopy s x.id)
      else if (copyPlaces s j).any (refusedFor x.cause) || copyLate s j x.cause then .next (failCopy s x.id x.cause)
      else .next s := by
  unfold execCopyError
  rw [hj]
  dsimp only
  rw [ht]
  rfl
theorem refused_or_late : ((copyPlaces s j).any (refusedFor x.cause) || copyLate s j x.cause) = true ↔
    (∃ e ∈ copyPlaces s j, ∃ code, e.2 = .trap x.cause code) ∨ copyLate s j x.cause = true := by
  simp only [Bool.or_eq_true, List.any_eq_true, refusedFor_iff]
end

/-! ### Errors in the arrival word (R258) -/

theorem ecause_or_two (f : Word) : (f ||| 2).extractLsb' 8 8 = 0 ↔ f.toNat / 256 % 256 = 0 := by
  rw [BitVec.extractLsb'_or, show (2 : Word).extractLsb' 8 8 = 0#8 from rfl, BitVec.or_zero, ← BitVec.toNat_inj,
    BitVec.extractLsb'_toNat, Nat.shiftRight_eq_div_pow]
  rfl
theorem cause_shift (cause : Cause) : cause.setWidth 32 <<< 8 = BitVec.ofNat 32 (256 * cause.toNat) := by
  apply BitVec.eq_of_toNat_eq
  have := cause.isLt
  simp only [BitVec.toNat_shiftLeft, BitVec.toNat_setWidth, BitVec.toNat_ofNat, Nat.shiftLeft_eq]
  omega
theorem Arrival.fail_eq (a : Arrival) (cause : Cause) : a.fail cause = ({ a with
    flags := if a.flags.toNat / 256 % 256 = 0 then a.flags ||| 2 ||| BitVec.ofNat 32 (256 * cause.toNat)
      else a.flags ||| 2 } : Arrival).settle := by
  simp only [Arrival.fail, ecause_or_two, cause_shift]

/-! ### O26 -/

/-- Settles O26: a COPY that passes its checks takes its place or waits, for itself or for the event that makes room; a
copy whose places are open moves; one that fails ends for the first of its reasons. -/
theorem copies : Obligations.Copies :=
  ⟨fun _ _ _ _ => ⟨fun _ => execCopy_taken, execCopy_waits, fun _ _ => execCopyQueueFree_taken⟩,
    fun _ _ _ _ hj ht hturn hw hm hat hpage =>
      have hgo := copyGo_ready hj ht hturn hw hm hat hpage
      ⟨fun hs => congrArg Host.Outcome.next (hgo.trans (if_neg (by simp [hs]))),
        fun hs => congrArg Host.Outcome.next (hgo.trans (if_pos hs))⟩,
    fun _ _ _ _ hj ht =>
      have herr := execCopyError_eq hj ht
      ⟨fun hs => herr.trans (if_pos hs),
        fun hs hm => herr.trans ((if_neg hs).trans (if_pos (refused_or_late.2 hm))),
        fun hs hm hl => herr.trans ((if_neg hs).trans (if_neg fun h => (refused_or_late.1 h).elim hm (by simp [hl])))⟩,
    Arrival.fail_eq⟩

end Sys2Proof.Machine
end

section
/-! PUT, GET and the window counters (O32). -/

namespace Sys2Proof.Machine

/-! ### PUT and GET (R410 to R412) -/

/-- Another group waits before c's PUT or GET for a place in its chiplet's port queue (R25, R412). -/
def behindPort (s : State) (c : Ctx) : Prop :=
  ∃ w ∈ portParked s (chipletOfCore c.t.core), w.2.2 ≠ c.r ∧ w.before c.portSince c.t.core = true
theorem any_before_portParked (c : Ctx) : ((portParked c.free.s (chipletOfCore c.t.core)).any fun w =>
    w.2.2 != c.r && w.before c.portSince c.t.core) = true ↔ behindPort c.s c := by
  simp only [behindPort, portParked_eq]
  exact any_before_parkedBy

/-- What a PUT or GET does whose checks pass, a PUT's release done: it waits, or takes a place in the port queue (R412). -/
def Ctx.enterPort (c : Ctx) (x : PutGet) (put : Bool) (w : Range) : Res :=
  if ((portParked c.free.s (chipletOfCore c.t.core)).any fun w => w.2.2 != c.r && w.before c.portSince c.t.core) ||
      decide (256 ≤ (portOps c.s (chipletOfCore c.t.core)).length) then
    .park (.portQueue c.portSince) c.free.s
  else .ok (admitFabOp c.free.s (newFabOp c put x.notify (c.g.uniPair x.a.toNat).toNat (c.g.uniPair x.b.toNat).toNat
    (c.g.readUni x.d.toNat).toNat w))
theorem putGetOp_admissible {s : State} {c : Ctx} {x : PutGet} {put : Bool} {w : Range} (h : Admissible s c x put w) :
    putGetOp put x s = finish c.free 8 x.s (c.enterPort x put w) := by
  obtain ⟨hi, hrange, hcheck, hacq, hdr⟩ := h
  have hpark := parkNow_eq hi.ctx
  obtain rfl : c.s = s := (ctx_spec hi.ctx).1
  unfold putGetOp
  rw [issue_eq hi]
  congr 1
  dsimp only
  split
  next ht => cases ht.symm.trans hcheck
  refine (if_neg (by simp [show acquirePending c.free.s c.free.t.core c.free.r c.free.g = false from hacq])).trans ?_
  refine (if_neg ?_).trans ?_
  · cases put with
    | false => simp
    | true => simp [show drainedAt c.free.s c.free.t.core c.free.r 5 = true from hdr rfl]
  rw [hpark]
  unfold Ctx.enterPort
  refine ite_congr rfl (fun _ => rfl) fun _ => ?_
  split
  next hr => cases hr.symm.trans hrange
  next hr =>
    cases hr.symm.trans hrange
    rfl

section
variable {s : State} {c : Ctx} {x : PutGet} {put : Bool} {w : Range}
theorem putGetOp_admitted (h : Admissible s c x put w) (hroom : (portOps s (chipletOfCore c.t.core)).length < 256)
    (hb : ¬behindPort s c) : putGetOp put x s = .next (c.admitted x put w) := by
  rw [putGetOp_admissible h]
  obtain rfl : c.s = s := (ctx_spec h.issues.ctx).1
  refine congrArg (finish c.free 8 x.s) (if_neg ?_)
  rw [Bool.or_eq_true, any_before_portParked, decide_eq_true_eq]
  exact not_or.2 ⟨hb, Nat.not_le.2 hroom⟩
theorem putGetOp_waits (h : Admissible s c x put w)
    (hw : 256 ≤ (portOps s (chipletOfCore c.t.core)).length ∨ behindPort s c) :
    putGetOp put x s = .next (c.parked (.portQueue c.portSince) s) := by
  rw [putGetOp_admissible h]
  obtain rfl : c.s = s := (ctx_spec h.issues.ctx).1
  rw [← parked_free]
  refine congrArg (finish c.free 8 x.s) (if_pos ?_)
  rw [Bool.or_eq_true, any_before_portParked, decide_eq_true_eq]
  exact hw.symm
end
/-- The event that makes room in a port queue issues the PUT or GET of the group that waits first (R412). -/
theorem execFabricPortFree_admitted {s : State} {c : Ctx} {x : PutGet} {w : Range} {p : Instr × Bool} {r : GRef}
    (hp : p ∈ [(Instr.put x, true), (.get x, false)])
    (hr : firstParked (portParked s (chipletOfCore c.t.core)) = some r)
    (hf : fetchInstr s c.t r.grp c.g c.g.issueSet.2 = p.1) (h : Admissible { s with actor := .group r } c x p.2 w)
    (hroom : (portOps s (chipletOfCore c.t.core)).length < 256) (hb : ¬behindPort s c) :
    execFabricPortFree (chipletOfCore c.t.core) s = .next { c.admitted x p.2 w with actor := s.actor } := by
  unfold execFabricPortFree
  rw [hr]
  refine (if_pos hroom).trans (reissue_next h.issues.ctx ?_)
  rw [hf]
  have := putGetOp_admitted h hroom hb
  simp only [List.mem_cons, List.not_mem_nil, or_false] at hp
  rcases hp with rfl | rfl <;> exact this

/-! ### Window counters (R413) -/

theorem winReached_iff {e : BitVec 256} {v : Word} : winReached e v = true ↔ (winCount e - v).toInt ≥ 0 := by
  simp [winReached, BitVec.sle]
/-- WCWAIT goes on once the counter is there, or the import shows an error. -/
theorem wcwaitEnds_iff {e : BitVec 256} {v sel : Word} :
    (winReached e v || (!(sel.getLsbD 31) && impErr e)) = true ↔
      (winCount e - v).toInt ≥ 0 ∨ sel.getLsbD 31 = false ∧ impErr e = true := by
  simp only [Bool.or_eq_true, winReached_iff, Bool.and_eq_true, Bool.not_eq_true']

section
variable {s : State} {c : Ctx} {sel : Word}
/-- A counter instruction whose selector passes its checks runs its body. -/
theorem counterOp_eq {n : Names} {a : BitVec 6} (settle : Bool) (body : Ctx → Word → BitVec 256 → Res)
    (hi : Issues s c n false) (ha : c.g.readUni a.toNat = sel) (hsel : selFault s c.t.vif c.t.pasid sel = none) :
    counterOp n a settle s body = finish c.free 4 settle (body c.free sel (s.win (selKey c.t.vif sel))) := by
  obtain rfl : c.s = s := (ctx_spec hi.ctx).1
  subst ha
  unfold counterOp
  rw [issue_eq hi]
  congr 1
  dsimp only
  split
  next h => cases h.symm.trans hsel
  · rfl
theorem execWcwait_ends {x : UR} (hi : Issues s c (UR.names x false) false) (ha : c.g.readUni x.a.toNat = sel)
    (hsel : selFault s c.t.vif c.t.pasid sel = none)
    (h : (winCount (s.win (selKey c.t.vif sel)) - c.g.readUni x.b.toNat).toInt ≥ 0 ∨
      sel.getLsbD 31 = false ∧ impErr (s.win (selKey c.t.vif sel)) = true) :
    ∃ t, execWcwait x s = .next t ∧ DidIn (s.dropL1 c.t.core) c x.s (fun _ => c.pc + 4)
      { uni := oneUni x.d (winStatus (s.win (selKey c.t.vif sel)) sel) } t := by
  refine ⟨_, (counterOp_eq _ _ hi ha hsel).trans (congrArg (finish c.free 4 x.s) (if_pos (wcwaitEnds_iff.2 h))), ?_⟩
  obtain rfl : c.s = s := (ctx_spec hi.ctx).1
  exact didIn_of hi x.s (fun _ => c.pc + 4) rfl (changes_uni c _ _)
theorem execWcwait_waits {x : UR} (hi : Issues s c (UR.names x false) false) (ha : c.g.readUni x.a.toNat = sel)
    (hsel : selFault s c.t.vif c.t.pasid sel = none)
    (h : ¬((winCount (s.win (selKey c.t.vif sel)) - c.g.readUni x.b.toNat).toInt ≥ 0 ∨
      sel.getLsbD 31 = false ∧ impErr (s.win (selKey c.t.vif sel)) = true)) :
    execWcwait x s = .next (c.parked .wcwait s) := by
  refine (counterOp_eq _ _ hi ha hsel).trans
    ((congrArg (finish c.free 4 x.s) (if_neg (mt wcwaitEnds_iff.1 h))).trans ?_)
  obtain rfl : c.s = s := (ctx_spec hi.ctx).1
  exact congrArg Host.Outcome.next (parked_free c .wcwait)
theorem execWcrd_next {x : UU} (hi : Issues s c (Names.add (writesU [x.d.toNat]) (readsU [x.a.toNat])) false)
    (ha : c.g.readUni x.a.toNat = sel) (hsel : selFault s c.t.vif c.t.pasid sel = none) :
    execWcrd x s = .next (c.done 4 x.s (c.free.s.adjGroup c.r fun g => { g with park := some (.wcrd x.d.toNat sel) })) :=
  counterOp_eq _ _ hi ha hsel
theorem execWcreset_did {x : USrc} (hi : Issues s c (readsU [x.a.toNat]) false) (ha : c.g.readUni x.a.toNat = sel)
    (hsel : selFault s c.t.vif c.t.pasid sel = none) :
    ∃ t, execWcreset x s = .next t ∧ DidIn (s.setWin (selKey c.t.vif sel)
      (if sel.getLsbD 31 then winSetCount (s.win (selKey c.t.vif sel)) 0
        else bvSet (winSetCount (s.win (selKey c.t.vif sel)) 0) 215 9 0)) c x.s (fun _ => c.pc + 4) {} t := by
  refine ⟨_, counterOp_eq _ _ hi ha hsel, ?_⟩
  obtain rfl : c.s = s := (ctx_spec hi.ctx).1
  refine didIn_of hi x.s (fun _ => c.pc + 4) (F := id) ?_ (changes_none c)
  rw [State.adjGroup_same c.free.s c.r id fun _ => rfl]
  rfl
end
/-- The value of a WCRD reaches the group that waits for it. -/
theorem execWcrdAnswer_next {s : State} {r : GRef} {t : Team} {g : Group} {d : Nat} {sel : Word}
    (ht : s.team r.team = some t) (hg : t.groups[r.grp]? = some g) (hp : g.park = some (.wcrd d sel)) :
    execWcrdAnswer r s = .next (afterLanding (s.adjGroup r fun g =>
      (g.writeUni d (winCount (s.win (selKey t.vif sel)))).unpark) r) := by
  unfold execWcrdAnswer
  rw [ht, group_eq ht hg]
  dsimp only
  rw [hp]

/-! ### O32 -/

/-- Settles O32: PUT and GET that pass their checks take their place or wait, for themselves or for the event that makes
room; a counter instruction runs on the entry its selector names. -/
theorem windowInstructions : Obligations.WindowInstructions := by
  refine ⟨fun s c x w p hp => ⟨fun h => ?_, fun r hr hf h hroom hb => execFabricPortFree_admitted hp hr hf h hroom hb⟩,
    fun s c a hsel => ⟨fun x ha hi => ?_, fun x ha hi => ?_, fun x ha hi => ?_⟩,
    fun s r t g d sel => execWcrdAnswer_next⟩
  · simp only [List.mem_cons, List.not_mem_nil, or_false] at hp
    rcases hp with rfl | rfl <;> exact ⟨putGetOp_admitted h, putGetOp_waits h⟩
  · subst ha
    exact ⟨execWcwait_ends hi rfl hsel, execWcwait_waits hi rfl hsel⟩
  · subst ha
    exact execWcrd_next hi rfl hsel
  · subst ha
    exact execWcreset_did hi rfl hsel

end Sys2Proof.Machine
end

section
/-! What becomes of records (O31): how a record, a bin, a sheaf and a waiting lane go on (R300, R303 to R307), and how their
run ends (R308, R309). -/

namespace Sys2Proof.Machine

/-- The bin of a flight once its record has joined it (R303). -/
def binJoined (s : State) (i : Inst) (f : Flight) : Bin :=
  match i.bins.find? fun b => b.isAt f.launcher f.node f.label with
  | some b => { b with recs := b.recs ++ [f.slot] }
  | none => ⟨f.launcher, f.node, f.label, [f.slot], s.clock⟩
/-- The state in which the record of flight k has joined bin b. -/
def recordJoined (s : State) (id k : Nat) (f : Flight) (b : Bin) : State :=
  s.adjInst id fun i => { i with
    flights := dropAt i.flights k, bins := (i.bins.filter fun e => !(e.isAt f.launcher f.node f.label)) ++ [b] }

section
variable {s : State} {i : Inst} {id : Nat}

/-! ### Bins (R303 to R305) -/

/-- A record joins its bin once no earlier record of its group to its launcher is in flight. -/
theorem execRecordArrival_joins {x : InstIdx} {f : Flight} {n : NodeDesc} (hi : s.inst x.inst = some i)
    (hf : i.flights[x.i]? = some f) (hn : i.nodes[f.node]? = some n)
    (hfirst : ∀ e ∈ i.flights.take x.i, e.g = f.g → e.launcher ≠ f.launcher) :
    execRecordArrival x s = .next (if n.target ≤ (binJoined s i f).recs.length then
      cutBin (recordJoined s x.inst x.i f (binJoined s i f)) x.inst (binJoined s i f)
      else recordJoined s x.inst x.i f (binJoined s i f)) := by
  have hearlier : (i.flights.take x.i).any (fun e => e.g == f.g && e.launcher == f.launcher) = false :=
    List.any_eq_false.2 fun e he => by simpa using hfirst e he
  unfold execRecordArrival
  rw [hi]
  dsimp only
  rw [hf]
  dsimp only
  rw [hearlier, hn]
  rfl
theorem execBinTimerExpiry_cuts {x : BinRef} {b : Bin} {n : NodeDesc} (hi : s.inst x.inst = some i)
    (hn : i.nodes[x.node]? = some n) (hb : i.bins.find? (fun b => b.isAt x.launcher x.node x.label) = some b)
    (ht : n.timer ≠ 0) (hlate : b.since + n.timer ≤ s.clock) :
    execBinTimerExpiry x s = .next (cutBin s x.inst b) := by
  unfold execBinTimerExpiry
  rw [hi]
  dsimp only
  rw [hb]
  dsimp only
  rw [hn]
  exact congrArg Host.Outcome.next (if_pos ⟨ht, hlate⟩)
theorem drains_of (ht : runningTeams s i.id = []) (hf : i.flights = []) : drains s i = true := by
  simp [drains, ht, hf]
theorem execDrainCut_cuts (hi : s.inst id = some i) (hd : drains s i = true) :
    execDrainCut id s = .next (i.bins.foldl (fun s b => cutBin s id b) s) := by
  unfold execDrainCut
  rw [hi]
  exact congrArg Host.Outcome.next (if_pos hd)

/-! ### Sheaves (R306, R307) -/

theorem execSheafLaunch_starts {l : Nat} {h : Sheaf} {n : NodeDesc} {rect : List Nat} (hnext : nextSheaf s l = some (i, h))
    (hn : i.nodes[h.node]? = some n) (hy : yieldsTo s l i h = false) (hr : sheafRect s i h = some rect) :
    execSheafLaunch l s = .next (launchSheaf s i n h rect) := by
  unfold execSheafLaunch
  rw [hnext]
  dsimp only
  rw [hy, hn, hr]
  rfl

/-! ### Lanes that wait in POST.wait (R300) -/

theorem execPostWaitServe_serves {w : PostWaiter} {r : List PostWaiter} {u : State} (hi : s.inst id = some i)
    (hw : i.waiters = w :: r) (hu : drawSlot s w.g.team (fun i => decide (0 < i.free)) = some u) :
    execPostWaitServe id s = .next (answerPost (writeRecord u w) id w 1) := by
  unfold execPostWaitServe
  rw [hi]
  dsimp only
  rw [hw]
  dsimp only
  rw [hu]
theorem execPostWaitStall_answers (hi : s.inst id = some i) (hs : postStalled s i = true) (hf : i.free = 0) :
    execPostWaitStall id s = .next (i.waiters.foldl (fun s w => answerPost s id w 0x0A) s) := by
  unfold execPostWaitStall
  rw [hi]
  exact congrArg Host.Outcome.next (if_pos (by simp [hs, hf]))

/-! ### Ends of instances (R308, R309) -/

theorem execInstanceStallDrain_ends {h : Sheaf} (hi : s.inst id = some i)
    (hh : i.ready.find? (fun h => i.ready.all fun x => decide (h.seq ≤ x.seq)) = some h) (hd : drains s i = true)
    (hb : i.bins = []) (hfit : ∀ h ∈ i.ready, sheafFits i h = false) (hq : instQuiet s id = true) :
    execInstanceStallDrain id s = .next (finishInst s i h.node cArenaFull i.recsLeft) := by
  have hnone : (i.ready.all fun h => !(sheafFits i h)) = true := List.all_eq_true.2 fun h hh => by simp [hfit h hh]
  unfold execInstanceStallDrain
  rw [hi]
  dsimp only
  rw [hh]
  exact congrArg Host.Outcome.next (if_pos (by simp only [hd, hb, hnone, hq, List.isEmpty_nil, Bool.and_self]))
theorem execInstanceComplete_ends (hi : s.inst id = some i) (h : i.ended.isSome = true ∨
      drains s i = true ∧ i.bins = [] ∧ i.ready = [] ∧ instQuiet s id = true) :
    execInstanceComplete id s = .next (finishInst s i 0 0 0) := by
  unfold execInstanceComplete
  rw [hi]
  exact congrArg Host.Outcome.next (if_pos (by simpa [and_assoc] using h))
end

/-! ### O31 -/

/-- Settles O31, one event after the other. -/
theorem recordEvents : Obligations.RecordEvents := fun _ _ =>
  ⟨fun _ _ _ => execRecordArrival_joins, fun _ _ _ => execBinTimerExpiry_cuts,
    fun _ hi ht hf => execDrainCut_cuts hi (drains_of ht hf), fun _ _ _ _ => execSheafLaunch_starts,
    fun _ _ _ _ => execPostWaitServe_serves, fun _ => execPostWaitStall_answers, fun _ _ => execInstanceStallDrain_ends,
    fun _ => execInstanceComplete_ends⟩

end Sys2Proof.Machine
end

section
/-! Decoding what the encoder writes (R26 to R46, R123, R374): the word forms come back as their operands, then each
instruction by its form. -/

namespace Sys2Proof.Machine

/-! ### Words whose decoding is known -/

theorem decodeOne_lane {w : Word} {i : Instr} (hs : bit w 31 = false) (hd : decLane w = some i) (hw : i.wf = true) :
    decodeOne w = .ok i := by
  simp [decodeOne, hs, hd, checked, hw]
theorem decodeOne_uni {w : Word} {i : Instr} (hs : bit w 31 = true) (hd : decUni w = some i) (hw : i.wf = true) :
    decodeOne w = .ok i := by
  simp [decodeOne, hs, hd, checked, hw]
theorem decodeWords_one {w : Word} {i : Instr} (l : List Word) (hn : isTwoWord w = false) (hd : decodeOne w = .ok i) :
    decodeWords (w :: l) = .ok (i, 1) := by
  simp [decodeWords, hn, hd, Except.map]
theorem decodeWords_two {w t : Word} {i : Instr} (l : List Word) (hn : isTwoWord w = true) (hh : headOk w = true)
    (hd : decTwo w t = some i) (hw : i.wf = true) : decodeWords (w :: t :: l) = .ok (i, 2) := by
  simp [decodeWords, decodeTwo, hn, hh, hd, checked, hw, Except.map]

/-! ### Word forms -/

@[simp] theorem lrOf_encLR (f : LR → Instr) (M F : Nat) (x : LR) : lrOf f (encLR M F x) = some (f x) := by simp [lrOf]
@[simp] theorem luOf_encLU (f : LU → Instr) (M F : Nat) (x : LU) : luOf f (encLU M F x) = some (f x) := by simp [luOf]
@[simp] theorem lshOf_encLSh (f : LShift → Instr) (F : Nat) (x : LShift) : lshOf f (encLSh F x) = some (f x) := by
  simp [lshOf]
@[simp] theorem li8Of_encL8 (f : LImm8 → Instr) (F : Nat) (x : LImm8) : li8Of f (encL8 F x) = some (f x) := by simp [li8Of]
@[simp] theorem lmLoadOf_encLoad (f : LLoad → Instr) (M : Nat) (x : LLoad) : lmLoadOf f (encLoad M x) = some (f x) := by
  simp [lmLoadOf]
@[simp] theorem lmStoreOf_encStore (f : LStore → Instr) (M : Nat) (x : LStore) :
    lmStoreOf f (encStore M x) = some (f x) := by simp [lmStoreOf]
@[simp] theorem lbOf_encLB (f : LBranch → Instr) (M : Nat) (x : LBranch) : lbOf f (encLB M x) = some (f x) := by simp [lbOf]
@[simp] theorem zmoveOf_encZM (f : ZMove → Instr) (F : Nat) (x : ZMove) : zmoveOf f (encZM F x) = some (f x) := by
  simp [zmoveOf]
@[simp] theorem urOf_encUR (f : UR → Instr) (M F : Nat) (x : UR) : urOf f (encUR M F x) = some (f x) := by simp [urOf]
@[simp] theorem uuOf_encUU (f : UU → Instr) (M F : Nat) (x : UU) : uuOf f (encUU M F x) = some (f x) := by simp [uuOf]
@[simp] theorem usrc2Of_encU2 (f : USrc2 → Instr) (M F : Nat) (x : USrc2) : usrc2Of f (encU2 M F x) = some (f x) := by
  simp [usrc2Of]
@[simp] theorem usrcOf_encU1 (f : USrc → Instr) (M F : Nat) (x : USrc) : usrcOf f (encU1 M F x) = some (f x) := by
  simp [usrcOf]
@[simp] theorem unoneOf_encU0 (f : Bool → Instr) (M F : Nat) (s : Bool) : unoneOf f (encU0 M F s) = some (f s) := by
  simp [unoneOf]
@[simp] theorem uiOf_encUI (f : UImm12 → Instr) (M : Nat) (x : UImm12) : uiOf f (encUI M x) = some (f x) := by simp [uiOf]
@[simp] theorem ushOf_encUSh (f : UShift → Instr) (F : Nat) (x : UShift) : ushOf f (encUSh F x) = some (f x) := by
  simp [ushOf]
@[simp] theorem ujOf_encUJ (f : UBranch → Instr) (M : Nat) (x : UBranch) : ujOf f (encUJ M x) = some (f x) := by simp [ujOf]
@[simp] theorem gctlOf_encGctl (f : UCode10 → Instr) (F : Nat) (x : UCode10) : gctlOf f (encGctl F x) = some (f x) := by
  simp [gctlOf]
@[simp] theorem barOf_encBar (f : UBar → Instr) (F : Nat) (x : UBar) : barOf f (encBar F x) = some (f x) := by simp [barOf]
@[simp] theorem zmemOf_encZ (f : ZMem → Instr) (F : Nat) (s : Bool) (z : BitVec 3) (a : BitVec 6) :
    zmemOf f (encZ F s z a) = some (f ⟨s, z, a⟩) := by simp [zmemOf]

/-! ### Instructions by their form -/

@[simp] theorem encX_set (op F : Nat) (rd rs1 rs2 : BitVec 5) : bit (encX op F rd rs1 rs2) 31 = false := by
  refine bit_eq (fld_eq ?_)
  simp only [encX, toNat_cat, BitVec.toNat_ofNat, ofB_false]
  omega

/-- One word of the lane set: what the decoder reads in it (R41). -/
theorem decLane_encode {i : Instr} {w : Word} (he : encode i = [w]) (hs : bit w 31 = false)
    (hi : ∀ w, i ≠ .illegalWord w) (hx : ¬isXkrov i) : isTwoWord w = false ∧ decLane w = some i := by
  cases i with
  | add _ | sub _ | min _ | max _ =>
    cases he; exact ⟨by simp [isTwoWord], by unfold decLane decAddFam; rw [encLR_major, encLR_fn]; exact lrOf_encLR _ _ _ _⟩
  | minu _ | maxu _ =>
    cases he; exact ⟨by simp [isTwoWord], by unfold decLane decMinuFam; rw [encLR_major, encLR_fn]; exact lrOf_encLR _ _ _ _⟩
  | abs _ | neg _ =>
    cases he; exact ⟨by simp [isTwoWord], by unfold decLane decMinuFam; rw [encLU_major, encLU_fn]; exact luOf_encLU _ _ _ _⟩
  | mul _ | mulhi _ | mulhiu _ | mad _ =>
    cases he; exact ⟨by simp [isTwoWord], by unfold decLane decMulFam; rw [encLR_major, encLR_fn]; exact lrOf_encLR _ _ _ _⟩
  | and _ | or _ | xor _ | andn _ =>
    cases he; exact ⟨by simp [isTwoWord], by unfold decLane decAndFam; rw [encLR_major, encLR_fn]; exact lrOf_encLR _ _ _ _⟩
  | shl _ | shr _ | sar _ | rol _ =>
    cases he; exact ⟨by simp [isTwoWord], by unfold decLane decShlFam; rw [encLR_major, encLR_fn]; exact lrOf_encLR _ _ _ _⟩
  | popc _ | clz _ | ctz _ | brev _ =>
    cases he; exact ⟨by simp [isTwoWord], by unfold decLane decPopcFam; rw [encLU_major, encLU_fn]; exact luOf_encLU _ _ _ _⟩
  | bfeu _ | bfes _ | bfi _ | prmt _ =>
    cases he; exact ⟨by simp [isTwoWord], by unfold decLane decBfeuFam; rw [encLR_major, encLR_fn]; exact lrOf_encLR _ _ _ _⟩
  | seq _ | sne _ | slt _ | sltu _ =>
    cases he; exact ⟨by simp [isTwoWord], by unfold decLane decSeqFam; rw [encLR_major, encLR_fn]; exact lrOf_encLR _ _ _ _⟩
  | sel _ =>
    cases he; exact ⟨by simp [isTwoWord], by unfold decLane decSelFam; rw [encLR_major, encLR_fn]; exact lrOf_encLR _ _ _ _⟩
  | mov _ =>
    cases he; exact ⟨by simp [isTwoWord], by unfold decLane decSelFam; rw [encLU_major, encLU_fn]; exact luOf_encLU _ _ _ _⟩
  | add64 _ | sub64 _ | shl64 _ | shr64 _ =>
    cases he; exact ⟨by simp [isTwoWord], by unfold decLane decAdd64Fam; rw [encLR_major, encLR_fn]; exact lrOf_encLR _ _ _ _⟩
  | fadd _ | fsub _ | fmul _ | fmin _ =>
    cases he; exact ⟨by simp [isTwoWord], by unfold decLane decFaddFam; rw [encLR_major, encLR_fn]; exact lrOf_encLR _ _ _ _⟩
  | fmax _ | fcpsgn _ =>
    cases he; exact ⟨by simp [isTwoWord], by unfold decLane decFmaxFam; rw [encLR_major, encLR_fn]; exact lrOf_encLR _ _ _ _⟩
  | fabs _ | fneg _ =>
    cases he; exact ⟨by simp [isTwoWord], by unfold decLane decFmaxFam; rw [encLU_major, encLU_fn]; exact luOf_encLU _ _ _ _⟩
  | ffma _ | ffms _ | fnma _ | fnms _ =>
    cases he; exact ⟨by simp [isTwoWord], by unfold decLane decFfmaFam; rw [encLR_major, encLR_fn]; exact lrOf_encLR _ _ _ _⟩
  | feq _ | flt _ | fle _ | fUn _ =>
    cases he; exact ⟨by simp [isTwoWord], by unfold decLane decFeqFam; rw [encLR_major, encLR_fn]; exact lrOf_encLR _ _ _ _⟩
  | fclass _ | fgetexp _ =>
    cases he; exact ⟨by simp [isTwoWord], by unfold decLane decFclassFam; rw [encLU_major, encLU_fn]; exact luOf_encLU _ _ _ _⟩
  | fscale _ =>
    cases he; exact ⟨by simp [isTwoWord], by unfold decLane decFclassFam; rw [encLR_major, encLR_fn]; exact lrOf_encLR _ _ _ _⟩
  | hadd2 _ | hmul2 _ | hfma2 _ | hmax2 _ =>
    cases he; exact ⟨by simp [isTwoWord], by unfold decLane decHadd2Fam; rw [encLR_major, encLR_fn]; exact lrOf_encLR _ _ _ _⟩
  | badd2 _ | bmul2 _ | bfma2 _ | bmax2 _ =>
    cases he; exact ⟨by simp [isTwoWord], by unfold decLane decBadd2Fam; rw [encLR_major, encLR_fn]; exact lrOf_encLR _ _ _ _⟩
  | hdot2 _ | bdot2 _ | i8dot4 _ | u8dot4 _ =>
    cases he; exact ⟨by simp [isTwoWord], by unfold decLane decHdot2Fam; rw [encLR_major, encLR_fn]; exact lrOf_encLR _ _ _ _⟩
  | any _ | all _ | ballot _ | uni _ =>
    cases he; exact ⟨by simp [isTwoWord], by unfold decLane decAnyFam; rw [encLU_major, encLU_fn]; exact luOf_encLU _ _ _ _⟩
  | shflIdx _ | shflUp _ | shflDown _ | shflXor _ =>
    cases he; exact ⟨by simp [isTwoWord], by unfold decLane decShflIdxFam; rw [encLR_major, encLR_fn]; exact lrOf_encLR _ _ _ _⟩
  | zrd _ | zwr _ =>
    cases he; exact ⟨by simp [isTwoWord], by simp [decLane, decZrdFam]⟩
  | shli _ | shri _ | sari _ | roli _ =>
    cases he; exact ⟨by simp [isTwoWord], by simp [decLane, decShiftI]⟩
  | andi _ | ori _ | xori _ | andni _ =>
    cases he; exact ⟨by simp [isTwoWord], by simp [decLane, decLogicI]⟩
  | rcp _ | rsq _ | sqrt _ | exp2 _ | log2 _ | sin _ | cos _ | tanh _ =>
    cases he; exact ⟨by simp [isTwoWord], by simp [decLane, decSfu]⟩
  | seed _ | rand _ =>
    cases he; exact ⟨by simp [isTwoWord], by simp [decLane, decRng]⟩
  | jmpl _ | calll _ | retl _ =>
    cases he; exact ⟨by simp [isTwoWord], by simp [decLane, decLJmp]⟩
  | rdlane _ | firstlane _ =>
    cases he; exact ⟨by simp [isTwoWord], by simp [decLane, decXlane]⟩
  | addi _ | movi _ | lsrd _ | bnz _ | bz _ | ldt _ | stt _ | ld _ | st _ =>
    cases he; exact ⟨by simp [isTwoWord], by simp [decLane]⟩
  | illegalWord w => exact absurd rfl (hi w)
  | bfx x | lodeh x | swait x | wakegComplete x | wakegRefuse x | wakegDecline x | wakegRequeue x | pginst x
  | dispatchRun x | dispatchStop x | dispatchPreempt x | qsave x | qload x =>
    exact absurd ⟨x, ⟨0, 0⟩, 0, by simp [xkrovWords]⟩ hx
  | fqpop y | glreplay y | pgevict y | rfetch y | ueread y | uewrite y | lodeq y =>
    exact absurd ⟨⟨0, 0, 0⟩, y, 0, by simp [xkrovWords]⟩ hx
  | _ => cases he <;> simp at hs

/-- One word of the uniform set (R42). -/
theorem decUni_encode {i : Instr} {w : Word} (he : encode i = [w]) (hs : bit w 31 = true)
    (hi : ∀ w, i ≠ .illegalWord w) : isTwoWord w = false ∧ decUni w = some i := by
  cases i with
  | saluAdd _ | saluSub _ | saluMin _ | saluMax _ | saluMinu _ | saluMaxu _ | saluMul _ | saluMulhi _
  | saluMulhiu _ | saluMad _ | saluAnd _ | saluOr _ | saluXor _ | saluAndn _ | saluShl _ | saluShr _
  | saluSar _ | saluRol _ | saluBfeu _ | saluBfes _ | saluBfi _ | saluPrmt _ | saluSeq _ | saluSne _
  | saluSlt _ | saluSltu _ | saluSel _ =>
    cases he; exact ⟨by simp [isTwoWord], by unfold decUni decSalu; rw [encUR_major, encUR_fn]; exact urOf_encUR _ _ _ _⟩
  | saluAbs _ | saluNeg _ | saluPopc _ | saluClz _ | saluCtz _ | saluBrev _ | saluMov _ =>
    cases he; exact ⟨by simp [isTwoWord], by unfold decUni decSalu; rw [encUU_major, encUU_fn]; exact uuOf_encUU _ _ _ _⟩
  | salu64Add64 _ | salu64Sub64 _ | salu64Shl64 _ | salu64Shr64 _ =>
    cases he; exact ⟨by simp [isTwoWord], by unfold decUni decSalu64; rw [encUR_major, encUR_fn]; exact urOf_encUR _ _ _ _⟩
  | sshli _ | sshri _ | ssari _ | sroli _ =>
    cases he; exact ⟨by simp [isTwoWord], by simp [decUni, decSshi]⟩
  | jmpr _ =>
    cases he; exact ⟨by simp [isTwoWord], by unfold decUni decJmpr; rw [encU1_major, encU1_fn]; exact usrcOf_encU1 _ _ _ _⟩
  | ret _ =>
    cases he; exact ⟨by simp [isTwoWord], by unfold decUni decJmpr; rw [encU0_major, encU0_fn]; exact unoneOf_encU0 _ _ _ _⟩
  | settile _ | sleep _ | yield _ =>
    cases he; exact ⟨by simp [isTwoWord], by simp [decUni, decGctl]⟩
  | barArrive _ | barWait _ | barSync _ =>
    cases he; exact ⟨by simp [isTwoWord], by simp [decUni, decBar]⟩
  | discard _ | pref _ | claim _ =>
    cases he; exact ⟨by simp [isTwoWord], by unfold decUni decPageop; rw [encU2_major, encU2_fn]; exact usrc2Of_encU2 _ _ _ _⟩
  | shareJoin _ =>
    cases he; exact ⟨by simp [isTwoWord], by unfold decUni decShare; rw [encU2_major, encU2_fn]; exact usrc2Of_encU2 _ _ _ _⟩
  | shareLeave _ =>
    cases he; exact ⟨by simp [isTwoWord], by unfold decUni decShare; rw [encU0_major, encU0_fn]; exact unoneOf_encU0 _ _ _ _⟩
  | shareSub _ =>
    cases he; exact ⟨by simp [isTwoWord], by unfold decUni decShare; rw [encUR_major, encUR_fn]; exact urOf_encUR _ _ _ _⟩
  | shareUnsub _ =>
    cases he; exact ⟨by simp [isTwoWord], by unfold decUni decShare; rw [encU1_major, encU1_fn]; exact usrcOf_encU1 _ _ _ _⟩
  | expect _ | arrive _ =>
    cases he; exact ⟨by simp [isTwoWord], by unfold decUni decArrive; rw [encU2_major, encU2_fn]; exact usrc2Of_encU2 _ _ _ _⟩
  | waitg _ | testg _ =>
    cases he; exact ⟨by simp [isTwoWord], by unfold decUni decArrive; rw [encUR_major, encUR_fn]; exact urOf_encUR _ _ _ _⟩
  | cbInit _ | cbRel _ =>
    cases he; exact ⟨by simp [isTwoWord], by unfold decUni decCb; rw [encU1_major, encU1_fn]; exact usrcOf_encU1 _ _ _ _⟩
  | cbAcq _ | cbWait _ =>
    cases he; exact ⟨by simp [isTwoWord], by unfold decUni decCb; rw [encUU_major, encUU_fn]; exact uuOf_encUU _ _ _ _⟩
  | cbCommit _ =>
    cases he; exact ⟨by simp [isTwoWord], by unfold decUni decCb; rw [encU2_major, encU2_fn]; exact usrc2Of_encU2 _ _ _ _⟩
  | zclr _ | zstt _ | zldt _ | kset _ =>
    cases he; exact ⟨by simp [isTwoWord], by simp [decUni, decZctl]⟩
  | wact _ =>
    cases he; exact ⟨by simp [isTwoWord], by unfold decUni decZctl; rw [encU0_major, encU0_fn]; exact unoneOf_encU0 _ _ _ _⟩
  | wcwait _ =>
    cases he; exact ⟨by simp [isTwoWord], by unfold decUni decWc; rw [encUR_major, encUR_fn]; exact urOf_encUR _ _ _ _⟩
  | wcrd _ =>
    cases he; exact ⟨by simp [isTwoWord], by unfold decUni decWc; rw [encUU_major, encUU_fn]; exact uuOf_encUU _ _ _ _⟩
  | wcreset _ =>
    cases he; exact ⟨by simp [isTwoWord], by unfold decUni decWc; rw [encU1_major, encU1_fn]; exact usrcOf_encU1 _ _ _ _⟩
  | rte _ =>
    cases he; exact ⟨by simp [isTwoWord], by unfold decUni decSysc; rw [encU0_major, encU0_fn]; exact unoneOf_encU0 _ _ _ _⟩
  | grprd _ | grpwr _ =>
    cases he; exact ⟨by simp [isTwoWord], by unfold decUni decSysc; rw [encUR_major, encUR_fn]; exact urOf_encUR _ _ _ _⟩
  | grpres _ | grpstop _ =>
    cases he; exact ⟨by simp [isTwoWord], by unfold decUni decSysc; rw [encUU_major, encUU_fn]; exact uuOf_encUU _ _ _ _⟩
  | grplist _ => cases he; exact ⟨by simp [isTwoWord], by simp [decUni, decSysc]⟩
  | saddi _ | sandi _ | sori _ | sxori _ | sslti _ | smovi _ | bra _ | call _ | exit _ | srd _ | swr _
  | lduW _ | lduD _ | stuW _ | fence _ | nodeq _ | trap _ =>
    cases he; exact ⟨by simp [isTwoWord], by simp [decUni]⟩
  | illegalWord w => exact absurd rfl (hi w)
  | _ => cases he <;> simp at hs

/-- Two words (R29). -/
theorem decTwo_encode {i : Instr} {w t : Word} (he : encode i = [w, t]) (hw : i.wf = true) :
    isTwoWord w = true ∧ headOk w = true ∧ decTwo w t = some i := by
  cases i with
  | movw _ | smovw _ =>
    cases he; exact ⟨by simp [isTwoWord], by simp [headOk], by simp [decTwo]⟩
  | cvt _ | pcvt _ =>
    cases he; exact ⟨by simp [isTwoWord], by simp [headOk], by simp [decTwo, decCvt]⟩
  | reduce _ =>
    cases he; exact ⟨by simp [isTwoWord], by simp [headOk], by simp [decTwo, decReduce]⟩
  | scan _ =>
    cases he; exact ⟨by simp [isTwoWord], by simp [headOk], by simp [decTwo, decScan]⟩
  | att x =>
    have hd : x.ret = true ∨ x.d = 0#7 := by
      simpa using (Bool.and_eq_true_iff.1 (Bool.and_eq_true_iff.1 hw).1).2
    cases he; exact ⟨by simp [isTwoWord], by simpa [headOk] using hd, by simp [decTwo, decAtt]⟩
  | cltLoad x =>
    obtain ⟨_, _, _, _, _, _, q, _⟩ := x
    cases he; cases q <;> exact ⟨by simp [isTwoWord], by simp [headOk], by simp [decTwo, decClt, loBit_eq]⟩
  | cltStore x =>
    obtain ⟨_, _, _, _, _, q, _⟩ := x
    cases he; cases q <;> exact ⟨by simp [isTwoWord], by simp [headOk], by simp [decTwo, decClt, hiBit_eq]⟩
  | ldo x | sto x | stog x =>
    obtain ⟨_, _, _, _, o, _, _⟩ := x
    cases he; cases o <;> exact ⟨by simp [isTwoWord], by simp [headOk], by simp [decTwo, decLdo, loBit_eq, hiBit_eq]⟩
  | atom x =>
    have hd : x.ret = true ∨ x.d = 0#7 := by
      simpa using (Bool.and_eq_true_iff.1 (Bool.and_eq_true_iff.1 (Bool.and_eq_true_iff.1 hw).1).1).2
    cases he; exact ⟨by simp [isTwoWord], by simpa [headOk] using hd, by simp [decTwo, decAtom]⟩
  | red _ =>
    cases he; exact ⟨by simp [isTwoWord], by simp [headOk], by simp [decTwo, decRed]⟩
  | waita _ | wakea _ =>
    cases he; exact ⟨by simp [isTwoWord], by simp [headOk], by simp [decTwo, decWait]⟩
  | mma _ =>
    cases he; exact ⟨by simp [isTwoWord], by simp [headOk], by simp [decTwo, decMma]⟩
  | post _ | postTry _ | postWait _ =>
    cases he; exact ⟨by simp [isTwoWord], by simp [headOk], by simp [decTwo, decPost]⟩
  | copy _ =>
    cases he; exact ⟨by simp [isTwoWord], by simp [headOk], by simp [decTwo, decCopy]⟩
  | wload _ =>
    cases he; exact ⟨by simp [isTwoWord], by simp [headOk], by simp [decTwo, decWload]⟩
  | put _ | get _ =>
    cases he; exact ⟨by simp [isTwoWord], by simp [headOk], by simp [decTwo, decPut]⟩
  | _ => cases he

theorem encode_short {i : Instr} (hf : ∀ x, i ≠ .fusedExpSum x) : (encode i).length ≤ 2 := by
  cases i with
  | fusedExpSum x => exact absurd rfl (hf x)
  | _ => exact Nat.le_of_ble_eq_true rfl

/-! ### O58 -/

theorem decodeWords_encode {i : Instr} (l : List Word) (hw : Instr.wf i = true) (he : encode i ≠ [])
    (hi : ∀ w, i ≠ .illegalWord w) (hf : ∀ x, i ≠ .fusedExpSum x) (hx : ¬isXkrov i) :
    decodeWords (encode i ++ l) = .ok (i, (encode i).length) := by
  rcases h : encode i with _ | ⟨w, _ | ⟨t, _ | ⟨u, r⟩⟩⟩
  · exact absurd h he
  · cases hs : bit w 31
    · obtain ⟨hn, hd⟩ := decLane_encode h hs hi hx
      exact decodeWords_one l hn (decodeOne_lane hs hd hw)
    · obtain ⟨hn, hd⟩ := decUni_encode h hs hi
      exact decodeWords_one l hn (decodeOne_uni hs hd hw)
  · obtain ⟨hn, hh, hd⟩ := decTwo_encode h hw
    exact decodeWords_two l hn hh hd hw
  · exact absurd (h ▸ encode_short hf) (by simp)

theorem decodeFused_encode {x : Fused} (hw : Instr.wf (.fusedExpSum x) = true) :
    ∃ w0 w1 w2 w3, encode (.fusedExpSum x) = [w0, w1, w2, w3] ∧ decodeFused w0 w1 w2 w3 = some (.fusedExpSum x) := by
  have hm (y : LR) : decodeOne (encLR 0x11 0 y) = .ok (.fmax y) :=
    decodeOne_lane (by simp) (by simp [decLane, decFmaxFam]) rfl
  have hd (y : LR) : decodeOne (encLR 0x10 1 y) = .ok (.fsub y) :=
    decodeOne_lane (by simp) (by simp [decLane, decFaddFam]) rfl
  have he (y : LU) : decodeOne (encSfu 3 y) = .ok (.exp2 y) :=
    decodeOne_lane (by simp) (by simp [decLane, decSfu]) rfl
  have ha (y : LR) : decodeOne (encLR 0x10 0 y) = .ok (.fadd y) :=
    decodeOne_lane (by simp) (by simp [decLane, decFaddFam]) rfl
  have hx : x.wf = true := hw
  exact ⟨_, _, _, _, rfl, by simp [decodeFused, hm, hd, he, ha, hx]⟩

theorem decodeXkrov_encode {x : XR3} {y : XR2} {sel : DWord} : ∀ p ∈ xkrovWords x y sel, p.2 →
    ∃ w, encode p.1 = [w] ∧ decodeXkrov w sel = some p.1 := by
  have two : sel.extractLsb' 0 2 = BitVec.ofNat 2 (sel.toNat % 4) := by
    apply BitVec.eq_of_toNat_eq
    simp
  simp only [xkrovWords, List.forall_mem_cons, List.not_mem_nil, false_implies, implies_true, and_true]
  and_intros <;> intro h <;>
    exact ⟨_, rfl, by simp [decodeXkrov, two, h]⟩

/-- Settles O58: the words of the lane set, of the uniform set and of two words, then the fused sequence and Xkrov. -/
theorem decodeOfEncode : Obligations.DecodeOfEncode :=
  ⟨fun _ l hw he hi hf hx => decodeWords_encode l hw he hi hf hx, fun _ hw => decodeFused_encode hw,
    fun _ _ _ => decodeXkrov_encode⟩

end Sys2Proof.Machine
end

section
/-! The words that the spec prints (R46, R51, R374), decoded. -/

namespace Sys2Proof.Machine

/-- Settles O59: the decoder runs on each word. -/
theorem decodedWords : Obligations.DecodedWords := ⟨by decide, by decide, by decide, by decide, by decide⟩

end Sys2Proof.Machine
end

section
/-! One step (R27, R29, R47, R134, R374): the turn of a group whose words decode, the turn of a service core, and the moves
of the schedule. -/

namespace Sys2Proof.Machine

/-! ### The fetch of a group -/

/-- The words at pc, as the group fetches them, decode to i (R27, R29). -/
def FetchesAt (s : State) (t : Team) (grp : Nat) (g : Group) (pc : DWord) (w : Word) (i : Instr) : Prop :=
  fetchWord s t grp pc = some w ∧ fetchFused s t grp g pc w = none ∧
    (isTwoWord w = false ∧ decodeWords [w] = .ok (i, 1) ∨ isTwoWord w = true ∧ headOk w = true ∧
      ∃ v, fetchWord s t grp (pc + 4) = some v ∧ decodeWords [w, v] = .ok (i, 2))

theorem fetchInstr_of_words {s : State} {t : Team} {grp : Nat} {g : Group} {pc : DWord} {w : Word} {i : Instr}
    (ha : pc.toNat % 4 = 0) (h : FetchesAt s t grp g pc w i) : fetchInstr s t grp g pc = i := by
  obtain ⟨hw, hf, hd⟩ := h
  unfold fetchInstr
  rw [if_neg (not_not_intro (low2_eq.2 ha)), hw]
  dsimp only
  rw [hf]
  dsimp only
  obtain ⟨h2, hd⟩ | ⟨h2, hh, v, hv, hd⟩ := hd
  · simp [h2, hd]
  · rw [if_pos (by simp [h2, hh]), hv]
    simp [hd]

/-! ### A group that issues -/

/-- The group r of a core is RUNNING, owes no trap and may issue, at an aligned PC (R133, R134). -/
structure MayIssue (u : State) (core : Nat) (r : GRef) (t : Team) (g : Group) : Prop where
  team : u.team r.team = some t
  group : t.groups[r.grp]? = some g
  onCore : t.core = core
  place : t.place = .running
  stop : g.stop = none
  park : g.park = none
  pending : g.pending = none
  cands : g.cands ≠ []
  due : g.readyAt ≤ u.clock
  free : u.sfuHolds core r = false
  aligned : g.issueSet.2.toNat % 4 = 0

section
variable {u : State} {core : Nat} {r : GRef} {t : Team} {g : Group} {w : Word} {i : Instr}

theorem MayIssue.ready (h : MayIssue u core r t g) : g.ready u.clock = true := by
  simp [Group.ready, h.stop, h.park, h.pending, h.cands, h.due]
theorem MayIssue.trapDue (h : MayIssue u core r t g) : g.trapDue = false := by simp [Group.trapDue, h.pending]
theorem MayIssue.looks (h : MayIssue u core r t g) : g.looks = false := by simp [Group.looks, h.park]
/-- Noting which pack a core issues changes nothing of what its groups may do. -/
theorem MayIssue.packed (h : MayIssue u core r t g) (q : Option Pack) :
    MayIssue (u.adjCore core fun k => { k with pack := q }) core r t g :=
  { h with
    free := by
      have hf := h.free
      simpa [State.sfuHolds, State.core, State.adjCore] using hf }

/-- The turn of a group that may issue runs the instruction that its words decode to. -/
theorem groupTurn_runs (h : MayIssue u core r t g) (hi : FetchesAt u t r.grp g g.issueSet.2 w i) :
    groupTurn u r = .run i { noteFetch u t r.grp g.issueSet.2 with actor := .group r } := by
  unfold groupTurn
  rw [h.team]
  dsimp only
  rw [h.group]
  dsimp only
  rw [if_neg (by simp [h.place, h.onCore, h.free]), if_neg (by simp [h.trapDue]), if_pos (by simp [h.ready]),
    fetchInstr_of_words h.aligned hi]
theorem issueAll_single (s : State) (r : GRef) : issueAll s [r] = runTurn (groupTurn s r) := by
  simp only [issueAll]
  cases runTurn (groupTurn s r) <;> rfl
theorem issueAll_runs (h : MayIssue u core r t g) (hi : FetchesAt u t r.grp g g.issueSet.2 w i) :
    issueAll u [r] = exec i { noteFetch u t r.grp g.issueSet.2 with actor := .group r } := by
  rw [issueAll_single, groupTurn_runs h hi]
  rfl

/-! ### Cycles that select one group (R136, R137) -/

theorem Out.andThen_next (o : Out) : o.andThen (fun s => .next s) = o := by cases o <;> rfl
/-- A cycle that selects a pack of one group on lane pipe 0. -/
theorem coreCycle_lane {s : State} (hs : selectOf s core = ⟨[], [r], [], none⟩) :
    coreCycle s core = Out.andThen (issueAll (s.adjCore core fun k => { k with pack := some ⟨0, [r], false⟩ }) [r]) fun v =>
      .next (v.adjCore core fun k => { k with pack := none }) := by
  unfold coreCycle
  rw [hs]
  simp only [issueAll, Out.andThen, issuePack, Option.toList]
  exact Out.andThen_next _
/-- A cycle that selects a uniform instruction. -/
theorem coreCycle_uniform {s : State} (hs : selectOf s core = ⟨[], [], [], some r⟩) : coreCycle s core = issueAll s [r] := by
  unfold coreCycle
  rw [hs]
  rfl

/-- The only running group of a core is selected, by the set of its word (R136). -/
theorem selectOf_single (h : MayIssue u core r t g) (hi : FetchesAt u t r.grp g g.issueSet.2 w i)
    (hs : seats u core = [⟨r, t, g⟩]) (hh : (u.core core).sfuHeld = []) :
    selectOf u core = if w.msb = true then ⟨[], [], [], some r⟩ else ⟨[], [r], [], none⟩ := by
  have hn : nextSet u ⟨r, t, g⟩ = some (!w.msb) := by
    have ha := low2_eq.2 h.aligned
    simp only [nextSet, ha, hi.1]
    rfl
  have hc : candsOf u core = [⟨g.lastIssue, g.slot, r, g.issueSet.2, t.width, !w.msb⟩] := by
    simp [candsOf, hs, hn, h.ready, h.free]
  have hf : frontOf u core = [] := by
    simp [frontOf, hs, hn, h.trapDue, h.looks]
  cases hw : w.msb <;> simp [selectOf, hf, hc, hw, packOf, hh, leader, fillPack, Sparse.get]

end

/-! ### Turns -/

theorem team_of_tick {s : State} {n id : Nat} {t : Team} (h : (tick s n).team id = some t) :
    ∃ t', s.team id = some t' ∧ t'.core = t.core := by
  simp only [tick, State.team, List.find?_map, Option.map_eq_some_iff] at h
  obtain ⟨t', ht, rfl⟩ := h
  refine ⟨t', ?_, by split <;> rfl⟩
  rw [State.team, ← ht]
  congr 1
  funext x
  simp only [Function.comp]
  split <;> rfl
/-- The turn of a group and that of its core are a cycle of the core. -/
theorem turn_core {s : State} {core : Nat} {r : GRef} {t : Team} (ha : s.actor = .group r ∨ s.actor = .core core)
    (ht : (tick s 1).team r.team = some t) (hc : t.core = core) :
    turn s = restoreActor s.actor (coreCycle (tick s 1) core) := by
  unfold turn
  obtain ha | ha := ha
  · obtain ⟨t', ht', hc'⟩ := team_of_tick ht
    simp only [ha, ht', hc', hc]
  · simp only [ha]
theorem step_turn {s : State} (h : s.moves = []) : step s = turn s := by
  unfold step
  rw [h]
theorem step_move {s : State} {m : Move} {l : List Move} (h : s.moves = m :: l) :
    step s = runMove { s with moves := l } m := by
  unfold step
  rw [h]
/-- The turn of a service core that fetches an Xkrov word (R374). -/
theorem hartTurn_xkrov {s : State} {h : Nat} {k : Hart} {w : Nat} {i : Instr} (hk : s.harts[h]? = some k)
    (hw : k.wait = none) (hm : s.mgt.started = true) (hi : k.takesInterrupt = none) (hf : fetchRv s k = (.half w, 4))
    (hd : decodeXkrov (BitVec.ofNat 32 w) (k.reg (rvReg w 20)) = some i) : hartTurn s h = .run i s := by
  unfold hartTurn
  rw [hk]
  dsimp only
  rw [if_neg (by simp [hw, hm]), hi]
  dsimp only
  rw [hf]
  dsimp only
  rw [if_neg (by decide), hd]

/-! ### O60 -/

/-- Settles O60: a cycle that selects the group runs what its words decode to, a service core's turn runs its word, and
each move does what it names. -/
theorem stepRunsDecoded : Obligations.StepRunsDecoded := by
  refine ⟨?_, ?_, ?_⟩
  · intro s core r t g w i u p pc reads noted hm ha ht hg hc hpl hst hpk hpe hcd hdu hfr hal
    have h : MayIssue u core r t g := ⟨ht, hg, hc, hpl, hst, hpk, hpe, hcd, hdu, hfr, hal⟩
    have hstep : step s = restoreActor s.actor (coreCycle u core) := (step_turn hm).trans (turn_core ha ht hc)
    refine ⟨fun hs hr => ?_, fun hs hr => ?_, fun hs hh hr => selectOf_single h hr hs hh⟩
    · rw [hstep, coreCycle_lane hs, issueAll_runs (h.packed _) hr]
    · rw [hstep, coreCycle_uniform hs, issueAll_runs h hr]
  · intro s h k w i hm ha hk hw hs hi hf hd
    rw [step_turn hm, turn, ha]
    exact congrArg runTurn (hartTurn_xkrov (s := tick s 1) hk hw hs hi hf hd)
  · intro s l
    refine ⟨fun i h hi => ?_, fun i h hi => ?_, fun _ h => step_move h, fun _ h => step_move h, fun _ h => step_move h,
      fun _ h => step_move h, fun _ _ h => step_move h, fun _ _ h => step_move h, fun _ _ h => step_move h,
      fun _ _ h => step_move h, fun _ _ h => step_move h, fun h => step_move h, fun _ h => step_move h, fun h => step_move h⟩
    · exact (step_move h).trans (if_pos hi)
    · exact (step_move h).trans (if_neg (by simp [hi]))

end Sys2Proof.Machine
end

section
/-! Transfers (R35, R140, R149 to R152): branches, jumps and calls of the lanes and of the group. -/

namespace Sys2Proof.Machine

/-! ### Targets -/

/-- A transfer looks at the targets of the issuing lanes only. -/
theorem transfer_congr {c : Ctx} {lane : Bool} {f f' : Nat → DWord} {u : State} (h : ∀ L ∈ c.I, f L = f' L) :
    transfer c lane f u = transfer c lane f' u := by
  have hf : c.I.find? (fun L => decide ((f L).extractLsb' 0 2 ≠ 0)) = c.I.find? fun L => decide ((f' L).extractLsb' 0 2 ≠ 0) :=
    List.find?_congr fun L hL => by rw [h L hL]
  have hm : (c.I.map fun L => (L, f L)) = c.I.map fun L => (L, f' L) := List.map_congr_left fun L hL => by rw [h L hL]
  unfold transfer
  rw [hf, hm]
  split
  next L hL => rw [h L (List.mem_of_find?_eq_some hL)]
  · rfl
theorem target_mod {c : Ctx} (hp : c.pc.toNat % 4 = 0) (off : BitVec 16) : (target (c.pc + 4) off).toNat % 4 = 0 :=
  low2_eq.1 (branchTarget_eq _ off ▸ target_aligned hp off)

section
variable {s : State} {c : Ctx}

/-- A transfer that leaves the registers of the group. -/
theorem transfer_plain {n : Names} (hi : Issues s c n false) {len : Nat} {settle lane : Bool} {body : Ctx → Res}
    (pc : Nat → DWord) (hb : body c.free = transfer c.free lane pc c.free.s) (ha : ∀ L ∈ c.I, (pc L).toNat % 4 = 0) :
    ∃ t, issue s n len settle false body = .next t ∧ DidAt c settle pc { readyAt := some (c.s.clock + 2) } t :=
  transfer_did hi pc (F := id) (e := {}) (hb.trans (by rw [State.adjGroup_same c.free.s c.r id fun _ => rfl])) rfl
    (fun L hL => low2_eq.2 (ha L hL)) (changes_none c)

/-! ### The lane set (R149, R150) -/

theorem laneBranch_did {x : LBranch} (hi : Issues s c (readsV [x.c.toNat]) false) (hp : c.pc.toNat % 4 = 0) (nz : Bool)
    {taken : Nat → Bool} (ht : ∀ L, taken L = ((c.g.readLane L x.c.toNat != 0) == nz))
    (hu : x.u = true → (∀ L ∈ c.I, taken L = true) ∨ ∀ L ∈ c.I, taken L = false) :
    ∃ t, laneBranch x s nz = .next t ∧
      DidAt c x.s (fun L => if taken L then target (c.pc + 4) x.off else c.pc + 4) { readyAt := some (c.s.clock + 2) } t := by
  have hf : (c.I.filter fun L => (c.g.readLane L x.c.toNat != 0) == nz) = c.I.filter taken :=
    List.filter_congr fun L _ => (ht L).symm
  have hd : ¬(x.u = true ∧ c.I.filter taken ≠ [] ∧ c.I.filter taken ≠ c.I) := by
    rintro ⟨hx, hne, hni⟩
    obtain h | h := hu hx
    · exact hni (List.filter_eq_self.2 h)
    · exact hne (List.filter_eq_nil_iff.2 fun L hL => by simp [h L hL])
  refine transfer_plain hi (lane := true) _ ((if_neg fun h => hd (hf ▸ h)).trans (transfer_congr fun L hL => ?_)) fun L _ => ?_
  · have hL : L ∈ c.I := hL
    have hm : L ∈ (c.I.filter fun L => (c.g.readLane L x.c.toNat != 0) == nz) ↔ taken L = true := by simp [hL, ht]
    simp only [List.contains_iff_mem, branchTarget_eq]
    exact if_congr hm rfl rfl
  · split
    · exact target_mod hp x.off
    · exact low2_eq.1 (next_aligned hp)
theorem laneJump_did {x : LJump} (hi : Issues s c (readsV (runOf x.a.toNat 2)) false)
    (ha : ∀ L ∈ c.I, (c.g.lanePair L x.a.toNat).toNat % 4 = 0) :
    ∃ t, laneJump x s = .next t ∧ DidAt c x.s (fun L => c.g.lanePair L x.a.toNat) { readyAt := some (c.s.clock + 2) } t :=
  transfer_plain hi _ rfl ha
theorem execCalll_did {x : LU} (hi : Issues s c (Names.add (writesV (runOf x.d.toNat 2)) (readsV (runOf x.a.toNat 2))) false)
    (ha : ∀ L ∈ c.I, (c.g.lanePair L x.a.toNat).toNat % 4 = 0) :
    ∃ t, execCalll x s = .next t ∧ DidAt c x.s (fun L => c.g.lanePair L x.a.toNat)
      { readyAt := some (c.s.clock + 2), lane := pairReg x.d fun _ => c.pc + 4 } t :=
  transfer_did hi _ (e := { lane := pairReg x.d fun _ => c.pc + 4 }) rfl rfl (fun L hL => low2_eq.2 (ha L hL))
    (changes_pair hi.lt _ _)

/-! ### The uniform set (R35, R151, R152) -/

theorem condTaken_iff (k : BitVec 2) (v : Word) : condTaken k v = true ↔
    k = 0 ∨ k = 1 ∧ v = 0 ∨ k = 2 ∧ v ≠ 0 ∨ k = 3 ∧ v.toInt < 0 := by
  have hk : k = 0 ∨ k = 1 ∨ k = 2 ∨ k = 3 := by revert k; decide
  obtain rfl | rfl | rfl | rfl := hk <;> simp [condTaken, BitVec.msb_eq_toInt]

theorem execBra_taken {x : UBranch} (hi : Issues s c (UBranch.names x) false) (hp : c.pc.toNat % 4 = 0)
    (h : condTaken x.cond (c.g.readUni x.sc.toNat) = true) : ∃ t, execBra x s = .next t ∧
      DidAt c x.s (fun _ => target (c.pc + 4) x.off) { readyAt := some (c.s.clock + 2) } t :=
  transfer_plain hi _ (congrArg (fun n => transfer c.free false (fun _ => n) c.free.s)
    ((if_pos h).trans (branchTarget_eq _ _))) fun _ _ => target_mod hp x.off
theorem execBra_untaken {x : UBranch} (hi : Issues s c (UBranch.names x) false) (hp : c.pc.toNat % 4 = 0)
    (h : condTaken x.cond (c.g.readUni x.sc.toNat) ≠ true) : ∃ t, execBra x s = .next t ∧
      Did c x.s 4 { readyAt := some (c.s.clock + 2) } t :=
  transfer_plain hi _ (congrArg (fun n => transfer c.free false (fun _ => n) c.free.s) (if_neg h)) fun _ _ =>
    low2_eq.1 (next_aligned hp)
theorem execCall_taken {x : UBranch} (hi : Issues s c (Names.add (UBranch.names x) (writesU [62, 63])) false)
    (hp : c.pc.toNat % 4 = 0) (h : condTaken x.cond (c.g.readUni x.sc.toNat) = true) : ∃ t, execCall x s = .next t ∧
      DidAt c x.s (fun _ => target (c.pc + 4) x.off) { readyAt := some (c.s.clock + 2), uni := pairUni 62 (c.pc + 4) } t :=
  transfer_did hi _ (e := { uni := pairUni 62 (c.pc + 4) }) ((if_pos h).trans (by rw [branchTarget_eq]; rfl)) rfl
    (fun _ _ => low2_eq.2 (target_mod hp x.off)) (changes_uniPair c 62 _)
theorem execCall_untaken {x : UBranch} (hi : Issues s c (Names.add (UBranch.names x) (writesU [62, 63])) false)
    (h : condTaken x.cond (c.g.readUni x.sc.toNat) ≠ true) : ∃ t, execCall x s = .next t ∧
      Did c x.s 4 { readyAt := some (c.s.clock + 2) } t :=
  issue_did hi (e := { readyAt := some (c.s.clock + 2) }) (F := fun g => { g with readyAt := c.s.clock + 2 })
    ((if_neg h).trans rfl) ((changes_none c).notNext _)
theorem execJmpr_did {x : USrc} (hi : Issues s c (readsU (runOf x.a.toNat 2)) false)
    (ha : (c.g.uniPair x.a.toNat).toNat % 4 = 0) : ∃ t, execJmpr x s = .next t ∧
      DidAt c x.s (fun _ => c.g.uniPair x.a.toNat) { readyAt := some (c.s.clock + 2) } t :=
  transfer_plain hi _ rfl fun _ _ => ha
theorem execRet_did {b : Bool} (hi : Issues s c (readsU [62, 63]) false) (ha : (c.g.uniPair 62).toNat % 4 = 0) :
    ∃ t, execRet b s = .next t ∧ DidAt c b (fun _ => c.g.uniPair 62) { readyAt := some (c.s.clock + 2) } t :=
  transfer_plain hi _ rfl fun _ _ => ha

/-- An answer that is known in each of two cases. -/
theorem exists_next_of_cases {P : Prop} {o : Out} {A B : State → Prop} (h : P → ∃ t, o = .next t ∧ A t)
    (hn : ¬P → ∃ t, o = .next t ∧ B t) : ∃ t, o = .next t ∧ (P → A t) ∧ (¬P → B t) := by
  by_cases hP : P
  · obtain ⟨t, ht, hA⟩ := h hP
    exact ⟨t, ht, fun _ => hA, fun hn => absurd hP hn⟩
  · obtain ⟨t, ht, hB⟩ := hn hP
    exact ⟨t, ht, fun h => absurd h hP, fun _ => hB⟩

end

/-! ### O8 -/

/-- Settles O8, one kind of transfer after the other. -/
theorem controlTransfers : Obligations.ControlTransfers := by
  refine ⟨fun s c => ⟨fun x hi hp p hm => ?_, fun x hi ha i hm => ?_, fun x hi ha => execCalll_did hi ha⟩,
    fun s c => ⟨fun x hp => ?_, fun _ => execJmpr_did, fun _ => execRet_did⟩⟩
  · obtain rfl | rfl : p = (Instr.bnz x, fun w => decide (w ≠ 0)) ∨ p = (Instr.bz x, fun w => decide (w = 0)) := by
      simpa using hm
    · exact laneBranch_did hi hp true fun L => by simp [bne, BEq.beq]
    · exact laneBranch_did hi hp false fun L => by simp [bne, BEq.beq]
  · obtain rfl | rfl : i = .jmpl x ∨ i = .retl x := by simpa using hm
    · exact laneJump_did hi ha
    · exact laneJump_did hi ha
  · have hk := condTaken_iff x.cond (c.g.readUni x.sc.toNat)
    exact ⟨fun hi => exists_next_of_cases (fun h => execBra_taken hi hp (hk.2 h)) fun h => execBra_untaken hi hp (mt hk.1 h),
      fun hi => exists_next_of_cases (fun h => execCall_taken hi hp (hk.2 h)) fun h => execCall_untaken hi (mt hk.1 h)⟩

end Sys2Proof.Machine
end

section
/-! The checks before an instruction takes effect (R47): each traps, in their order. -/

namespace Sys2Proof.Machine

section
variable {s : State} {c : Ctx}

/-! ### Instructions that name nothing but uniform registers -/

/-- Names that no count of the team bounds (R83). -/
theorem namesOk_uniform (t : Team) {n : Names} (hv : n.v = []) (hz : n.z = []) (hk : n.k = []) : namesOk t n = true := by
  simp [namesOk, hv, hz, hk]
/-- An instruction that names no register passes every check. -/
theorem issues_nameless (h : s.ctx = some c) : Issues s c {} false :=
  ⟨h, rfl, nofun, by simp [unsettled], by simp [sourceBad]⟩

/-! ### An instruction that waits -/

/-- An instruction that passes the checks and whose body waits. -/
theorem issue_parked {n : Names} {p : Bool} (hi : Issues s c n p) {len : Nat} {settle : Bool} {body : Ctx → Res} {k : Park} {u : State}
    (hb : body c.free = .park k u) : issue s n len settle p body = .next (c.parked k u) := by
  rw [issue_eq hi, hb]
  rfl

/-! ### A check that fails -/

variable {n : Names} {len : Nat} {settle : Bool} {body : Ctx → Res} (h : s.ctx = some c)
include h

theorem issue_illegal {priv : Bool} (hn : namesOk c.t n = false) :
    issue s n len settle priv body = .next (c.trapped cIllegal 0 0) := by
  obtain ⟨rfl, -⟩ := ctx_spec h
  unfold issue
  rw [h]
  exact if_pos (by simp [hn])
theorem issue_privilege (hn : namesOk c.t n = true) (hm : c.g.inHandler = false) :
    issue s n len settle true body = .next (c.trapped cPrivilege 0 0) := by
  obtain ⟨rfl, -⟩ := ctx_spec h
  unfold issue
  rw [h]
  exact (if_neg (by simp [hn])).trans (if_pos (by simp [hm]))
theorem issue_unsettled (hn : namesOk c.t n = true) (hu : unsettled c.g n = true) :
    issue s n len settle false body = .next (c.trapped cUnsettled 0 0) := by
  obtain ⟨rfl, -⟩ := ctx_spec h
  unfold issue
  rw [h]
  exact (if_neg (by simp [hn])).trans ((if_neg (by simp)).trans (if_pos hu))
theorem issue_soft (hn : namesOk c.t n = true) (hu : unsettled c.g n = false) (hb : sourceBad c.g c.I n = true) :
    issue s n len settle false body = .next (c.trapped cSoft 0 0) := by
  obtain ⟨rfl, -⟩ := ctx_spec h
  unfold issue
  rw [h]
  exact (if_neg (by simp [hn])).trans ((if_neg (by simp)).trans ((if_neg (by simpa [unsettled] using hu)).trans (if_pos hb)))

/-! ### The shapes of words (R92, R104) -/

omit h in
theorem execIllegalWord_traps (h : s.ctx = some c) (w : Word) : execIllegalWord w s = .next (c.trapped cIllegal 0 0) :=
  issue_trapped (issues_nameless h) rfl
theorem lrOp3_checks (old : Bool) (x : LR) (f : Word → Word → Word → Word) :
    (namesOk c.t (LR.names x old) = false → lrOp3 old x s f = .next (c.trapped cIllegal 0 0)) ∧
    (namesOk c.t (LR.names x old) = true → unsettled c.g (LR.names x old) = true →
      lrOp3 old x s f = .next (c.trapped cUnsettled 0 0)) ∧
    (namesOk c.t (LR.names x old) = true → unsettled c.g (LR.names x old) = false →
      sourceBad c.g c.I (LR.names x old) = true → lrOp3 old x s f = .next (c.trapped cSoft 0 0)) :=
  ⟨issue_illegal h, issue_unsettled h, issue_soft h⟩
theorem urOp3_checks (old : Bool) (x : UR) (f : Word → Word → Word → Word) :
    (unsettled c.g (UR.names x old) = true → urOp3 old x s f = .next (c.trapped cUnsettled 0 0)) ∧
    (unsettled c.g (UR.names x old) = false → sourceBad c.g c.I (UR.names x old) = true →
      urOp3 old x s f = .next (c.trapped cSoft 0 0)) :=
  have hn : namesOk c.t (UR.names x old) = true := by cases old <;> exact namesOk_uniform _ rfl rfl rfl
  ⟨issue_unsettled h hn, issue_soft h hn⟩

/-! ### Privileged instructions (R362) -/

omit h in
/-- Outside the handler an instruction of the handler that names uniform registers only is refused. -/
theorem issue_uniform_privilege (h : s.ctx = some c) (hm : c.g.inHandler = false) (hv : n.v = []) (hz : n.z = []) (hk : n.k = []) :
    issue s n len settle true body = .next (c.trapped cPrivilege 0 0) :=
  issue_privilege h (namesOk_uniform _ hv hz hk) hm
variable (hm : c.g.inHandler = false)
include hm

theorem execRte_privilege (b : Bool) : execRte b s = .next (c.trapped cPrivilege 0 0) :=
  issue_uniform_privilege h hm rfl rfl rfl
theorem execGrprd_privilege (x : UR) : execGrprd x s = .next (c.trapped cPrivilege 0 0) :=
  issue_uniform_privilege h hm rfl rfl rfl
theorem execGrpwr_privilege (x : UR) : execGrpwr x s = .next (c.trapped cPrivilege 0 0) :=
  issue_uniform_privilege h hm rfl rfl rfl
theorem execGrpres_privilege (x : UU) : execGrpres x s = .next (c.trapped cPrivilege 0 0) :=
  issue_uniform_privilege h hm rfl rfl rfl
theorem execGrpstop_privilege (x : UU) : execGrpstop x s = .next (c.trapped cPrivilege 0 0) :=
  issue_uniform_privilege h hm rfl rfl rfl
theorem execGrplist_privilege (x : UDst) : execGrplist x s = .next (c.trapped cPrivilege 0 0) :=
  issue_uniform_privilege h hm rfl rfl rfl
theorem execSrd_privilege {x : USrd} (hp : handlerOnly x.n.toNat = true) : execSrd x s = .next (c.trapped cPrivilege 0 0) := by
  unfold execSrd
  rw [hp]
  exact issue_uniform_privilege h hm rfl rfl rfl

end

/-! ### O33 -/

/-- Settles O33: each check in its order, and the privileged instructions one by one. -/
theorem issueChecks : Obligations.IssueChecks := by
  intro s c h
  refine ⟨execIllegalWord_traps h, fun x => lrOp3_checks h false x fun a b _ => a + b,
    fun x => urOp3_checks h false x fun a b _ => a + b, fun hm i hi => ?_⟩
  obtain ⟨b, rfl⟩ | ⟨x, rfl | rfl⟩ | ⟨x, rfl | rfl⟩ | ⟨x, rfl⟩ | ⟨w, d, n, rfl, hlo, hhi⟩ := hi
  · exact execRte_privilege h hm b
  · exact execGrprd_privilege h hm x
  · exact execGrpwr_privilege h hm x
  · exact execGrpres_privilege h hm x
  · exact execGrpstop_privilege h hm x
  · exact execGrplist_privilege h hm x
  · have hp : handlerOnly n.toNat = true := by rw [handlerOnly, decide_eq_true hlo, decide_eq_true hhi]; rfl
    exact execSrd_privilege (x := ⟨w, d, n⟩) h hm hp

end Sys2Proof.Machine
end

section
/-! Reads of the uniform special registers (R39, R111, R159). -/

namespace Sys2Proof.Machine

/-! ### Values of the special registers -/

theorem getLsbD_maskOf (I : List Nat) (i : Nat) : (maskOf I).getLsbD i = true ↔ i < 64 ∧ i ∈ I := by
  suffices h : ∀ m : BitVec 64, (I.foldl (fun m L => m ||| BitVec.ofNat 64 (1 <<< L)) m).getLsbD i = true ↔
      m.getLsbD i = true ∨ i < 64 ∧ i ∈ I by simpa [maskOf] using h 0
  induction I with
  | nil => simp
  | cons L I ih =>
    intro m
    have hL : (BitVec.ofNat 64 (1 <<< L)).getLsbD i = true ↔ i < 64 ∧ i = L := by
      rw [BitVec.getLsbD_ofNat, Nat.one_shiftLeft, Nat.testBit_two_pow]
      simp [@eq_comm _ L i]
    rw [List.foldl_cons, ih, BitVec.getLsbD_or, Bool.or_eq_true, hL, List.mem_cons, or_assoc, and_or_left]

theorem getLsbD_activeLow {c : Ctx} {i : Nat} (h : i < 32) :
    ((uniSpecial c 0x00D).setWidth 32).getLsbD i = true ↔ 0 + i ∈ c.I := by
  have hm : (0xFFFFFFFF : DWord).getLsbD i = true := by
    rw [show (0xFFFFFFFF : DWord) = BitVec.ofNat 64 (2 ^ 32 - 1) from rfl, BitVec.getLsbD_ofNat, Nat.testBit_two_pow_sub_one]
    simp [h, show i < 64 by omega]
  show ((maskOf c.I &&& 0xFFFFFFFF).setWidth 32).getLsbD i = true ↔ _
  rw [BitVec.getLsbD_setWidth, BitVec.getLsbD_and, hm, Bool.and_true, Bool.and_eq_true, getLsbD_maskOf, Nat.zero_add]
  simp [h, show i < 64 by omega]
theorem getLsbD_activeHigh {c : Ctx} {i : Nat} (h : i < 32) :
    ((uniSpecial c 0x00E).setWidth 32).getLsbD i = true ↔ 32 + i ∈ c.I := by
  show ((maskOf c.I >>> 32).setWidth 32).getLsbD i = true ↔ _
  rw [BitVec.getLsbD_setWidth, BitVec.getLsbD_ushiftRight, Bool.and_eq_true, getLsbD_maskOf]
  simp [h, show 32 + i < 64 by omega]

/-- What the registers of the trap frame read: cause, address, first word and detail. -/
def frameSpecials : Option Frame → DWord × DWord × DWord × DWord
  | none => (0, 0, 0, 0)
  | some f => (f.trap.cause.setWidth 64, f.trap.addr, f.trap.inst.setWidth 64, f.trap.info.setWidth 64)
theorem uniSpecial_frame {c : Ctx} {f : Frame} (h : c.g.frame = some f) :
    uniSpecial c 0x040 = f.trap.cause.setWidth 64 ∧ uniSpecial c 0x042 = f.trap.addr ∧
      uniSpecial c 0x044 = f.trap.inst.setWidth 64 ∧ uniSpecial c 0x045 = f.trap.info.setWidth 64 := by
  show (frameSpecials c.g.frame).1 = _ ∧ (frameSpecials c.g.frame).2.1 = _ ∧ (frameSpecials c.g.frame).2.2.1 = _ ∧
    (frameSpecials c.g.frame).2.2.2 = _
  rw [h]
  exact ⟨rfl, rfl, rfl, rfl⟩

/-- The registers of 32 bits outside the trap frame, with their values (R39). -/
def narrowSpecials (c : Ctx) : List (Nat × Word) :=
  [(0x000, BitVec.ofNat 32 c.r.grp), (0x001, BitVec.ofNat 32 c.t.width), (0x002, c.t.teamId), (0x003, c.t.clusterId),
    (0x004, BitVec.ofNat 32 c.t.clusterTeam), (0x005, BitVec.ofNat 32 (c.t.clusterW + 16 * c.t.clusterH)),
    (0x006, BitVec.ofNat 32 c.t.core), (0x007, BitVec.ofNat 32 c.t.node), (0x008, BitVec.ofNat 32 c.t.label),
    (0x009, BitVec.ofNat 32 c.t.sheafBase), (0x00A, BitVec.ofNat 32 c.t.sheafN), (0x00B, BitVec.ofNat 32 c.t.depth),
    (0x00C, BitVec.ofNat 32 c.g.tile), (0x014, BitVec.ofNat 32 c.t.pasid), (0x015, BitVec.ofNat 32 c.t.vif),
    (0x01C, c.g.fflags.setWidth 32)]

theorem narrowSpecials_narrow (c : Ctx) : ∀ p ∈ narrowSpecials c, p.1 < 0x040 ∧ p.1 ∉ srdWide := by
  have h : ∀ n ∈ (narrowSpecials c).map Prod.fst, n < 0x040 ∧ n ∉ srdWide :=
    show ∀ n ∈ [0x000, 0x001, 0x002, 0x003, 0x004, 0x005, 0x006, 0x007, 0x008, 0x009, 0x00A, 0x00B, 0x00C, 0x014, 0x015, 0x01C],
      n < 0x040 ∧ n ∉ srdWide by decide
  exact fun p hp => h p.1 (List.mem_map_of_mem hp)
theorem narrowSpecials_value (c : Ctx) : ∀ p ∈ narrowSpecials c, (uniSpecial c p.1).setWidth 32 = p.2 := by
  have nat (n : Nat) : (BitVec.ofNat 64 n).setWidth 32 = BitVec.ofNat 32 n := BitVec.setWidth_ofNat_of_le (by decide) n
  have word (v : Word) : (v.setWidth 64).setWidth 32 = v := by simp
  have flags : (c.g.fflags.setWidth 64).setWidth 32 = c.g.fflags.setWidth 32 := BitVec.setWidth_setWidth_of_le _ (by decide)
  simp only [narrowSpecials, List.forall_mem_cons, List.not_mem_nil, false_implies, implies_true, and_true]
  exact ⟨nat _, nat _, word _, word _, nat _, nat _, nat _, nat _, nat _, nat _, nat _, nat _, nat _, nat _, nat _, flags⟩

/-! ### The instruction -/

section
variable {s : State} {c : Ctx} {w p : Bool} {d : BitVec 6}

theorem execSrd_narrow {n : Nat} {v : Word} (hi : Issues s c (writesU [d.toNat]) p) (hn : n < 4096) (hp : handlerOnly n = p)
    (hw : n ∉ srdWide) (hq : n = 0x01C → w = true → c.g.deferred = []) (hv : (uniSpecial c.free n).setWidth 32 = v) :
    ∃ t, execSrd ⟨w, d, BitVec.ofNat 12 n⟩ s = .next t ∧ Did c w 4 { uni := oneUni d v } t := by
  have ht : (BitVec.ofNat 12 n).toNat = n := by simpa using hn
  have hq' : ¬(BitVec.ofNat 12 n = 0x01C ∧ w = true ∧ c.g.deferred ≠ []) := fun ⟨h1, h2, h3⟩ =>
    h3 (hq (by simpa [ht] using congrArg BitVec.toNat h1) h2)
  unfold execSrd
  simp only [ht, List.contains_eq_mem, decide_eq_false hw, hp, Bool.false_eq_true, if_false]
  exact issue_did hi (e := { uni := oneUni d v }) (F := fun g => g.writeUni d.toNat v) ((if_neg hq').trans (by rw [hv]; rfl))
    (changes_uni c _ _)
theorem execSrd_wide {n : Nat} {v : DWord} (hi : Issues s c (writesU (runOf d.toNat 2)) p) (hn : n < 4096)
    (hp : handlerOnly n = p) (hw : n ∈ srdWide) (hv : uniSpecial c.free n = v) :
    ∃ t, execSrd ⟨w, d, BitVec.ofNat 12 n⟩ s = .next t ∧ Did c w 4 { uni := pairUni d v } t := by
  have ht : (BitVec.ofNat 12 n).toNat = n := by simpa using hn
  have hq : BitVec.ofNat 12 n ≠ 0x01C := fun h => by
    rw [← ht, h] at hw
    exact absurd hw (by decide)
  unfold execSrd
  simp only [ht, List.contains_eq_mem, decide_eq_true hw, hp, if_true]
  exact issue_did hi (e := { uni := pairUni d v }) (F := fun g => g.writeUniPair d.toNat v)
    ((if_neg fun h => hq h.1).trans (by rw [← hv]; rfl)) (changes_uniPair c _ _)
/-- A read of %fflags that settles waits for the results that are outstanding (R111). -/
theorem execSrd_settles (hi : Issues s c (writesU [d.toNat]) false) (hd : c.g.deferred ≠ []) :
    execSrd ⟨true, d, 0x01C⟩ s = .next (c.parked .settle s) := by
  obtain ⟨rfl, -⟩ := ctx_spec hi.ctx
  unfold execSrd
  rw [← parked_free]
  exact issue_parked (n := writesU [d.toNat]) hi (if_pos ⟨rfl, rfl, hd⟩)

end

/-! ### O13 -/

/-- Settles O13, by the width of the register. -/
theorem specialRegisterReads : Obligations.SpecialRegisterReads := by
  intro s c w d
  refine ⟨fun hi p hp hq => ?_, fun hi hw hd => hw ▸ execSrd_settles hi hd, fun hi => ?_, fun hi => ?_,
    fun f hf => ⟨fun hi => ?_, fun hi => ?_⟩⟩
  · obtain ⟨hn, hw⟩ := narrowSpecials_narrow c.free p hp
    exact execSrd_narrow hi (by omega) (by simp [handlerOnly, hn]) hw hq (narrowSpecials_value c.free p hp)
  · simp only [List.forall_mem_cons, List.not_mem_nil, false_implies, implies_true, and_true]
    refine ⟨?_, ?_⟩
    · obtain ⟨t, ht, hd⟩ := execSrd_narrow (w := w) (n := 0x00D) hi (by decide) rfl (by decide) nofun rfl
      exact ⟨_, t, ht, hd, fun i h => getLsbD_activeLow h⟩
    · obtain ⟨t, ht, hd⟩ := execSrd_narrow (w := w) (n := 0x00E) hi (by decide) rfl (by decide) nofun rfl
      exact ⟨_, t, ht, hd, fun i h => getLsbD_activeHigh h⟩
  · obtain ⟨rfl, -⟩ := ctx_spec hi.ctx
    simp only [List.forall_mem_cons, List.not_mem_nil, false_implies, implies_true, and_true]
    exact ⟨execSrd_wide hi (by decide) rfl (by decide) rfl, execSrd_wide hi (by decide) rfl (by decide) rfl,
      execSrd_wide hi (by decide) rfl (by decide) rfl⟩
  · obtain ⟨hcause, -, hinst, hinfo⟩ := uniSpecial_frame (c := c.free) hf
    simp only [List.forall_mem_cons, List.not_mem_nil, false_implies, implies_true, and_true]
    exact ⟨execSrd_narrow hi (by decide) rfl (by decide) nofun (by rw [hcause]; exact BitVec.setWidth_setWidth_of_le _ (by decide)),
      execSrd_narrow hi (by decide) rfl (by decide) nofun (BitVec.setWidth_ofNat_of_le (by decide) _),
      execSrd_narrow hi (by decide) rfl (by decide) nofun (by rw [hinst]; simp),
      execSrd_narrow hi (by decide) rfl (by decide) nofun (by rw [hinfo]; simp)⟩
  · exact execSrd_wide hi (by decide) rfl (by decide) (uniSpecial_frame (c := c.free) hf).2.1

end Sys2Proof.Machine
end

section
/-! The group's own control (R40, R145, R147, R158, R159) and EXIT (R153). -/

namespace Sys2Proof.Machine

/-! ### One group of the state -/

theorem group_team {s : State} {r : GRef} {g : Group} (h : s.group r = some g) :
    ∃ t, s.team r.team = some t ∧ t.groups[r.grp]? = some g := by
  simpa [State.group, Option.bind_eq_some_iff] using h
theorem State.team_adjGroup (s : State) (r : GRef) (f : Group → Group) (id : Nat) : (s.adjGroup r f).team id =
    if id = r.team then (s.team id).map fun t => { t with groups := adjAt f t.groups r.grp } else s.team id :=
  State.team_adjTeam s r.team id (fun t => { t with groups := adjAt f t.groups r.grp }) fun _ => rfl
theorem State.group_adjGroup (s : State) (r q : GRef) (f : Group → Group) :
    (s.adjGroup r f).group q = if q = r then (s.group q).map f else s.group q := by
  unfold State.group
  rw [State.team_adjGroup]
  by_cases ht : q.team = r.team
  · rw [if_pos ht]
    cases hs : s.team q.team with
    | none => simp
    | some t =>
      have hq : q = r ↔ r.grp = q.grp := ⟨fun h => by rw [h], fun h => by cases q; cases r; simp_all⟩
      simp [getElem?_adjAt, hq]
  · rw [if_neg ht, if_neg fun h => ht (by rw [h])]
/-- A change of a team that keeps its number and its groups. -/
theorem State.group_adjTeam (s : State) (id : Nat) (f : Team → Team) (hf : ∀ t, (f t).id = t.id ∧ (f t).groups = t.groups)
    (q : GRef) : (s.adjTeam id f).group q = s.group q := by
  unfold State.group
  rw [State.team_adjTeam s id q.team f fun t => (hf t).1]
  split
  · cases s.team q.team with
    | none => rfl
    | some t => simp [(hf t).2]
  · rfl

/-! ### Lanes changed one after another -/

theorem Group.lane_foldl_notMem (f : Nat → Lane → Lane) (I : List Nat) (g : Group) {K : Nat} (h : K ∉ I) :
    (I.foldl (fun g L => g.adjLane L (f L)) g).lane K = g.lane K := by
  induction I generalizing g with
  | nil => rfl
  | cons L I ih =>
    obtain ⟨hL, hI⟩ := not_or.1 (mt List.mem_cons.2 h)
    rw [List.foldl_cons, ih _ hI, Group.lane_adjLane, if_neg fun q : L = K ∧ _ => hL q.1.symm]
theorem Group.lane_foldl_once (f : Nat → Lane → Lane) (I : List Nat) (g : Group) {K : Nat} (hn : I.Nodup) (h : K ∈ I)
    (hK : K < g.lanes.length) : (I.foldl (fun g L => g.adjLane L (f L)) g).lane K = f K (g.lane K) := by
  induction I generalizing g with
  | nil => simp at h
  | cons L I ih =>
    obtain ⟨hL, hI⟩ := List.nodup_cons.1 hn
    rw [List.foldl_cons]
    obtain rfl | h := List.mem_cons.1 h
    · rw [Group.lane_foldl_notMem _ _ _ hL, Group.lane_adjLane, if_pos ⟨rfl, hK⟩]
    · rw [ih _ hI h (by simpa using hK), Group.lane_adjLane, if_neg fun q : L = K ∧ _ => hL (q.1 ▸ h)]

/-! ### SETTILE, YIELD, SWR, SLEEP (R147, R158, R159) -/

section
variable {s : State} {c : Ctx}

theorem execSettile_did (hi : Issues s c {} false) (x : UCode10) : ∃ t, execSettile x s = .next t ∧
    Did c x.s 4 { tile := some (if x.n = 0 then c.t.width else min (2 ^ x.n.toNat) c.t.width) } t :=
  issue_did hi (F := fun g => { g with tile := if x.n = 0 then c.t.width else min (2 ^ x.n.toNat) c.t.width }) rfl
    ((changes_none c).setTile _)
theorem execYield_did (hi : Issues s c {} false) (b : Bool) : ∃ t, execYield b s = .next t ∧
    Did c b 4 { readyAt := some (c.s.clock + 2) } t :=
  issue_did hi (F := fun g => { g with readyAt := c.s.clock + 2 }) rfl ((changes_none c).notNext _)
theorem execSwr_did {x : USwr} (hi : Issues s c (readsU [x.a.toNat]) false) : ∃ t, execSwr x s = .next t ∧
    Did c x.s 4 { flags := fun o => o &&& ~~~((c.g.readUni x.a.toNat).setWidth 5) } t :=
  issue_did hi (e := { flags := fun o => o &&& ~~~((c.g.readUni x.a.toNat).setWidth 5) })
    (F := fun g => g.clearFlags (c.g.readUni x.a.toNat)) rfl
    ((changes_none c).setFlags fun o => o &&& ~~~((c.g.readUni x.a.toNat).setWidth 5))
theorem execSleep_parks (hi : Issues s c {} false) (x : UCode10) :
    execSleep x s = .next (c.parked (.sleep (c.s.clock + 16 * x.n.toNat) x.s) c.s) := by
  rw [← parked_free]
  exact issue_parked hi rfl

end

/-! ### Waking from SLEEP (R158) -/

/-- A group past a held instruction of 4 bytes, which settles if b (R145). -/
def Group.resumed (b : Bool) (g : Group) : Group :=
  let h := g.held.foldl (fun g L => g.adjLane L fun l => { l with pc := l.pc + BitVec.ofNat 64 4 }) g
  ({ h with held := [], settling := b, needs := false } : Group).unpark

theorem Group.resumed_eq (b : Bool) (g : Group) : g.resumed b = { g with
    lanes := (g.resumed b).lanes, park := if b = true ∧ g.deferred ≠ [] then some .settle else none, held := []
    settling := b, needs := false } := by
  have h := Group.foldl_adjLane_eq (fun _ l => { l with pc := l.pc + BitVec.ofNat 64 4 }) g.held g
  unfold Group.resumed Group.unpark
  dsimp only
  rw [h]
  simp
theorem Group.lane_resumed (b : Bool) (g : Group) (L : Nat) : (g.resumed b).lane L =
    (g.held.foldl (fun g L => g.adjLane L fun l => { l with pc := l.pc + BitVec.ofNat 64 4 }) g).lane L := rfl

theorem afterLanding_idle {u : State} {r : GRef} {g : Group} (hg : u.group r = some g) (hp : g.pending = none) :
    afterLanding u r = u := by
  unfold afterLanding
  rw [hg]
  exact if_neg fun h => by simp [hp] at h
theorem State.group_resume {s : State} {r : GRef} {g : Group} (b : Bool) (hg : s.group r = some g) :
    ((s.adjTeam r.team fun t => { t with hang := 0 }).adjGroup r (Group.resumed b)).group r = some (g.resumed b) := by
  rw [State.group_adjGroup, if_pos rfl, State.group_adjTeam s r.team (fun t => { t with hang := 0 }) fun _ => ⟨rfl, rfl⟩, hg]
  rfl
theorem completeHeld_group {s : State} {r : GRef} {g : Group} {b : Bool} (hg : s.group r = some g) (hp : g.pending = none) :
    completeHeld s r 4 b = (s.adjTeam r.team fun t => { t with hang := 0 }).adjGroup r (Group.resumed b) :=
  afterLanding_idle (State.group_resume b hg) (by rw [Group.resumed_eq]; exact hp)

/-- A group that sleeps until w. -/
theorem execSleepWake_sleep {s : State} {r : GRef} {g : Group} {w : Nat} {b : Bool} (hg : s.group r = some g)
    (hk : g.park = some (.sleep w b)) : execSleepWake r s = .next (if w ≤ s.clock then completeHeld s r 4 b else s) := by
  unfold execSleepWake
  rw [hg]
  simp only [hk]
theorem State.group_resume_ne (s : State) {r q : GRef} (b : Bool) (h : q ≠ r) :
    ((s.adjTeam r.team fun t => { t with hang := 0 }).adjGroup r (Group.resumed b)).group q = s.group q := by
  rw [State.group_adjGroup, if_neg h, State.group_adjTeam s r.team (fun t => { t with hang := 0 }) fun _ => ⟨rfl, rfl⟩]

/-! ### EXIT (R153) -/

/-- A lane that has exited. -/
def Lane.leave (l : Lane) : Lane := { l with exited := true, park := none }
/-- A group of which the lanes I have exited. -/
def Group.leave (I : List Nat) (g : Group) : Group := I.foldl (fun g L => g.adjLane L Lane.leave) g

theorem Group.leave_eq (I : List Nat) (g : Group) : g.leave I = { g with lanes := (g.leave I).lanes } :=
  Group.foldl_adjLane_eq (fun _ => Lane.leave) I g
theorem Group.leave_length (I : List Nat) (g : Group) : (g.leave I).lanes.length = g.lanes.length :=
  Group.lanes_length_foldl_adjLane (fun _ => Lane.leave) I g
theorem Group.lane_leave (I : List Nat) (g : Group) (K : Nat) :
    (g.leave I).lane K = if K ∈ I ∧ K < g.lanes.length then (g.lane K).leave else g.lane K :=
  Group.lane_foldl_adjLane (fun _ => Lane.leave) (fun _ _ => rfl) I g K

/-- A lane of the group that has not exited. -/
theorem Group.not_exited {g : Group} {L : Nat} (hL : L < g.lanes.length) (h : (g.lane L).exited = false) : g.exited = false := by
  have hm : g.lane L ∈ g.lanes := by
    unfold Group.lane
    rw [List.getD_eq_getElem _ _ hL]
    exact List.getElem_mem hL
  exact List.all_eq_false.2 ⟨_, hm, by simp [h]⟩

/-- Convergence registers that are all idle hear nothing of an exit (R271). -/
theorem exitRounds_idle {u : State} {r : GRef} {t : Team} (I : List Nat) (ht : u.team r.team = some t)
    (hk : ∀ k ∈ t.kregState, k.2 = .idle) : exitRounds u r I = u := by
  have hh : (t.kregState.filter fun k => match k.2 with
      | .idle => false
      | .armed g0 => inSet t g0 r.grp
      | .opened g0 _ _ _ => inSet t g0 r.grp) = [] := List.filter_eq_nil_iff.2 fun k hm => by simp [hk k hm]
  unfold exitRounds
  simp only [ht]
  erw [hh]
  rfl
/-- Lanes exit while another goes on. -/
theorem exitLanes_some {u : State} {r : GRef} {t : Team} {g : Group} {I : List Nat} {L : Nat} (ht : u.team r.team = some t)
    (hg : u.group r = some g) (hk : ∀ k ∈ t.kregState, k.2 = .idle) (hL : L < g.lanes.length) (hI : L ∉ I)
    (hx : (g.lane L).exited = false) : exitLanes u r I = u.adjGroup r (Group.leave I) := by
  have hteam : (u.adjGroup r (Group.leave I)).team r.team = some { t with groups := adjAt (Group.leave I) t.groups r.grp } := by
    rw [State.team_adjGroup, if_pos rfl, ht]
    rfl
  have hgroup : (u.adjGroup r (Group.leave I)).group r = some (g.leave I) := by
    rw [State.group_adjGroup, if_pos rfl, hg]
    rfl
  have hlive : (g.leave I).exited = false :=
    Group.not_exited (L := L) (by rwa [Group.leave_length]) (by rwa [Group.lane_leave, if_neg fun h => hI h.1])
  show (match (exitRounds (u.adjGroup r (Group.leave I)) r I).group r with
    | none => exitRounds (u.adjGroup r (Group.leave I)) r I
    | some g => if g.exited then groupExit (exitRounds (u.adjGroup r (Group.leave I)) r I) r
        else exitRounds (u.adjGroup r (Group.leave I)) r I) = _
  rw [exitRounds_idle I hteam hk, hgroup]
  exact if_neg (by simp [hlive])

section
variable {s : State} {c : Ctx}

/-- The state after a body that changed its group by F, where the group keeps its PCs. -/
theorem onlyGroup_afterIssue (h : s.ctx = some c) (settle : Bool) (F : Group → Group) :
    OnlyGroup c.s c (afterGroup c.free settle (F c.g.free)) (afterIssue c.free settle (c.free.s.adjGroup c.r F)) := by
  obtain ⟨rfl, -, ht, hg, -⟩ := ctx_spec h
  have hcomp : afterIssue c.free settle (c.free.s.adjGroup c.r F) = c.s.adjTeam c.r.team fun t =>
      { t with hang := 0, groups := adjAt (fun g => afterGroup c.free settle (F g.free)) t.groups c.r.grp } := by
    rw [afterIssue_eq]
    have h0 : c.free.s.adjGroup c.r F = c.s.adjGroup c.r fun g => F g.free := State.adjGroup_comp c.s c.r Group.free F
    rw [h0]
    refine (State.adjTeam_comp c.s c.r.team (fun t => { t with groups := adjAt (fun g => F g.free) t.groups c.r.grp })
      (fun t => { t with hang := 0, groups := adjAt (afterGroup c.free settle) t.groups c.r.grp }) fun _ => rfl).trans ?_
    simp only [adjAt_comp]
  rw [hcomp]
  have hteam := fun id => State.team_adjTeam c.s c.r.team id (fun t =>
    { t with hang := 0, groups := adjAt (fun g => afterGroup c.free settle (F g.free)) t.groups c.r.grp }) fun _ => rfl
  refine ⟨rfl, fun id hid => (hteam id).trans (if_neg hid), (hteam c.r.team).trans ((if_pos rfl).trans ?_)⟩
  rw [ht, Option.map_some, adjAt_eq_set hg]

/-- A lane known but for its age. -/
theorem Lane.eq_of_ageless {l m : Lane} (h : { l with age := 0 } = { m with age := 0 }) : l = { m with age := l.age } := by
  cases l
  cases m
  simp only [Lane.mk.injEq] at h ⊢
  simp [h]
/-- The bookkeeping of an issue changes no more than the age of a lane. -/
theorem afterGroup_lane_eq (c : Ctx) (settle : Bool) (k : Group) (K : Nat) :
    (afterGroup c settle k).lane K = { k.lane K with age := ((afterGroup c settle k).lane K).age } :=
  Lane.eq_of_ageless (afterGroup_lane (fun l => { l with age := 0 }) (fun _ _ => rfl) c settle k K)

theorem execExit_some (hi : Issues s c {} false) (b : Bool) {L : Nat} (hL : L < c.g.lanes.length) (hI : L ∉ c.I)
    (hx : (c.g.lane L).exited = false) (hk : ∀ k ∈ c.t.kregState, k.2 = .idle) :
    execExit b s = .next (afterIssue c.free b (c.free.s.adjGroup c.r (Group.leave c.I))) := by
  obtain ⟨rfl, -, ht, hg, -⟩ := ctx_spec hi.ctx
  have htf : c.free.s.team c.r.team = some { c.t with groups := adjAt Group.free c.t.groups c.r.grp } :=
    (State.team_adjGroup _ _ _ _).trans ((if_pos rfl).trans (by rw [ht]; rfl))
  have hgf : c.free.s.group c.r = some c.g.free :=
    (State.group_adjGroup _ _ _ _).trans ((if_pos rfl).trans (by rw [group_eq ht hg]; rfl))
  unfold execExit
  rw [issue_eq hi]
  show Host.Outcome.next (afterIssue c.free b (exitLanes c.free.s c.r c.I)) = _
  rw [exitLanes_some htf hgf hk hL hI hx]

end

/-! ### O12 -/

/-- Settles O12: the instructions one by one, the wake, and EXIT with a lane that goes on. -/
theorem groupControlAndExit : Obligations.GroupControlAndExit := by
  refine ⟨⟨fun s c hi => ?_, fun s r g w b hg hk hp => ?_⟩, fun s c b hi ⟨L, hL, hI, hx⟩ hk => ?_⟩
  · obtain ⟨rfl, -⟩ := ctx_spec hi.ctx
    exact ⟨execSettile_did hi, execYield_did hi, fun _ => execSwr_did, execSleep_parks hi⟩
  · have he := execSleepWake_sleep hg hk
    refine ⟨fun h => he.trans (by rw [if_neg (by omega)]), fun h => ⟨_, g.resumed b, he.trans (by rw [if_pos h]), ?_⟩⟩
    rw [completeHeld_group hg hp]
    refine ⟨rfl, fun q => State.group_resume_ne s b, State.group_resume b hg, fun L hL => ?_, fun hn L hL hlt => ?_,
      Group.resumed_eq b g⟩
    · rw [Group.lane_resumed, Group.lane_foldl_notMem _ _ _ hL]
    · rw [Group.lane_resumed, Group.lane_foldl_once _ _ _ hn hL hlt]
      rfl
  · refine ⟨_, _, execExit_some hi b hL hI hx hk, onlyGroup_afterIssue hi.ctx b _, ?_, fun K hK => ?_, fun K hK => ?_, ?_⟩
    · rw [afterGroup_length, Group.leave_length]
      rfl
    · rw [afterGroup_lane_eq, Group.lane_leave, if_pos ⟨hK, hi.lt K hK⟩]
      rfl
    · rw [afterGroup_lane_eq, Group.lane_leave, if_neg fun h => hK h.1]
      rfl
    · have h := afterGroup_spec c.free b (c.g.free.leave c.I)
      generalize afterGroup c.free b (c.g.free.leave c.I) = k at h ⊢
      rw [h, Group.leave_eq]
      rfl

end Sys2Proof.Machine
end

section
/-! Accesses that trap (R27, R149, R166, R183, R190, R191, R445): the lowest lane that fails a check, and how. -/

namespace Sys2Proof.Machine

/-! ### The first that fails -/

theorem firstFault_append {α : Type} {f : Nat → Option α} {J : List Nat} (K : List Nat) {L : Nat} {e : α}
    (hJ : ∀ M ∈ J, f M = none) (hL : f L = some e) : firstFault (J ++ L :: K) f = some (L, e) := by
  induction J with
  | nil => simp [firstFault, hL]
  | cons M J ih =>
    obtain ⟨hM, hJ⟩ := List.forall_mem_cons.1 hJ
    rw [List.cons_append, firstFault, hM]
    exact ih hJ
theorem firstAcc_append {f : Acc → Option (Cause × Nat)} {J : List Acc} (K : List Acc) {a : Acc} {k : Cause} {code : Nat}
    (hJ : ∀ b ∈ J, f b = none) (ha : f a = some (k, code)) : firstAcc f (J ++ a :: K) = some (a, k, code) := by
  induction J with
  | nil => simp [firstAcc, ha]
  | cons b J ih =>
    obtain ⟨hb, hJ⟩ := List.forall_mem_cons.1 hJ
    rw [List.cons_append, firstAcc, hb]
    exact ih hJ
theorem find?_append_cons {α : Type} {p : α → Bool} {J : List α} (K : List α) {x : α} (hJ : ∀ y ∈ J, p y = false)
    (hx : p x = true) : (J ++ x :: K).find? p = some x := by
  have hn : J.find? p = none := List.find?_eq_none.2 fun y hy => by simp [hJ y hy]
  rw [List.find?_append, hn, List.find?_cons_of_pos hx]
  rfl

/-! ### The checks of one lane -/

theorem teamFault_none {w n o : Nat} (hn : o % n = 0) (hw : o + n ≤ w) : teamFault w n o = none := by
  rw [teamFault, if_neg (not_not_intro hn), if_neg (by omega)]
theorem teamFault_misaligned {w n o : Nat} (hn : o % n ≠ 0) : teamFault w n o = some (cMisalign, 7) := if_pos hn
theorem teamFault_bounds {w n o : Nat} (hn : o % n = 0) (hw : w < o + n) : teamFault w n o = some (cTeamBounds, 1) := by
  rw [teamFault, if_neg (not_not_intro hn), if_pos hw]
theorem accFault_of_trap {s : State} {pasid : Nat} {a : Acc} {k : Cause} {code : Nat}
    (h : a.va % a.n ≠ 0 ∧ k = cMisalign ∧ code = 7 ∨ a.va % a.n = 0 ∧ translate s pasid a.va a.use = .trap k code) :
    accFault s pasid a = some (k, code) := by
  obtain ⟨ha, rfl, rfl⟩ | ⟨ha, ht⟩ := h
  · exact if_pos ha
  · rw [accFault, if_neg (not_not_intro ha), ht]

section
variable {s : State} {c : Ctx}

/-! ### Transfers (R149, R150) -/

theorem laneBranch_diverges {x : LBranch} (hi : Issues s c (readsV [x.c.toNat]) false) (hu : x.u = true)
    (hz : ∃ L ∈ c.I, c.g.readLane L x.c.toNat = 0) (hn : ∃ L ∈ c.I, c.g.readLane L x.c.toNat ≠ 0) (nz : Bool) :
    laneBranch x s nz = .next (c.trapped cDiverge 0 0) := by
  obtain ⟨L, hL, h0⟩ := hz
  obtain ⟨M, hM, h1⟩ := hn
  have hd : (c.I.filter fun L => (c.g.readLane L x.c.toNat != 0) == nz) ≠ [] ∧
      (c.I.filter fun L => (c.g.readLane L x.c.toNat != 0) == nz) ≠ c.I := by
    rw [Ne, Ne, List.filter_eq_nil_iff, List.filter_eq_self]
    cases nz
    · exact ⟨fun h => h L hL (by simp [h0]), fun h => absurd (h M hM) (by simpa using h1)⟩
    · exact ⟨fun h => h M hM (by simpa using h1), fun h => absurd (h L hL) (by simp [h0])⟩
  exact issue_trapped hi (if_pos ⟨hu, hd⟩)
/-- A transfer whose target is misaligned in a lane, and in none before it. -/
theorem transfer_misaligned {n : Names} (hi : Issues s c n false) {len : Nat} {settle : Bool} {body : Ctx → Res} {pc : Nat → DWord}
    (hb : body c.free = transfer c.free true pc c.free.s) {J K : List Nat} {L : Nat} (hI : c.I = J ++ L :: K)
    (hJ : ∀ M ∈ J, (pc M).toNat % 4 = 0) (hL : (pc L).toNat % 4 ≠ 0) :
    issue s n len settle false body = .next (c.trapped cMisalign (pc L) (infoGlobal 7 L 7)) := by
  have hf : c.free.I.find? (fun M => decide ((pc M).extractLsb' 0 2 ≠ 0)) = some L := by
    show c.I.find? _ = _
    rw [hI]
    exact find?_append_cons K (fun M hM => by simp [low2_eq.2 (hJ M hM)]) (by simpa [← low2_eq] using hL)
  refine issue_trapped hi (hb.trans ?_)
  unfold transfer
  rw [hf]
  rfl
theorem laneJump_misaligned {x : LJump} (hi : Issues s c (readsV (runOf x.a.toNat 2)) false) {J K : List Nat} {L : Nat}
    (hI : c.I = J ++ L :: K) (hJ : ∀ M ∈ J, (c.g.lanePair M x.a.toNat).toNat % 4 = 0)
    (hL : (c.g.lanePair L x.a.toNat).toNat % 4 ≠ 0) :
    laneJump x s = .next (c.trapped cMisalign (c.g.lanePair L x.a.toNat) (infoGlobal 7 L 7)) :=
  transfer_misaligned hi (pc := fun L => c.g.lanePair L x.a.toNat) rfl hI hJ hL

/-! ### Team memory (R166) -/

theorem teamAddr_toNat (g : Group) (L : Nat) (sb : BitVec 6) (a : BitVec 7) :
    (g.teamAddr L sb a).toNat = ((g.readUni sb.toNat).toNat + (g.readLane L a.toNat).toNat) % 2 ^ 32 := BitVec.toNat_add _ _
theorem teamTrap_append {J K : List Nat} {L n code : Nat} {off : Nat → Nat} {k : Cause} (hI : c.I = J ++ L :: K)
    (hJ : ∀ M ∈ J, off M % n = 0 ∧ off M + n ≤ c.t.window) (hL : teamFault c.t.window n (off L) = some (k, code)) (reads : Bool) :
    teamTrap c n off reads = some (c.mkTrap k (BitVec.ofNat 64 (off L)) (infoTeam L code)) := by
  have hf : firstFault c.I (fun L => teamFault c.t.window n (off L)) = some (L, k, code) := by
    rw [hI]
    exact firstFault_append K (fun M hM => teamFault_none (hJ M hM).1 (hJ M hM).2) hL
  unfold teamTrap
  rw [hf]

/-- What an access of n bytes at `off` answers where L is the first lane that fails: it traps there, for either check. -/
def TeamTraps (c : Ctx) (n L : Nat) (off : Nat → Nat) (o : Out) : Prop :=
  (off L % n ≠ 0 → o = .next (c.trapped cMisalign (BitVec.ofNat 64 (off L)) (infoTeam L 7))) ∧
  (off L % n = 0 → c.t.window < off L + n →
    o = .next (c.trapped cTeamBounds (BitVec.ofNat 64 (off L)) (infoTeam L 1)))

/-- An access to team memory whose body traps where `teamTrap` says so. -/
theorem issue_teamTraps {m : Names} (hi : Issues s c m false) {J K : List Nat} {L n : Nat} {off : Nat → Nat} {reads : Bool}
    {len : Nat} {settle : Bool} {body : Ctx → Res} (hb : ∀ r, teamTrap c.free n off reads = some r → body c.free = .trap r)
    (hI : c.I = J ++ L :: K) (hJ : ∀ M ∈ J, off M % n = 0 ∧ off M + n ≤ c.t.window) :
    TeamTraps c n L off (issue s m len settle false body) :=
  ⟨fun h => issue_trapped hi (hb _ (teamTrap_append (c := c.free) hI hJ (teamFault_misaligned h) reads)),
    fun h hw => issue_trapped hi (hb _ (teamTrap_append (c := c.free) hI hJ (teamFault_bounds h hw) reads))⟩

section
variable {J K : List Nat} {L : Nat} (hI : c.I = J ++ L :: K)
include hI

theorem execLdt_traps {x : LLoad} (hi : Issues s c
      (Names.add (writesV (runOf x.d.toNat x.w.regs)) (Names.add (readsV [x.a.toNat]) (readsU [x.sb.toNat]))) false)
    (hJ : ∀ M ∈ J, (c.g.teamAddr M x.sb x.a).toNat % x.w.bytes = 0 ∧
      (c.g.teamAddr M x.sb x.a).toNat + x.w.bytes ≤ c.t.window) :
    TeamTraps c x.w.bytes L (fun L => (c.g.teamAddr L x.sb x.a).toNat) (execLdt x s) := by
  refine issue_teamTraps hi (reads := true) (fun r hr => ?_) hI hJ
  dsimp only
  erw [hr]
theorem execStt_traps {x : LStore}
    (hi : Issues s c (Names.add (readsV (x.a.toNat :: runOf x.d.toNat x.w.regs)) (readsU [x.sb.toNat])) false)
    (hJ : ∀ M ∈ J, (c.g.teamAddr M x.sb x.a).toNat % x.w.bytes = 0 ∧
      (c.g.teamAddr M x.sb x.a).toNat + x.w.bytes ≤ c.t.window) :
    TeamTraps c x.w.bytes L (fun L => (c.g.teamAddr L x.sb x.a).toNat) (execStt x s) := by
  refine issue_teamTraps hi (reads := false) (fun r hr => ?_) hI hJ
  dsimp only
  erw [hr]

end

/-! ### Global memory (R183, R190, R191) -/

theorem withAccess_trapped {c : Ctx} {fault : Acc → Option (Cause × Nat)} {accs : List Acc} {a : Acc} {k : Cause} {code : Nat}
    (h : firstAcc fault accs = some (a, k, code)) (s0 : State) (kind : Nat) (f : List Placed → Res) :
    withAccess s0 c kind fault accs f = .trap (c.mkTrap k (BitVec.ofNat 64 a.va) (infoGlobal kind a.lane code)) := by
  unfold withAccess
  rw [h]
theorem withStore_trapped {c : Ctx} {fault : Acc → Option (Cause × Nat)} {accs : List Acc} {a : Acc} {k : Cause} {code : Nat}
    (h : firstAcc fault accs = some (a, k, code)) (kind : Nat) (f : Unit → Res) :
    withStore c kind fault accs f = .trap (c.mkTrap k (BitVec.ofNat 64 a.va) (infoGlobal kind a.lane code)) := by
  unfold withStore
  rw [h]

section
variable {a : Acc} {k : Cause} {code : Nat}

/-- The accesses of an instruction, of which a is the first that fails a check of R190. -/
def FirstFails (c : Ctx) (accs : List Acc) (a : Acc) (k : Cause) (code : Nat) : Prop :=
  firstAcc (accFault c.free.s c.t.pasid) accs = some (a, k, code)

theorem execLd_traps {x : LLoad} (hi : Issues s c (memNames true x.d x.w x.sb x.a) false)
    (h : FirstFails c (laneAccs c x.sb x.a x.w.bytes (.read x.w.bytes)) a k code) :
    execLd x s = .next (c.trapped k (BitVec.ofNat 64 a.va) (infoGlobal 0 a.lane code)) :=
  issue_trapped hi (withAccess_trapped h ..)
theorem execSt_traps {x : LStore} (hi : Issues s c (memNames false x.d x.w x.sb x.a) false)
    (h : FirstFails c (laneAccs c x.sb x.a x.w.bytes (.write x.w.bytes)) a k code) :
    execSt x s = .next (c.trapped k (BitVec.ofNat 64 a.va) (infoGlobal 1 a.lane code)) :=
  issue_trapped hi (withStore_trapped h ..)
theorem execAtom_traps {x : GAtomic} (hi : Issues s c (Names.add (if x.ret then writesV (atomRegs x.wide x.d) else {}) (Names.add
      (readsV (atomRegs x.wide x.b)) (Names.add (if x.op = .cas then readsV (atomRegs x.wide x.c) else {}) (addrNames x.sb x.a)))) false)
    (h : FirstFails c (laneAccs c x.sb x.a (if x.wide then 8 else 4) (.atomic x.op x.wide x.scope.toNat)) a k code) :
    execAtom x s = .next (c.trapped k (BitVec.ofNat 64 a.va) (infoGlobal 2 a.lane code)) :=
  issue_trapped hi (withAccess_trapped h s 2 _)

end
end

/-! ### O9 -/

/-- Settles O9: the lane transfers, the team-memory accesses and the global accesses. -/
theorem accessTraps : Obligations.AccessTraps := by
  refine ⟨fun s c => ⟨fun x hi hu hz hn i hm => ?_, fun x hi J K L hI hJ hL i hm => ?_⟩,
    fun s c J K L hI sb a => ?_, fun s c J K a k code hJ ha => ?_⟩
  · obtain rfl | rfl : i = .bnz x ∨ i = .bz x := by simpa using hm
    · exact laneBranch_diverges hi hu hz hn true
    · exact laneBranch_diverges hi hu hz hn false
  · obtain rfl | rfl : i = .jmpl x ∨ i = .retl x := by simpa using hm
    · exact laneJump_misaligned hi hI hJ hL
    · exact laneJump_misaligned hi hI hJ hL
  · intro off n hJ
    have ho : off = fun L => (c.g.teamAddr L sb a).toNat := funext fun L => (teamAddr_toNat c.g L sb a).symm
    clear_value off
    subst ho
    refine ⟨?_, ?_⟩
    · rintro x rfl rfl rfl hi
      exact execLdt_traps hI hi hJ
    · rintro x rfl rfl rfl hi
      exact execStt_traps hI hi hJ
  · have hf : ∀ l, l = J ++ a :: K → FirstFails c l a k code := by
      rintro l rfl
      exact firstAcc_append K (fun b hb => accFault_eq_none (hJ b hb).1 (hJ b hb).2) (accFault_of_trap ha)
    exact ⟨fun x hi hl => execLd_traps hi (hf _ hl), fun x hi hl => execSt_traps hi (hf _ hl),
      fun x hi hl => execAtom_traps hi (hf _ hl)⟩

end Sys2Proof.Machine
end

section
/-! Results that land (R143): what a group holds once the values of a result are written. -/

namespace Sys2Proof.Machine

theorem dropAt_eq_eraseIdx {α : Type} (l : List α) (i : Nat) : dropAt l i = l.eraseIdx i := by
  induction l generalizing i with
  | nil => rfl
  | cons x l ih =>
    cases i with
    | zero => rfl
    | succ i => rw [dropAt, ih, List.eraseIdx_cons_succ]

/-! ### The values of a result -/

/-- Lane registers written one after another. -/
def Group.putLanes (l : List (Nat × Nat × Word)) (g : Group) : Group := l.foldl (fun g x => g.writeLane x.1 x.2.1 x.2.2) g
/-- Uniform registers written one after another. -/
def Group.putUnis (l : List (Nat × Word)) (g : Group) : Group := l.foldl (fun g x => g.writeUni x.1 x.2) g

theorem Group.land_eq (g : Group) (d : Deferred) : g.land d = ((g.putLanes d.lanes).putUnis d.unis).raise d.flags := rfl

theorem Group.putLanes_eq (l : List (Nat × Nat × Word)) (g : Group) :
    g.putLanes l = { g with lanes := (g.putLanes l).lanes, badV := (g.putLanes l).badV } := by
  induction l generalizing g with
  | nil => rfl
  | cons e l ih => exact ih (g.writeLane e.1 e.2.1 e.2.2)
theorem Group.putUnis_eq (l : List (Nat × Word)) (g : Group) :
    g.putUnis l = { g with uregs := (g.putUnis l).uregs, badU := (g.putUnis l).badU } := by
  induction l generalizing g with
  | nil => rfl
  | cons e l ih =>
    have hl := ih (g.writeUni e.1 e.2)
    have he := Group.writeUni_eq g e.1 e.2
    show Group.putUnis l (g.writeUni e.1 e.2) = { g with
      uregs := (Group.putUnis l (g.writeUni e.1 e.2)).uregs, badU := (Group.putUnis l (g.writeUni e.1 e.2)).badU }
    generalize g.writeUni e.1 e.2 = k at hl he ⊢
    generalize Group.putUnis l k = m at hl ⊢
    rw [hl, he]
theorem Group.putLanes_length (l : List (Nat × Nat × Word)) (g : Group) : (g.putLanes l).lanes.length = g.lanes.length := by
  induction l generalizing g with
  | nil => rfl
  | cons e l ih => exact (ih (g.writeLane e.1 e.2.1 e.2.2)).trans (length_adjAt _ _ _)

theorem Group.readLane_putLanes_other {l : List (Nat × Nat × Word)} {L v : Nat} (g : Group)
    (h : ∀ e ∈ l, e.1 ≠ L ∨ e.2.1 ≠ v) : (g.putLanes l).readLane L v = g.readLane L v := by
  induction l generalizing g with
  | nil => rfl
  | cons e l ih =>
    obtain ⟨he, hl⟩ := List.forall_mem_cons.1 h
    refine (ih (g.writeLane e.1 e.2.1 e.2.2) hl).trans ?_
    rw [Group.readLane_writeLane, if_neg]
    rintro ⟨h1, h2, -⟩
    exact he.elim (absurd h1) (absurd h2.symm)
theorem Group.readLane_putLanes_mem {l : List (Nat × Nat × Word)} {e : Nat × Nat × Word} (g : Group)
    (hn : (l.map fun e => (e.1, e.2.1)).Nodup) (he : e ∈ l) (hL : e.1 < g.lanes.length) :
    (g.putLanes l).readLane e.1 e.2.1 = e.2.2 := by
  induction l generalizing g with
  | nil => simp at he
  | cons x l ih =>
    obtain ⟨hx, hn⟩ := List.nodup_cons.1 hn
    obtain rfl | he := List.mem_cons.1 he
    · refine (Group.readLane_putLanes_other (g.writeLane e.1 e.2.1 e.2.2) fun y hy => ?_).trans ?_
      · have hne : (y.1, y.2.1) ≠ (e.1, e.2.1) := fun h => hx (List.mem_map.2 ⟨y, hy, h⟩)
        exact not_and_or.1 fun h => hne (Prod.ext h.1 h.2)
      · rw [Group.readLane_writeLane, if_pos ⟨rfl, rfl, hL⟩]
    · exact ih (g.writeLane x.1 x.2.1 x.2.2) hn he ((length_adjAt _ _ _).symm ▸ hL)

theorem Group.readUni_putUnis_other {l : List (Nat × Word)} {u : Nat} (g : Group) (h : ∀ e ∈ l, e.1 ≠ u) :
    (g.putUnis l).readUni u = g.readUni u := by
  induction l generalizing g with
  | nil => rfl
  | cons e l ih =>
    obtain ⟨he, hl⟩ := List.forall_mem_cons.1 h
    refine (ih (g.writeUni e.1 e.2) hl).trans ?_
    rw [Group.readUni_writeUni, if_neg fun h => he h.1.symm]
theorem Group.readUni_putUnis_mem {l : List (Nat × Word)} {e : Nat × Word} (g : Group) (hn : (l.map fun e => e.1).Nodup)
    (he : e ∈ l) : (g.putUnis l).readUni e.1 = if e.1 = 0 then 0 else e.2 := by
  induction l generalizing g with
  | nil => simp at he
  | cons x l ih =>
    obtain ⟨hx, hn⟩ := List.nodup_cons.1 hn
    obtain rfl | he := List.mem_cons.1 he
    · refine (Group.readUni_putUnis_other (g.writeUni e.1 e.2) fun y hy h => hx (List.mem_map.2 ⟨y, hy, h⟩)).trans ?_
      rw [Group.readUni_writeUni]
      by_cases h0 : e.1 = 0
      · rw [if_pos h0, if_neg fun h => h.2 h0]
        exact (congrArg g.readUni h0).trans (Group.readUni_zero g)
      · rw [if_neg h0, if_pos ⟨rfl, h0⟩]
    · exact ih (g.writeUni x.1 x.2) hn he

theorem Group.endSettle_eq (g : Group) : g.endSettle = { g with park := g.endSettle.park } := by
  unfold Group.endSettle
  split <;> rfl

/-! ### The landing -/

/-- A group after its result i has landed (R143, R145). -/
def Group.landed (d : Deferred) (i : Nat) (g : Group) : Group :=
  ({ g.land d with deferred := g.deferred.eraseIdx i } : Group).endSettle

theorem Group.land_rest (d : Deferred) (g : Group) : g.land d = { g with
    lanes := (g.putLanes d.lanes).lanes, badV := (g.putLanes d.lanes).badV, fflags := g.fflags ||| d.flags
    uregs := (g.land d).uregs, badU := (g.land d).badU } := by
  have h1 := Group.putLanes_eq d.lanes g
  have h2 := Group.putUnis_eq d.unis (g.putLanes d.lanes)
  rw [Group.land_eq]
  generalize g.putLanes d.lanes = k at h1 h2 ⊢
  generalize k.putUnis d.unis = m at h2 ⊢
  rw [h2, h1]
  rfl
theorem Group.landed_rest (d : Deferred) (i : Nat) (g : Group) : g.landed d i = { g.land d with
    deferred := g.deferred.eraseIdx i, park := (g.landed d i).park } := Group.endSettle_eq _
theorem Group.landed_eq (d : Deferred) (i : Nat) (g : Group) : g.landed d i = { g with
    lanes := (g.putLanes d.lanes).lanes, badV := (g.putLanes d.lanes).badV, fflags := g.fflags ||| d.flags
    uregs := (g.land d).uregs, badU := (g.land d).badU, deferred := g.deferred.eraseIdx i, park := (g.landed d i).park } := by
  have h1 := Group.land_rest d g
  have h2 := Group.landed_rest d i g
  generalize g.land d = k at h1 h2 ⊢
  generalize g.landed d i = m at h2 ⊢
  rw [h2, h1]

/-- What the group holds after the landing (R143). -/
theorem landed_spec (d : Deferred) (i : Nat) (g : Group) :
    (g.landed d i).deferred = g.deferred.eraseIdx i ∧ (g.landed d i).fflags = g.fflags ||| d.flags ∧
    (∀ L v, (∀ e ∈ d.lanes, e.1 ≠ L ∨ e.2.1 ≠ v) → (g.landed d i).readLane L v = g.readLane L v) ∧
    (∀ u, (∀ e ∈ d.unis, e.1 ≠ u) → (g.landed d i).readUni u = g.readUni u) ∧
    ((d.lanes.map fun e => (e.1, e.2.1)).Nodup → ∀ e ∈ d.lanes, e.1 < g.lanes.length →
      (g.landed d i).readLane e.1 e.2.1 = e.2.2) ∧
    ((d.unis.map fun e => e.1).Nodup → ∀ e ∈ d.unis, (g.landed d i).readUni e.1 = if e.1 = 0 then 0 else e.2) := by
  have hl : ∀ L v, (g.landed d i).readLane L v = (g.putLanes d.lanes).readLane L v := fun L v => by
    rw [Group.landed_eq]
    rfl
  have hu : ∀ u, (g.landed d i).readUni u = ((g.putLanes d.lanes).putUnis d.unis).readUni u := fun u => by
    rw [Group.landed_eq]
    rfl
  have hk : ∀ u, (g.putLanes d.lanes).readUni u = g.readUni u := fun u => by
    rw [Group.putLanes_eq]
    rfl
  refine ⟨by rw [Group.landed_eq], by rw [Group.landed_eq], fun L v h => ?_, fun u h => ?_, fun hn e he hL => ?_,
    fun hn e he => ?_⟩
  · rw [hl, Group.readLane_putLanes_other g h]
  · rw [hu, Group.readUni_putUnis_other _ h, hk]
  · rw [hl, Group.readLane_putLanes_mem g hn he hL]
  · rw [hu, Group.readUni_putUnis_mem _ hn he]

section
variable {s : State} {x : GIdx} {g : Group} {d : Deferred} (hg : s.group x.g = some g)
include hg

theorem State.group_landed : (s.adjGroup x.g (Group.landed d x.i)).group x.g = some (g.landed d x.i) := by
  rw [State.group_adjGroup, if_pos rfl, hg]
  rfl

variable (hd : g.deferred[x.i]? = some d)
include hd

theorem execDeferredResultLand_waits (hw : d.wait ≠ 0) : execDeferredResultLand x s = .next s := by
  unfold execDeferredResultLand
  simp only [hg, hd]
  exact if_neg hw
theorem execDeferredResultLand_lands (hw : d.wait = 0) (hp : g.pending = none) :
    execDeferredResultLand x s = .next (s.adjGroup x.g (Group.landed d x.i)) := by
  have hl : afterLanding (s.adjGroup x.g (Group.landed d x.i)) x.g = s.adjGroup x.g (Group.landed d x.i) :=
    afterLanding_idle (State.group_landed hg) (by rw [Group.landed_eq]; exact hp)
  unfold execDeferredResultLand
  simp only [hg, hd, dropAt_eq_eraseIdx]
  exact (if_pos hw).trans (congrArg Host.Outcome.next hl)

end

end Sys2Proof.Machine
end

section
/-! Events of groups and teams (R27, R30, R86, R113, R188, R365, R369, R370, R445). -/

namespace Sys2Proof.Machine

/-! ### A fetch that cannot go through (R27, R30, R445) -/

section
variable {s : State} {c : Ctx} (hi : Issues s c {} false) (tail : Bool)
include hi

/-- The address of the word that cannot be fetched. -/
def fetchAddr (c : Ctx) (tail : Bool) : DWord := if tail then c.pc + 4 else c.pc

omit hi in
theorem place_free (c : Ctx) (va : Nat) : place c.free.s c.t.pasid va .fetch = place c.s c.t.pasid va .fetch := rfl

theorem fetchFault_misaligned (hp : c.pc.toNat % 4 ≠ 0) :
    execInstructionFetchFault tail s = .next (c.trapped cMisalign c.pc (infoGlobal 7 (c.I.headD 0) 7)) :=
  issue_trapped hi (if_pos (mt low2_eq.1 hp))
theorem fetchFault_refused (hp : c.pc.toNat % 4 = 0) {cause : Cause} {code : Nat}
    (h : place s c.t.pasid (fetchAddr c tail).toNat .fetch = .trap cause code) :
    execInstructionFetchFault tail s = .next (c.trapped cause c.pc (infoGlobal 0 0 code)) := by
  obtain ⟨rfl, -⟩ := ctx_spec hi.ctx
  refine issue_trapped hi ((if_neg (not_not_intro (low2_eq.2 hp))).trans ?_)
  have hf : place c.free.s c.t.pasid (fetchAddr c tail).toNat .fetch = .trap cause code := (place_free ..).trans h
  show (match place c.free.s c.t.pasid (fetchAddr c tail).toNat .fetch with
    | .trap cause code => Res.trap (c.free.mkTrap cause c.pc (infoGlobal 0 0 code))
    | .miss need remote chain => _
    | .at pa _ => _
    | .window _ _ => _) = _
  rw [hf]
theorem fetchFault_missed (hp : c.pc.toNat % 4 = 0) {need : BitVec 6} {remote chain : Bool}
    (h : place s c.t.pasid (fetchAddr c tail).toNat .fetch = .miss need remote chain) :
    execInstructionFetchFault tail s = .next (c.parked
      (parkOnFault c.free.s c.r c.t.core c.t.pasid ((fetchAddr c tail).toNat / 65536) c.pc.toNat need remote chain (infoGlobal 0 0 15)).1
      (parkOnFault c.free.s c.r c.t.core c.t.pasid ((fetchAddr c tail).toNat / 65536) c.pc.toNat need remote chain (infoGlobal 0 0 15)).2) := by
  obtain ⟨rfl, -⟩ := ctx_spec hi.ctx
  refine issue_parked hi ((if_neg (not_not_intro (low2_eq.2 hp))).trans ?_)
  have hf : place c.free.s c.t.pasid (fetchAddr c tail).toNat .fetch = .miss need remote chain := (place_free ..).trans h
  show (match place c.free.s c.t.pasid (fetchAddr c tail).toNat .fetch with
    | .trap _ _ => _
    | .miss need remote chain => Res.park _ (parkOnFault c.free.s c.r c.t.core c.t.pasid ((fetchAddr c tail).toNat / 65536)
        c.pc.toNat need remote chain (infoGlobal 0 0 15)).2
    | .at pa _ => _
    | .window _ _ => _) = _
  rw [hf]
  rfl

end

/-! ### A pack that enters the special-function pipe (R113) -/

theorem packLanes_uniform {s : State} {l : List GRef} {t : Team} (h : ∀ r ∈ l, s.team r.team = some t) :
    packLanes s l = t.width * l.length := by
  have hm : (l.map fun r => match s.team r.team with | some t => t.width | none => 0) = l.map fun _ => t.width :=
    List.map_congr_left fun r hr => by rw [h r hr]
  unfold packLanes
  refine (congrArg List.sum hm).trans ?_
  rw [List.map_const', List.sum_replicate, smul_eq_mul, Nat.mul_comm]

section
variable {s : State} {core pipe : Nat} {l : List GRef} {rest : Sparse (List GRef)}
  (hl : (s.core core).sfuHeld = (pipe, l) :: rest)
include hl

theorem execSfuEnter_enters {t : Team} (ht : ∀ r ∈ l, s.team r.team = some t) (h : (s.core core).sfuUntil ≤ s.clock) :
    execSfuEnter core s
      = .next (s.adjCore core fun k => { k with sfuHeld := rest, sfuUntil := s.clock + (t.width * l.length + 15) / 16 }) := by
  unfold execSfuEnter
  rw [hl]
  refine (if_pos h).trans ?_
  rw [sfuCycles, packLanes_uniform ht]
theorem execSfuEnter_waits (h : s.clock < (s.core core).sfuUntil) : execSfuEnter core s = .next s := by
  unfold execSfuEnter
  rw [hl]
  exact if_neg (by omega)

end

/-! ### Registers that are released (R86) -/

theorem allReleased_iff (t : Team) (n : Nat) : (t.groups.zipIdx.all fun gi => gi.1.released || gi.2 == n) = true ↔
    ∀ i h, t.groups[i]? = some h → i ≠ n → h.released = true := by
  simp only [List.all_eq_true, Prod.forall, List.mem_zipIdx_iff_getElem?, Bool.or_eq_true, beq_iff_eq]
  exact ⟨fun h i g hg hi => (h g i hg).resolve_right hi, fun h g i hg => or_iff_not_imp_right.2 (h i g hg)⟩

section
variable {s : State} {r : GRef} {t : Team} {g : Group} (ht : s.team r.team = some t) (hg : t.groups[r.grp]? = some g)
  (hx : g.exited = true) (hd : g.deferred = [])
include ht hg hx hd

/-- Of an ended team this group was the last to hold registers, and nothing of it is left to happen. -/
def LastRelease (u : State) (t : Team) (n : Nat) : Prop :=
  t.place = .ended ∧ teamQuiet u t = true ∧ ∀ i h, t.groups[i]? = some h → i ≠ n → h.released = true

theorem execRegisterUnitRelease_eq : execRegisterUnitRelease r s = .next
    (if (t.groups.zipIdx.all fun gi => gi.1.released || gi.2 == r.grp) && t.place == .ended
        && teamQuiet (s.adjGroup r Group.release) t
      then removeTeam (s.adjGroup r Group.release) { t with res := 0 } else s.adjGroup r Group.release) := by
  unfold execRegisterUnitRelease
  rw [ht, group_eq ht hg]
  exact if_pos (And.intro hx hd : g.exited = true ∧ g.deferred = [])
theorem execRegisterUnitRelease_last (h : LastRelease (s.adjGroup r Group.release) t r.grp) :
    execRegisterUnitRelease r s = .next (removeTeam (s.adjGroup r Group.release) { t with res := 0 }) := by
  obtain ⟨hp, hq, ha⟩ := h
  rw [execRegisterUnitRelease_eq ht hg hx hd, (allReleased_iff t r.grp).2 ha, hp, hq]
  rfl
theorem execRegisterUnitRelease_notLast (h : ¬LastRelease (s.adjGroup r Group.release) t r.grp) :
    execRegisterUnitRelease r s = .next (s.adjGroup r Group.release) := by
  rw [execRegisterUnitRelease_eq ht hg hx hd, if_neg]
  simp only [Bool.and_eq_true, beq_iff_eq]
  rintro ⟨⟨ha, hp⟩, hq⟩
  exact h ⟨hp, hq, (allReleased_iff t r.grp).1 ha⟩

end

/-! ### Refusals and HANG (R188, R365) -/

theorem execGrainRefusal_takes {s : State} {r : GRef} {g : Group} {t : TrapRec} (hg : s.group r = some g) (hr : g.refused = some t)
    (hp : g.pending = none) :
    execGrainRefusal r s = .next (takeImprecise (s.adjGroup r fun g => { g with refused := none }) r t) := by
  unfold execGrainRefusal
  simp only [hg, hr]
  exact if_neg (by simp [hp])

section
variable {s : State} {team : Nat} {t : Team} (ht : s.team team = some t)
include ht

theorem execHangExpiry_idle (h : t.hang < 2 ^ 26 ∨ t.place ≠ .running) : execHangExpiry team s = .next s := by
  unfold execHangExpiry
  rw [ht]
  exact if_pos h

/-- The groups of a team that have not exited. -/
def Team.liveGroups (t : Team) : List Nat := (t.groups.zipIdx.filter fun gi => !gi.1.exited).map (·.2)
/-- The state after the groups of a hung team have stopped. -/
def stopHung (s : State) (team : Nat) (live : List Nat) : State :=
  live.foldl (fun s i => if (s.group ⟨team, i⟩).any (fun g => g.inHandler) then s else stopGroup s ⟨team, i⟩ .hang)
    (s.adjTeam team fun t => { t with hang := 0 })

theorem execHangExpiry_hung (hh : 2 ^ 26 ≤ t.hang) (hp : t.place = .running) {i : Nat} {l : List Nat} (hl : t.liveGroups = i :: l) :
    execHangExpiry team s = .next (takeImprecise
      ((stopHung s team t.liveGroups).adjGroup ⟨team, i⟩ fun g => { g with stop := none }) ⟨team, i⟩
      { cause := cHang, addr := 0, inst := 0, info := 0, block := 0 }) := by
  unfold execHangExpiry
  rw [ht]
  refine (if_neg (by simp [hp]; omega)).trans ?_
  show (match t.liveGroups with
    | [] => Host.Outcome.next (stopHung s team t.liveGroups)
    | i :: _ => .next (takeImprecise ((stopHung s team t.liveGroups).adjGroup ⟨team, i⟩ fun g => { g with stop := none })
        ⟨team, i⟩ { cause := cHang, addr := 0, inst := 0, info := 0, block := 0 })) = _
  rw [hl]

end

end Sys2Proof.Machine
end

section
/-! Teams that are saved and resume (R369, R370). -/

namespace Sys2Proof.Machine

/-! ### What a write at its home leaves alone -/

/-- A state that writes at their homes have made of another: teams, cores, instances, slots of the queues, faults and the
supply of unspecified bytes are as they were. -/
structure Written (s t : State) : Prop where
  build : t.build = s.build
  free : t.free = s.free
  teams : t.teams = s.teams
  cores : t.cores = s.cores
  insts : t.insts = s.insts
  slots : t.queues.slots = s.queues.slots
  faults : t.faults = s.faults

theorem Written.refl (s : State) : Written s s := ⟨rfl, rfl, rfl, rfl, rfl, rfl, rfl⟩
theorem Written.trans {s t u : State} (h : Written s t) (k : Written t u) : Written s u :=
  ⟨k.build.trans h.build, k.free.trans h.free, k.teams.trans h.teams, k.cores.trans h.cores, k.insts.trans h.insts,
    k.slots.trans h.slots, k.faults.trans h.faults⟩
theorem Written.foldl {α : Type} {f : State → α → State} (h : ∀ s x, Written s (f s x)) (l : List α) (s : State) :
    Written s (l.foldl f s) := by
  induction l generalizing s with
  | nil => exact .refl s
  | cons x l ih => exact (h s x).trans (ih _)

theorem written_recall (s : State) (g : Nat) : Written s (s.recall g) := by
  rw [State.recall_dir]
  exact ⟨rfl, rfl, rfl, rfl, rfl, rfl, rfl⟩
theorem written_homeStore (s : State) (pa : Nat) (bs : List Byte) : Written s (homeStore s pa bs) := by
  unfold homeStore
  split
  · exact .refl s
  · exact ⟨rfl, rfl, rfl, rfl, rfl, rfl, rfl⟩
theorem written_invalidateLine (s : State) (l : Nat) : Written s (s.invalidateLine l) := ⟨rfl, rfl, rfl, rfl, rfl, rfl, rfl⟩
theorem written_homeWrite (s : State) (pa : Nat) (bs : List Byte) : Written s (homeWrite s pa bs) :=
  ((Written.foldl written_recall _ s).trans (Written.foldl written_invalidateLine _ _)).trans (written_homeStore _ pa bs)
theorem written_scrambleBytes (s : State) (pa n : Nat) :
    Written s { scrambleBytes s pa n with free := s.free } := by
  obtain ⟨h1, -, h3, h4, h5, h6, h7⟩ := written_homeWrite s pa ((List.range n).map fun i => Config.freeByte (s.free + i))
  exact ⟨h1, rfl, h3, h4, h5, h6, h7⟩

/-- A write at its home depends on the memory and the build alone. -/
theorem homeWrite_mem_congr {s t : State} (hm : s.mem = t.mem) (hb : s.build = t.build) (pa : Nat) (bs : List Byte) :
    (homeWrite s pa bs).mem = (homeWrite t pa bs).mem := by
  rw [homeWrite_mem, homeWrite_mem, hm, hb]
theorem scrambleBytes_mem_congr {s t : State} (hm : s.mem = t.mem) (hb : s.build = t.build) (hf : s.free = t.free) (pa n : Nat) :
    (scrambleBytes s pa n).mem = (scrambleBytes t pa n).mem := by
  unfold scrambleBytes
  rw [hf]
  exact homeWrite_mem_congr hm hb pa _

/-! ### The spill ring (R370) -/

/-- One record written into a spill ring. -/
def spillStep (base size next : Nat) (s : State) (r : BitVec 512 × Nat) : State :=
  if base + 64 * ((next + r.2) % size) + 64 ≤ localBytes s.build then
    homeWrite s (base + 64 * ((next + r.2) % size)) (leBytes 64 r.1.toNat) else s
/-- The records of Gutter entries in a chiplet's spill ring. -/
def spillRing (s : State) (chiplet : Nat) (l : List GutterEntry) : State :=
  (spillRecords s l).zipIdx.foldl (spillStep (Sparse.get 0 s.faults.gspBase chiplet).toNat
    (Sparse.get 0 s.faults.gspSize chiplet).toNat (Sparse.get 0 s.faults.spillNext chiplet)) s

theorem writeSpill_eq (s : State) (chiplet : Nat) (l : List GutterEntry) : ∃ n, writeSpill s chiplet l =
    { spillRing s chiplet l with faults := { (spillRing s chiplet l).faults with spillNext := n } } := by
  by_cases h : l.isEmpty = true
  · exact ⟨(spillRing s chiplet l).faults.spillNext, if_pos h⟩
  · exact ⟨_, if_neg h⟩
theorem written_spillStep (base size next : Nat) (s : State) (r : BitVec 512 × Nat) :
    Written s (spillStep base size next s r) := by
  unfold spillStep
  split
  · exact written_homeWrite ..
  · exact .refl s
theorem written_spillRing (s : State) (chiplet : Nat) (l : List GutterEntry) : Written s (spillRing s chiplet l) :=
  Written.foldl (written_spillStep _ _ _) _ s
theorem foldl_spillStep_mem_congr (base size next : Nat) (l : List (BitVec 512 × Nat)) {s t : State} (hm : s.mem = t.mem)
    (hb : s.build = t.build) :
    (l.foldl (spillStep base size next) s).mem = (l.foldl (spillStep base size next) t).mem := by
  induction l generalizing s t with
  | nil => exact hm
  | cons r l ih =>
    have hs := (written_spillStep base size next s r).build
    have ht := (written_spillStep base size next t r).build
    refine ih ?_ (hs.trans (hb.trans ht.symm))
    unfold spillStep
    rw [hb]
    split
    · exact homeWrite_mem_congr hm hb ..
    · exact hm
theorem writeSpill_mem (s : State) (chiplet : Nat) (l : List GutterEntry) :
    (writeSpill s chiplet l).mem = (spillRing s chiplet l).mem := by
  obtain ⟨n, h⟩ := writeSpill_eq s chiplet l
  rw [h]
theorem writeSpill_nil_mem (s : State) (chiplet : Nat) : (writeSpill s chiplet []).mem = s.mem := writeSpill_mem s chiplet []

/-! ### The save (R369, R370) -/

/-- A team's Gutter entries leave its core for the spill list of its chiplet. -/
def State.spillTeam (s : State) (id : Nat) (t : Team) : State :=
  let u := s.adjCore t.core fun c => { c with gutter := c.gutter.filter fun e => e.team ≠ id }
  let all := Sparse.get [] s.faults.spill (chipletOfCore t.core) ++ (s.core t.core).gutter.filter fun e => e.team == id
  { u with faults := { u.faults with spill := Sparse.set [] u.faults.spill (chipletOfCore t.core) all } }
/-- The team's entries have their records in the ring as well. -/
def State.spilled (s : State) (id : Nat) (t : Team) : State :=
  writeSpill (s.spillTeam id t) (chipletOfCore t.core) ((s.core t.core).gutter.filter fun e => e.team == id)
/-- The context goes to its area, where the team has one. -/
def writeContext (s : State) (t : Team) : State :=
  match saveArea s t with
  | some a => scrambleBytes s a t.contextBytes
  | none => s
/-- A team that is saved: groups that have exited hold no registers any more. -/
def Team.saved (t : Team) : Team :=
  { t with place := .saved, groups := t.groups.map fun g => if g.exited then g.release else g }

theorem writeSpill_spillTeam_mem (s : State) (id : Nat) (t : Team) (chiplet : Nat) (l : List GutterEntry) :
    (writeSpill (s.spillTeam id t) chiplet l).mem = (writeSpill s chiplet l).mem := by
  rw [writeSpill_mem, writeSpill_mem]
  exact foldl_spillStep_mem_congr _ _ _ _ rfl rfl

/-- What a write into the spill ring leaves alone. -/
theorem writeSpill_rest (s : State) (chiplet : Nat) (l : List GutterEntry) :
    ∃ n, Written { s with faults := { s.faults with spillNext := n } } (writeSpill s chiplet l) := by
  obtain ⟨n, h⟩ := writeSpill_eq s chiplet l
  obtain ⟨h1, h2, h3, h4, h5, h6, h7⟩ := written_spillRing s chiplet l
  rw [h]
  exact ⟨n, h1, h2, h3, h4, h5, h6, by rw [h7]⟩
theorem saveArea_congr {s u : State} (hi : u.insts = s.insts) (hq : u.queues.slots = s.queues.slots) (ht : u.teams = s.teams)
    (t : Team) : saveArea u t = saveArea s t := by
  unfold saveArea State.inst
  rw [hi, hq, ht]
theorem written_writeContext (s : State) (t : Team) : Written s { writeContext s t with free := s.free } := by
  unfold writeContext
  split
  · exact written_scrambleBytes ..
  · exact .refl s
theorem writeContext_mem_none {s : State} {t : Team} (h : saveArea s t = none) : (writeContext s t).mem = s.mem := by
  rw [writeContext, h]
theorem writeContext_mem_some {s u : State} {t : Team} {a : Nat} (h : saveArea s t = some a) (hm : s.mem = u.mem)
    (hb : s.build = u.build) (hf : s.free = u.free) :
    (writeContext s t).mem = (scrambleBytes u a t.contextBytes).mem := by
  rw [writeContext, h]
  exact scrambleBytes_mem_congr hm hb hf a _

/-- A team may leave its core: all is at rest, and its entries find room. -/
def SaveRoom (s : State) (id : Nat) (t : Team) : Prop :=
  let mine := (s.core t.core).gutter.filter fun e => e.team == id
  mine = [] ∨ spillUse (Sparse.get [] s.faults.spill (chipletOfCore t.core) ++ mine)
    ≤ (Sparse.get 0 s.faults.gspSize (chipletOfCore t.core)).toNat

section
variable {s : State} {id : Nat} {t : Team} (ht : s.team id = some t)
include ht

theorem execPreemptSave_saves (hr : readyToSave s t = true) (hm : SaveRoom s id t) :
    execPreemptSave id s = .next ((writeContext (s.spilled id t) t).adjTeam id Team.saved) := by
  unfold execPreemptSave
  rw [ht]
  refine if_neg ?_
  simpa [hr, SaveRoom, or_iff_not_imp_left] using hm
theorem execPreemptSave_waits (h : readyToSave s t = false ∨ ¬SaveRoom s id t) : execPreemptSave id s = .next s := by
  unfold execPreemptSave
  rw [ht]
  refine if_pos ?_
  obtain h | h := h
  · simp [h]
  · simpa [SaveRoom] using Or.inr h


/-- The state in which the team is saved. -/
def State.savedState (s : State) (id : Nat) (t : Team) : State := (writeContext (s.spilled id t) t).adjTeam id Team.saved

omit ht in
theorem spilled_rest (s : State) (id : Nat) (t : Team) : ∃ n,
    Written { s.spillTeam id t with faults := { (s.spillTeam id t).faults with spillNext := n } } (s.spilled id t) :=
  writeSpill_rest ..
omit ht in
theorem saveArea_spilled (s : State) (id : Nat) (t : Team) : saveArea (s.spilled id t) t = saveArea s t := by
  obtain ⟨n, -, -, hteams, -, hinsts, hslots, -⟩ := spilled_rest s id t
  exact saveArea_congr hinsts hslots hteams t
theorem savedState_team : (s.savedState id t).team id = some t.saved := by
  obtain ⟨n, -, -, hteams, -⟩ := spilled_rest s id t
  have hw : (writeContext (s.spilled id t) t).teams = (s.spilled id t).teams := (written_writeContext _ t).teams
  have hs : (s.spilled id t).teams = s.teams := hteams
  have hu : (writeContext (s.spilled id t) t).team id = s.team id := by
    unfold State.team
    rw [hw, hs]
  refine (State.team_adjTeam _ id id Team.saved fun _ => rfl).trans ((if_pos rfl).trans ?_)
  rw [hu, ht]
  rfl
omit ht in
theorem savedState_spill (s : State) (id : Nat) (t : Team) :
    Sparse.get [] (s.savedState id t).faults.spill (chipletOfCore t.core)
      = Sparse.get [] s.faults.spill (chipletOfCore t.core) ++ (s.core t.core).gutter.filter fun e => e.team == id := by
  obtain ⟨n, -, -, -, -, -, -, hfaults⟩ := spilled_rest s id t
  have hw := (written_writeContext (s.spilled id t) t).faults
  show Sparse.get [] (writeContext (s.spilled id t) t).faults.spill _ = _
  rw [show (writeContext (s.spilled id t) t).faults = _ from hw.trans hfaults]
  exact (Sparse.get_set ..).trans (if_pos rfl)
omit ht in
theorem savedState_gutter (s : State) (id : Nat) (t : Team) :
    ∀ e ∈ ((s.savedState id t).core t.core).gutter, e.team ≠ id := by
  obtain ⟨n, -, -, -, hcores, -⟩ := spilled_rest s id t
  have hw := (written_writeContext (s.spilled id t) t).cores
  have hc : (s.savedState id t).core t.core
      = { s.core t.core with gutter := (s.core t.core).gutter.filter fun e => e.team ≠ id } :=
    (congrArg (fun l => Sparse.get Core.reset l t.core) (hw.trans hcores)).trans ((Sparse.get_set ..).trans (if_pos rfl))
  rw [hc]
  exact fun e he => of_decide_eq_true (List.mem_filter.1 he).2
omit ht in
theorem spilled_mem (s : State) (id : Nat) (t : Team) : (s.spilled id t).mem
    = (writeSpill s (chipletOfCore t.core) ((s.core t.core).gutter.filter fun e => e.team == id)).mem :=
  writeSpill_spillTeam_mem ..
omit ht in
theorem savedState_mem_none (id : Nat) (h : saveArea s t = none) : (s.savedState id t).mem
    = (writeSpill s (chipletOfCore t.core) ((s.core t.core).gutter.filter fun e => e.team == id)).mem :=
  (writeContext_mem_none ((saveArea_spilled s id t).trans h)).trans (spilled_mem s id t)
omit ht in
theorem savedState_mem_some (id : Nat) {a : Nat} (h : saveArea s t = some a) : (s.savedState id t).mem
    = (scrambleBytes (writeSpill s (chipletOfCore t.core) ((s.core t.core).gutter.filter fun e => e.team == id))
        a t.contextBytes).mem := by
  obtain ⟨n, hbuild, hfree, -⟩ := spilled_rest s id t
  obtain ⟨m, hb, hf, -⟩ := writeSpill_rest s (chipletOfCore t.core) ((s.core t.core).gutter.filter fun e => e.team == id)
  exact writeContext_mem_some ((saveArea_spilled s id t).trans h) (spilled_mem s id t) (hbuild.trans hb.symm)
    (hfree.trans hf.symm)

/-- What the save leaves of the team, its entries and the memory. -/
theorem execPreemptSave_spec (hr : readyToSave s t = true) (hm : SaveRoom s id t) :
    let chiplet := chipletOfCore t.core
    let mine := (s.core t.core).gutter.filter fun e => e.team == id
    ∃ u v, execPreemptSave id s = .next u ∧ u.team id = some v ∧ v = { t with place := .saved, groups := v.groups } ∧
      (∀ (i : Nat) (g : Group), t.groups[i]? = some g → v.groups[i]? = some (if g.exited = true then g.release else g)) ∧
      Sparse.get [] u.faults.spill chiplet = Sparse.get [] s.faults.spill chiplet ++ mine ∧
      (∀ e ∈ (u.core t.core).gutter, e.team ≠ id) ∧
      (saveArea s t = none → u.mem = (writeSpill s chiplet mine).mem) ∧
      (saveArea s t = none → mine = [] → u.mem = s.mem) ∧
      ∀ a, saveArea s t = some a → u.mem = (scrambleBytes (writeSpill s chiplet mine) a t.contextBytes).mem := by
  refine ⟨_, _, execPreemptSave_saves ht hr hm, savedState_team ht, rfl, fun i g hg => ?_, savedState_spill s id t,
    savedState_gutter s id t, savedState_mem_none id, fun ha he => ?_, fun a => savedState_mem_some id⟩
  · simp [Team.saved, hg]
  · have h := savedState_mem_none id ha
    rw [he, writeSpill_nil_mem] at h
    exact h

/-! ### The resumption (R370) -/

theorem execTeamResume_waits (h : t.place ≠ .saved ∨ canResume s (clusterLive s t.clusterKey) = false) :
    execTeamResume id s = .next s := by
  unfold execTeamResume
  rw [ht]
  refine if_pos ?_
  simpa using h

/-- Whether a core has room for a team of a cluster by its place in it. -/
def seatFits (s : State) (ts : List Team) (core i : Nat) : Bool :=
  match ts.find? fun u => u.clusterTeam == i with
  | some u => coreFits s core u.shape
  | none => true

theorem execTeamResume_seats {rect : List Nat} (hp : t.place = .saved) (hc : canResume s (clusterLive s t.clusterKey) = true)
    (hr : findRect (chipletOfCore t.core) t.clusterW t.clusterH (seatFits s (clusterLive s t.clusterKey)) = some rect) :
    execTeamResume id s = .next
      ((clusterLive s t.clusterKey).foldl (fun s u => seatTeam s u (rect.getD u.clusterTeam 0)) s) := by
  unfold execTeamResume
  rw [ht]
  refine (if_neg (by simp [hp, hc])).trans ?_
  show (match findRect (chipletOfCore t.core) t.clusterW t.clusterH (seatFits s (clusterLive s t.clusterKey)) with
    | none => Host.Outcome.next s
    | some rect => .next ((clusterLive s t.clusterKey).foldl (fun s u => seatTeam s u (rect.getD u.clusterTeam 0)) s)) = _
  rw [hr]

end

/-! ### O53 -/

/-- Settles O53, one event after the other. -/
theorem groupEvents : Obligations.GroupEvents := by
  refine ⟨fun s c tail hi => ⟨fetchFault_misaligned hi tail, fun hp =>
      ⟨fun _ _ => fetchFault_refused hi tail hp, fun _ _ _ => fetchFault_missed hi tail hp⟩⟩,
    fun s x g d hg hd => ⟨execDeferredResultLand_waits hg hd, fun hw hp => ?_⟩,
    fun s core pipe l rest t hl ht => ⟨execSfuEnter_enters hl ht, execSfuEnter_waits hl⟩,
    fun s r t g ht hg hx hd => ⟨execRegisterUnitRelease_last ht hg hx hd, execRegisterUnitRelease_notLast ht hg hx hd⟩,
    fun s r g t => execGrainRefusal_takes,
    fun s team t ht => ⟨execHangExpiry_idle ht, fun hh hp i l hl => execHangExpiry_hung ht hh hp hl⟩,
    fun s id t ht => ⟨⟨execPreemptSave_spec ht, execPreemptSave_waits ht⟩,
      execTeamResume_waits ht, fun rect hp hc hr => execTeamResume_seats ht hp hc hr⟩⟩
  obtain ⟨h1, h2, h3, h4, h5, h6⟩ := landed_spec d x.i g
  exact ⟨_, _, execDeferredResultLand_lands hg hd hw hp, State.group_landed hg, h1, h2, h3, h4, h5, h6,
    fun id h => (State.team_adjGroup ..).trans (if_neg h)⟩

end Sys2Proof.Machine
end

section
/-! Conversion and random numbers (R70, R128 to R131): runs of registers and the stochastic state of each issuing lane. -/

namespace Sys2Proof.Machine

/-! ### A run of registers of one lane -/

/-- A lane with n words written from register d on. -/
def Lane.putRun (d : Nat) (f : Nat → Word) : Nat → Lane → Lane
  | 0, l => l
  | n + 1, l => (Lane.putRun d f n l).setReg (d + n) (f n)

theorem Lane.reg_putRun (d : Nat) (f : Nat → Word) (n : Nat) (l : Lane) (v : Nat) :
    (Lane.putRun d f n l).reg v = (if d ≤ v ∧ v < d + n then some (f (v - d)) else none).getD (l.reg v) := by
  induction n with
  | zero => rw [if_neg fun h => Nat.not_lt.2 h.1 h.2]; rfl
  | succ n ih =>
    refine (Lane.reg_setReg _ (d + n) v (f n)).trans ?_
    by_cases h : v = d + n
    · rw [if_pos h, h, if_pos ⟨Nat.le_add_right d n, Nat.lt_succ_self _⟩, Nat.add_sub_cancel_left]
      rfl
    · have hlt : v < d + (n + 1) ↔ v < d + n := ⟨fun q => Nat.lt_of_le_of_ne (Nat.le_of_lt_succ q) h, Nat.lt_succ_of_lt⟩
      rw [if_neg h, ih]
      simp only [hlt]
theorem Lane.putRun_eq (d : Nat) (f : Nat → Word) (n : Nat) (l : Lane) :
    Lane.putRun d f n l = { l with regs := (Lane.putRun d f n l).regs } := by
  induction n with
  | zero => rfl
  | succ n ih =>
    show ({ Lane.putRun d f n l with regs := _ } : Lane) = _
    rw [ih]
    rfl
theorem Group.writeLane_adjLane (g : Group) (L v : Nat) (f : Lane → Lane) (b : List (Nat × Nat)) (x : Word) :
    ({ g.adjLane L f with badV := b } : Group).writeLane L v x =
      { g.adjLane L (fun l => (f l).setReg v x) with badV := b.filter fun e => e ≠ (L, v) } := by
  have h := adjAt_comp f (fun l => l.setReg v x) g.lanes L
  unfold Group.adjLane
  rw [← h]
  rfl
/-- The words of a run, written to one lane one after another. -/
theorem Group.foldl_writeLane_run (L d : Nat) (f : Nat → Word) (n : Nat) (g : Group) : ∃ b,
    ((List.range n).map f).zipIdx.foldl (fun g wi => g.writeLane L (d + wi.2) wi.1) g =
      { g.adjLane L (Lane.putRun d f n) with badV := b } := by
  induction n with
  | zero => exact ⟨g.badV, congrArg (fun l => { g with lanes := l }) (adjAt_same _ (fun _ => rfl) _ _).symm⟩
  | succ n ih =>
    obtain ⟨b, hb⟩ := ih
    rw [List.range_succ, List.map_append, List.zipIdx_append, List.foldl_append, hb, List.length_map, List.length_range,
      Nat.zero_add]
    exact ⟨_, g.writeLane_adjLane L (d + n) _ b (f n)⟩

/-! ### Conversion (R128 to R130) -/

/-- A stochastic state that is set to what it was has not changed. -/
theorem Changes.rng_congr {c : Ctx} {e : Effect} {h : Group} (H : Changes c e h) (rng : Nat → Option Word)
    (hr : ∀ L, (e.rng L).getD (c.g.lane L).rng = (rng L).getD (c.g.lane L).rng) : Changes c { e with rng := rng } h where
  count := H.count
  regs := H.regs
  unis := H.unis
  rngs L := by rw [H.rngs, hr]
  lanes := H.lanes
  rest := H.rest

/-- The group with the results of a conversion: registers from d on, flags and stochastic states of the lanes I. -/
def Group.convert (I : List Nat) (d : Nat) (f : Nat → List Word × FFlags × Word) (g : Group) : Group :=
  (I.foldl (fun g L => ((f L).1.zipIdx.foldl (fun g wi => g.writeLane L (d + wi.2) wi.1) g).adjLane L fun l =>
    { l with rng := (f L).2.2 }) g).raise (orFlags (I.map fun L => (f L).2.1))

theorem convWrite_eq (c : Ctx) (d : Nat) (f : Nat → List Word × FFlags × Word) (s : State) :
    convWrite c d f s = s.adjGroup c.r (Group.convert c.I d f) := State.adjGroup_comp ..

section
variable {s : State} {c : Ctx}

theorem changes_convert (hl : ∀ L ∈ c.I, L < c.g.lanes.length) (d n : Nat) (f : Nat → Nat → Word)
    (r : Nat → FFlags × Word) :
    Changes c { lane := fun L v => if d ≤ v ∧ v < d + n then some (f L (v - d)) else none, rng := fun L => some (r L).2
                flags := fun o => o ||| orFlags (c.I.map fun L => (r L).1) }
      (Group.convert c.I d (fun L => ((List.range n).map (f L), r L)) c.g.free) := by
  refine (((changes_none c).fold hl (φ := fun L l => { Lane.putRun d (f L) n l with rng := (r L).2 })
    (lane := fun L v => if d ≤ v ∧ v < d + n then some (f L (v - d)) else none) (rng := fun L => some (r L).2)
    (fun g L => ?_) (fun L l v => Lane.reg_putRun d (f L) n l v) (fun _ _ => rfl) fun L l => ?_).raise _).of_eq ?_ rfl
  · obtain ⟨b, hb⟩ := Group.foldl_writeLane_run L d (f L) n g
    rw [hb]
    exact congrArg (fun l => { g with lanes := l, badV := b }) (adjAt_comp _ _ _ _)
  · rw [Lane.putRun_eq]
    exact ⟨rfl, rfl, rfl⟩
  · simp only [Option.or_none]
    rfl
theorem convRun_singleton (x : Conv) (st : Word) (e : Nat) : convRun x st [e] =
    let st := if x.rnd = .rs then stochNext st else st
    ([(convElem x.fmtD x.fmtS x.rnd x.sat st e).1], (convElem x.fmtD x.fmtS x.rnd x.sat st e).2, st) :=
  congrArg (fun f => (_, f, _)) (BitVec.or_zero)
theorem oneReg_eq (d : BitVec 7) (f : Nat → Word) :
    (fun L v => if d.toNat ≤ v ∧ v < d.toNat + 1 then some (f L) else none) = oneReg d f := by
  funext L v
  exact if_congr (by rw [Nat.lt_succ_iff, and_comm, ← Nat.le_antisymm_iff]) rfl rfl

theorem execCvt_did {x : Conv} (hi : Issues s c (Names.add (writesV [x.d.toNat]) (readsV [x.a.toNat])) false) :
    let r := fun L => convElem x.fmtD x.fmtS x.rnd x.sat (if x.rnd = .rs then stochNext (c.g.lane L).rng else (c.g.lane L).rng)
      (elemOf x.fmtS [c.g.readLane L x.a.toNat] 0)
    ∃ t, execCvt x s = .next t ∧ Did c x.s 8
      { lane := oneReg x.d fun L => placeElem x.fmtD (r L).1
        rng := fun L => if x.rnd = .rs then some (stochNext (c.g.lane L).rng) else none
        flags := fun o => o ||| orFlags (c.I.map fun L => (r L).2) } t := by
  intro r
  have hc := (changes_convert hi.lt x.d.toNat 1 (fun L _ => placeElem x.fmtD (r L).1) fun L =>
    ((r L).2, if x.rnd = .rs then stochNext (c.g.lane L).rng else (c.g.lane L).rng)).rng_congr
    (fun L => if x.rnd = .rs then some (stochNext (c.g.lane L).rng) else none) fun L => by
      by_cases h : x.rnd = .rs
      · rw [if_pos h]; exact if_pos h
      · rw [if_neg h]; exact if_neg h
  rw [oneReg_eq] at hc
  refine issue_did hi (congrArg Res.ok ((convWrite_eq ..).trans ?_)) hc
  simp only [convRun_singleton]
  rfl
theorem execPcvt_did {x : Conv}
    (hi : Issues s c (Names.add (writesV (runOf x.d.toNat x.runD)) (readsV (runOf x.a.toNat x.runS))) false) :
    let r := fun L => convRun x (c.g.lane L).rng ((List.range x.count).map
      (elemOf x.fmtS ((runOf x.a.toNat x.runS).map fun v => c.g.readLane L v)))
    ∃ t, execPcvt x s = .next t ∧ Did c x.s 8
      { lane := fun L v => if x.d.toNat ≤ v ∧ v < x.d.toNat + x.runD
          then some (BitVec.ofNat 32 (packElems x.fmtD.bits (r L).1 / 2 ^ (32 * (v - x.d.toNat)))) else none
        rng := fun L => some (r L).2.2
        flags := fun o => o ||| orFlags (c.I.map fun L => (r L).2.1) } t := by
  intro r
  exact issue_did hi (congrArg Res.ok (convWrite_eq ..)) (changes_convert hi.lt x.d.toNat x.runD
    (fun L k => BitVec.ofNat 32 (packElems x.fmtD.bits (r L).1 / 2 ^ (32 * k))) fun L => (r L).2)

/-! ### Random numbers (R131) -/

theorem execSeed_did {x : LSeed} (hi : Issues s c (Names.add (readsV [x.a.toNat]) (Src.names x.b)) false) :
    ∃ t, execSeed x s = .next t ∧ Did c x.s 4
      { rng := fun L => let v := c.g.readLane L x.a.toNat ^^^ c.g.src L x.b; some (if v = 0 then 0x6A09E667 else v) } t :=
  issue_did hi rfl (((changes_none c).fold hi.lt (lane := fun _ _ => none)
    (φ := fun L l => { l with rng :=
      let v := c.g.readLane L x.a.toNat ^^^ c.g.src L x.b; if v = 0 then 0x6A09E667 else v })
    (rng := fun L => let v := c.g.readLane L x.a.toNat ^^^ c.g.src L x.b; some (if v = 0 then 0x6A09E667 else v))
    (fun _ _ => rfl) (fun _ _ _ => rfl) (fun _ _ => rfl) fun _ _ => ⟨rfl, rfl, rfl⟩).of_eq
      (by simp only [Option.or_none]) rfl)
theorem execRand_did {x : LDst} (hi : Issues s c (writesV [x.d.toNat]) false) :
    ∃ t, execRand x s = .next t ∧ Did c x.s 4
      { rng := fun L => some (stochNext (c.g.lane L).rng), lane := oneReg x.d fun L => stochNext (c.g.lane L).rng } t := by
  refine issue_did hi rfl (((changes_none c).fold hi.lt (lane := oneReg x.d fun L => stochNext (c.g.lane L).rng)
    (rng := fun L => some (stochNext (c.g.lane L).rng))
    (φ := fun L l => { l with rng := stochNext (c.g.lane L).rng }.setReg x.d.toNat (stochNext (c.g.lane L).rng))
    (fun g L => g.writeLane_adjLane L _ _ g.badV _) (fun L l v => ?_)
    (fun _ _ => rfl) fun _ _ => ⟨rfl, rfl, rfl⟩).of_eq (by simp only [Option.or_none]) rfl)
  rw [Lane.reg_setReg]
  unfold oneReg
  split <;> rfl

end

/-! ### O7 -/

/-- Settles O7, one instruction after the other. -/
theorem conversionAndRandom : Obligations.ConversionAndRandom := fun _ _ =>
  ⟨fun _ => execCvt_did, fun _ => execPcvt_did, fun _ => execSeed_did, fun _ => execRand_did⟩

end Sys2Proof.Machine
end

section
/-! The tree of an integer REDUCE or SCAN (R78, R157): it is the operation over all values, in any order. -/

namespace Sys2Proof.Machine

/-! ### The tree of an operation on words -/

/-- The operation combines words by f, from the identity e, without a flag, and f may be taken in any order. -/
structure WordFold (op : RedOp) (f : Word → Word → Word) (e : Word) : Prop where
  combine : ∀ a b : Word, redOp op (a.setWidth 64) (b.setWidth 64) = ((f a b).setWidth 64, 0)
  canon : ∀ v, redCanon op v = v
  identity : redIdentity op = e.setWidth 64
  assoc : Std.Associative f
  comm : Std.Commutative f
  start : ∀ a, f e a = a

section
variable {op : RedOp} {f : Word → Word → Word} {e : Word} (h : WordFold op f e)
include h

/-- A level of the tree halves the list and keeps what it folds to. -/
theorem WordFold.treeLevel_spec : ∀ l : List Word, ∃ m : List Word,
    treeLevel op (l.map (BitVec.setWidth 64)) = (m.map (BitVec.setWidth 64), 0) ∧
      2 * m.length ≤ l.length + 1 ∧ ∀ x, m.foldl f x = l.foldl f x
  | [] => ⟨[], rfl, Nat.zero_le 1, fun _ => rfl⟩
  | [a] => ⟨[a], rfl, Nat.le_refl 2, fun _ => rfl⟩
  | a :: b :: r => by
    obtain ⟨m, hm, hn, hf⟩ := treeLevel_spec r
    refine ⟨f a b :: m, ?_, Nat.add_le_add_right hn 2, fun x => ?_⟩
    · show ((redOp op _ _).1 :: (treeLevel op (r.map _)).1, (redOp op _ _).2 ||| (treeLevel op (r.map _)).2) = _
      rw [hm, h.combine]
      exact congrArg (Prod.mk _) BitVec.or_self
    · exact (hf (f x (f a b))).trans (congrArg (r.foldl f) (h.assoc.assoc x a b).symm)
/-- n levels take a list of up to 2^n words to one word at most. -/
theorem WordFold.treeLevels_spec (n : Nat) (l : List Word) : ∃ m : List Word,
    treeLevels op n (l.map (BitVec.setWidth 64)) = (m.map (BitVec.setWidth 64), 0) ∧
      (l.length ≤ 2 ^ n → m.length ≤ 1) ∧ ∀ x, m.foldl f x = l.foldl f x := by
  induction n generalizing l with
  | zero => exact ⟨l, rfl, id, fun _ => rfl⟩
  | succ n ih =>
    obtain ⟨k, hk, hkn, hkf⟩ := h.treeLevel_spec l
    obtain ⟨m, hm, hmn, hmf⟩ := ih k
    refine ⟨m, ?_, fun hl => hmn (by omega), fun x => (hmf x).trans (hkf x)⟩
    show ((treeLevels op n (treeLevel op _).1).1, (treeLevel op _).2 ||| (treeLevels op n (treeLevel op _).1).2) = _
    rw [hk, hm]
    exact congrArg (Prod.mk _) BitVec.or_self
theorem WordFold.treeReduce_eq {l : List Word} (hl : l.length ≤ 64) :
    treeReduce op (l.map (BitVec.setWidth 64)) = ((l.foldl f e).setWidth 64, 0) := by
  obtain ⟨m, hm, hn, hf⟩ := h.treeLevels_spec 7 l
  show (redCanon op ((treeLevels op 7 _).1.headD (redIdentity op)), (treeLevels op 7 _).2) = _
  rw [hm, h.canon, ← hf]
  rcases m with _ | ⟨a, _ | ⟨b, r⟩⟩
  · exact congrArg (·, 0) h.identity
  · exact congrArg (fun w : Word => (w.setWidth 64, (0 : FFlags))) (h.start a).symm
  · exact absurd (Nat.le_of_succ_le_succ (hn (hl.trans (by decide)))) (Nat.not_succ_le_zero _)
theorem WordFold.treeReduce_perm {l m : List Word} (hl : l.length ≤ 64) (hm : l.Perm m) :
    treeReduce op (l.map (BitVec.setWidth 64)) = ((m.foldl f e).setWidth 64, 0) := by
  have := h.assoc
  have := h.comm
  rw [h.treeReduce_eq hl, hm.foldl_eq]

end

/-! ### Minimum and maximum -/

/-- The word with the smaller key. -/
def leastBy (κ : Word → Int) (a b : Word) : Word := if κ a ≤ κ b then a else b

section
variable {κ : Word → Int}

theorem leastBy_assoc (κ : Word → Int) (a b c : Word) : leastBy κ (leastBy κ a b) c = leastBy κ a (leastBy κ b c) := by
  unfold leastBy
  by_cases hab : κ a ≤ κ b
  · by_cases hbc : κ b ≤ κ c
    · rw [if_pos hab, if_pos hbc, if_pos hab, if_pos (hab.trans hbc)]
    · rw [if_pos hab, if_neg hbc]
  · by_cases hbc : κ b ≤ κ c
    · rw [if_neg hab, if_pos hbc, if_neg hab]
    · rw [if_neg hab, if_neg hbc, if_neg fun hac => hab (hac.trans (not_le.1 hbc).le)]
theorem leastBy_comm (hκ : κ.Injective) (a b : Word) : leastBy κ a b = leastBy κ b a := by
  unfold leastBy
  obtain h | h | h := lt_trichotomy (κ a) (κ b)
  · rw [if_pos h.le, if_neg h.not_ge]
  · rw [hκ h]
  · rw [if_neg h.not_ge, if_pos h.le]
theorem leastBy_start (hκ : κ.Injective) {e : Word} (he : ∀ a, κ a ≤ κ e) (a : Word) : leastBy κ e a = a := by
  unfold leastBy
  split
  next h => exact hκ (h.antisymm (he a))
  · rfl
/-- An operation that leaves the word with the smaller key, from the word with the largest. -/
theorem wordFold_leastBy {op : RedOp} {e : Word} (hκ : κ.Injective) (he : ∀ a, κ a ≤ κ e)
    (hc : ∀ a b : Word, redOp op (a.setWidth 64) (b.setWidth 64) = ((leastBy κ a b).setWidth 64, 0))
    (hn : ∀ v, redCanon op v = v) (hi : redIdentity op = e.setWidth 64) : WordFold op (leastBy κ) e :=
  ⟨hc, hn, hi, ⟨leastBy_assoc κ⟩, ⟨leastBy_comm hκ⟩, leastBy_start hκ he⟩

end

/-- A word that a tree has widened is itself again. -/
theorem setWidth_word (a : Word) : (a.setWidth 64).setWidth 32 = a := BitVec.setWidth_setWidth_of_le a (by decide)

theorem wordFold_imin : WordFold .imin (fun a b => if a.toInt ≤ b.toInt then a else b) 0x7FFFFFFF :=
  wordFold_leastBy (κ := BitVec.toInt) (fun _ _ => BitVec.toInt_inj.1) (fun a => Int.lt_add_one_iff.1 a.toInt_lt)
    (fun a b => by
      unfold redOp fMin leastBy
      simp only [setWidth_word, BitVec.sle_iff_toInt_le]) (fun _ => rfl) rfl
theorem wordFold_imax : WordFold .imax (fun a b => if a.toInt ≥ b.toInt then a else b) 0x80000000 := by
  have hf : (fun a b : Word => if a.toInt ≥ b.toInt then a else b) = leastBy fun v => -v.toInt := by
    funext a b
    exact if_congr neg_le_neg_iff.symm rfl rfl
  rw [hf]
  exact wordFold_leastBy (fun _ _ h => BitVec.toInt_inj.1 (neg_injective h)) (fun a => neg_le_neg a.le_toInt)
    (fun a b => by
      rw [← hf]
      unfold redOp fMax
      simp only [setWidth_word, BitVec.sle_iff_toInt_le, ge_iff_le]) (fun _ => rfl) rfl
theorem wordFold_umin : WordFold .umin (fun a b => if a.toNat ≤ b.toNat then a else b) 0xFFFFFFFF := by
  have hf : (fun a b : Word => if a.toNat ≤ b.toNat then a else b) = leastBy fun v => v.toNat := by
    funext a b
    exact if_congr Int.ofNat_le.symm rfl rfl
  rw [hf]
  exact wordFold_leastBy (fun _ _ h => BitVec.toNat_inj.1 (Int.ofNat_inj.1 h))
    (fun a => Int.ofNat_le.2 (Nat.le_of_lt_succ a.isLt))
    (fun a b => by
      rw [← hf]
      unfold redOp fMinU
      simp only [setWidth_word, BitVec.le_def]) (fun _ => rfl) rfl
theorem wordFold_umax : WordFold .umax (fun a b => if a.toNat ≥ b.toNat then a else b) 0 := by
  have hf : (fun a b : Word => if a.toNat ≥ b.toNat then a else b) = leastBy fun v => -(v.toNat : Int) := by
    funext a b
    exact if_congr (neg_le_neg_iff.trans Int.ofNat_le).symm rfl rfl
  rw [hf]
  exact wordFold_leastBy (fun _ _ h => BitVec.toNat_inj.1 (Int.ofNat_inj.1 (neg_injective h)))
    (fun a => neg_le_neg (Int.natCast_nonneg a.toNat))
    (fun a b => by
      rw [← hf]
      unfold redOp fMaxU
      simp only [setWidth_word, BitVec.le_def, ge_iff_le]) (fun _ => rfl) rfl

/-! ### Sum and bitwise operations -/

/-- An operation that is a function of words. -/
theorem redOp_word {op : RedOp} {f : Word → Word → Word}
    (h : ∀ a b : DWord, redOp op a b = ((f (a.setWidth 32) (b.setWidth 32)).setWidth 64, 0)) (a b : Word) :
    redOp op (a.setWidth 64) (b.setWidth 64) = ((f a b).setWidth 64, 0) := by
  rw [h, setWidth_word, setWidth_word]

theorem wordFold_iadd : WordFold .iadd (fun a b => a + b) 0 :=
  ⟨redOp_word fun _ _ => rfl, fun _ => rfl, rfl, ⟨BitVec.add_assoc⟩, ⟨BitVec.add_comm⟩, BitVec.zero_add⟩
theorem wordFold_and : WordFold .and (fun a b => a &&& b) 0xFFFFFFFF :=
  ⟨redOp_word fun _ _ => rfl, fun _ => rfl, rfl, ⟨BitVec.and_assoc⟩, ⟨BitVec.and_comm⟩, fun _ => BitVec.allOnes_and⟩
theorem wordFold_or : WordFold .or (fun a b => a ||| b) 0 :=
  ⟨redOp_word fun _ _ => rfl, fun _ => rfl, rfl, ⟨BitVec.or_assoc⟩, ⟨BitVec.or_comm⟩, fun _ => BitVec.zero_or⟩
theorem wordFold_xor : WordFold .xor (fun a b => a ^^^ b) 0 :=
  ⟨redOp_word fun _ _ => rfl, fun _ => rfl, rfl, ⟨BitVec.xor_assoc⟩, ⟨BitVec.xor_comm⟩, fun _ => BitVec.zero_xor⟩

/-! ### O11 -/

/-- Settles O11: each operation folds words, so its tree does. -/
theorem integerTrees : Obligations.IntegerTrees := by
  unfold Obligations.IntegerTrees
  simp only [List.forall_mem_cons, List.not_mem_nil, false_implies, implies_true, and_true]
  exact ⟨fun _ hl _ => wordFold_iadd.treeReduce_perm hl, fun _ hl _ => wordFold_imin.treeReduce_perm hl,
    fun _ hl _ => wordFold_imax.treeReduce_perm hl, fun _ hl _ => wordFold_umin.treeReduce_perm hl,
    fun _ hl _ => wordFold_umax.treeReduce_perm hl, fun _ hl _ => wordFold_and.treeReduce_perm hl,
    fun _ hl _ => wordFold_or.treeReduce_perm hl, fun _ hl _ => wordFold_xor.treeReduce_perm hl⟩

end Sys2Proof.Machine
end

section
/-! A round of integer formats (R75, R77, R279, R282, R283): its words are exact sums, its status tells overflow and bad
words. -/

namespace Sys2Proof.Machine

/-- A key whose entries all hold v, where v is listed or the default. -/
theorem Sparse.get_eq_of_forall {α : Type} {d v : α} {m : Sparse α} {k : Nat} (hm : v ≠ d → (k, v) ∈ m)
    (hu : ∀ e ∈ m, e.1 = k → e.2 = v) : Sparse.get d m k = v := by
  induction m with
  | nil =>
    by_contra h
    exact List.not_mem_nil (hm (Ne.symm h))
  | cons e r ih =>
    obtain ⟨he, hr⟩ := List.forall_mem_cons.1 hu
    show (if k = e.1 then e.2 else Sparse.get d r k) = v
    by_cases hk : k = e.1
    · rw [if_pos hk, he hk.symm]
    · rw [if_neg hk]
      exact ih (fun hv => (List.mem_cons.1 (hm hv)).resolve_left fun h => hk (congrArg Prod.fst h)) hr
theorem getLsbD_foldl_or {α : Type} {n : Nat} (f : α → BitVec n) (l : List α) (b : BitVec n) (j : Nat) :
    (l.foldl (fun b e => b ||| f e) b).getLsbD j = (b.getLsbD j || l.any fun e => (f e).getLsbD j) := by
  induction l generalizing b with
  | nil => exact (Bool.or_false _).symm
  | cons e l ih => rw [List.foldl_cons, ih, BitVec.getLsbD_or, Bool.or_assoc, List.any_cons]

/-! ### The elements of a round (R279) -/

section
variable (a : Latch) (w : Weights) (acc : Bool) (free : Nat) (t : Tile)

/-- Element c of row i of a round: word and status bits. -/
def roundOut (i c : Nat) : Word × BitVec 4 :=
  if outBad w acc t i c then freeElem a w free (128 * i + c)
  else roundElem a w acc (Sparse.get 0 t.words (128 * i + c)) (a.row i) (a.ints i) c
/-- The elements of a round with their places in the tile. -/
def roundOuts : List (Nat × Word × BitVec 4) :=
  (List.range 16).flatMap fun i => (List.range 128).map fun c => (128 * i + c, roundOut a w acc free t i c)

theorem roundTile_eq : roundTile a w acc free t =
    { words := ((roundOuts a w acc free t).filter fun e => e.2.1 ≠ 0).map fun e => (e.1, e.2.1)
      status := (roundOuts a w acc free t).foldl (fun b e => b ||| e.2.2) t.status, bad := [] } := rfl
variable {a w acc free t}

theorem mem_roundOuts {e : Nat × Word × BitVec 4} : e ∈ roundOuts a w acc free t ↔
    ∃ i < 16, ∃ c < 128, (128 * i + c, roundOut a w acc free t i c) = e := by
  simp only [roundOuts, List.mem_flatMap, List.mem_map, List.mem_range]
/-- Two elements with one place in the tile are the same. -/
theorem roundOuts_unique {i c : Nat} (hc : c < 128) : ∀ e ∈ roundOuts a w acc free t, e.1 = 128 * i + c →
    e.2 = roundOut a w acc free t i c := by
  intro e he hk
  obtain ⟨i', -, c', hc', rfl⟩ := mem_roundOuts.1 he
  have hdiv {x y : Nat} (hy : y < 128) := (Nat.div_mod_unique (a := y + 128 * x) (by decide : 0 < 128)).2 ⟨rfl, hy⟩
  have hk : c' + 128 * i' = c + 128 * i := by rw [Nat.add_comm, Nat.add_comm c]; exact hk
  obtain ⟨hi, hm⟩ := hdiv (x := i') hc'
  rw [hk] at hi hm
  rw [← hi, ← hm, (hdiv hc).1, (hdiv hc).2]
theorem get_roundTile {i c : Nat} (hi : i < 16) (hc : c < 128) :
    Sparse.get 0 (roundTile a w acc free t).words (128 * i + c) = (roundOut a w acc free t i c).1 := by
  rw [roundTile_eq]
  refine Sparse.get_eq_of_forall (fun hv => ?_) fun e he hk => ?_
  · exact List.mem_map.2 ⟨_, List.mem_filter.2 ⟨mem_roundOuts.2 ⟨i, hi, c, hc, rfl⟩, decide_eq_true hv⟩, rfl⟩
  · obtain ⟨e, hm, rfl⟩ := List.mem_map.1 he
    exact congrArg Prod.fst (roundOuts_unique hc e (List.mem_filter.1 hm).1 hk)
theorem getLsbD_roundTile (j : Nat) : (roundTile a w acc free t).status.getLsbD j = (t.status.getLsbD j ||
    (List.range 16).any fun i => (List.range 128).any fun c => (roundOut a w acc free t i c).2.getLsbD j) := by
  rw [roundTile_eq, getLsbD_foldl_or fun e : Nat × Word × BitVec 4 => e.2.2]
  simp only [roundOuts, List.any_flatMap, List.any_map]
  rfl

end

/-! ### Elements of integer formats (R77, R282, R283) -/

/-- The exact sum of an output element of integer formats (R77). -/
def intSum (a : Latch) (w : Weights) (acc : Bool) (t : Tile) (i c : Nat) : Int :=
  (if acc then (Sparse.get 0 t.words (128 * i + c)).toInt else 0) +
    ((List.range (kOf a.fmt)).map fun k => intOf a.fmt (a.code i k) * intOf w.fmt (w.code c k)).sum
/-- The status bits of an element of integer formats: error and overflow. -/
def intStatus (bad iov : Bool) : BitVec 4 := (if bad then 8 else 0) ||| if iov then 1 else 0

theorem getLsbD_intStatus : ∀ bad iov : Bool, (intStatus bad iov).getLsbD 0 = iov ∧ (intStatus bad iov).getLsbD 3 = bad ∧
    (intStatus bad iov).getLsbD 1 = false ∧ (intStatus bad iov).getLsbD 2 = false := by decide
theorem ite_eq_intStatus (p : Prop) [Decidable p] : (if p then 1 else 0) = intStatus false (decide p) := by
  by_cases h : p
  · rw [if_pos h, decide_eq_true h]
    rfl
  · rw [if_neg h, decide_eq_false h]
    rfl
theorem intAccumulate_map (s : Int) (f g : Nat → Int) (l : List Nat) :
    intAccumulate s (l.map f) (l.map g) = (BitVec.ofInt 32 (s + (l.map fun k => f k * g k).sum),
      intStatus false
        (decide (s + (l.map fun k => f k * g k).sum < -2 ^ 31 ∨ 2 ^ 31 ≤ s + (l.map fun k => f k * g k).sum))) := by
  have hs : (((l.map f).zip (l.map g)).map fun p => p.1 * p.2).foldl (· + ·) s = s + (l.map fun k => f k * g k).sum := by
    rw [List.zip_map', List.map_map, List.sum_eq_foldl, ← List.foldl_assoc (op := fun x y : Int => x + y), add_zero]
    rfl
  rw [← hs]
  exact congrArg (Prod.mk _) (ite_eq_intStatus _)

section
variable {a : Latch} {w : Weights} (ha : Fmt.isInt a.fmt = true) (hw : Fmt.isInt w.fmt = true)
  (hd : w.depth = kOf a.fmt) (acc : Bool) (free : Nat) (t : Tile) (i c : Nat)
include ha hw

/-- A bad word's element sets the error bit, and of the others no more than overflow. -/
theorem roundOut_bad (hb : outBad w acc t i c = true) : ∃ iov, (roundOut a w acc free t i c).2 = intStatus true iov := by
  have h1 : ∀ x : BitVec 4, 8 ||| x &&& 1 = intStatus true (x.getLsbD 0) := by decide
  unfold roundOut freeElem
  rw [hb, ha, hw]
  exact ⟨_, h1 _⟩
include hd
theorem roundOut_good (hb : outBad w acc t i c = false) : roundOut a w acc free t i c =
    (BitVec.ofInt 32 (intSum a w acc t i c),
      intStatus false (decide (intSum a w acc t i c < -2 ^ 31 ∨ 2 ^ 31 ≤ intSum a w acc t i c))) := by
  unfold roundOut roundElem Latch.ints Weights.ints
  rw [hb, ha, hw, hd]
  exact intAccumulate_map ..
theorem roundOut_status : ∃ iov, (roundOut a w acc free t i c).2 = intStatus (outBad w acc t i c) iov := by
  cases hb : outBad w acc t i c with
  | true => exact roundOut_bad ha hw acc free t i c hb
  | false => exact ⟨_, congrArg Prod.snd (roundOut_good ha hw hd acc free t i c hb)⟩

/-! ### The tile after a round of integer formats (R77, R282, R283) -/

theorem getLsbD_roundTile_overflow (hb : roundBad w acc t = false) : (roundTile a w acc free t).status.getLsbD 0 = true ↔
    t.status.getLsbD 0 = true ∨
      ∃ i c, i < 16 ∧ c < 128 ∧ (intSum a w acc t i c < -2 ^ 31 ∨ 2 ^ 31 ≤ intSum a w acc t i c) := by
  rw [getLsbD_roundTile, Bool.or_eq_true]
  simp only [List.any_eq_true, List.mem_range, ← exists_and_left]
  refine or_congr_right (exists₂_congr fun i c => and_congr_right fun hi => and_congr_right fun hc => ?_)
  have hgood : outBad w acc t i c = false := by
    unfold roundBad at hb
    simp only [List.any_eq_false, List.mem_range, Bool.not_eq_true] at hb
    exact hb i hi c hc
  rw [roundOut_good ha hw hd acc free t i c hgood, (getLsbD_intStatus _ _).1, decide_eq_true_iff]
theorem getLsbD_roundTile_error :
    (roundTile a w acc free t).status.getLsbD 3 = (t.status.getLsbD 3 || roundBad w acc t) := by
  have h (i c : Nat) : (roundOut a w acc free t i c).2.getLsbD 3 = outBad w acc t i c := by
    obtain ⟨iov, hs⟩ := roundOut_status ha hw hd acc free t i c
    rw [hs, (getLsbD_intStatus _ iov).2.1]
  rw [getLsbD_roundTile]
  simp only [h]
  rfl
/-- The bits for NaN and infinity stay. -/
theorem getLsbD_roundTile_float {j : Nat} (hj : j = 1 ∨ j = 2) :
    (roundTile a w acc free t).status.getLsbD j = t.status.getLsbD j := by
  have h (i c : Nat) : (roundOut a w acc free t i c).2.getLsbD j = false := by
    obtain ⟨iov, hs⟩ := roundOut_status ha hw hd acc free t i c
    obtain ⟨-, -, h1, h2⟩ := getLsbD_intStatus (outBad w acc t i c) iov
    rw [hs]
    obtain rfl | rfl := hj
    · exact h1
    · exact h2
  rw [getLsbD_roundTile]
  have hnone : ((List.range 16).any fun _ => (List.range 128).any fun _ => false) = false := by decide
  simp only [h, hnone, Bool.or_false]

end

/-! ### O28 -/

/-- Settles O28, by the elements of the tile and then its status bits. -/
theorem integerRounds : Obligations.IntegerRounds := fun _ _ acc n t ha hw hd =>
  ⟨fun i c hi hc hb => (get_roundTile hi hc).trans (congrArg Prod.fst (roundOut_good ha hw hd acc n t i c hb)),
    getLsbD_roundTile_overflow ha hw hd acc n t,
    Bool.eq_iff_iff.1 (getLsbD_roundTile_error ha hw hd acc n t) |>.trans (Bool.or_eq_true_iff ..),
    fun _ => getLsbD_roundTile_float ha hw hd acc n t⟩

end Sys2Proof.Machine
end

section
/-! Pairs, immediates, constants and lane exchanges (O3, O4, O10). Equations are proved by terms, with few rewrites: the
compile of the whole text is near its memory limit, and a rewrite repeats its goal in the proof. -/

namespace Sys2Proof.Machine

/-! ### Words and numbers (R93, R96) -/

theorem ofNat_toNat_self {w : Nat} (a : BitVec w) : BitVec.ofNat w a.toNat = a :=
  (BitVec.ofNat_toNat w a).trans (BitVec.setWidth_eq a)
theorem ofNat_mod_self {w : Nat} (n : Nat) : BitVec.ofNat w (n % 2 ^ w) = BitVec.ofNat w n :=
  BitVec.eq_of_toNat_eq (Nat.mod_mod ..)
theorem shiftLeft_eq_ofNat {w : Nat} (a : BitVec w) (n : Nat) : a <<< n = BitVec.ofNat w (a.toNat * 2 ^ n) :=
  congrArg (BitVec.ofNat w) (Nat.shiftLeft_eq ..)
theorem ushiftRight_eq_ofNat {w : Nat} (a : BitVec w) (n : Nat) : a >>> n = BitVec.ofNat w (a.toNat / 2 ^ n) :=
  (ofNat_toNat_self _).symm.trans (congrArg (BitVec.ofNat w) (Nat.shiftRight_eq_div_pow ..))
theorem sub_eq_ofInt {w : Nat} (a b : BitVec w) : a - b = BitVec.ofInt w (a.toNat - b.toNat) :=
  (((BitVec.ofInt_add a.toNat (-b.toNat)).trans (congrArg₂ (· + ·) (ofNat_toNat_self a)
    (BitVec.ofInt_neg.trans (congrArg (- ·) (ofNat_toNat_self b))))).trans (BitVec.sub_eq_add_neg ..).symm).symm
theorem boolWord_decide (p : Prop) [Decidable p] : boolWord (decide p) = oneIf p := if_congr decide_eq_true_iff rfl rfl
theorem fShl_eq : fShl = shlBy := funext₂ fun a n => (shiftLeft_eq_ofNat a n).trans
  (ite_eq_right_iff.2 fun h => (BitVec.shiftLeft_eq_zero h).symm.trans (shiftLeft_eq_ofNat a n)).symm
theorem fShr_eq : fShr = shrBy := funext₂ fun a n => (ushiftRight_eq_ofNat a n).trans
  (ite_eq_right_iff.2 fun h => (BitVec.ushiftRight_eq_zero h).symm.trans (ushiftRight_eq_ofNat a n)).symm
theorem fSar_eq : fSar = sarBy := funext₂ fun _ _ =>
  BitVec.ofInt_toInt.symm.trans (congrArg ofSigned (BitVec.toInt_sshiftRight.trans (Int.shiftRight_eq_div_pow ..)))
/-- The two parts of a rotation have no bit in common, so that their `or` is their sum. -/
theorem fRol_eq : fRol = rolBy := funext₂ fun a n =>
  have hlt : a.toNat / 2 ^ (32 - n % 32) < 2 ^ (n % 32) :=
    Nat.div_lt_of_lt_mul (a.isLt.trans_eq (Nat.pow_sub_mul_pow 2 (Nat.mod_lt n Nat.succ_pos').le).symm)
  calc a.rotateLeft (n % 32)
    _ = a <<< (n % 32) ||| a >>> (32 - n % 32) := congrArg (fun k => a <<< k ||| a >>> (32 - k)) (Nat.mod_mod n 32)
    _ = BitVec.ofNat 32 (a.toNat <<< (n % 32) ||| a.toNat / 2 ^ (32 - n % 32)) :=
      (congrArg (a <<< (n % 32) ||| ·) (ushiftRight_eq_ofNat ..)).trans BitVec.ofNat_or.symm
    _ = _ := congrArg (BitVec.ofNat 32)
      ((Nat.shiftLeft_add_eq_or_of_lt hlt _).symm.trans (congrArg (· + _) (Nat.shiftLeft_eq ..)))
theorem shifts_eq : [fShl, fShr, fSar, fRol] = [shlBy, shrBy, sarBy, rolBy] :=
  congrArg₂ List.cons fShl_eq (congrArg₂ List.cons fShr_eq (congrArg₂ (fun f g => [f, g]) fSar_eq fRol_eq))

/-! ### Instructions of one shape -/

theorem next_congr {o o' : Out} {Q : State → Prop} (e : o = o') (h : ∃ t, o' = .next t ∧ Q t) :
    ∃ t, o = .next t ∧ Q t := e ▸ h
/-- Instructions that are all of one shape g, each with its own function, do what the shape does. -/
theorem each_next {α : Type} {s : State} {ps : List (Instr × α)} {g : α → Out} {Q : α → State → Prop}
    (h : ps.map (fun p => exec p.1 s) = ps.map fun p => g p.2) (hg : ∀ a, ∃ t, g a = .next t ∧ Q a t) :
    ∀ p ∈ ps, ∃ t, exec p.1 s = .next t ∧ Q p.2 t :=
  fun p hp => next_congr (List.map_inj_left.1 h p hp) (hg p.2)
theorem forall_mem_cons_of {α : Type} {p : α → Prop} {a : α} {l : List α} (ha : p a) (hl : ∀ x ∈ l, p x) :
    ∀ x ∈ a :: l, p x := List.forall_mem_cons.2 ⟨ha, hl⟩

/-! ### Pairs (R99, R106) -/

/-- Settles O3: each instruction is its set's shape of pairs with the function on numbers. -/
theorem pairArithmetic : Obligations.PairArithmetic := fun s _ =>
  ⟨fun x h => ⟨lrPairOp_did h fun a b => a + b,
      next_congr (congrArg (lrPairOp x s) (funext₂ sub_eq_ofInt) :) (lrPairOp_did h _)⟩,
    fun x h => ⟨next_congr (congrArg (lrShift64 x s) (funext₂ shiftLeft_eq_ofNat) :) (lrShift64_did h _),
      next_congr (congrArg (lrShift64 x s) (funext₂ ushiftRight_eq_ofNat) :) (lrShift64_did h _)⟩,
    fun x h => ⟨urPairOp_did h fun a b => a + b,
      next_congr (congrArg (urPairOp x s) (funext₂ sub_eq_ofInt) :) (urPairOp_did h _)⟩,
    fun x h => ⟨next_congr (congrArg (urShift64 x s) (funext₂ shiftLeft_eq_ofNat) :) (urShift64_did h _),
      next_congr (congrArg (urShift64 x s) (funext₂ ushiftRight_eq_ofNat) :) (urShift64_did h _)⟩⟩

/-! ### Immediates, constants and lane special registers (R38, R100 to R102, R107, R108) -/

theorem add_signExtend {n : Nat} (i : BitVec n) :
    (fun a : Word => a + i.signExtend 32) = fun a => BitVec.ofInt 32 (a.toInt + i.toInt) := funext fun _ =>
  ((BitVec.ofInt_add ..).trans (congrArg (· + _) BitVec.ofInt_toInt)).symm
theorem slt_signExtend (i : BitVec 12) :
    (fun a : Word => boolWord (a.slt (i.signExtend 32))) = fun a => oneIf (a.toInt < i.toInt) := funext fun a =>
  (congrArg (fun j => boolWord (decide (a.toInt < j))) (BitVec.toInt_signExtend_of_le (by decide))).trans
    (boolWord_decide _)

/-- Settles O4, by the shapes of immediates and constants of each set. -/
theorem immediatesAndConstants : Obligations.ImmediatesAndConstants := by
  refine ⟨fun s c => ⟨fun d a h w => ⟨fun n => ?_, fun n => ?_, fun n => ?_⟩,
      fun d h w => ⟨fun n => ?_, fun n => ?_, ?_⟩⟩,
    fun s c => ⟨fun d a h w => ⟨fun n => ?_, fun n => ?_⟩, fun d h w => ⟨fun n => ?_, fun n => ?_⟩⟩⟩
  · exact next_congr (congrArg (limmOp w d a s) (add_signExtend n) :) (limmOp_did h w _)
  · refine each_next (g := fun f : Word → Nat → Word => limmOp w d a s fun u => f u n.toNat) ?_
      fun _ => limmOp_did h w _
    exact (congrArg (List.map fun f : Word → Nat → Word => limmOp w d a s fun u => f u n.toNat) shifts_eq :)
  · refine each_next (g := fun f : Word → Word → Word => limmOp w d a s fun u => f u (n.setWidth 32)) ?_ fun f =>
      next_congr (congrArg (fun v => limmOp w d a s fun u => f u v) (BitVec.ofNat_toNat 32 n).symm :)
        (limmOp_did h w fun u => f u (BitVec.ofNat 32 n.toNat))
    rfl
  · exact lconst_did h w 4 fun _ _ => n.signExtend 32
  · exact lconst_did h w 8 fun _ _ => n
  · have hlow : laneSpecial c.free 3 = fun L => BitVec.ofNat 32 ((2 ^ L - 1) % 2 ^ 32) :=
      funext fun L => (ofNat_mod_self (2 ^ L - 1)).symm
    exact forall_mem_cons_of (lconst_did h w 4 fun c => laneSpecial c 0)
      (forall_mem_cons_of (lconst_did h w 4 fun c => laneSpecial c 1)
      (forall_mem_cons_of (lconst_did h w 4 fun c => laneSpecial c 2)
      (forall_mem_cons_of (hlow ▸ lconst_did h w 4 fun c => laneSpecial c 3)
      (forall_mem_cons_of (lconst_did h w 4 fun c => laneSpecial c 4) (List.forall_mem_nil _)))))
  · refine each_next (g := uimmOp w d a s) ?_ (uimmOp_did h w)
    exact (congr (congrArg₂ (fun f g (v : Word) => [f, (· &&& v), (· ||| v), (· ^^^ v), g].map (uimmOp w d a s))
      (add_signExtend n) (slt_signExtend n)) (BitVec.ofNat_toNat 32 n).symm :)
  · refine each_next (g := fun f : Word → Nat → Word => uimmOp w d a s fun u => f u n.toNat) ?_
      fun _ => uimmOp_did h w _
    exact (congrArg (List.map fun f : Word → Nat → Word => uimmOp w d a s fun u => f u n.toNat) shifts_eq :)
  · exact uconst_did h w 4 _
  · exact uconst_did h w 8 _

section
variable {s : State} {c : Ctx}

/-! ### Votes (R155) -/

theorem voteOp_did {x : LU} (h : Issues s c (LU.names x) false) {f f' : List Word → Word} (hf : f = f') :
    ∃ t, voteOp x s f = .next t ∧ Did c x.s 4
      { lane := oneReg x.d fun L => f' (c.tileValues L fun K => c.g.readLane K x.a.toNat) } t :=
  hf ▸ issue_did h rfl (changes_lane h.lt x.d fun L => f (c.tileValues L fun K => c.g.readLane K x.a.toNat))
theorem bne_eq_decide : (fun w : Word => w != 0) = fun w => decide (w ≠ 0) := funext fun _ => decide_not.symm
/-- All the words are the first exactly when all are the same. -/
theorem all_beq_head (l : List Word) : (l.all fun w => w == l.headD 0) = l.all fun v => l.all fun w => v = w := by
  cases l with
  | nil => rfl
  | cons a l =>
    exact Bool.eq_iff_iff.2 ⟨fun h => List.all_eq_true.2 fun v hv => List.all_eq_true.2 fun w hw =>
      decide_eq_true ((eq_of_beq (List.all_eq_true.1 h v hv)).trans (eq_of_beq (List.all_eq_true.1 h w hw)).symm),
      fun h => List.all_eq_true.2 fun w hw =>
        beq_iff_eq.2 (of_decide_eq_true (List.all_eq_true.1 (List.all_eq_true.1 h w hw) a List.mem_cons_self))⟩
theorem getLsbD_ballot (a : BitVec 7) (L i : Nat) (hi : i < 64) :
    (maskOf (((tileOf c L).filter fun K => c.g.readLane K a.toNat != 0).map fun K => K % c.g.tile)).getLsbD i = true ↔
    ∃ K ∈ c.I, K / c.g.tile = L / c.g.tile ∧ K % c.g.tile = i ∧ c.g.readLane K a.toNat ≠ 0 := by
  refine ((getLsbD_maskOf ..).trans (and_iff_right hi)).trans (List.mem_map.trans (exists_congr fun K => ?_))
  exact (and_congr_left' (List.mem_filter.trans (and_congr_left' List.mem_filter))).trans (and_assoc.trans
    (and_assoc.trans (and_congr_right' (and_congr beq_iff_eq (and_comm.trans (and_congr_right' bne_iff_ne))))))
theorem exists_next_and {A B : State → Prop} {C : Prop} (h : ∃ t, A t ∧ B t) (hC : C) : ∃ t, A t ∧ B t ∧ C :=
  h.imp fun _ ht => ⟨ht.1, ht.2, hC⟩

/-! ### Lane reads (R91, R103) -/

theorem firstBad_eq_false {b : Src} (h : ∀ v, b = .lane v → lanesBad c.g [c.first] v.toNat = false) :
    c.firstBad b = false := by
  cases b with
  | lane v => exact h v rfl
  | uni _ => rfl

/-! ### Results that land later (R154, R156, R157) -/

/-- A body that makes one result of the lanes outstanding. -/
theorem deferLanes_did {n : Names} (h : Issues s c n false) {len : Nat} {settle : Bool} {body : Ctx → Res}
    (d : BitVec 7) (k : Nat) (f : Nat → List Word) (x : FFlags)
    (hb : body c.free = .ok (deferLanes c.free d.toNat k f x c.free.s)) :
    ∃ t, issue s n len settle false body = .next t ∧ Did c settle len { later := [laterLanes c d k f x] } t :=
  issue_did h (e := { later := [laterLanes c d k f x] }) hb ((changes_none c).defer _)
theorem shflOp_did {x : LR} (h : Issues s c (shflNames x) false) (src : Nat → Nat → Nat → Nat → Nat)
    (hb : lanesBad c.g (c.I.map fun L => src L (L % c.g.tile) c.g.tile (c.g.src L x.b).toNat) x.a.toNat = false) :
    ∃ t, shflOp x s src = .next t ∧ Did c x.s 4 { later := [laterLanes c x.d 1
      (fun L => [c.g.readLane (src L (L % c.g.tile) c.g.tile (c.g.src L x.b).toNat) x.a.toNat]) 0] } t :=
  deferLanes_did h _ _ _ _ (if_neg (Bool.eq_false_iff.1 hb))
theorem combineOp_did {settle : Bool} {d a : BitVec 7} {op : RedOp}
    (h : Issues s c (Names.add (writesV (runOf d.toNat (redRegs op))) (readsV (runOf a.toNat (redRegs op)))) false)
    {part : Nat → List Nat → List Nat} {l : Nat → List Nat} (hl : (fun L => part L (tileOf c L)) = l) :
    let r := fun L => treeReduce op ((l L).map (redOperand c op a.toNat))
    ∃ t, combineOp settle d a op s part = .next t ∧ Did c settle 8
      { later := [laterLanes c d (redRegs op) (fun L => redWords op (r L).1) (orFlags (c.I.map fun L => (r L).2))] } t :=
  hl ▸ deferLanes_did h _ _ _ _ rfl
theorem scan_bound (K L : Nat) : ∀ b : Bool,
    (if b then decide (K < L) else decide (K ≤ L)) = (K < L || (K == L && !b))
  | true => ((congrArg (_ || ·) (Bool.and_false _)).trans (Bool.or_false _)).symm
  | false => (decide_eq_decide.2 Nat.le_iff_lt_or_eq).trans
      ((Bool.decide_or ..).trans (congrArg (_ || ·) (Bool.and_true _).symm))
theorem tileOf_scan (c : Ctx) (x : LScan) : (fun L => (tileOf c L).filter fun K => if x.excl then K < L else K ≤ L) =
    fun L => (c.tileValues L id).filter fun K => K < L || (K == L && !x.excl) := funext fun L =>
  congrArg₂ List.filter (funext fun K => scan_bound K L x.excl) (List.map_id _).symm
end

/-- Settles O10, one kind of exchange after the other. -/
theorem laneExchanges : Obligations.LaneExchanges := by
  refine ⟨⟨fun s c x => ⟨fun h => ?_, fun h => ?_⟩, fun s c L _ hI => ?_⟩,
    fun s c x h => ?_, fun s c => ⟨fun x h => ?_, fun x h => ?_⟩⟩
  · exact forall_mem_cons_of (voteOp_did h (congrArg (fun p l => boolWord (l.any p)) bne_eq_decide) :)
      (forall_mem_cons_of (voteOp_did h (congrArg (fun p l => boolWord (l.all p)) bne_eq_decide) :)
      (forall_mem_cons_of (voteOp_did h (funext fun l => congrArg boolWord (all_beq_head l)) :) (List.forall_mem_nil _)))
  · refine ⟨fun L => maskOf (((tileOf c L).filter fun K => c.g.readLane K x.a.toNat != 0).map fun K => K % c.g.tile),
      exists_next_and ?_ (getLsbD_ballot x.a)⟩
    change ∃ t, execBallot x s = _ ∧ _
    exact issue_did h rfl (changes_pair h.lt x.d _)
  · refine (congrArg (fun l => l.headD 0) hI : c.first = L) ▸ ⟨fun x h hb ha => ?_, fun x h ha => ?_⟩
    · change ∃ t, execRdlane x s = _ ∧ _
      exact issue_did h (F := fun g => g.writeUni x.d.toNat _)
        (if_neg (Bool.eq_false_iff.1 (Bool.or_eq_false_iff.2 ⟨firstBad_eq_false hb, ha⟩))) (changes_uni c _ _)
    · change ∃ t, execFirstlane x s = _ ∧ _
      exact issue_did h (F := fun g => g.writeUni x.d.toNat _) (if_neg (Bool.eq_false_iff.1 ha)) (changes_uni c _ _)
  · intro n z
    exact forall_mem_cons_of (shflOp_did h fun L p z n => L - p + n % z)
      (forall_mem_cons_of (shflOp_did h fun L p _ n => if p < n then L else L - n)
      (forall_mem_cons_of (shflOp_did h fun L p z n => if z ≤ p + n then L else L + n)
      (forall_mem_cons_of (shflOp_did h fun L p z n => L - p + (p ^^^ n % z)) (List.forall_mem_nil _))))
  · exact combineOp_did h (part := fun _ l => l) rfl
  · exact combineOp_did h (tileOf_scan c x)

end Sys2Proof.Machine
end

section
/-! Floating point (R114 to R120, O5), by terms: the compile of the whole text is near its memory limit. -/

namespace Sys2Proof.Machine

/-- FEQ, FLT, FLE and FUN by their conditions (R117). -/
theorem comparisons_eq :
    [fun a b => boolWord (fEqual (f32 a) (f32 b)), fun a b => boolWord (fLess false (f32 a) (f32 b)),
      fun a b => boolWord (fLess false (f32 a) (f32 b) || fEqual (f32 a) (f32 b)),
      fun a b => boolWord (f32 a == .nan || f32 b == .nan)] =
    [fun a b => oneIf (fEqual (f32 a) (f32 b)), fun a b => oneIf (fLess false (f32 a) (f32 b)),
      fun a b => oneIf (fLess false (f32 a) (f32 b) ∨ fEqual (f32 a) (f32 b)),
      fun a b => oneIf (f32 a = .nan ∨ f32 b = .nan)] :=
  congrArg₂ (fun f g => [_, _, f, g]) (funext₂ fun _ _ => if_congr (Bool.or_eq_true_iff ..) rfl rfl)
    (funext₂ fun _ _ => (congrArg boolWord (Bool.decide_or ..).symm).trans (boolWord_decide _))

/-- The dot of bytes, as words, is the word of the dot of their values v (R120). -/
theorem foldl_dot_eq {f : Byte → Word} {v : Byte → Int} (h : ∀ x, f x = BitVec.ofInt 32 (v x)) (a b d : Word) :
    (List.range 4).foldl (fun acc j => acc + f (a.extractLsb' (8 * j) 8) * f (b.extractLsb' (8 * j) 8)) d =
      BitVec.ofInt 32 (d.toInt +
        ((List.range 4).map fun j => v (a.extractLsb' (8 * j) 8) * v (b.extractLsb' (8 * j) 8)).sum) :=
  (congrArg (List.foldl _ · _) BitVec.ofInt_toInt.symm).trans ((List.foldl_hom (BitVec.ofInt 32)
    (g₁ := fun i j => i + v (a.extractLsb' (8 * j) 8) * v (b.extractLsb' (8 * j) 8)) fun i _ =>
      (congrArg₂ (BitVec.ofInt 32 i + · * ·) (h _) (h _)).trans
        ((congrArg (BitVec.ofInt 32 i + ·) (BitVec.ofInt_mul ..).symm).trans (BitVec.ofInt_add ..).symm)).trans
      (congrArg Prod.fst (intAccumulate_map d.toInt (fun j => v (a.extractLsb' (8 * j) 8))
        (fun j => v (b.extractLsb' (8 * j) 8)) (List.range 4)) :))

/-- Settles O5, by the shapes with and without flags. -/
theorem floatResults : Obligations.FloatResults := by
  refine fun s _ => ⟨fun x h => ⟨?_, ?_⟩, fun x h => ⟨?_, ?_⟩, fun x h => ?_⟩
  · refine each_next (g := fun f : Word → Word → Word × FFlags => lrFlagOp false x s fun a b _ => f a b) ?_
      fun _ => lrFlagOp_did h _
    rfl
  · refine each_next (g := lrOp x s) ?_ (lrOp_did h)
    exact (congrArg (fun l => (opFmin :: opFmax :: opFcpsgn :: l).map (lrOp x s)) comparisons_eq :)
  · exact each_next (g := lrFlagOp true x s) rfl (lrFlagOp_did h)
  · refine each_next (g := fun v : Byte → Int => lrOp3 true x s fun a b d => BitVec.ofInt 32 (d.toInt +
      ((List.range 4).map fun j => v (a.extractLsb' (8 * j) 8) * v (b.extractLsb' (8 * j) 8)).sum)) ?_ fun _ => lrOp3_did h _
    exact (congrArg₂ (fun f g => [lrOp3 true x s f, lrOp3 true x s g])
      (funext₃ (foldl_dot_eq (f := (·.signExtend 32)) (v := fun v => v.toInt) fun _ => rfl))
      (funext₃ (foldl_dot_eq (f := (·.setWidth 32)) (v := fun v => v.toNat) fun _ =>
        (BitVec.ofNat_toNat ..).symm.trans (BitVec.ofInt_natCast ..).symm)) :)
  · exact each_next (g := luOp x s) rfl (luOp_did h)

end Sys2Proof.Machine
end
